-- ==== Sys2Proof/Word.lean ====
section
/-!
DEFINITION. The word types of the Brimo 9600 and nothing else: a thread's or a uniform register's 64 bits, a 32-bit
mask or parcel, a line of 128 bytes. Every helper that takes words apart stands in Machine/Bits.lean.
-/
namespace Sys2Proof

/-- One byte. -/
abbrev Byte := BitVec 8
/-- 32 bits: an instruction parcel, an execution mask, a handle, an FP32 pattern. -/
abbrev Half := BitVec 32
/-- 64 bits: a uniform register, or one thread's part of a vector register (R46). -/
abbrev Word := BitVec 64
/-- A 128-B line as one little-endian number (R285). -/
abbrev Line := BitVec 1024

end Sys2Proof
end

