-- ==== Sys2Proof/Config.lean ====
section
/-!
DEFINITION. What an implementation fixes and the spec does not state, and the free values: constants with no body, so
that no proof can see what they are. Each is named in an assumption log entry.
-/
namespace Sys2Proof.Config

/-- A value the spec leaves open, one for each count of State.free (log 2). -/
opaque freeWord : Nat → BitVec 64
/-- Datum-clock units that pass before step number n (log 3). -/
opaque elapsed : Nat → Nat
/-- Whether a tie between two values with no stored mantissa bit goes up, by the lower value and its unit's exponent (R52 with
M = 0 names no bit; log 6). -/
opaque tieUp : Nat → Int → Bool
/-- emax of a format whose largest finite value is 0 (R58 gives no logarithm of 0; log 6). -/
opaque emaxOfZero : Int
/-- The order of a collective's ring by the physical placement of its participants (R215 does not give it; log 10): the position of
a device and a place on it. -/
opaque ringOrder : Nat → Nat → Nat
/-- What the rest of an SPDM, TDISP or measurement answer holds (log 12): by request code, what the spec puts into it, and free count. -/
opaque secureAnswer : Nat → List Nat → Nat → Nat
/-- What the hub's boot ROM measures at steps 2 and 3 of R465: the bytes of item n of R384's table, 1 to 6 (log 12). -/
opaque bootImage : Nat → List Nat
/-- The device identity's seed, from the hub die's PUF (R383), and the certificate chain in slot 0 down to the identity key (log 12). -/
opaque identitySeed : BitVec 256
opaque identityChain : List Nat
/-- The derivation of a key pair from a seed and a digest, as its private and its public key; the signature of some bytes under a
private key, SLH-DSA-SHA2-128s; and a certificate for a public key under another private key (R382, R383; log 12). -/
opaque keyPair : BitVec 256 → BitVec 256 → Nat × Nat
opaque signature : Nat → List Nat → Nat
opaque certificate : Nat → Nat → List Nat
/-- The entropy source of the hub die, by the count of free values (R372; log 29). -/
opaque entropy : Nat → BitVec 384
/-- The ECC of a line, its number, tag and descriptor, whose code the spec does not give (R5; log 13). -/
opaque eccOf : BitVec 1024 → Nat → BitVec 48 → BitVec 16 → BitVec 64
/-- The ECC pattern by which a line in DRAM is poisoned, which every read detects (R413; log 13). -/
opaque eccPoison : BitVec 64
/-- The responder's public value of a key exchange on secp384r1, by the count of free values (R382; log 12). -/
opaque exchangeKey : Nat → BitVec 768
/-- The firmware policy version and the manifest version (R392, R465; log 23). -/
opaque firmwareVersion : Nat
opaque manifestVersion : Nat
/-- The bandwidth of a metered link in MB/s per direction, which the capability table gives (R389, R392; log 30). -/
opaque linkRate : Nat → Nat
/-- The bytes of the flits of a message that carries so many bytes of data (R390; log 30). -/
opaque messageBytes : Nat → Nat
/-- Which way round the ring of frame dies a message between opposite ones takes (R388; log 30). -/
opaque ringWay : Nat → Nat → Bool
/-- Cyundia's vendor identifier (R392; log 23). -/
opaque vendorId : Nat
/-- The bytes 4 to 15 of a capability record, by its type and by the values that R392 names for it, whose places the spec does not
give (log 23). -/
opaque capBody : Nat → List Nat → Nat
/-- The slice that a hash assigns a bundle name (R324 names the hash and not its value; log 11). -/
opaque nameSlice : Nat → Nat

/-- What ATS answers for a host page (R406), by PASID, page and the count of answers: 0 when the access is not permitted
at all, otherwise bit 0 for read, bit 1 for write, and the page's host address over 65,536 from bit 2 up (log 2). -/
opaque atsAnswer : Nat → Nat → Nat → Nat

/-- What the host answers when a line of a page in host bias is snooped for one read (R454): its modified copy, if it has one, by
the line and the count of free values (log 2). -/
opaque hostDirty : Nat → Nat → Option (BitVec 1024)

end Sys2Proof.Config
end

