-- ==== Sys2Proof/Machine/Bits.lean ====
section
/-!
DEFINITION. Bit fields, sign extension, bytes and parity: the helpers every other file of the model takes words
apart with. Bytes are little-endian everywhere (R9, R46).
-/
namespace Sys2Proof.Machine

/-- Bits `lo` and up of `x`, `n` of them, as a number: the manual's `x[lo+n-1:lo]`. -/
def bits (x lo n : Nat) : Nat := x / 2 ^ lo % 2 ^ n

/-- Bit `i` of a number. -/
def bitOf (x i : Nat) : Bool := x / 2 ^ i % 2 == 1

/-- Bits `lo` and up of a bit vector, as a number. -/
def field {w : Nat} (x : BitVec w) (lo n : Nat) : Nat := bits x.toNat lo n

/-- Put the low `n` bits of `v` at bit `lo` of `x`. -/
def putBits (x lo n v : Nat) : Nat := x - bits x lo n * 2 ^ lo + (v % 2 ^ n) * 2 ^ lo

/-- The signed value of the low `w` bits of `x` (two's complement, R47). -/
def signed (w x : Nat) : Int :=
  let y := x % 2 ^ w
  if 2 * y < 2 ^ w then (y : Int) else (y : Int) - (2 ^ w : Nat)

/-- An integer reduced modulo 2^w (R47). -/
def wrapNat (w : Nat) (x : Int) : Nat := (x % ((2 ^ w : Nat) : Int)).toNat

/-- An integer reduced modulo 2^64. -/
def wrap64 (x : Int) : Word := BitVec.ofInt 64 x

/-- 1 for true, 0 for false. -/
def b2n (b : Bool) : Nat := if b then 1 else 0

/-- The exclusive OR of the low `n` bits of `x` (R10). -/
def parity (n x : Nat) : Bool :=
  match n with
  | 0 => false
  | k + 1 => xor (bitOf x k) (parity k x)

/-- The number of ones among the low `n` bits. -/
def popcount (n x : Nat) : Nat :=
  match n with
  | 0 => 0
  | k + 1 => b2n (bitOf x k) + popcount k x

/-- The number of trailing zeros of the `w` bits of `x`; `w` for zero (R79). -/
def ctz (w x : Nat) : Nat :=
  match w with
  | 0 => 0
  | k + 1 => if x % 2 == 1 then 0 else 1 + ctz k (x / 2)

/-- The number of leading zeros of the `w` bits of `x`; `w` for zero (R79). -/
def clz (w x : Nat) : Nat :=
  match w with
  | 0 => 0
  | k + 1 => if bitOf x k then 0 else 1 + clz k x

/-- Byte `i` of a number, little-endian. -/
def byteOf (x i : Nat) : Byte := BitVec.ofNat 8 (bits x (8 * i) 8)

/-- The bytes of `x` from byte `i` on, `n` of them. -/
def bytesFrom (x : Nat) : Nat → Nat → List Byte
  | _, 0 => []
  | i, n + 1 => byteOf x i :: bytesFrom x (i + 1) n

/-- The `n` bytes of a number, lowest first. -/
def toBytes (n x : Nat) : List Byte := bytesFrom x 0 n

/-- The number that bytes spell, lowest first. -/
def ofBytes : List Byte → Nat
  | [] => 0
  | b :: bs => b.toNat + 256 * ofBytes bs

/-- Pair each element with its position, counting from `k`. -/
def number {α : Type} : Nat → List α → List (Nat × α)
  | _, [] => []
  | k, a :: as => (k, a) :: number (k + 1) as

/-- Byte `i` of a line. -/
def lineByte (l : Line) (i : Nat) : Byte := BitVec.ofNat 8 (field l (8 * i) 8)

/-- Replace byte `i` of a line. -/
def setLineByte (l : Line) (i : Nat) (b : Byte) : Line :=
  BitVec.ofNat 1024 (putBits l.toNat (8 * i) 8 b.toNat)

/-- Replace several bytes of a line, given as (offset, byte), in their order (R136: the later one stays). -/
def mergeBytes (l : Line) : List (Nat × Byte) → Line
  | [] => l
  | (i, b) :: r => mergeBytes (setLineByte l i b) r

/-- Word `w` (32 B) of a line (R285). -/
def lineWord (l : Line) (w : Nat) : BitVec 256 := BitVec.ofNat 256 (field l (256 * w) 256)

/-- Replace word `w` of a line. -/
def setLineWord (l : Line) (w : Nat) (x : BitVec 256) : Line :=
  BitVec.ofNat 1024 (putBits l.toNat (256 * w) 256 x.toNat)

/-- The numbers `a`, `a+1`, … of which there are `n`. -/
def rangeFrom : Nat → Nat → List Nat
  | _, 0 => []
  | a, n + 1 => a :: rangeFrom (a + 1) n

/-- 0 to n-1 in ascending order. -/
def upto (n : Nat) : List Nat := rangeFrom 0 n

/-- The positions of the ones among the low `n` bits, ascending. -/
def ones (n x : Nat) : List Nat := (upto n).filter (bitOf x)

/-- The mask that has exactly the listed bits. -/
def maskOf : List Nat → Nat
  | [] => 0
  | i :: is => let m := maskOf is; if bitOf m i then m else m + 2 ^ i

/-- Round down to a multiple of `n`. -/
def alignDown (n x : Nat) : Nat := x / n * n

/-- The ceiling of a quotient. -/
def ceilDiv (a b : Nat) : Nat := (a + b - 1) / b

/-- Insert into a list kept ascending under a key, after equal keys (stable). -/
def insertBy {α : Type} (key : α → Nat) (x : α) : List α → List α
  | [] => [x]
  | y :: ys => if key x < key y then x :: y :: ys else y :: insertBy key x ys

/-- Sort by a key, ascending, stable. -/
def sortBy {α : Type} (key : α → Nat) (l : List α) : List α :=
  l.foldl (fun acc x => insertBy key x acc) []

end Sys2Proof.Machine
end

