-- ==== Sys2Proof/Machine/Maps.lean ====
section
/-!
DEFINITION. Tables of the machine: lists of (number, entry) with at most one entry for a number that matters, read
from the front. Plain data, so that states compare.
-/
namespace Sys2Proof.Machine

/-- A table: entries under numbers. -/
abbrev Map (α : Type) := List (Nat × α)

/-- The entry under `k`, if there is one. -/
def Map.find {α : Type} : Map α → Nat → Option α
  | [], _ => none
  | (i, a) :: m, k => if i = k then some a else Map.find m k

/-- The entry under `k`, or `d`. -/
def Map.getD {α : Type} (m : Map α) (k : Nat) (d : α) : α := (Map.find m k).getD d

/-- Set the entry under `k`; an ascending table stays ascending. -/
def Map.put {α : Type} : Map α → Nat → α → Map α
  | [], k, a => [(k, a)]
  | (i, b) :: m, k, a => if i = k then (k, a) :: m else if k < i then (k, a) :: (i, b) :: m else (i, b) :: Map.put m k a

/-- Remove the entry under `k`. -/
def Map.del {α : Type} : Map α → Nat → Map α
  | [], _ => []
  | (i, b) :: m, k => if i = k then Map.del m k else (i, b) :: Map.del m k

/-- Change the entry under `k`, if there is one. -/
def Map.upd {α : Type} (m : Map α) (k : Nat) (f : α → α) : Map α :=
  match Map.find m k with
  | none => m
  | some a => Map.put m k (f a)

/-- Change the entry under `k`, starting from `d` where there is none. -/
def Map.updD {α : Type} (m : Map α) (k : Nat) (d : α) (f : α → α) : Map α :=
  Map.put m k (f (Map.getD m k d))

/-- The numbers that have entries. -/
def Map.keys {α : Type} (m : Map α) : List Nat := m.map (·.1)

/-- Replace the element at position `i`, if the list reaches it. -/
def setAt {α : Type} : List α → Nat → α → List α
  | [], _, _ => []
  | _ :: l, 0, a => a :: l
  | b :: l, i + 1, a => b :: setAt l i a

/-- Add to a list kept without repeats. -/
def addNew (l : List Nat) (x : Nat) : List Nat := if l.contains x then l else l ++ [x]

end Sys2Proof.Machine
end

