-- ==== Sys2Proof/Machine/Crypto.lean ====
section
/-!
DEFINITION. The ciphers that the spec names by their standards: AES-256 (FIPS 197), AES-256-XTS (IEEE 1619), GMAC and CTR_DRBG
(NIST SP 800-38D, SP 800-90A), and SHA-256 (FIPS 180-4). Blocks and keys are lists of bytes in the order of those standards (R372 to
R374, R382; PRESUMED, log 29).
-/
namespace Sys2Proof.Machine

-- AES-256

/-- The exclusive OR of two byte lists. -/
def xorBytes (a b : List Nat) : List Nat := List.zipWith (· ^^^ ·) a b

/-- `n` bytes of a number, the lowest first. -/
def lowFirst (n x : Nat) : List Nat := (upto n).map fun i => bits x (8 * i) 8
/-- `n` bytes of a number, the highest first. -/
def highFirst (n x : Nat) : List Nat := (lowFirst n x).reverse
/-- The number that bytes spell, the highest first. -/
def fromHigh (bs : List Nat) : Nat := bs.foldl (fun a b => 256 * a + b) 0
/-- The number that bytes spell, the lowest first. -/
def fromLow (bs : List Nat) : Nat := fromHigh bs.reverse

/-- The S-box of AES by rows of 16 bytes, and its inverse. -/
def aesBox : List Nat :=
  [0x637c777bf26b6fc53001672bfed7ab76, 0xca82c97dfa5947f0add4a2af9ca472c0, 0xb7fd9326363ff7cc34a5e5f171d83115,
   0x04c723c31896059a071280e2eb27b275, 0x09832c1a1b6e5aa0523bd6b329e32f84, 0x53d100ed20fcb15b6acbbe394a4c58cf,
   0xd0efaafb434d338545f9027f503c9fa8, 0x51a3408f929d38f5bcb6da2110fff3d2, 0xcd0c13ec5f974417c4a77e3d645d1973,
   0x60814fdc222a908846eeb814de5e0bdb, 0xe0323a0a4906245cc2d3ac629195e479, 0xe7c8376d8dd54ea96c56f4ea657aae08,
   0xba78252e1ca6b4c6e8dd741f4bbd8b8a, 0x703eb5664803f60e613557b986c11d9e, 0xe1f8981169d98e949b1e87e9ce5528df,
   0x8ca1890dbfe6426841992d0fb054bb16]
/-- The inverse S-box. -/
def aesUnbox : List Nat :=
  [0x52096ad53036a538bf40a39e81f3d7fb, 0x7ce339829b2fff87348e4344c4dee9cb, 0x547b9432a6c2233dee4c950b42fac34e,
   0x082ea16628d924b2765ba2496d8bd125, 0x72f8f66486689816d4a45ccc5d65b692, 0x6c704850fdedb9da5e154657a78d9d84,
   0x90d8ab008cbcd30af7e45805b8b34506, 0xd02c1e8fca3f0f02c1afbd0301138a6b, 0x3a9111414f67dcea97f2cfcef0b4e673,
   0x96ac7422e7ad3585e2f937e81c75df6e, 0x47f11a711d29c5896fb7620eaa18be1b, 0xfc563e4bc6d279209adbc0fe78cd5af4,
   0x1fdda8338807c731b11210592780ec5f, 0x60517fa919b54a0d2de57a9f93c99cef, 0xa0e03b4dae2af5b0c8ebbb3c83539961,
   0x172b047eba77d626e169146355210c7d]
/-- A byte through a box. -/
def throughBox (box : List Nat) (x : Nat) : Nat := bits (box.getD (x / 16) 0) (8 * (15 - x % 16)) 8

/-- A byte times x in the field of AES. -/
def timesX (b : Nat) : Nat := if b < 128 then 2 * b else (2 * b) ^^^ 0x11B
/-- A byte times a small factor. -/
def timesByte (f b : Nat) : Nat :=
  let b2 := timesX b
  let b4 := timesX b2
  (if bitOf f 0 then b else 0) ^^^ (if bitOf f 1 then b2 else 0) ^^^ (if bitOf f 2 then b4 else 0)
    ^^^ (if bitOf f 3 then timesX b4 else 0)

/-- Byte `i` of a block after its rows have been shifted by `sign`, one way or the other. -/
def shiftRows (inverse : Bool) (s : List Nat) : List Nat :=
  (upto 16).map fun i => s.getD ((if inverse then i + 16 - 4 * (i % 4) else i + 4 * (i % 4)) % 16) 0

/-- Each column of a block times a circulant matrix whose first row is given. -/
def mixColumns (row : List Nat) (s : List Nat) : List Nat :=
  (upto 16).map fun i => (upto 4).foldl (fun a j =>
    a ^^^ timesByte (row.getD ((j + 4 - i % 4) % 4) 0) (s.getD (i / 4 * 4 + j) 0)) 0

/-- The words of the key schedule, the latest first: `n` more after word `i`. -/
def expandKey : Nat → Nat → List (List Nat) → List (List Nat)
  | 0, _, ws => ws
  | n + 1, i, ws =>
    let t := ws.headD []
    let box := t.map (throughBox aesBox)
    let u := if i % 8 = 0 then xorBytes (box.drop 1 ++ box.take 1) [2 ^ (i / 8 - 1), 0, 0, 0] else if i % 8 = 4 then box else t
    expandKey n (i + 1) (xorBytes (ws.getD 7 []) u :: ws)

/-- The fifteen round keys of a 32-byte key. -/
def roundKeys (key : List Nat) : List (List Nat) :=
  let ws := (expandKey 52 8 ((upto 8).map fun i => (key.drop (4 * i)).take 4).reverse).reverse
  (upto 15).map fun r => ((ws.drop (4 * r)).take 4).flatMap id

/-- Encrypt a block under round keys. -/
def aesWith (rk : List (List Nat)) (x : List Nat) : List Nat :=
  let s0 := xorBytes x (rk.headD [])
  let sub (s : List Nat) : List Nat := shiftRows false (s.map (throughBox aesBox))
  let s := ((rk.drop 1).take 13).foldl (fun s k => xorBytes (mixColumns [2, 3, 1, 1] (sub s)) k) s0
  xorBytes (sub s) (rk.getD 14 [])

/-- Decrypt a block under round keys. -/
def aesUnwith (rk : List (List Nat)) (x : List Nat) : List Nat :=
  let s0 := xorBytes x (rk.getD 14 [])
  let sub (s : List Nat) : List Nat := (shiftRows true s).map (throughBox aesUnbox)
  let s := ((rk.drop 1).take 13).reverse.foldl (fun s k => mixColumns [14, 11, 13, 9] (xorBytes (sub s) k)) s0
  xorBytes (sub s) (rk.headD [])

/-- AES-256 of a block under a key. -/
def aes (key : BitVec 256) (x : List Nat) : List Nat := aesWith (roundKeys (highFirst 32 key.toNat)) x

-- AES-256-XTS

/-- A tweak times x. -/
def timesAlpha (t : List Nat) : List Nat :=
  let n := 2 * fromLow t
  lowFirst 16 (if n < 2 ^ 128 then n else n ^^^ (2 ^ 128 + 0x87))

/-- The blocks of a data unit, each with its tweak, through a block cipher. -/
def xtsBlocks (f : List Nat → List Nat) : Nat → List Nat → List Nat → List Nat
  | 0, _, _ => []
  | n + 1, t, bs => xorBytes (f (xorBytes (bs.take 16) t)) t ++ xtsBlocks f n (timesAlpha t) (bs.drop 16)

/-- A line encrypted under a pair of keys, with the number of its data unit as the tweak (R373). -/
def xtsLine (k1 k2 : BitVec 256) (unit : Nat) (line : Line) : Line :=
  BitVec.ofNat 1024 (fromLow (xtsBlocks (aesWith (roundKeys (highFirst 32 k1.toNat))) 8 (aes k2 (lowFirst 16 unit)) (lowFirst 128 line.toNat)))

/-- A line decrypted. -/
def xtsUnline (k1 k2 : BitVec 256) (unit : Nat) (line : Line) : Line :=
  BitVec.ofNat 1024 (fromLow (xtsBlocks (aesUnwith (roundKeys (highFirst 32 k1.toNat))) 8 (aes k2 (lowFirst 16 unit)) (lowFirst 128 line.toNat)))

-- GMAC

/-- The product of two elements of the field of GCM, as numbers whose highest bit is the coefficient of 1: `n` bits of `x` are still to
come, and `z` is the sum so far. -/
def gcmTimes : Nat → Nat → Nat → Nat → Nat
  | 0, _, _, z => z
  | n + 1, x, v, z =>
    gcmTimes n x (if v % 2 = 0 then v / 2 else (v / 2) ^^^ (0xE1 * 2 ^ 120)) (if bitOf x n then z ^^^ v else z)

/-- GHASH of whole blocks. -/
def ghash (h : Nat) : Nat → List Nat → Nat → Nat
  | 0, _, y => y
  | n + 1, bs, y => ghash h n (bs.drop 16) (gcmTimes 128 (y ^^^ fromHigh (bs.take 16)) h 0)

/-- The GMAC of some bytes under a key and a 12-byte IV. -/
def gmac (key : BitVec 256) (iv data : List Nat) : List Nat :=
  let n := (data.length + 15) / 16
  let padded := data ++ List.replicate (16 * n - data.length) 0 ++ highFirst 8 (8 * data.length) ++ highFirst 8 0
  xorBytes (highFirst 16 (ghash (fromHigh (aes key (List.replicate 16 0))) (n + 1) padded 0)) (aes key (iv ++ [0, 0, 0, 1]))

-- CTR_DRBG

/-- The state of the generator (R372): key, V, and the key sets drawn since it was seeded. -/
structure Drbg where
  key  : BitVec 256
  v    : BitVec 128
  sets : Nat
  deriving DecidableEq, Repr

/-- A generator before its first seed. -/
def Drbg.zero : Drbg := ⟨0, 0, 0⟩

/-- The next `n` blocks of output, with V after them. -/
def drbgBlocks (rk : List (List Nat)) : Nat → BitVec 128 → List Nat × BitVec 128
  | 0, v => ([], v)
  | n + 1, v =>
    let r := drbgBlocks rk n (v + 1)
    (aesWith rk (highFirst 16 (v + 1).toNat) ++ r.1, r.2)

/-- CTR_DRBG_Update with 48 bytes. -/
def Drbg.update (d : Drbg) (bs : List Nat) : Drbg :=
  let r := xorBytes (drbgBlocks (roundKeys (highFirst 32 d.key.toNat)) 3 d.v).1 bs
  { d with key := BitVec.ofNat 256 (fromHigh (r.take 32)), v := BitVec.ofNat 128 (fromHigh (r.drop 32)) }

/-- Instantiate or reseed with full entropy. -/
def Drbg.seed (d : Drbg) (entropy : BitVec 384) : Drbg := { d.update (highFirst 48 entropy.toNat) with sets := 0 }

/-- A slice's key set (R372): two XTS keys and a tag key. -/
structure KeySet where
  k1  : BitVec 256
  k2  : BitVec 256
  tag : BitVec 256
  deriving DecidableEq, Repr

/-- A key set of the generator: 96 bytes. -/
def Drbg.keySet (d : Drbg) : KeySet × Drbg :=
  let r := drbgBlocks (roundKeys (highFirst 32 d.key.toNat)) 6 d.v
  let k (i : Nat) : BitVec 256 := BitVec.ofNat 256 (fromHigh ((r.1.drop (32 * i)).take 32))
  (⟨k 0, k 1, k 2⟩, { { d with v := r.2 }.update (List.replicate 48 0) with sets := d.sets + 1 })

-- SHA-256

/-- The constants of SHA-256, eight words to a row. -/
def shaK : List Nat :=
  [0x428a2f9871374491b5c0fbcfe9b5dba53956c25b59f111f1923f82a4ab1c5ed5,
   0xd807aa9812835b01243185be550c7dc372be5d7480deb1fe9bdc06a7c19bf174,
   0xe49b69c1efbe47860fc19dc6240ca1cc2de92c6f4a7484aa5cb0a9dc76f988da,
   0x983e5152a831c66db00327c8bf597fc7c6e00bf3d5a7914706ca635114292967,
   0x27b70a852e1b21384d2c6dfc53380d13650a7354766a0abb81c2c92e92722c85,
   0xa2bfe8a1a81a664bc24b8b70c76c51a3d192e819d6990624f40e3585106aa070,
   0x19a4c1161e376c082748774c34b0bcb5391c0cb34ed8aa4a5b9cca4f682e6ff3,
   0x748f82ee78a5636f84c878148cc7020890befffaa4506cebbef9a3f7c67178f2]

/-- A word rotated right. -/
def rotr (n x : Nat) : Nat := x / 2 ^ n ^^^ (x * 2 ^ (32 - n) % 2 ^ 32)

/-- The message schedule, the latest word first: `n` more words. -/
def shaWords : Nat → List Nat → List Nat
  | 0, ws => ws
  | n + 1, ws =>
    let a := ws.getD 14 0
    let b := ws.getD 1 0
    let s0 := rotr 7 a ^^^ rotr 18 a ^^^ a / 8
    let s1 := rotr 17 b ^^^ rotr 19 b ^^^ b / 1024
    shaWords n ((ws.getD 15 0 + s0 + ws.getD 6 0 + s1) % 2 ^ 32 :: ws)

/-- One round: the eight working words. -/
def shaRound (h : List Nat) (kw : Nat) : List Nat :=
  let x (i : Nat) : Nat := h.getD i 0
  let s1 := rotr 6 (x 4) ^^^ rotr 11 (x 4) ^^^ rotr 25 (x 4)
  let ch := (x 4 &&& x 5) ^^^ ((2 ^ 32 - 1 - x 4) &&& x 6)
  let t1 := x 7 + s1 + ch + kw
  let s0 := rotr 2 (x 0) ^^^ rotr 13 (x 0) ^^^ rotr 22 (x 0)
  let maj := (x 0 &&& x 1) ^^^ (x 0 &&& x 2) ^^^ (x 1 &&& x 2)
  [(t1 + s0 + maj) % 2 ^ 32, x 0, x 1, x 2, (x 3 + t1) % 2 ^ 32, x 4, x 5, x 6]

/-- One block of 64 bytes. -/
def shaBlock (h bs : List Nat) : List Nat :=
  let ws := (shaWords 48 ((upto 16).map fun i => fromHigh ((bs.drop (4 * i)).take 4)).reverse).reverse
  let k (i : Nat) : Nat := bits (shaK.getD (i / 8) 0) (32 * (7 - i % 8)) 32
  List.zipWith (fun a b => (a + b) % 2 ^ 32) h ((number 0 ws).foldl (fun s p => shaRound s (k p.1 + p.2)) h)

/-- Blocks of a padded message. -/
def shaBlocks : Nat → List Nat → List Nat → List Nat
  | 0, h, _ => h
  | n + 1, h, bs => shaBlocks n (shaBlock h (bs.take 64)) (bs.drop 64)

/-- SHA-256 of some bytes (R382, R384). -/
def sha256 (data : List Nat) : BitVec 256 :=
  let n := (data.length + 72) / 64
  let padded := data ++ 128 :: List.replicate (64 * n - data.length - 9) 0 ++ highFirst 8 (8 * data.length)
  BitVec.ofNat 256 ((shaBlocks n [0x6a09e667, 0xbb67ae85, 0x3c6ef372, 0xa54ff53a, 0x510e527f, 0x9b05688c, 0x1f83d9ab, 0x5be0cd19] padded).foldl
    (fun a w => 2 ^ 32 * a + w) 0)

end Sys2Proof.Machine
end

