-- ==== Sys2Proof/Syntax.lean ====
section
/-!
DEFINITION. Psinal's instructions as data: operand specifiers, next-address selectors, the fields of the forms, and
Instr with one constructor for each row of the opcode table: the 187 instructions, the 31 compact aliases and the 140
machine events. Meanings stand under Machine/.
-/
namespace Sys2Proof

/-- The element types of T (R45). -/
inductive Ty where
  | i8 | n8 | i16 | n16 | i32 | n32 | i64 | n64 | h | bf | f | d | x | b
  deriving DecidableEq, Repr

/-- The code of a type in T (R27, R45). -/
def Ty.code : Ty → Nat
  | .i8 => 0 | .n8 => 1 | .i16 => 2 | .n16 => 3 | .i32 => 4 | .n32 => 5 | .i64 => 6 | .n64 => 7
  | .h => 8 | .bf => 9 | .f => 10 | .d => 11 | .x => 12 | .b => 13

/-- The type of a code; codes 14 and 15 name none (R27). -/
def Ty.ofCode : Nat → Option Ty
  | 0 => some .i8 | 1 => some .n8 | 2 => some .i16 | 3 => some .n16 | 4 => some .i32 | 5 => some .n32
  | 6 => some .i64 | 7 => some .n64 | 8 => some .h | 9 => some .bf | 10 => some .f | 11 => some .d
  | 12 => some .x | 13 => some .b | _ => none

/-- An operand specifier (R20). Some operands use the code itself and not what it names (R28, R31): `Spec.code`. -/
inductive Spec where
  /-- 0x00-0x3F: a vector or uniform register, by the column. -/
  | reg (n : BitVec 6)
  /-- 0x40-0x43: latch b(n+1). -/
  | latch (n : BitVec 2)
  /-- 0x50-0x5E: a special (R21); 15 is the literal and not a special. -/
  | special (n : BitVec 4)
  /-- 0x5F: the literal of the X-form (R17). -/
  | lit (v : BitVec 32)
  /-- 0x60-0x7F: an immediate (R22). -/
  | imm (v : BitVec 5)
  /-- 0x80-0xBF: a uniform register, broadcast. -/
  | bcast (n : BitVec 6)
  /-- 0xC0-0xCF: a handle register. -/
  | handle (n : BitVec 4)
  /-- 0x44-0x4F and 0xD0-0xFF: reserved. -/
  | rsv (code : BitVec 8)
  deriving DecidableEq, Repr

/-- The 8-bit code of a specifier (R20). -/
def Spec.code : Spec → Nat
  | .reg n => n.toNat
  | .latch n => 0x40 + n.toNat
  | .special n => 0x50 + n.toNat
  | .lit _ => 0x5F
  | .imm v => 0x60 + v.toNat
  | .bcast n => 0x80 + n.toNat
  | .handle n => 0xC0 + n.toNat
  | .rsv c => c.toNat

/-- The specifier of a code, with the literal the form carries (R17, R20). -/
def Spec.ofCode (lit : BitVec 32) (c : Nat) : Spec :=
  if c < 0x40 then .reg (BitVec.ofNat 6 c)
  else if c < 0x44 then .latch (BitVec.ofNat 2 (c - 0x40))
  else if c < 0x50 then .rsv (BitVec.ofNat 8 c)
  else if c < 0x5F then .special (BitVec.ofNat 4 (c - 0x50))
  else if c = 0x5F then .lit lit
  else if c < 0x80 then .imm (BitVec.ofNat 5 (c - 0x60))
  else if c < 0xC0 then .bcast (BitVec.ofNat 6 (c - 0x80))
  else if c < 0xD0 then .handle (BitVec.ofNat 4 (c - 0xC0))
  else .rsv (BitVec.ofNat 8 c)

/-- A specifier with its last-read bit (R16, R23). -/
structure Opd where
  spec : Spec
  last : Bool
  deriving DecidableEq, Repr

/-- The canonical unused operand: 0x51 with a clear last-read bit (R25). -/
def Opd.none : Opd := ⟨.special 1, false⟩

/-- A next-address selector (R26); a target is a signed number of parcels from the instruction (R17). -/
inductive Nx where
  | next | loop | ret | endStrand
  | jump (off : BitVec 32) | call (off : BitVec 32) | brz (off : BitVec 32) | bru (off : BitVec 32)
  deriving DecidableEq, Repr

/-- The code of a selector in NX3 (R26). -/
def Nx.code : Nx → Nat
  | .next => 0 | .loop => 1 | .ret => 2 | .endStrand => 3
  | .jump _ => 4 | .call _ => 5 | .brz _ => 6 | .bru _ => 7

/-- The target literal of a selector, 0 where it has none. -/
def Nx.target : Nx → BitVec 32
  | .jump o => o | .call o => o | .brz o => o | .bru o => o
  | _ => 0

/-- The selector of a code and a target literal (R26). -/
def Nx.ofCode (off : BitVec 32) : Nat → Nx
  | 0 => .next | 1 => .loop | 2 => .ret | 3 => .endStrand
  | 4 => .jump off | 5 => .call off | 6 => .brz off | _ => .bru off

/-- The fields of the W-form and the X-form but for OP11 (R16, R17). K follows from the operands, LEN from the
literal. -/
structure Fields where
  nx : Nx
  nw : Bool
  d  : BitVec 6
  a  : Opd
  b  : Opd
  c  : Opd
  ty : Ty
  m  : BitVec 3
  f  : BitVec 6
  deriving DecidableEq, Repr

/-- The fields of `fork` that vary (R18): the masks' registers, and the offsets of region B and of the join. -/
structure ForkFields where
  a  : BitVec 6
  b  : BitVec 6
  ob : BitVec 16
  oj : BitVec 16
  deriving DecidableEq, Repr

/-- The fields of `vexpr`: those of the W-form and eight tokens (R19). -/
structure ExprFields where
  w    : Fields
  toks : BitVec 32
  deriving DecidableEq, Repr

/-- The fields of a C-form instruction but for the operation of OP8 (R15, R35): the type index, the selector, the
registers and their last-read bits. -/
structure CFields where
  t  : BitVec 3
  nx : BitVec 2
  d  : BitVec 6
  a  : BitVec 6
  b  : BitVec 6
  la : Bool
  lb : Bool
  deriving DecidableEq, Repr

/-- Who makes a memory access or waits for its answer (R303). Strands, jobs and the rest are named by the machine's own
numbers. -/
inductive Agent where
  | strand (k : Nat)
  /-- A strand's fetch of code from a page of a peer (R399); the request's `thread` is the line's 80-bit virtual address,
  or 2^80 where `tret` reads it (R91). -/
  | fetch (k : Nat)
  | job (k : Nat)
  | arrayOp (k : Nat)
  | bsu (k : Nat)
  | hub
  | host
  | peer (dev : Nat)
  /-- An L1, whose writeback is acknowledged (R297). -/
  | l1 (core : Nat)
  deriving DecidableEq, Repr

/-- What a request does to its line. Offsets count bytes from the line's start. -/
inductive MemOp where
  /-- Deliver the words of a load. -/
  | load
  /-- Plain or annotated store of bytes; `mark` says the data are poisoned (R136). -/
  | store (bytes : List (Nat × BitVec 8)) (mark : Bool)
  /-- An atomic: operation, type, offset, operand (R140). -/
  | atomic (op : Nat) (ty : Ty) (off : Nat) (b : BitVec 64)
  /-- Compare-and-swap of `size` bytes: compare value and new value (R141). -/
  | cas (size off : Nat) (cmp new : Nat)
  deriving DecidableEq, Repr

/-- A request about one line at its home. -/
structure MemReq where
  agent  : Agent
  /-- The access of the agent that it belongs to. -/
  acc    : Nat
  thread : Nat
  grid   : Nat
  core   : Nat
  rank   : Nat
  home   : Nat
  /-- The line: global address over 128. -/
  line   : Nat
  /-- Page kind SO (R305). -/
  so     : Bool
  /-- The words of the line that an L1 fill takes, as a 4-bit mask; 0 allocates nothing (R288). -/
  fill   : Nat
  /-- The fill is the coldest of its sets (R288, `.est`). -/
  cold   : Bool
  /-- What the fill teaches the scribe: entry, first word, and the words of this line that the access touches as a 4-bit mask
  (R292). -/
  learn  : Option (Nat × Nat × Nat)
  /-- A release, which closes a window and is performed alone (R320). -/
  closing : Bool
  op     : MemOp
  /-- The implicit bundle of the restartable block whose request it is, or 0 (R335). -/
  bnd    : BitVec 32 := 0
  /-- Of a request to a peer, the incarnation of the requester's cluster (R459). -/
  incarn : Nat := 0
  deriving DecidableEq, Repr

/-- The answer to a request, on its way to the requester: the line, what the L1 installs and in which state (0 nothing,
1 S, 2 E, 3 M), the line's mark, and for a far atomic the old value. -/
structure Reply where
  req   : MemReq
  data  : BitVec 1024
  mark  : Bool
  state : Nat
  old   : Option Nat
  deriving DecidableEq, Repr


/-- What a module says of a participant of its own in a collective (log 10): its card, that its block has been killed, or that
it has completed. -/
inductive CardNews where
  | joins | killed | leaves
  deriving DecidableEq, Repr

/-- A card of a collective that a peer's participant has joined with (R215): what is said of it, the card's fields, its source's
elements as codes with their poison marks, and where the participant lies: its fabric domain, its device, its
place there; `stamp` is its module's datum time (R337). -/
structure RemoteCard where
  news   : CardNews
  domain : Nat
  dev    : Nat
  stamp  : Nat
  place  : Nat
  kind  : Nat
  op    : Nat
  ty    : Ty
  count : Nat
  npart : Nat
  rank  : Nat
  elems : List (Nat × Bool)
  deriving DecidableEq, Repr

/-- What an uncorrectable error affects (R413): a line of memory or of a cache; a line of a slot; an element of an accumulator; a line
of a row register of a BSU, or of its vector buffer; the element of a vector register that a thread holds; a uniform register. -/
inductive Spot where
  | line (line : Nat)
  | slotLine (core slot line : Nat)
  | accElement (core acc row col : Nat)
  | rowLine (slice bsu row line : Nat)
  | bufferLine (slice bsu line : Nat)
  | vElement (strand reg thread : Nat)
  | sRegister (strand reg : Nat)
  deriving DecidableEq, Repr

/-- Who sent a message between dies or modules, and when: the device, the die there, and the datum stamp (R334, R337). -/
structure Mail where
  dev   : Nat
  die   : Nat
  stamp : Nat
  deriving DecidableEq, Repr

/-- A core's copy of a line (R297). -/
structure LineCopy where
  core : Nat
  line : Nat
  deriving DecidableEq, Repr

/-- A strand that a message answers or asks for: its device, its key there, the number of its question, and whether it waits until
the answer is a good one (`bjoin` without `.try`, R267). -/
structure Asker where
  dev    : Nat
  strand : Nat
  token  : Nat
  waits  : Bool
  deriving DecidableEq, Repr

/-- What is asked of a name's directory slice or of the home of a record that is retried, and what they answer (R266, R324,
R334). -/
inductive NameAct where
  /-- Open a bundle with so many joiners, in place of an ABORTED one with `.retry`. -/
  | openHere (core need : Nat) (retry : BitVec 32)
  /-- The open stamp of a record of another module that is retried, asked for and given; then the end of its holding time. -/
  | ageOf (core need : Nat) (retry : BitVec 32)
  | age (core need : Nat) (retry : BitVec 32) (stamp : Option Nat)
  | retire (retry : BitVec 32)
  | register (bundle retry : BitVec 32)
  | registered (bundle retry : BitVec 32) (ok : Bool)
  | lookUp
  | found (bundle : BitVec 32)
  | remove (bundle : BitVec 32)
  deriving DecidableEq, Repr

/-- What passes between a bundle's record and a joiner (R268 to R270, R325, R329): its close, its `babort` or end, a wound, a join
that nobody took up, lines to be admitted; and the answer to the second, and to the last: 0 for no, 1 for yes, 2 for a bundle that is not OPEN. -/
inductive CloseKind where
  | closes | aborts | wound | unjoin | admits
  | answered (x : Nat)
  deriving DecidableEq, Repr

/-- What a peer asks (R457, R470): whether a page may be used, by a strand under its key there; or an access. -/
inductive PeerAsk where
  | page (strand page : Nat) (write : Bool)
  | access (r : MemReq)
  deriving DecidableEq, Repr

/-- What a peer answers (R457, R470): to a question about a page, the physical page that it grants; with data, an old value or a
grant; that a store, atomic or signal has been performed; that an access is refused; what its home has decided of a view load; that it
has a writeback of a core's line (R297). -/
inductive PeerAnswer where
  | page (strand page : Nat) (at_ : Option Nat)
  | reply (r : Reply)
  | ack (r : MemReq)
  | refused (r : MemReq)
  | viewed (strand token line : Nat) (data : Option (BitVec 1024 × Bool))
  | kept (core line : Nat)
  deriving DecidableEq, Repr

/-- An amendment (R386): FN, packet type, ADD, REMOVE, ASEQ, and the SHA-256 of the remap list that it approves. -/
structure Amendment where
  fn     : Nat
  kind   : Nat
  add    : Nat
  remove : Nat
  aseq   : Nat
  hash   : BitVec 256
  deriving DecidableEq, Repr
/-- The machine's events, as the queue and the timers of a state hold them: one for each event row of the opcode
table, with what the message or input says. -/
inductive Event where
  /-- ISSUE_OPPORTUNITY (R158). -/
  | issueOpportunity (lane : Nat)
  /-- INSTRUCTION_LINE_ARRIVAL (R14). -/
  | instructionLineArrival (strand : Nat) (win : BitVec 16) (addr : BitVec 64) (line : BitVec 512)
  /-- MEMORY_ACCESS_COMPLETE (R163). -/
  | memoryAccessComplete (r : Reply)
  /-- STORE_ACK (R323). -/
  | storeAck (agent : Agent) (acc : Nat) (grid : Nat)
  /-- PREEMPT_DELIVERY (R251). -/
  | preemptDelivery (strand : Nat)
  /-- SLEEP_EXPIRY (R238). -/
  | sleepExpiry (strand : Nat) (acc : Nat)
  /-- PLUMB_PHASE_COMPLETE (R228). -/
  | plumbPhaseComplete (strand : Nat)
  /-- WAIT_RECHECK (R146). -/
  | waitRecheck (strand : Nat)
  /-- SIGNAL_ARRIVAL (R145). -/
  | signalArrival (r : MemReq)
  /-- ARRAY_OP_START (R186). -/
  | arrayOpStart (op : Nat)
  /-- ARRAY_OP_COMPLETE (R186). -/
  | arrayOpComplete (op : Nat)
  /-- SUBNORMAL_ASSIST_DONE (R201). -/
  | subnormalAssistDone (op : Nat)
  /-- JOB_START (R208). -/
  | jobStart (job : Nat)
  /-- JOB_COMPLETE (R206). -/
  | jobComplete (job : Nat)
  /-- COLLECTIVE_START (R215). -/
  | collectiveStart (fn : Nat) (name : BitVec 64) (remote : List RemoteCard)
  /-- BSU_EXECUTE (R356). -/
  | bsuExecute (op : Nat) (bsu : Nat)
  /-- HOME_LOAD_FILL (R296). -/
  | homeLoadFill (r : MemReq)
  /-- FORWARDED_REQUEST (R296). -/
  | forwardedRequest (m : Mail) (r : MemReq) (owner : Nat) (data : BitVec 1024) (mark : Bool)
  /-- HOME_OWNERSHIP_REQUEST (R296). -/
  | homeOwnershipRequest (r : MemReq)
  /-- HOME_STORE_ARRIVAL (R320). -/
  | homeStoreArrival (r : MemReq)
  /-- COMBINE_WINDOW_CLOSE (R321). -/
  | combineWindowClose (home : Nat) (line : Nat) (number : Nat)
  /-- HOME_FAR_ATOMIC (R302). -/
  | homeFarAtomic (r : MemReq)
  /-- L1_INVALIDATION (R296). -/
  | l1Invalidation (m : Mail) (home : Nat) (core : Nat) (line : Nat)
  /-- WRITEBACK_ARRIVAL (R287). -/
  | writebackArrival (m : Mail) (home : Nat) (core : Nat) (line : Nat) (mask : Nat) (data : BitVec 1024) (ack : Bool) (gone : Bool) (mark : Bool)
  /-- BUNDLE_INSTALL (R328). -/
  | bundleInstall (m : Mail) (r : MemReq) (bundle : BitVec 32) (age : Nat) (opens : List (BitVec 32))
  /-- INSTALL_ACK (R328). -/
  | installAck (m : Mail) (agent : Agent) (acc : Nat) (grid : Nat)
  /-- VIEW_LOAD_DECIDE (R332). -/
  | viewLoadDecide (m : Mail) (who : Asker) (line : Nat) (v : Nat) (skip : Option (BitVec 32))
  /-- NAME_REGISTER (R324). -/
  | nameRegister (m : Mail) (who : Asker) (scope : Nat) (name : Nat) (act : NameAct)
  /-- JOIN_MESSAGE (R334). -/
  | joinMessage (m : Mail) (who : Asker) (bundle : BitVec 32) (answer : Option (Option Nat))
  /-- BUNDLE_CLOSE_ARRIVAL (R331). -/
  | bundleCloseArrival (m : Mail) (who : Asker) (bundle : BitVec 32) (kind : CloseKind) (lines : List (Nat × Nat))
  /-- COMMIT_NOTICE (R331). -/
  | commitNotice (m : Mail) (home : Nat) (bundle : BitVec 32) (stamp : Nat) (lines : Nat)
  /-- PROMOTION_ACK (R331). -/
  | promotionAck (m : Mail) (home : Nat) (bundle : BitVec 32)
  /-- DROP_NOTICE (R331). -/
  | dropNotice (m : Mail) (home : Nat) (bundle : BitVec 32)
  /-- DROP_ACK (R331). -/
  | dropAck (m : Mail) (home : Nat) (bundle : BitVec 32)
  /-- STATE_QUERY (R332). -/
  | stateQuery (m : Mail) (who : Asker) (bundle : BitVec 32) (line : Nat) (v : Nat)
  /-- STATE_QUERY_REPLY (R332). -/
  | stateQueryReply (m : Mail) (who : Asker) (bundle : BitVec 32) (line : Nat) (v : Nat) (stamp : Option (Option Nat))
  /-- ABORTED_HOLD_EXPIRY (R326). -/
  | abortedHoldExpiry (bundle : BitVec 32)
  /-- FAULT_RECORD_WRITE (R408). -/
  | faultRecordWrite (cluster : Nat)
  /-- FAULT_INTERRUPT_TIMER (R409). -/
  | faultInterruptTimer (fn : Nat) (number : Nat)
  /-- TRACE_STALL_RELEASE (R344). -/
  | traceStallRelease (fn : Nat)
  /-- BLOCK_BIND (R424). -/
  | blockBind (fn : Nat)
  /-- LAUNCH_AGE_TICK (R425). -/
  | launchAgeTick (grid : Nat)
  /-- PRIORITY_PREEMPT (R429). -/
  | priorityPreempt (grid : Nat)
  /-- BLOCK_ADMIT (R428). -/
  | blockAdmit (core : Nat)
  /-- BLOCK_LEAVE (R254). -/
  | blockLeave (block : Nat)
  /-- SAVE_LIMIT_EXPIRY (R258). -/
  | saveLimitExpiry (block : Nat) (core : Nat) (order : Nat)
  /-- BLOCK_RETIRE (R222). -/
  | blockRetire (block : Nat)
  /-- GRID_COMPLETE (R432). -/
  | gridComplete (grid : Nat)
  /-- CLUSTER_IDLE (R434). -/
  | clusterIdle (cluster : Nat)
  /-- CLUSTER_WAKE (R434). -/
  | clusterWake
  /-- POWER_STEP (R461). -/
  | powerStep (level : Nat)
  /-- THERMAL_TRIP (R461). -/
  | thermalTrip (die : Nat)
  /-- CLOCK_ADJUST (R336). -/
  | clockAdjust (ahead : Bool) (units : Nat)
  /-- CLOCK_LOCK (R336). -/
  | clockLock (locked : Bool)
  /-- LANE_RETIRED (R261). -/
  | laneRetired (core : Nat) (lane : Nat)
  /-- TIMING_REPLAY (R262). -/
  | timingReplay (core : Nat) (persists : Bool)
  /-- UNCORRECTABLE_ERROR (R413). -/
  | uncorrectableError (spots : List Spot) (parcel : Option Nat)
  /-- SHARED_LOGIC_ERROR (R416). -/
  | sharedLogicError (lines : List Nat)
  /-- CLUSTER_RECOVERY (R417). -/
  | clusterRecovery (cluster : Nat) (lost : List Nat) (ok : Bool)
  /-- COLD_RESET (R465). -/
  | coldReset (dev : Nat) (err : Nat) (bad : List Nat) (lanes : List Nat)
  /-- PF_FLR (R466). -/
  | pfFlr
  /-- VF_FLR (R466). -/
  | vfFlr (fn : Nat)
  /-- VF_ENABLE_CLEAR (R460). -/
  | vfEnableClear
  /-- PARTITION_RESTART (R467). -/
  | partitionRestart (fn : Nat)
  /-- PARCEL_SCRUB_DONE (R376). -/
  | parcelScrubDone (parcel : Nat) (ok : Bool)
  /-- MIGRATION_DRAIN_DONE (R380). -/
  | migrationDrainDone (packet : Nat)
  /-- MIGRATION_COPY_ROUND_DONE (R380). -/
  | migrationCopyRoundDone (packet : Nat)
  /-- HOST_MEM_READ (R453). -/
  | hostMemRead (addr : Nat) (tag : Nat)
  /-- HOST_MEM_WRITE (R453). -/
  | hostMemWrite (addr : Nat) (bytes : List (Nat × BitVec 8))
  /-- HOST_SNOOP (R301). -/
  | hostSnoop (line : Nat) (invalidate : Bool)
  /-- ATS_INVALIDATE_REQUEST (R406). -/
  | atsInvalidateRequest (pasid : Nat) (page : Nat) (pages : Nat)
  /-- BISNP_RESPONSE (R455). -/
  | bisnpResponse (line : Nat) (data : Option (BitVec 1024))
  /-- BIAS_FLIP_END (R454). -/
  | biasFlipEnd (page : Nat)
  /-- PEER_ACCESS_REQUEST (R457). -/
  | peerAccessRequest (m : Mail) (domain : Nat) (ask : PeerAsk)
  /-- PEER_ACCESS_REPLY (R470). -/
  | peerAccessReply (m : Mail) (a : PeerAnswer)
  /-- FABRIC_LINK_FAILURE (R458). -/
  | fabricLinkFailure (port : Nat)
  /-- PEER_READY (R459). -/
  | peerReady (m : Mail) (cluster : Nat) (incarn : Nat)
  /-- GET_VERSION (R382). -/
  | getVersion (fn : Nat)
  /-- GET_CAPABILITIES (R382). -/
  | getCapabilities (fn : Nat) (request : Nat)
  /-- NEGOTIATE_ALGORITHMS (R382). -/
  | negotiateAlgorithms (fn : Nat) (request : Nat)
  /-- GET_DIGESTS (R382). -/
  | getDigests (fn : Nat)
  /-- GET_CERTIFICATE (R383). -/
  | getCertificate (fn : Nat) (request : Nat)
  /-- CHALLENGE (R382). -/
  | challenge (fn : Nat) (request : Nat)
  /-- GET_MEASUREMENTS (R384). -/
  | getMeasurements (fn : Nat) (request : Nat)
  /-- KEY_EXCHANGE (R382). -/
  | keyExchange (fn : Nat) (request : Nat)
  /-- FINISH (R382). -/
  | finish (fn : Nat)
  /-- END_SESSION (R382). -/
  | endSession (fn : Nat)
  /-- AMEND (R386). -/
  | amend (fn : Nat) (a : Amendment)
  /-- GET_TDISP_VERSION (R385). -/
  | getTdispVersion (fn : Nat)
  /-- GET_TDISP_CAPABILITIES (R385). -/
  | getTdispCapabilities (fn : Nat)
  /-- LOCK_INTERFACE_REQUEST (R385). -/
  | lockInterfaceRequest (fn : Nat)
  /-- GET_DEVICE_INTERFACE_REPORT (R385). -/
  | getDeviceInterfaceReport (fn : Nat)
  /-- GET_DEVICE_INTERFACE_STATE (R385). -/
  | getDeviceInterfaceState (fn : Nat)
  /-- START_INTERFACE_REQUEST (R385). -/
  | startInterfaceRequest (fn : Nat)
  /-- STOP_INTERFACE_REQUEST (R385). -/
  | stopInterfaceRequest (fn : Nat)
  /-- VF_CONFIG_WRITE (R385). -/
  | vfConfigWrite (fn : Nat) (decoder : Option (Nat × Nat))
  /-- TAIL_WRITE (R446). -/
  | tailWrite (fn : Nat) (q : Nat) (value : Nat)
  /-- AQI_ARM (R446). -/
  | aqiArm (fn : Nat) (q : Nat) (value : Nat)
  /-- AQI_PAUSE (R446). -/
  | aqiPause (fn : Nat) (q : Nat)
  /-- AQI_RESUME (R446). -/
  | aqiResume (fn : Nat) (q : Nat)
  /-- AQI_ENABLE (R445). -/
  | aqiEnable (fn : Nat) (q : Nat)
  /-- AQI_DISABLE (R445). -/
  | aqiDisable (fn : Nat) (q : Nat)
  /-- PACKET_START (R448). -/
  | packetStart (fn : Nat) (q : Nat)
  /-- LAUNCH (R419). -/
  | launch (packet : Nat)
  /-- COPY_PACKET (R450). -/
  | copyPacket (packet : Nat)
  /-- SIGNAL_PACKET (R450). -/
  | signalPacket (packet : Nat)
  /-- WAIT_PACKET (R450). -/
  | waitPacket (packet : Nat)
  /-- NBLAUNCH (R450). -/
  | nblaunch (packet : Nat)
  /-- BIAS_TO_HOST (R454). -/
  | biasToHost (packet : Nat)
  /-- BIAS_TO_DEVICE (R455). -/
  | biasToDevice (packet : Nat)
  /-- TRACE_SET_RING (R341). -/
  | traceSetRing (packet : Nat)
  /-- TRACE_DETACH_RING (R447). -/
  | traceDetachRing (packet : Nat)
  /-- TRACE_SET_SHARE_RING (R341). -/
  | traceSetShareRing (packet : Nat)
  /-- TRACE_DETACH_SHARE_RING (R447). -/
  | traceDetachShareRing (packet : Nat)
  /-- QFENCE (R418). -/
  | qfence (packet : Nat)
  /-- PARTITION_CREATE (R370). -/
  | partitionCreate (packet : Nat)
  /-- PARTITION_DESTROY (R371). -/
  | partitionDestroy (packet : Nat)
  /-- RESIZE (R379). -/
  | resize (packet : Nat)
  /-- MIGRATE (R380). -/
  | migrate (packet : Nat)
  /-- METER (R389). -/
  | meter (packet : Nat)
  /-- INVALIDATE (R405). -/
  | invalidate (packet : Nat)
  /-- REPLAY (R410). -/
  | replay (packet : Nat)
  /-- S1_INVALIDATE_PAGE (R405). -/
  | s1InvalidatePage (fn : Nat) (value : BitVec 64)
  /-- S1_INVALIDATE_ALL (R405). -/
  | s1InvalidateAll (fn : Nat) (value : BitVec 64)
  /-- S1_INVALIDATE_DONE (R405). -/
  | s1InvalidateDone (fn : Nat)
  /-- INTR_ENTRY_UNMASK (R452). -/
  | intrEntryUnmask (fn : Nat) (index : Nat)
  /-- SCOPEPOL_WRITE (R444). -/
  | scopepolWrite (fn : Nat) (value : BitVec 32)
  /-- CSCOUNT_CLEAR (R313). -/
  | cscountClear (fn : Nat)
  /-- AQIBIND_WRITE (R451). -/
  | aqibindWrite (fn : Nat) (q : Nat) (value : BitVec 32)
  /-- NAQI_WRITE (R444). -/
  | naqiWrite (fn : Nat) (value : BitVec 32)
  /-- FRCTL_WRITE (R409). -/
  | frctlWrite (fn : Nat) (value : BitVec 32)
  /-- DHCTL_OVF_CLEAR (R412). -/
  | dhctlOvfClear (fn : Nat)
  /-- ERRSTAT_SHARED_CLEAR (R415). -/
  | errstatSharedClear (fn : Nat)
  /-- REFUSAL_COUNTER_CLEAR (R394). -/
  | refusalCounterClear (slice : Nat) (bsu : Nat)
  /-- ROUTE_TABLE_WRITE (R457). -/
  | routeTableWrite (word : Nat) (value : BitVec 32)
  /-- REGISTER_WRITE (R442). -/
  | registerWrite (fn : Nat) (offset : Nat) (width : Nat) (value : BitVec 64)
  /-- INVALIDATION_ACK (R297). -/
  | invalidationAck (m : Mail) (home : Nat) (core : Nat) (line : Nat)
  /-- KEYS_REPLACED (R376). -/
  | keysReplaced (parcel : Nat)
  /-- CORRECTABLE_ERROR (R413). -/
  | correctableError (slice : Nat)
  /-- FUNCTION_TABLE_WRITE_DONE (R236). -/
  | functionTableWriteDone (core : Nat) (strand : Nat)
  deriving DecidableEq, Repr

/-- Psinal and the machine's events: one constructor for each row of the opcode table. -/
inductive Instr where
  /-- NOP (R75), OP11 0x000. -/
  | nop (f : Fields)
  /-- MOV (R76), OP11 0x001. -/
  | mov (f : Fields)
  /-- MOVL (R76), OP11 0x002. -/
  | movl (f : Fields)
  /-- MOVH (R76), OP11 0x003. -/
  | movh (f : Fields)
  /-- ADD (R77), OP11 0x004. -/
  | add (f : Fields)
  /-- SUB (R77), OP11 0x005. -/
  | sub (f : Fields)
  /-- MUL (R77), OP11 0x006. -/
  | mul (f : Fields)
  /-- MULH (R77), OP11 0x007. -/
  | mulh (f : Fields)
  /-- DIV (R77), OP11 0x008. -/
  | div (f : Fields)
  /-- REM (R77), OP11 0x009. -/
  | rem (f : Fields)
  /-- AND (R77), OP11 0x00A. -/
  | and (f : Fields)
  /-- OR (R77), OP11 0x00B. -/
  | or (f : Fields)
  /-- XOR (R77), OP11 0x00C. -/
  | xor (f : Fields)
  /-- ANDN (R77), OP11 0x00D. -/
  | andn (f : Fields)
  /-- SHL (R78), OP11 0x00E. -/
  | shl (f : Fields)
  /-- SHR (R78), OP11 0x00F. -/
  | shr (f : Fields)
  /-- SAR (R78), OP11 0x010. -/
  | sar (f : Fields)
  /-- ROT (R78), OP11 0x011. -/
  | rot (f : Fields)
  /-- CLZ (R79), OP11 0x012. -/
  | clz (f : Fields)
  /-- CTZ (R79), OP11 0x013. -/
  | ctz (f : Fields)
  /-- POPC (R79), OP11 0x014. -/
  | popc (f : Fields)
  /-- MIN (R77), OP11 0x015. -/
  | min (f : Fields)
  /-- MAX (R77), OP11 0x016. -/
  | max (f : Fields)
  /-- SEL (R81), OP11 0x017. -/
  | sel (f : Fields)
  /-- BFX (R82), OP11 0x018. -/
  | bfx (f : Fields)
  /-- BFI (R82), OP11 0x019. -/
  | bfi (f : Fields)
  /-- CMP (R80), OP11 0x01A. -/
  | cmp (f : Fields)
  /-- EMGET (R83), OP11 0x01B. -/
  | emget (f : Fields)
  /-- EMSET (R83), OP11 0x01C. -/
  | emset (f : Fields)
  /-- EMAND (R83), OP11 0x01D. -/
  | emand (f : Fields)
  /-- EMANDN (R83), OP11 0x01E. -/
  | emandn (f : Fields)
  /-- EMOR (R83), OP11 0x01F. -/
  | emor (f : Fields)
  /-- FFS (R84), OP11 0x020. -/
  | ffs (f : Fields)
  /-- FORK (R88), OP11 0x021. -/
  | fork (f : ForkFields)
  /-- LOOP (R86), OP11 0x022. -/
  | loop (f : Fields)
  /-- GETID (R93), OP11 0x023. -/
  | getid (f : Fields)
  /-- TIME (R94), OP11 0x024. -/
  | time (f : Fields)
  /-- CGET (R95), OP11 0x025. -/
  | cget (f : Fields)
  /-- CSET (R95), OP11 0x026. -/
  | cset (f : Fields)
  /-- YIELD (R96), OP11 0x027. -/
  | yield (f : Fields)
  /-- VMOV (R108), OP11 0x100. -/
  | vmov (f : Fields)
  /-- VADD (R104), OP11 0x101. -/
  | vadd (f : Fields)
  /-- VSUB (R104), OP11 0x102. -/
  | vsub (f : Fields)
  /-- VMUL (R104), OP11 0x103. -/
  | vmul (f : Fields)
  /-- VMULH (R104), OP11 0x104. -/
  | vmulh (f : Fields)
  /-- VMAD (R104), OP11 0x105. -/
  | vmad (f : Fields)
  /-- VDIV (R104), OP11 0x106. -/
  | vdiv (f : Fields)
  /-- VREM (R104), OP11 0x107. -/
  | vrem (f : Fields)
  /-- VABS (R105), OP11 0x108. -/
  | vabs (f : Fields)
  /-- VNEG (R105), OP11 0x109. -/
  | vneg (f : Fields)
  /-- VMIN (R104), OP11 0x10A. -/
  | vmin (f : Fields)
  /-- VMAX (R104), OP11 0x10B. -/
  | vmax (f : Fields)
  /-- VAVG (R104), OP11 0x10C. -/
  | vavg (f : Fields)
  /-- VAND (R104), OP11 0x10D. -/
  | vand (f : Fields)
  /-- VOR (R104), OP11 0x10E. -/
  | vor (f : Fields)
  /-- VXOR (R104), OP11 0x10F. -/
  | vxor (f : Fields)
  /-- VANDN (R104), OP11 0x110. -/
  | vandn (f : Fields)
  /-- VSHL (R104), OP11 0x111. -/
  | vshl (f : Fields)
  /-- VSHR (R104), OP11 0x112. -/
  | vshr (f : Fields)
  /-- VSAR (R104), OP11 0x113. -/
  | vsar (f : Fields)
  /-- VROT (R104), OP11 0x114. -/
  | vrot (f : Fields)
  /-- VCLZ (R104), OP11 0x115. -/
  | vclz (f : Fields)
  /-- VPOPC (R104), OP11 0x116. -/
  | vpopc (f : Fields)
  /-- VBFX (R104), OP11 0x117. -/
  | vbfx (f : Fields)
  /-- VBFI (R104), OP11 0x118. -/
  | vbfi (f : Fields)
  /-- VCMP (R106), OP11 0x119. -/
  | vcmp (f : Fields)
  /-- VSEL (R107), OP11 0x11A. -/
  | vsel (f : Fields)
  /-- VCVT (R110), OP11 0x11B. -/
  | vcvt (f : Fields)
  /-- VPACK (R112), OP11 0x11C. -/
  | vpack (f : Fields)
  /-- VUNPACK (R112), OP11 0x11D. -/
  | vunpack (f : Fields)
  /-- VFADD (R113), OP11 0x11E. -/
  | vfadd (f : Fields)
  /-- VFSUB (R113), OP11 0x11F. -/
  | vfsub (f : Fields)
  /-- VFMUL (R113), OP11 0x120. -/
  | vfmul (f : Fields)
  /-- VFMA (R113), OP11 0x121. -/
  | vfma (f : Fields)
  /-- VFMIN (R114), OP11 0x122. -/
  | vfmin (f : Fields)
  /-- VFMAX (R114), OP11 0x123. -/
  | vfmax (f : Fields)
  /-- VFCMP (R106), OP11 0x124. -/
  | vfcmp (f : Fields)
  /-- VFCVT (R111), OP11 0x125. -/
  | vfcvt (f : Fields)
  /-- VFRCP (R115), OP11 0x126. -/
  | vfrcp (f : Fields)
  /-- VFRSQ (R115), OP11 0x127. -/
  | vfrsq (f : Fields)
  /-- VFSQRT (R115), OP11 0x128. -/
  | vfsqrt (f : Fields)
  /-- VFDIV (R113), OP11 0x129. -/
  | vfdiv (f : Fields)
  /-- VFEXP2 (R115), OP11 0x12A. -/
  | vfexp2 (f : Fields)
  /-- VFLOG2 (R115), OP11 0x12B. -/
  | vflog2 (f : Fields)
  /-- VFSCL (R116), OP11 0x12C. -/
  | vfscl (f : Fields)
  /-- VFTBL (R117), OP11 0x12D. -/
  | vftbl (f : Fields)
  /-- VEXPR (R118), OP11 0x12E. -/
  | vexpr (f : ExprFields)
  /-- VPERM (R121), OP11 0x12F. -/
  | vperm (f : Fields)
  /-- VSHUF (R122), OP11 0x130. -/
  | vshuf (f : Fields)
  /-- VBCAST (R122), OP11 0x131. -/
  | vbcast (f : Fields)
  /-- VROTT (R122), OP11 0x132. -/
  | vrott (f : Fields)
  /-- VSLIDE (R122), OP11 0x133. -/
  | vslide (f : Fields)
  /-- VSCAN (R124), OP11 0x134. -/
  | vscan (f : Fields)
  /-- VRED (R125), OP11 0x135. -/
  | vred (f : Fields)
  /-- VBALLOT (R126), OP11 0x136. -/
  | vballot (f : Fields)
  /-- VHAD (R127), OP11 0x137. -/
  | vhad (f : Fields)
  /-- VQNT (R128), OP11 0x138. -/
  | vqnt (f : Fields)
  /-- VDQNT (R129), OP11 0x139. -/
  | vdqnt (f : Fields)
  /-- LD (R135), OP11 0x300. -/
  | ld (f : Fields)
  /-- ST (R136), OP11 0x301. -/
  | st (f : Fields)
  /-- LDA (R137), OP11 0x302. -/
  | lda (f : Fields)
  /-- STL (R137), OP11 0x303. -/
  | stl (f : Fields)
  /-- ULD (R142), OP11 0x304. -/
  | uld (f : Fields)
  /-- UST (R142), OP11 0x305. -/
  | ust (f : Fields)
  /-- SLD (R133), OP11 0x306. -/
  | sld (f : Fields)
  /-- SST (R133), OP11 0x307. -/
  | sst (f : Fields)
  /-- USLD (R142), OP11 0x308. -/
  | usld (f : Fields)
  /-- USST (R142), OP11 0x309. -/
  | usst (f : Fields)
  /-- ATOM (R140), OP11 0x30A. -/
  | atom (f : Fields)
  /-- CAS (R141), OP11 0x30B. -/
  | cas (f : Fields)
  /-- UATOM (R140), OP11 0x30C. -/
  | uatom (f : Fields)
  /-- UCAS (R141), OP11 0x30D. -/
  | ucas (f : Fields)
  /-- SATOM (R140), OP11 0x30E. -/
  | satom (f : Fields)
  /-- FENCE (R143), OP11 0x30F. -/
  | fence (f : Fields)
  /-- CFLUSH (R148), OP11 0x310. -/
  | cflush (f : Fields)
  /-- CCLEAN (R148), OP11 0x311. -/
  | cclean (f : Fields)
  /-- CPREF (R149), OP11 0x312. -/
  | cpref (f : Fields)
  /-- CBIAS (R150), OP11 0x313. -/
  | cbias (f : Fields)
  /-- SIGNAL (R145), OP11 0x314. -/
  | signal (f : Fields)
  /-- WAIT (R146), OP11 0x315. -/
  | wait (f : Fields)
  /-- BBAR (R144), OP11 0x316. -/
  | bbar (f : Fields)
  /-- FMTSET (R191), OP11 0x400. -/
  | fmtset (f : Fields)
  /-- TCLAIM (R189), OP11 0x401. -/
  | tclaim (f : Fields)
  /-- TREL (R190), OP11 0x402. -/
  | trel (f : Fields)
  /-- TLD (R193), OP11 0x403. -/
  | tld (f : Fields)
  /-- TST (R193), OP11 0x404. -/
  | tst (f : Fields)
  /-- MMA (R195), OP11 0x405. -/
  | mma (f : Fields)
  /-- MMAS (R197), OP11 0x406. -/
  | mmas (f : Fields)
  /-- ACLAIM (R189), OP11 0x407. -/
  | aclaim (f : Fields)
  /-- AREL (R190), OP11 0x408. -/
  | arel (f : Fields)
  /-- AZERO (R199), OP11 0x409. -/
  | azero (f : Fields)
  /-- ARD (R198), OP11 0x40A. -/
  | ard (f : Fields)
  /-- ASAVE (R199), OP11 0x40B. -/
  | asave (f : Fields)
  /-- ALOAD (R199), OP11 0x40C. -/
  | aload (f : Fields)
  /-- TSAVE (R199), OP11 0x40D. -/
  | tsave (f : Fields)
  /-- TLOAD (R199), OP11 0x40E. -/
  | tload (f : Fields)
  /-- TSTAT (R192), OP11 0x40F. -/
  | tstat (f : Fields)
  /-- CPY (R211), OP11 0x480. -/
  | cpy (f : Fields)
  /-- CPYM (R212), OP11 0x481. -/
  | cpym (f : Fields)
  /-- GATH (R213), OP11 0x482. -/
  | gath (f : Fields)
  /-- SCAT (R213), OP11 0x483. -/
  | scat (f : Fields)
  /-- NBL (R214), OP11 0x484. -/
  | nbl (f : Fields)
  /-- COLL (R215), OP11 0x485. -/
  | coll (f : Fields)
  /-- CLOAD (R216), OP11 0x486. -/
  | cload (f : Fields)
  /-- ACLOSE (R220), OP11 0x487. -/
  | aclose (f : Fields)
  /-- AWAIT (R221), OP11 0x488. -/
  | await (f : Fields)
  /-- HWAIT (R217), OP11 0x489. -/
  | hwait (f : Fields)
  /-- HTEST (R217), OP11 0x48A. -/
  | htest (f : Fields)
  /-- HCANCEL (R218), OP11 0x48B. -/
  | hcancel (f : Fields)
  /-- HMOV (R219), OP11 0x48C. -/
  | hmov (f : Fields)
  /-- BOPEN (R266), OP11 0x500. -/
  | bopen (f : Fields)
  /-- BJOIN (R267), OP11 0x501. -/
  | bjoin (f : Fields)
  /-- BST (R268), OP11 0x502. -/
  | bst (f : Fields)
  /-- UBST (R268), OP11 0x503. -/
  | ubst (f : Fields)
  /-- BCLOSE (R269), OP11 0x504. -/
  | bclose (f : Fields)
  /-- BABORT (R270), OP11 0x505. -/
  | babort (f : Fields)
  /-- VIEW (R271), OP11 0x506. -/
  | view (f : Fields)
  /-- VEND (R272), OP11 0x507. -/
  | vend (f : Fields)
  /-- COMMIT (R273), OP11 0x508. -/
  | commit (f : Fields)
  /-- TRACE (R274), OP11 0x509. -/
  | trace (f : Fields)
  /-- TCTL (R275), OP11 0x50A. -/
  | tctl (f : Fields)
  /-- PARR (R226), OP11 0x580. -/
  | parr (f : Fields)
  /-- PWAIT (R226), OP11 0x581. -/
  | pwait (f : Fields)
  /-- PBAR (R226), OP11 0x582. -/
  | pbar (f : Fields)
  /-- TRAP (R230), OP11 0x583. -/
  | trap (f : Fields)
  /-- TRET (R232), OP11 0x584. -/
  | tret (f : Fields)
  /-- RGMAP (R233), OP11 0x585. -/
  | rgmap (f : Fields)
  /-- RGFREE (R234), OP11 0x586. -/
  | rgfree (f : Fields)
  /-- FNLD (R236), OP11 0x587. -/
  | fnld (f : Fields)
  /-- FNSWAP (R237), OP11 0x588. -/
  | fnswap (f : Fields)
  /-- SLEEP (R238), OP11 0x589. -/
  | sleep (f : Fields)
  /-- BRK (R231), OP11 0x58A. -/
  | brk (f : Fields)
  /-- ROPEN (R356), OP11 0x600. -/
  | ropen (f : Fields)
  /-- RWRITE (R356), OP11 0x601. -/
  | rwrite (f : Fields)
  /-- RVLOAD (R356), OP11 0x602. -/
  | rvload (f : Fields)
  /-- RADD (R356), OP11 0x603. -/
  | radd (f : Fields)
  /-- RMUL (R356), OP11 0x604. -/
  | rmul (f : Fields)
  /-- RFMA (R356), OP11 0x605. -/
  | rfma (f : Fields)
  /-- RMAX (R356), OP11 0x606. -/
  | rmax (f : Fields)
  /-- RCVT (R356), OP11 0x607. -/
  | rcvt (f : Fields)
  /-- RGEMV (R356), OP11 0x608. -/
  | rgemv (f : Fields)
  /-- RRED (R356), OP11 0x609. -/
  | rred (f : Fields)
  /-- RACC (R356), OP11 0x60A. -/
  | racc (f : Fields)
  /-- RMOVE (R356), OP11 0x60B. -/
  | rmove (f : Fields)
  /-- RFILL (R356), OP11 0x60C. -/
  | rfill (f : Fields)
  /-- RSYNC (R357), OP11 0x60D. -/
  | rsync (f : Fields)
  /-- RSTAT (R358), OP11 0x60E. -/
  | rstat (f : Fields)
  /-- The compact alias of nop (R35). -/
  | nopC (c : CFields)
  /-- The compact alias of mov (R35). -/
  | movC (c : CFields)
  /-- The compact alias of add (R35). -/
  | addC (c : CFields)
  /-- The compact alias of sub (R35). -/
  | subC (c : CFields)
  /-- The compact alias of mul (R35). -/
  | mulC (c : CFields)
  /-- The compact alias of mulh (R35). -/
  | mulhC (c : CFields)
  /-- The compact alias of and (R35). -/
  | andC (c : CFields)
  /-- The compact alias of or (R35). -/
  | orC (c : CFields)
  /-- The compact alias of xor (R35). -/
  | xorC (c : CFields)
  /-- The compact alias of andn (R35). -/
  | andnC (c : CFields)
  /-- The compact alias of shl (R35). -/
  | shlC (c : CFields)
  /-- The compact alias of shr (R35). -/
  | shrC (c : CFields)
  /-- The compact alias of sar (R35). -/
  | sarC (c : CFields)
  /-- The compact alias of rot (R35). -/
  | rotC (c : CFields)
  /-- The compact alias of min (R35). -/
  | minC (c : CFields)
  /-- The compact alias of max (R35). -/
  | maxC (c : CFields)
  /-- The compact alias of vmov (R35). -/
  | vmovC (c : CFields)
  /-- The compact alias of vadd (R35). -/
  | vaddC (c : CFields)
  /-- The compact alias of vsub (R35). -/
  | vsubC (c : CFields)
  /-- The compact alias of vmul (R35). -/
  | vmulC (c : CFields)
  /-- The compact alias of vmin (R35). -/
  | vminC (c : CFields)
  /-- The compact alias of vmax (R35). -/
  | vmaxC (c : CFields)
  /-- The compact alias of vand (R35). -/
  | vandC (c : CFields)
  /-- The compact alias of vor (R35). -/
  | vorC (c : CFields)
  /-- The compact alias of vxor (R35). -/
  | vxorC (c : CFields)
  /-- The compact alias of vshl (R35). -/
  | vshlC (c : CFields)
  /-- The compact alias of vshr (R35). -/
  | vshrC (c : CFields)
  /-- The compact alias of vsar (R35). -/
  | vsarC (c : CFields)
  /-- The compact alias of vfadd (R35). -/
  | vfaddC (c : CFields)
  /-- The compact alias of vfsub (R35). -/
  | vfsubC (c : CFields)
  /-- The compact alias of vfmul (R35). -/
  | vfmulC (c : CFields)
  /-- Event ISSUE_OPPORTUNITY (R158). -/
  | issueOpportunity (lane : Nat)
  /-- Event INSTRUCTION_LINE_ARRIVAL (R14). -/
  | instructionLineArrival (strand : Nat) (win : BitVec 16) (addr : BitVec 64) (line : BitVec 512)
  /-- Event MEMORY_ACCESS_COMPLETE (R163). -/
  | memoryAccessComplete (r : Reply)
  /-- Event STORE_ACK (R323). -/
  | storeAck (agent : Agent) (acc : Nat) (grid : Nat)
  /-- Event PREEMPT_DELIVERY (R251). -/
  | preemptDelivery (strand : Nat)
  /-- Event SLEEP_EXPIRY (R238). -/
  | sleepExpiry (strand : Nat) (acc : Nat)
  /-- Event PLUMB_PHASE_COMPLETE (R228). -/
  | plumbPhaseComplete (strand : Nat)
  /-- Event WAIT_RECHECK (R146). -/
  | waitRecheck (strand : Nat)
  /-- Event SIGNAL_ARRIVAL (R145). -/
  | signalArrival (r : MemReq)
  /-- Event ARRAY_OP_START (R186). -/
  | arrayOpStart (op : Nat)
  /-- Event ARRAY_OP_COMPLETE (R186). -/
  | arrayOpComplete (op : Nat)
  /-- Event SUBNORMAL_ASSIST_DONE (R201). -/
  | subnormalAssistDone (op : Nat)
  /-- Event JOB_START (R208). -/
  | jobStart (job : Nat)
  /-- Event JOB_COMPLETE (R206). -/
  | jobComplete (job : Nat)
  /-- Event COLLECTIVE_START (R215). -/
  | collectiveStart (fn : Nat) (name : BitVec 64) (remote : List RemoteCard)
  /-- Event BSU_EXECUTE (R356). -/
  | bsuExecute (op : Nat) (bsu : Nat)
  /-- Event HOME_LOAD_FILL (R296). -/
  | homeLoadFill (r : MemReq)
  /-- Event FORWARDED_REQUEST (R296); `found` is the home's copy with its mark. -/
  | forwardedRequest (m : Mail) (r : MemReq) (owner : Nat) (found : BitVec 1024 × Bool)
  /-- Event HOME_OWNERSHIP_REQUEST (R296). -/
  | homeOwnershipRequest (r : MemReq)
  /-- Event HOME_STORE_ARRIVAL (R320). -/
  | homeStoreArrival (r : MemReq)
  /-- Event COMBINE_WINDOW_CLOSE (R321). -/
  | combineWindowClose (home : Nat) (line : Nat) (number : Nat)
  /-- Event HOME_FAR_ATOMIC (R302). -/
  | homeFarAtomic (r : MemReq)
  /-- Event L1_INVALIDATION (R296). -/
  | l1Invalidation (m : Mail) (home : Nat) (copy : LineCopy)
  /-- Event WRITEBACK_ARRIVAL (R287). -/
  | writebackArrival (m : Mail) (home : Nat) (copy : LineCopy) (mask : Nat) (data : BitVec 1024) (ack : Bool) (gone : Bool) (mark : Bool)
  /-- Event BUNDLE_INSTALL (R328); `bundle` is the handle with its age. -/
  | bundleInstall (m : Mail) (r : MemReq) (bundle : BitVec 32 × Nat) (opens : List (BitVec 32))
  /-- Event INSTALL_ACK (R328). -/
  | installAck (m : Mail) (agent : Agent) (acc : Nat) (grid : Nat)
  /-- Event VIEW_LOAD_DECIDE (R332). -/
  | viewLoadDecide (m : Mail) (who : Asker) (line : Nat) (v : Nat) (skip : Option (BitVec 32))
  /-- Event NAME_REGISTER (R324). -/
  | nameRegister (m : Mail) (who : Asker) (scope : Nat) (name : Nat) (act : NameAct)
  /-- Event JOIN_MESSAGE (R334). -/
  | joinMessage (m : Mail) (who : Asker) (bundle : BitVec 32) (answer : Option (Option Nat))
  /-- Event BUNDLE_CLOSE_ARRIVAL (R331). -/
  | bundleCloseArrival (m : Mail) (who : Asker) (bundle : BitVec 32) (kind : CloseKind) (lines : List (Nat × Nat))
  /-- Event COMMIT_NOTICE (R331); `news` is the commit stamp and the bundle's number of lines. -/
  | commitNotice (m : Mail) (home : Nat) (bundle : BitVec 32) (news : Nat × Nat)
  /-- Event PROMOTION_ACK (R331). -/
  | promotionAck (m : Mail) (home : Nat) (bundle : BitVec 32)
  /-- Event DROP_NOTICE (R331). -/
  | dropNotice (m : Mail) (home : Nat) (bundle : BitVec 32)
  /-- Event DROP_ACK (R331). -/
  | dropAck (m : Mail) (home : Nat) (bundle : BitVec 32)
  /-- Event STATE_QUERY (R332). -/
  | stateQuery (m : Mail) (who : Asker) (bundle : BitVec 32) (line : Nat) (v : Nat)
  /-- Event STATE_QUERY_REPLY (R332). -/
  | stateQueryReply (m : Mail) (who : Asker) (bundle : BitVec 32) (line : Nat) (v : Nat) (stamp : Option (Option Nat))
  /-- Event ABORTED_HOLD_EXPIRY (R326). -/
  | abortedHoldExpiry (bundle : BitVec 32)
  /-- Event FAULT_RECORD_WRITE (R408). -/
  | faultRecordWrite (cluster : Nat)
  /-- Event FAULT_INTERRUPT_TIMER (R409). -/
  | faultInterruptTimer (fn : Nat) (number : Nat)
  /-- Event TRACE_STALL_RELEASE (R344). -/
  | traceStallRelease (fn : Nat)
  /-- Event BLOCK_BIND (R424). -/
  | blockBind (fn : Nat)
  /-- Event LAUNCH_AGE_TICK (R425). -/
  | launchAgeTick (grid : Nat)
  /-- Event PRIORITY_PREEMPT (R429). -/
  | priorityPreempt (grid : Nat)
  /-- Event BLOCK_ADMIT (R428). -/
  | blockAdmit (core : Nat)
  /-- Event BLOCK_LEAVE (R254). -/
  | blockLeave (block : Nat)
  /-- Event SAVE_LIMIT_EXPIRY (R258). -/
  | saveLimitExpiry (block : Nat) (core : Nat) (order : Nat)
  /-- Event BLOCK_RETIRE (R222). -/
  | blockRetire (block : Nat)
  /-- Event GRID_COMPLETE (R432). -/
  | gridComplete (grid : Nat)
  /-- Event CLUSTER_IDLE (R434). -/
  | clusterIdle (cluster : Nat)
  /-- Event CLUSTER_WAKE (R434). -/
  | clusterWake
  /-- Event POWER_STEP (R461). -/
  | powerStep (level : Nat)
  /-- Event THERMAL_TRIP (R461). -/
  | thermalTrip (die : Nat)
  /-- Event CLOCK_ADJUST (R336). -/
  | clockAdjust (ahead : Bool) (units : Nat)
  /-- Event CLOCK_LOCK (R336). -/
  | clockLock (locked : Bool)
  /-- Event LANE_RETIRED (R261). -/
  | laneRetired (core : Nat) (lane : Nat)
  /-- Event TIMING_REPLAY (R262). -/
  | timingReplay (core : Nat) (persists : Bool)
  /-- Event UNCORRECTABLE_ERROR (R413). -/
  | uncorrectableError (spots : List Spot) (parcel : Option Nat)
  /-- Event SHARED_LOGIC_ERROR (R416). -/
  | sharedLogicError (lines : List Nat)
  /-- Event CLUSTER_RECOVERY (R417). -/
  | clusterRecovery (cluster : Nat) (lost : List Nat) (ok : Bool)
  /-- Event COLD_RESET (R465). -/
  | coldReset (dev : Nat) (err : Nat) (bad : List Nat) (lanes : List Nat)
  /-- Event PF_FLR (R466). -/
  | pfFlr
  /-- Event VF_FLR (R466). -/
  | vfFlr (fn : Nat)
  /-- Event VF_ENABLE_CLEAR (R460). -/
  | vfEnableClear
  /-- Event PARTITION_RESTART (R467). -/
  | partitionRestart (fn : Nat)
  /-- Event PARCEL_SCRUB_DONE (R376). -/
  | parcelScrubDone (parcel : Nat) (ok : Bool)
  /-- Event MIGRATION_DRAIN_DONE (R380). -/
  | migrationDrainDone (packet : Nat)
  /-- Event MIGRATION_COPY_ROUND_DONE (R380). -/
  | migrationCopyRoundDone (packet : Nat)
  /-- Event HOST_MEM_READ (R453). -/
  | hostMemRead (addr : Nat) (tag : Nat)
  /-- Event HOST_MEM_WRITE (R453). -/
  | hostMemWrite (addr : Nat) (bytes : List (Nat × BitVec 8))
  /-- Event HOST_SNOOP (R301). -/
  | hostSnoop (line : Nat) (invalidate : Bool)
  /-- Event ATS_INVALIDATE_REQUEST (R406). -/
  | atsInvalidateRequest (pasid : Nat) (page : Nat) (pages : Nat)
  /-- Event BISNP_RESPONSE (R455). -/
  | bisnpResponse (line : Nat) (data : Option (BitVec 1024))
  /-- Event BIAS_FLIP_END (R454). -/
  | biasFlipEnd (page : Nat)
  /-- Event PEER_ACCESS_REQUEST (R457). -/
  | peerAccessRequest (m : Mail) (domain : Nat) (ask : PeerAsk)
  /-- Event PEER_ACCESS_REPLY (R470). -/
  | peerAccessReply (m : Mail) (a : PeerAnswer)
  /-- Event FABRIC_LINK_FAILURE (R458). -/
  | fabricLinkFailure (port : Nat)
  /-- Event PEER_READY (R459). -/
  | peerReady (m : Mail) (cluster : Nat) (incarn : Nat)
  /-- Event GET_VERSION (R382). -/
  | getVersion (fn : Nat)
  /-- Event GET_CAPABILITIES (R382). -/
  | getCapabilities (fn : Nat) (request : Nat)
  /-- Event NEGOTIATE_ALGORITHMS (R382). -/
  | negotiateAlgorithms (fn : Nat) (request : Nat)
  /-- Event GET_DIGESTS (R382). -/
  | getDigests (fn : Nat)
  /-- Event GET_CERTIFICATE (R383). -/
  | getCertificate (fn : Nat) (request : Nat)
  /-- Event CHALLENGE (R382). -/
  | challenge (fn : Nat) (request : Nat)
  /-- Event GET_MEASUREMENTS (R384). -/
  | getMeasurements (fn : Nat) (request : Nat)
  /-- Event KEY_EXCHANGE (R382). -/
  | keyExchange (fn : Nat) (request : Nat)
  /-- Event FINISH (R382). -/
  | finish (fn : Nat)
  /-- Event END_SESSION (R382). -/
  | endSession (fn : Nat)
  /-- Event AMEND (R386). -/
  | amend (fn : Nat) (a : Amendment)
  /-- Event GET_TDISP_VERSION (R385). -/
  | getTdispVersion (fn : Nat)
  /-- Event GET_TDISP_CAPABILITIES (R385). -/
  | getTdispCapabilities (fn : Nat)
  /-- Event LOCK_INTERFACE_REQUEST (R385). -/
  | lockInterfaceRequest (fn : Nat)
  /-- Event GET_DEVICE_INTERFACE_REPORT (R385). -/
  | getDeviceInterfaceReport (fn : Nat)
  /-- Event GET_DEVICE_INTERFACE_STATE (R385). -/
  | getDeviceInterfaceState (fn : Nat)
  /-- Event START_INTERFACE_REQUEST (R385). -/
  | startInterfaceRequest (fn : Nat)
  /-- Event STOP_INTERFACE_REQUEST (R385). -/
  | stopInterfaceRequest (fn : Nat)
  /-- Event VF_CONFIG_WRITE (R385); `write` is the function, with the base and size of its HDM decoder where it sets them. -/
  | vfConfigWrite (write : Nat × Option (Nat × Nat))
  /-- Event TAIL_WRITE (R446). -/
  | tailWrite (fn : Nat) (q : Nat) (value : Nat)
  /-- Event AQI_ARM (R446). -/
  | aqiArm (fn : Nat) (q : Nat) (value : Nat)
  /-- Event AQI_PAUSE (R446). -/
  | aqiPause (fn : Nat) (q : Nat)
  /-- Event AQI_RESUME (R446). -/
  | aqiResume (fn : Nat) (q : Nat)
  /-- Event AQI_ENABLE (R445). -/
  | aqiEnable (fn : Nat) (q : Nat)
  /-- Event AQI_DISABLE (R445). -/
  | aqiDisable (fn : Nat) (q : Nat)
  /-- Event PACKET_START (R448). -/
  | packetStart (fn : Nat) (q : Nat)
  /-- Event LAUNCH (R419). -/
  | launch (packet : Nat)
  /-- Event COPY_PACKET (R450). -/
  | copyPacket (packet : Nat)
  /-- Event SIGNAL_PACKET (R450). -/
  | signalPacket (packet : Nat)
  /-- Event WAIT_PACKET (R450). -/
  | waitPacket (packet : Nat)
  /-- Event NBLAUNCH (R450). -/
  | nblaunch (packet : Nat)
  /-- Event BIAS_TO_HOST (R454). -/
  | biasToHost (packet : Nat)
  /-- Event BIAS_TO_DEVICE (R455). -/
  | biasToDevice (packet : Nat)
  /-- Event TRACE_SET_RING (R341). -/
  | traceSetRing (packet : Nat)
  /-- Event TRACE_DETACH_RING (R447). -/
  | traceDetachRing (packet : Nat)
  /-- Event TRACE_SET_SHARE_RING (R341). -/
  | traceSetShareRing (packet : Nat)
  /-- Event TRACE_DETACH_SHARE_RING (R447). -/
  | traceDetachShareRing (packet : Nat)
  /-- Event QFENCE (R418). -/
  | qfence (packet : Nat)
  /-- Event PARTITION_CREATE (R370). -/
  | partitionCreate (packet : Nat)
  /-- Event PARTITION_DESTROY (R371). -/
  | partitionDestroy (packet : Nat)
  /-- Event RESIZE (R379). -/
  | resize (packet : Nat)
  /-- Event MIGRATE (R380). -/
  | migrate (packet : Nat)
  /-- Event METER (R389). -/
  | meter (packet : Nat)
  /-- Event INVALIDATE (R405). -/
  | invalidate (packet : Nat)
  /-- Event REPLAY (R410). -/
  | replay (packet : Nat)
  /-- Event S1_INVALIDATE_PAGE (R405). -/
  | s1InvalidatePage (fn : Nat) (value : BitVec 64)
  /-- Event S1_INVALIDATE_ALL (R405). -/
  | s1InvalidateAll (fn : Nat) (value : BitVec 64)
  /-- Event S1_INVALIDATE_DONE (R405). -/
  | s1InvalidateDone (fn : Nat)
  /-- Event INTR_ENTRY_UNMASK (R452). -/
  | intrEntryUnmask (fn : Nat) (index : Nat)
  /-- Event SCOPEPOL_WRITE (R444). -/
  | scopepolWrite (fn : Nat) (value : BitVec 32)
  /-- Event CSCOUNT_CLEAR (R313). -/
  | cscountClear (fn : Nat)
  /-- Event AQIBIND_WRITE (R451). -/
  | aqibindWrite (fn : Nat) (q : Nat) (value : BitVec 32)
  /-- Event NAQI_WRITE (R444). -/
  | naqiWrite (fn : Nat) (value : BitVec 32)
  /-- Event FRCTL_WRITE (R409). -/
  | frctlWrite (fn : Nat) (value : BitVec 32)
  /-- Event DHCTL_OVF_CLEAR (R412). -/
  | dhctlOvfClear (fn : Nat)
  /-- Event ERRSTAT_SHARED_CLEAR (R415). -/
  | errstatSharedClear (fn : Nat)
  /-- Event REFUSAL_COUNTER_CLEAR (R394). -/
  | refusalCounterClear (slice : Nat) (bsu : Nat)
  /-- Event ROUTE_TABLE_WRITE (R457). -/
  | routeTableWrite (word : Nat) (value : BitVec 32)
  /-- Event REGISTER_WRITE (R442). -/
  | registerWrite (fn : Nat) (offset : Nat) (width : Nat) (value : BitVec 64)
  /-- Event INVALIDATION_ACK (R297). -/
  | invalidationAck (m : Mail) (home : Nat) (copy : LineCopy)
  /-- Event KEYS_REPLACED (R376). -/
  | keysReplaced (parcel : Nat)
  /-- Event CORRECTABLE_ERROR (R413). -/
  | correctableError (slice : Nat)
  /-- Event FUNCTION_TABLE_WRITE_DONE (R236). -/
  | functionTableWriteDone (core : Nat) (strand : Nat)
  deriving DecidableEq, Repr

end Sys2Proof
end

