-- ==== Sys2Proof/WellFormed.lean ====
section
/-!
DEFINITION. Which form each instruction takes, and which field values are well-formed: the encoding tables of R74,
R103, R130, R184, R202, R223, R263 and R355 as rows, and the conditions that join several fields. A decoded instruction
that is not well-formed raises ILLEGAL FIELD (R34, step 3).
-/
namespace Sys2Proof

/-- The form of an instruction, with its number in the opcode map (R32) or in OP8[7:3] (R36). -/
inductive Form where
  | wide (op : Nat) (f : Fields)
  | fork (f : ForkFields)
  | expr (f : ExprFields)
  | compact (k : Nat) (c : CFields)
  /-- A row of the opcode table that is a machine event and has no encoding. -/
  | event
  deriving DecidableEq, Repr

/-- The form of each instruction. -/
def Instr.form : Instr → Form
  | .nop f => .wide 0x000 f
  | .mov f => .wide 0x001 f
  | .movl f => .wide 0x002 f
  | .movh f => .wide 0x003 f
  | .add f => .wide 0x004 f
  | .sub f => .wide 0x005 f
  | .mul f => .wide 0x006 f
  | .mulh f => .wide 0x007 f
  | .div f => .wide 0x008 f
  | .rem f => .wide 0x009 f
  | .and f => .wide 0x00A f
  | .or f => .wide 0x00B f
  | .xor f => .wide 0x00C f
  | .andn f => .wide 0x00D f
  | .shl f => .wide 0x00E f
  | .shr f => .wide 0x00F f
  | .sar f => .wide 0x010 f
  | .rot f => .wide 0x011 f
  | .clz f => .wide 0x012 f
  | .ctz f => .wide 0x013 f
  | .popc f => .wide 0x014 f
  | .min f => .wide 0x015 f
  | .max f => .wide 0x016 f
  | .sel f => .wide 0x017 f
  | .bfx f => .wide 0x018 f
  | .bfi f => .wide 0x019 f
  | .cmp f => .wide 0x01A f
  | .emget f => .wide 0x01B f
  | .emset f => .wide 0x01C f
  | .emand f => .wide 0x01D f
  | .emandn f => .wide 0x01E f
  | .emor f => .wide 0x01F f
  | .ffs f => .wide 0x020 f
  | .fork f => .fork f
  | .loop f => .wide 0x022 f
  | .getid f => .wide 0x023 f
  | .time f => .wide 0x024 f
  | .cget f => .wide 0x025 f
  | .cset f => .wide 0x026 f
  | .yield f => .wide 0x027 f
  | .vmov f => .wide 0x100 f
  | .vadd f => .wide 0x101 f
  | .vsub f => .wide 0x102 f
  | .vmul f => .wide 0x103 f
  | .vmulh f => .wide 0x104 f
  | .vmad f => .wide 0x105 f
  | .vdiv f => .wide 0x106 f
  | .vrem f => .wide 0x107 f
  | .vabs f => .wide 0x108 f
  | .vneg f => .wide 0x109 f
  | .vmin f => .wide 0x10A f
  | .vmax f => .wide 0x10B f
  | .vavg f => .wide 0x10C f
  | .vand f => .wide 0x10D f
  | .vor f => .wide 0x10E f
  | .vxor f => .wide 0x10F f
  | .vandn f => .wide 0x110 f
  | .vshl f => .wide 0x111 f
  | .vshr f => .wide 0x112 f
  | .vsar f => .wide 0x113 f
  | .vrot f => .wide 0x114 f
  | .vclz f => .wide 0x115 f
  | .vpopc f => .wide 0x116 f
  | .vbfx f => .wide 0x117 f
  | .vbfi f => .wide 0x118 f
  | .vcmp f => .wide 0x119 f
  | .vsel f => .wide 0x11A f
  | .vcvt f => .wide 0x11B f
  | .vpack f => .wide 0x11C f
  | .vunpack f => .wide 0x11D f
  | .vfadd f => .wide 0x11E f
  | .vfsub f => .wide 0x11F f
  | .vfmul f => .wide 0x120 f
  | .vfma f => .wide 0x121 f
  | .vfmin f => .wide 0x122 f
  | .vfmax f => .wide 0x123 f
  | .vfcmp f => .wide 0x124 f
  | .vfcvt f => .wide 0x125 f
  | .vfrcp f => .wide 0x126 f
  | .vfrsq f => .wide 0x127 f
  | .vfsqrt f => .wide 0x128 f
  | .vfdiv f => .wide 0x129 f
  | .vfexp2 f => .wide 0x12A f
  | .vflog2 f => .wide 0x12B f
  | .vfscl f => .wide 0x12C f
  | .vftbl f => .wide 0x12D f
  | .vexpr f => .expr f
  | .vperm f => .wide 0x12F f
  | .vshuf f => .wide 0x130 f
  | .vbcast f => .wide 0x131 f
  | .vrott f => .wide 0x132 f
  | .vslide f => .wide 0x133 f
  | .vscan f => .wide 0x134 f
  | .vred f => .wide 0x135 f
  | .vballot f => .wide 0x136 f
  | .vhad f => .wide 0x137 f
  | .vqnt f => .wide 0x138 f
  | .vdqnt f => .wide 0x139 f
  | .ld f => .wide 0x300 f
  | .st f => .wide 0x301 f
  | .lda f => .wide 0x302 f
  | .stl f => .wide 0x303 f
  | .uld f => .wide 0x304 f
  | .ust f => .wide 0x305 f
  | .sld f => .wide 0x306 f
  | .sst f => .wide 0x307 f
  | .usld f => .wide 0x308 f
  | .usst f => .wide 0x309 f
  | .atom f => .wide 0x30A f
  | .cas f => .wide 0x30B f
  | .uatom f => .wide 0x30C f
  | .ucas f => .wide 0x30D f
  | .satom f => .wide 0x30E f
  | .fence f => .wide 0x30F f
  | .cflush f => .wide 0x310 f
  | .cclean f => .wide 0x311 f
  | .cpref f => .wide 0x312 f
  | .cbias f => .wide 0x313 f
  | .signal f => .wide 0x314 f
  | .wait f => .wide 0x315 f
  | .bbar f => .wide 0x316 f
  | .fmtset f => .wide 0x400 f
  | .tclaim f => .wide 0x401 f
  | .trel f => .wide 0x402 f
  | .tld f => .wide 0x403 f
  | .tst f => .wide 0x404 f
  | .mma f => .wide 0x405 f
  | .mmas f => .wide 0x406 f
  | .aclaim f => .wide 0x407 f
  | .arel f => .wide 0x408 f
  | .azero f => .wide 0x409 f
  | .ard f => .wide 0x40A f
  | .asave f => .wide 0x40B f
  | .aload f => .wide 0x40C f
  | .tsave f => .wide 0x40D f
  | .tload f => .wide 0x40E f
  | .tstat f => .wide 0x40F f
  | .cpy f => .wide 0x480 f
  | .cpym f => .wide 0x481 f
  | .gath f => .wide 0x482 f
  | .scat f => .wide 0x483 f
  | .nbl f => .wide 0x484 f
  | .coll f => .wide 0x485 f
  | .cload f => .wide 0x486 f
  | .aclose f => .wide 0x487 f
  | .await f => .wide 0x488 f
  | .hwait f => .wide 0x489 f
  | .htest f => .wide 0x48A f
  | .hcancel f => .wide 0x48B f
  | .hmov f => .wide 0x48C f
  | .bopen f => .wide 0x500 f
  | .bjoin f => .wide 0x501 f
  | .bst f => .wide 0x502 f
  | .ubst f => .wide 0x503 f
  | .bclose f => .wide 0x504 f
  | .babort f => .wide 0x505 f
  | .view f => .wide 0x506 f
  | .vend f => .wide 0x507 f
  | .commit f => .wide 0x508 f
  | .trace f => .wide 0x509 f
  | .tctl f => .wide 0x50A f
  | .parr f => .wide 0x580 f
  | .pwait f => .wide 0x581 f
  | .pbar f => .wide 0x582 f
  | .trap f => .wide 0x583 f
  | .tret f => .wide 0x584 f
  | .rgmap f => .wide 0x585 f
  | .rgfree f => .wide 0x586 f
  | .fnld f => .wide 0x587 f
  | .fnswap f => .wide 0x588 f
  | .sleep f => .wide 0x589 f
  | .brk f => .wide 0x58A f
  | .ropen f => .wide 0x600 f
  | .rwrite f => .wide 0x601 f
  | .rvload f => .wide 0x602 f
  | .radd f => .wide 0x603 f
  | .rmul f => .wide 0x604 f
  | .rfma f => .wide 0x605 f
  | .rmax f => .wide 0x606 f
  | .rcvt f => .wide 0x607 f
  | .rgemv f => .wide 0x608 f
  | .rred f => .wide 0x609 f
  | .racc f => .wide 0x60A f
  | .rmove f => .wide 0x60B f
  | .rfill f => .wide 0x60C f
  | .rsync f => .wide 0x60D f
  | .rstat f => .wide 0x60E f
  | .nopC c => .compact 16 c
  | .movC c => .compact 17 c
  | .addC c => .compact 18 c
  | .subC c => .compact 19 c
  | .mulC c => .compact 20 c
  | .mulhC c => .compact 31 c
  | .andC c => .compact 21 c
  | .orC c => .compact 22 c
  | .xorC c => .compact 23 c
  | .andnC c => .compact 24 c
  | .shlC c => .compact 25 c
  | .shrC c => .compact 26 c
  | .sarC c => .compact 27 c
  | .rotC c => .compact 30 c
  | .minC c => .compact 28 c
  | .maxC c => .compact 29 c
  | .vmovC c => .compact 1 c
  | .vaddC c => .compact 2 c
  | .vsubC c => .compact 3 c
  | .vmulC c => .compact 4 c
  | .vminC c => .compact 5 c
  | .vmaxC c => .compact 6 c
  | .vandC c => .compact 7 c
  | .vorC c => .compact 8 c
  | .vxorC c => .compact 9 c
  | .vshlC c => .compact 10 c
  | .vshrC c => .compact 11 c
  | .vsarC c => .compact 12 c
  | .vfaddC c => .compact 13 c
  | .vfsubC c => .compact 14 c
  | .vfmulC c => .compact 15 c
  | _ => .event

/-- The instruction of an allocated OP11 of the plain W-form and X-form layout; `fork` and `vexpr` have layouts of
their own (R32). -/
def Instr.ofOp (op : Nat) (f : Fields) : Option Instr :=
  match op with
  | 0x000 => some (.nop f)
  | 0x001 => some (.mov f)
  | 0x002 => some (.movl f)
  | 0x003 => some (.movh f)
  | 0x004 => some (.add f)
  | 0x005 => some (.sub f)
  | 0x006 => some (.mul f)
  | 0x007 => some (.mulh f)
  | 0x008 => some (.div f)
  | 0x009 => some (.rem f)
  | 0x00A => some (.and f)
  | 0x00B => some (.or f)
  | 0x00C => some (.xor f)
  | 0x00D => some (.andn f)
  | 0x00E => some (.shl f)
  | 0x00F => some (.shr f)
  | 0x010 => some (.sar f)
  | 0x011 => some (.rot f)
  | 0x012 => some (.clz f)
  | 0x013 => some (.ctz f)
  | 0x014 => some (.popc f)
  | 0x015 => some (.min f)
  | 0x016 => some (.max f)
  | 0x017 => some (.sel f)
  | 0x018 => some (.bfx f)
  | 0x019 => some (.bfi f)
  | 0x01A => some (.cmp f)
  | 0x01B => some (.emget f)
  | 0x01C => some (.emset f)
  | 0x01D => some (.emand f)
  | 0x01E => some (.emandn f)
  | 0x01F => some (.emor f)
  | 0x020 => some (.ffs f)
  | 0x022 => some (.loop f)
  | 0x023 => some (.getid f)
  | 0x024 => some (.time f)
  | 0x025 => some (.cget f)
  | 0x026 => some (.cset f)
  | 0x027 => some (.yield f)
  | 0x100 => some (.vmov f)
  | 0x101 => some (.vadd f)
  | 0x102 => some (.vsub f)
  | 0x103 => some (.vmul f)
  | 0x104 => some (.vmulh f)
  | 0x105 => some (.vmad f)
  | 0x106 => some (.vdiv f)
  | 0x107 => some (.vrem f)
  | 0x108 => some (.vabs f)
  | 0x109 => some (.vneg f)
  | 0x10A => some (.vmin f)
  | 0x10B => some (.vmax f)
  | 0x10C => some (.vavg f)
  | 0x10D => some (.vand f)
  | 0x10E => some (.vor f)
  | 0x10F => some (.vxor f)
  | 0x110 => some (.vandn f)
  | 0x111 => some (.vshl f)
  | 0x112 => some (.vshr f)
  | 0x113 => some (.vsar f)
  | 0x114 => some (.vrot f)
  | 0x115 => some (.vclz f)
  | 0x116 => some (.vpopc f)
  | 0x117 => some (.vbfx f)
  | 0x118 => some (.vbfi f)
  | 0x119 => some (.vcmp f)
  | 0x11A => some (.vsel f)
  | 0x11B => some (.vcvt f)
  | 0x11C => some (.vpack f)
  | 0x11D => some (.vunpack f)
  | 0x11E => some (.vfadd f)
  | 0x11F => some (.vfsub f)
  | 0x120 => some (.vfmul f)
  | 0x121 => some (.vfma f)
  | 0x122 => some (.vfmin f)
  | 0x123 => some (.vfmax f)
  | 0x124 => some (.vfcmp f)
  | 0x125 => some (.vfcvt f)
  | 0x126 => some (.vfrcp f)
  | 0x127 => some (.vfrsq f)
  | 0x128 => some (.vfsqrt f)
  | 0x129 => some (.vfdiv f)
  | 0x12A => some (.vfexp2 f)
  | 0x12B => some (.vflog2 f)
  | 0x12C => some (.vfscl f)
  | 0x12D => some (.vftbl f)
  | 0x12F => some (.vperm f)
  | 0x130 => some (.vshuf f)
  | 0x131 => some (.vbcast f)
  | 0x132 => some (.vrott f)
  | 0x133 => some (.vslide f)
  | 0x134 => some (.vscan f)
  | 0x135 => some (.vred f)
  | 0x136 => some (.vballot f)
  | 0x137 => some (.vhad f)
  | 0x138 => some (.vqnt f)
  | 0x139 => some (.vdqnt f)
  | 0x300 => some (.ld f)
  | 0x301 => some (.st f)
  | 0x302 => some (.lda f)
  | 0x303 => some (.stl f)
  | 0x304 => some (.uld f)
  | 0x305 => some (.ust f)
  | 0x306 => some (.sld f)
  | 0x307 => some (.sst f)
  | 0x308 => some (.usld f)
  | 0x309 => some (.usst f)
  | 0x30A => some (.atom f)
  | 0x30B => some (.cas f)
  | 0x30C => some (.uatom f)
  | 0x30D => some (.ucas f)
  | 0x30E => some (.satom f)
  | 0x30F => some (.fence f)
  | 0x310 => some (.cflush f)
  | 0x311 => some (.cclean f)
  | 0x312 => some (.cpref f)
  | 0x313 => some (.cbias f)
  | 0x314 => some (.signal f)
  | 0x315 => some (.wait f)
  | 0x316 => some (.bbar f)
  | 0x400 => some (.fmtset f)
  | 0x401 => some (.tclaim f)
  | 0x402 => some (.trel f)
  | 0x403 => some (.tld f)
  | 0x404 => some (.tst f)
  | 0x405 => some (.mma f)
  | 0x406 => some (.mmas f)
  | 0x407 => some (.aclaim f)
  | 0x408 => some (.arel f)
  | 0x409 => some (.azero f)
  | 0x40A => some (.ard f)
  | 0x40B => some (.asave f)
  | 0x40C => some (.aload f)
  | 0x40D => some (.tsave f)
  | 0x40E => some (.tload f)
  | 0x40F => some (.tstat f)
  | 0x480 => some (.cpy f)
  | 0x481 => some (.cpym f)
  | 0x482 => some (.gath f)
  | 0x483 => some (.scat f)
  | 0x484 => some (.nbl f)
  | 0x485 => some (.coll f)
  | 0x486 => some (.cload f)
  | 0x487 => some (.aclose f)
  | 0x488 => some (.await f)
  | 0x489 => some (.hwait f)
  | 0x48A => some (.htest f)
  | 0x48B => some (.hcancel f)
  | 0x48C => some (.hmov f)
  | 0x500 => some (.bopen f)
  | 0x501 => some (.bjoin f)
  | 0x502 => some (.bst f)
  | 0x503 => some (.ubst f)
  | 0x504 => some (.bclose f)
  | 0x505 => some (.babort f)
  | 0x506 => some (.view f)
  | 0x507 => some (.vend f)
  | 0x508 => some (.commit f)
  | 0x509 => some (.trace f)
  | 0x50A => some (.tctl f)
  | 0x580 => some (.parr f)
  | 0x581 => some (.pwait f)
  | 0x582 => some (.pbar f)
  | 0x583 => some (.trap f)
  | 0x584 => some (.tret f)
  | 0x585 => some (.rgmap f)
  | 0x586 => some (.rgfree f)
  | 0x587 => some (.fnld f)
  | 0x588 => some (.fnswap f)
  | 0x589 => some (.sleep f)
  | 0x58A => some (.brk f)
  | 0x600 => some (.ropen f)
  | 0x601 => some (.rwrite f)
  | 0x602 => some (.rvload f)
  | 0x603 => some (.radd f)
  | 0x604 => some (.rmul f)
  | 0x605 => some (.rfma f)
  | 0x606 => some (.rmax f)
  | 0x607 => some (.rcvt f)
  | 0x608 => some (.rgemv f)
  | 0x609 => some (.rred f)
  | 0x60A => some (.racc f)
  | 0x60B => some (.rmove f)
  | 0x60C => some (.rfill f)
  | 0x60D => some (.rsync f)
  | 0x60E => some (.rstat f)
  | _ => none

/-- The instruction of OP8[7:3] (R36). -/
def Instr.ofCompact (k : Nat) (c : CFields) : Option Instr :=
  match k with
  | 16 => some (.nopC c)
  | 17 => some (.movC c)
  | 18 => some (.addC c)
  | 19 => some (.subC c)
  | 20 => some (.mulC c)
  | 31 => some (.mulhC c)
  | 21 => some (.andC c)
  | 22 => some (.orC c)
  | 23 => some (.xorC c)
  | 24 => some (.andnC c)
  | 25 => some (.shlC c)
  | 26 => some (.shrC c)
  | 27 => some (.sarC c)
  | 30 => some (.rotC c)
  | 28 => some (.minC c)
  | 29 => some (.maxC c)
  | 1 => some (.vmovC c)
  | 2 => some (.vaddC c)
  | 3 => some (.vsubC c)
  | 4 => some (.vmulC c)
  | 5 => some (.vminC c)
  | 6 => some (.vmaxC c)
  | 7 => some (.vandC c)
  | 8 => some (.vorC c)
  | 9 => some (.vxorC c)
  | 10 => some (.vshlC c)
  | 11 => some (.vshrC c)
  | 12 => some (.vsarC c)
  | 13 => some (.vfaddC c)
  | 14 => some (.vfsubC c)
  | 15 => some (.vfmulC c)
  | _ => none

/-- The type a compact alias's type index names: T 0-7 for the integer operations, `.b` at index 0 for moves and
bitwise operations, FP16 to FP64 for the floating-point ones (R36). The compact `nop` leaves T at 0. -/
def compactTy (k t : Nat) : Option Ty :=
  if k = 0 ∨ 31 < k then none
  else if k = 16 then if t = 0 then some .i8 else none
  else if k = 1 ∨ k = 7 ∨ k = 8 ∨ k = 9 ∨ k = 17 ∨ k = 21 ∨ k = 22 ∨ k = 23 ∨ k = 24 then
    if t = 0 then some .b else none
  else if k = 13 ∨ k = 14 ∨ k = 15 then if t ≤ 3 then Ty.ofCode (8 + t) else none
  else Ty.ofCode t

/-- The OP11 of the W-form that a compact alias names (R36). -/
def compactOp : Nat → Nat
  | 1 => 0x100 | 2 => 0x101 | 3 => 0x102 | 4 => 0x103 | 5 => 0x10A | 6 => 0x10B | 7 => 0x10D | 8 => 0x10E
  | 9 => 0x10F | 10 => 0x111 | 11 => 0x112 | 12 => 0x113 | 13 => 0x11E | 14 => 0x11F | 15 => 0x120
  | 17 => 0x001 | 18 => 0x004 | 19 => 0x005 | 20 => 0x006 | 21 => 0x00A | 22 => 0x00B | 23 => 0x00C | 24 => 0x00D
  | 25 => 0x00E | 26 => 0x00F | 27 => 0x010 | 28 => 0x015 | 29 => 0x016 | 30 => 0x011 | 31 => 0x007 | _ => 0x000

/-- Aliases with one source operand: `vmov` and `mov` (R35). -/
def compactSingle (k : Nat) : Bool := k == 1 || k == 17

/-- The fields of the W-form that an alias names (R35). -/
def CFields.expand (k : Nat) (c : CFields) : Fields :=
  { nx := Nx.ofCode 0 c.nx.toNat
    nw := false
    d := c.d
    a := if k = 16 then .none else ⟨.reg c.a, c.la⟩
    b := if k = 16 ∨ compactSingle k = true then .none else ⟨.reg c.b, c.lb⟩
    c := .none
    ty := (compactTy k c.t.toNat).getD .i8
    m := 0
    f := 0 }

/-- Whether a compact instruction's fields are legal (R35): the type index is allocated, uniform aliases mark no last
read, a single-source alias leaves B clear, and `nop` leaves D, A and B clear. -/
def CFields.wf (k : Nat) (c : CFields) : Bool :=
  (compactTy k c.t.toNat).isSome
  && (k < 16 || (!c.la && !c.lb))
  && (!compactSingle k || (c.b == 0 && !c.lb))
  && (k != 16 || (c.d == 0 && c.a == 0 && c.b == 0))

/-- The literal operands among A, B and C, by the literal they hold. -/
def Fields.literals (f : Fields) : List (BitVec 32) :=
  ([f.a, f.b, f.c].filterMap fun o => match o.spec with | .lit v => some v | _ => none)

/-- K: some operand is the literal (R17). -/
def Fields.k (f : Fields) : Bool := !f.literals.isEmpty

/-- Whether the instruction takes the X-form: an operand literal or a target (R17). -/
def Fields.long (f : Fields) : Bool := f.k || (4 ≤ f.nx.code)

/-- The literal of the X-form. -/
def Fields.literal (f : Fields) : BitVec 32 := f.literals.headD f.nx.target

/-- Number of elements that 64 bits hold of a type (R45). -/
def Ty.lanes : Ty → Nat
  | .i8 | .n8 | .x => 8
  | .i16 | .n16 | .h | .bf => 4
  | .i32 | .n32 | .f => 2
  | .i64 | .n64 | .d | .b => 1

/-- Element width in bits (R45). -/
def Ty.width (t : Ty) : Nat := 64 / t.lanes

/-- T 0-7. -/
def Ty.isInt (t : Ty) : Bool := t.code ≤ 7
/-- T 8-11. -/
def Ty.isFloat (t : Ty) : Bool := 8 ≤ t.code && t.code ≤ 11
/-- Signed integer types, `.i`. -/
def Ty.isSigned (t : Ty) : Bool := t.isInt && t.code % 2 == 0

/-- How D is used (R24, R28). -/
inductive DUse where
  | none | s | v | scope | handle | slot | acc | item
  deriving DecidableEq, Repr

/-- How an operand field is used (R20, R25, R28, R100). -/
inductive OUse where
  /-- Unused: canonical. -/
  | none
  /-- Read through the uniform column. -/
  | u
  /-- Read through the vector column. -/
  | v
  /-- Vector column without latches (R99). -/
  | vNoLatch
  /-- The uniform operand of `vbcast`, `vrott`, `vslide` (R103). -/
  | uInV
  /-- An `s` register and nothing else. -/
  | sReg
  /-- The part of a conversion: 0x51 or 0x60-0x67 (R109). -/
  | part
  /-- A mask destination: 0x51 or 0x80-0xBF (R100). -/
  | maskDst
  /-- Any code, which a further condition limits, with a clear last-read bit. -/
  | code
  /-- A slot code, an accumulator code (R28). -/
  | slot | acc
  /-- A handle code 0xC0-0xCF. -/
  | handle
  /-- The literal. -/
  | lit
  deriving DecidableEq, Repr

/-- Specials of the uniform column (R21): all of 0x51-0x5A but %rank. -/
def uniformSpecial (n : BitVec 4) : Bool := 1 ≤ n.toNat && n.toNat ≤ 10 && n.toNat != 7

/-- A legal operand for its use (R20, R23). -/
def OUse.ok (use : OUse) (o : Opd) : Bool :=
  match use with
  | .none => o == Opd.none
  | .u =>
    !o.last && (match o.spec with
      | .reg _ => true | .special n => uniformSpecial n | .lit _ => true | .imm _ => true | .handle _ => true
      | _ => false)
  | .v =>
    match o.spec with
    | .reg _ => true
    | .latch _ => !o.last
    | .special n => !o.last && n.toNat ≤ 10
    | .lit _ => !o.last
    | .imm _ => !o.last
    | .bcast _ => !o.last
    | _ => false
  | .vNoLatch =>
    match o.spec with
    | .reg _ => true
    | .special n => !o.last && n.toNat ≤ 10
    | .lit _ => !o.last
    | .imm _ => !o.last
    | .bcast _ => !o.last
    | _ => false
  | .uInV =>
    !o.last && (match o.spec with
      | .special n => uniformSpecial n | .lit _ => true | .imm _ => true | .bcast _ => true | _ => false)
  | .sReg => !o.last && (match o.spec with | .reg _ => true | _ => false)
  | .part =>
    !o.last && (match o.spec with | .special n => n == 1 | .imm k => k.toNat < 8 | _ => false)
  | .maskDst =>
    !o.last && (match o.spec with | .special n => n == 1 | .bcast _ => true | _ => false)
  | .code => !o.last && (match o.spec with | .lit _ => false | _ => true)
  | .slot => !o.last && o.spec.code < 0x20
  | .acc => !o.last && 0x20 ≤ o.spec.code && o.spec.code < 0x28
  | .handle => !o.last && (match o.spec with | .handle _ => true | _ => false)
  | .lit => !o.last && (match o.spec with | .lit _ => true | _ => false)

/-- A legal D for its use (R24, R25, R28, R31). -/
def DUse.ok (use : DUse) (d : BitVec 6) : Bool :=
  match use with
  | .none => d == 0
  | .s => true
  | .v => true
  | .scope => d.toNat ≤ 9
  | .handle => d.toNat < 16
  | .slot => d.toNat < 0x20
  | .acc => 0x20 ≤ d.toNat && d.toNat < 0x28
  | .item => d.toNat < 0x28

/-- One row of an encoding table. Types, M and F are sets of codes or bits: bit i stands for code i in `ty` and `m`,
and for F[i] in `f`. -/
structure Row where
  d  : DUse
  a  : OUse
  b  : OUse
  c  : OUse
  ty : Nat
  m  : Nat
  f  : Nat
  deriving DecidableEq, Repr

/-- Bit `i` of a set of codes. -/
def inSet (s i : Nat) : Bool := s / 2 ^ i % 2 == 1

/-- The row of an OP11 (R74, R103, R130, R184, R202, R223, R263, R355); `fork` and `vexpr` stand apart. Of the types,
0xFF is T 0-7, 0xF00 is T 8-11, 0x2000 is `.b`, 0x2FFF every type but `.x`, and 1 is an unused T. -/
def rowOf (op : Nat) : Option Row :=
  match op with
  -- uniform class (R74)
  | 0x000 => some ⟨.none, .none, .none, .none, 1, 1, 0⟩
  | 0x001 | 0x002 | 0x003 => some ⟨.s, .u, .none, .none, 0x2000, 1, 0⟩
  | 0x004 | 0x005 | 0x006 | 0x008 => some ⟨.s, .u, .u, .none, 0xFF, 1, 1⟩
  | 0x007 | 0x009 => some ⟨.s, .u, .u, .none, 0xFF, 1, 0⟩
  | 0x00A | 0x00B | 0x00C | 0x00D => some ⟨.s, .u, .u, .none, 0x2000, 1, 0⟩
  | 0x00E | 0x00F | 0x010 | 0x011 => some ⟨.s, .u, .u, .none, 0xFF, 1, 0⟩
  | 0x012 | 0x013 | 0x014 => some ⟨.s, .u, .none, .none, 0xFF, 1, 0⟩
  | 0x015 | 0x016 => some ⟨.s, .u, .u, .none, 0xFF, 1, 0⟩
  | 0x017 => some ⟨.s, .u, .u, .u, 0xFF, 0x3F, 0⟩
  | 0x018 => some ⟨.s, .u, .u, .none, 0xC0, 1, 0⟩
  | 0x019 => some ⟨.s, .u, .u, .u, 0x2000, 1, 0⟩
  | 0x01A => some ⟨.s, .u, .u, .none, 0xFF, 0x3F, 0⟩
  | 0x01B => some ⟨.s, .none, .none, .none, 1, 1, 0⟩
  | 0x01C | 0x01D | 0x01E | 0x01F => some ⟨.none, .u, .none, .none, 1, 1, 0⟩
  | 0x020 => some ⟨.s, .u, .none, .none, 0x2000, 1, 0⟩
  | 0x022 => some ⟨.none, .u, .none, .none, 1, 1, 0⟩
  | 0x023 => some ⟨.s, .u, .none, .none, 1, 1, 0⟩
  | 0x024 => some ⟨.s, .none, .none, .none, 1, 1, 0⟩
  | 0x025 => some ⟨.s, .none, .none, .none, 1, 1, 0x3F⟩
  | 0x026 => some ⟨.none, .u, .none, .none, 1, 1, 0x3F⟩
  | 0x027 => some ⟨.none, .none, .none, .none, 1, 1, 0⟩
  -- vector class (R103)
  | 0x100 => some ⟨.v, .v, .none, .none, 0x2000, 1, 0⟩
  | 0x101 | 0x102 | 0x103 | 0x106 => some ⟨.v, .v, .v, .none, 0xFF, 1, 1⟩
  | 0x104 | 0x107 | 0x10A | 0x10B => some ⟨.v, .v, .v, .none, 0xFF, 1, 0⟩
  | 0x105 => some ⟨.v, .v, .v, .v, 0xFF, 1, 1⟩
  | 0x108 | 0x109 => some ⟨.v, .v, .none, .none, 0xFFF, 1, 1⟩
  | 0x10C => some ⟨.v, .v, .v, .none, 0xFF, 1, 2⟩
  | 0x10D | 0x10E | 0x10F | 0x110 => some ⟨.v, .v, .v, .none, 0x2000, 1, 0⟩
  | 0x111 | 0x112 | 0x113 | 0x114 => some ⟨.v, .v, .v, .none, 0xFF, 1, 0⟩
  | 0x115 | 0x116 => some ⟨.v, .v, .none, .none, 0xFF, 1, 0⟩
  | 0x117 => some ⟨.v, .v, .v, .none, 0xC0, 1, 0⟩
  | 0x118 => some ⟨.v, .v, .v, .v, 0x2000, 1, 0⟩
  | 0x119 => some ⟨.v, .v, .v, .maskDst, 0xFF, 0x3F, 2⟩
  | 0x11A => some ⟨.v, .v, .v, .v, 0xFF, 0x3F, 0⟩
  | 0x11B => some ⟨.v, .v, .part, .code, 0xFFF, 0x3F, 1⟩
  | 0x11C => some ⟨.v, .v, .v, .none, 0xFC, 1, 1⟩
  | 0x11D => some ⟨.v, .v, .none, .none, 0x3F, 1, 2⟩
  | 0x11E | 0x11F | 0x120 | 0x129 | 0x12C => some ⟨.v, .v, .v, .none, 0xF00, 0x3F, 0⟩
  | 0x121 => some ⟨.v, .v, .v, .v, 0xF00, 0x3F, 0⟩
  | 0x122 | 0x123 => some ⟨.v, .v, .v, .none, 0xF00, 1, 0⟩
  | 0x124 => some ⟨.v, .v, .v, .maskDst, 0xF00, 0x7F, 2⟩
  | 0x125 => some ⟨.v, .v, .part, .code, 0x1F00, 0x3F, 0x3D⟩
  | 0x126 | 0x127 | 0x128 | 0x12A | 0x12B => some ⟨.v, .v, .none, .none, 0xF00, 0x3F, 0⟩
  | 0x12D => some ⟨.v, .v, .v, .v, 0x400, 0x3F, 0⟩
  | 0x12F => some ⟨.v, .v, .v, .v, 0x2000, 1, 0⟩
  | 0x130 => some ⟨.v, .vNoLatch, .v, .none, 0x2000, 1, 2⟩
  | 0x131 | 0x132 => some ⟨.v, .vNoLatch, .uInV, .none, 0x2000, 1, 0⟩
  | 0x133 => some ⟨.v, .vNoLatch, .uInV, .vNoLatch, 0x2000, 1, 2⟩
  | 0x134 => some ⟨.v, .v, .none, .code, 0xFFF, 0x1F, 2⟩
  | 0x135 => some ⟨.v, .v, .none, .code, 0xFFF, 0x1F, 0⟩
  | 0x136 => some ⟨.v, .v, .none, .maskDst, 0x2000, 1, 0⟩
  | 0x137 => some ⟨.v, .v, .none, .none, 0x400, 1, 2⟩
  | 0x138 => some ⟨.v, .v, .none, .code, 0x1000, 1, 0x3C⟩
  | 0x139 => some ⟨.v, .v, .none, .code, 0x700, 0x3F, 0⟩
  -- memory class (R130)
  | 0x300 => some ⟨.v, .v, .v, .code, 0x2FFF, 0xFF, 0x0F⟩
  | 0x301 => some ⟨.scope, .v, .v, .v, 0x2FFF, 0xFF, 0x17⟩
  | 0x302 => some ⟨.v, .v, .v, .code, 0x2FFF, 0xFF, 0x07⟩
  | 0x303 => some ⟨.scope, .v, .v, .v, 0x2FFF, 0xFF, 0x07⟩
  | 0x304 => some ⟨.s, .u, .u, .code, 0x2FFF, 0xFF, 0x0F⟩
  | 0x305 => some ⟨.scope, .u, .u, .u, 0x2FFF, 0xFF, 0x17⟩
  | 0x306 => some ⟨.v, .v, .v, .code, 0x2FFF, 1, 0x08⟩
  | 0x307 => some ⟨.scope, .v, .v, .v, 0x2FFF, 1, 0x10⟩
  | 0x308 => some ⟨.s, .u, .u, .code, 0x2FFF, 1, 0x08⟩
  | 0x309 => some ⟨.scope, .u, .u, .u, 0x2FFF, 1, 0x10⟩
  | 0x30A | 0x30B => some ⟨.v, .v, .v, .code, 0x2FF0, 0xFF, 0x18⟩
  | 0x30C | 0x30D => some ⟨.s, .u, .u, .code, 0x2FF0, 0xFF, 0x18⟩
  | 0x30E => some ⟨.v, .v, .v, .code, 0x2FF0, 1, 0x18⟩
  | 0x30F => some ⟨.none, .none, .none, .code, 1, 1, 0x18⟩
  | 0x310 | 0x311 | 0x313 => some ⟨.none, .u, .u, .code, 1, 0xFF, 0⟩
  | 0x312 => some ⟨.none, .u, .u, .code, 1, 0xFF, 0x07⟩
  | 0x314 => some ⟨.none, .u, .u, .code, 0x2080, 0xFF, 0⟩
  | 0x315 => some ⟨.s, .u, .u, .code, 0xC0, 0xFF, 0⟩
  | 0x316 => some ⟨.none, .none, .none, .code, 1, 1, 0⟩
  -- matrix class (R184)
  | 0x400 => some ⟨.none, .u, .none, .none, 1, 1, 0x0F⟩
  | 0x401 => some ⟨.none, .u, .none, .sReg, 1, 0x0F, 0⟩
  | 0x402 | 0x408 => some ⟨.none, .u, .none, .none, 1, 1, 0⟩
  | 0x403 | 0x404 => some ⟨.slot, .u, .u, .code, 0x1300, 0xFF, 0x3F⟩
  | 0x405 => some ⟨.acc, .slot, .slot, .u, 1, 0x03, 0⟩
  | 0x406 => some ⟨.slot, .acc, .acc, .u, 1, 1, 0⟩
  | 0x407 => some ⟨.none, .u, .none, .sReg, 1, 0x07, 0⟩
  | 0x409 => some ⟨.acc, .none, .none, .none, 1, 1, 0⟩
  | 0x40A => some ⟨.acc, .u, .u, .u, 1, 0xFF, 0x30⟩
  | 0x40B | 0x40C => some ⟨.acc, .u, .none, .none, 1, 0xFF, 0⟩
  | 0x40D | 0x40E => some ⟨.slot, .u, .none, .none, 1, 0xFF, 0⟩
  | 0x40F => some ⟨.none, .u, .none, .sReg, 1, 1, 0x10⟩
  -- engine class (R202)
  | 0x480 | 0x481 | 0x482 | 0x483 | 0x484 | 0x485 | 0x486 => some ⟨.handle, .u, .none, .none, 1, 0xFF, 0⟩
  | 0x487 => some ⟨.none, .none, .none, .none, 1, 1, 0⟩
  | 0x488 => some ⟨.none, .u, .none, .none, 1, 1, 0⟩
  | 0x489 | 0x48A => some ⟨.handle, .code, .none, .sReg, 1, 1, 1⟩
  | 0x48B => some ⟨.handle, .code, .none, .none, 1, 1, 1⟩
  | 0x48C => some ⟨.handle, .u, .none, .code, 1, 1, 1⟩
  -- bundle and trace class (R263)
  | 0x500 => some ⟨.s, .u, .u, .u, 1, 1, 1⟩
  | 0x501 => some ⟨.s, .u, .none, .none, 1, 1, 1⟩
  | 0x502 => some ⟨.none, .v, .v, .v, 0x2FFF, 0xFF, 0x07⟩
  | 0x503 => some ⟨.none, .u, .u, .u, 0x2FFF, 0xFF, 0x07⟩
  | 0x504 | 0x508 => some ⟨.handle, .none, .none, .none, 1, 1, 0⟩
  | 0x505 | 0x507 => some ⟨.none, .none, .none, .none, 1, 1, 0⟩
  | 0x506 => some ⟨.none, .lit, .none, .none, 1, 1, 0⟩
  | 0x509 => some ⟨.none, .u, .none, .none, 1, 1, 0x0F⟩
  | 0x50A => some ⟨.s, .u, .none, .none, 1, 1, 0x03⟩
  -- system class (R223)
  | 0x580 | 0x582 => some ⟨.s, .none, .none, .none, 1, 1, 0x1F⟩
  | 0x581 => some ⟨.none, .u, .none, .none, 1, 1, 0x1F⟩
  | 0x583 | 0x586 | 0x587 | 0x589 | 0x58A => some ⟨.none, .u, .none, .none, 1, 1, 0⟩
  | 0x584 => some ⟨.none, .none, .none, .none, 1, 1, 0⟩
  | 0x585 => some ⟨.s, .u, .none, .none, 1, 1, 0⟩
  | 0x588 => some ⟨.s, .none, .none, .none, 1, 1, 0⟩
  -- row class (R355)
  | 0x600 | 0x601 => some ⟨.none, .u, .u, .lit, 1, 1, 0x3C⟩
  | 0x602 => some ⟨.none, .code, .u, .lit, 1, 1, 0x1D⟩
  | 0x603 | 0x604 | 0x606 => some ⟨.none, .none, .u, .lit, 0x7FF, 1, 1⟩
  | 0x605 => some ⟨.none, .none, .u, .lit, 0x700, 1, 0⟩
  | 0x607 => some ⟨.none, .none, .u, .lit, 0xFFF, 1, 1⟩
  | 0x608 => some ⟨.none, .none, .u, .lit, 0x200, 1, 1⟩
  | 0x609 => some ⟨.none, .none, .u, .lit, 0x700, 1, 1⟩
  | 0x60A => some ⟨.none, .u, .u, .lit, 1, 1, 0x1D⟩
  | 0x60B => some ⟨.none, .none, .u, .lit, 1, 1, 1⟩
  | 0x60C => some ⟨.none, .u, .u, .lit, 1, 1, 0⟩
  | 0x60D => some ⟨.s, .none, .none, .none, 1, 1, 0⟩
  | 0x60E => some ⟨.s, .none, .u, .lit, 1, 1, 1⟩
  | _ => none

/-- The scope and the sub-operation of the spare C (R31). -/
def Fields.cScope (f : Fields) : Nat := f.c.spec.code % 16
/-- C[6:4] (R31). -/
def Fields.cOp (f : Fields) : Nat := f.c.spec.code / 16 % 8
/-- F[2:0], the extent hint (R31). -/
def Fields.hint (f : Fields) : Nat := f.f.toNat % 8
/-- F[4:3], the ordering (R31). -/
def Fields.ord (f : Fields) : Nat := f.f.toNat / 8 % 4
/-- F[i]. -/
def Fields.fBit (f : Fields) (i : Nat) : Bool := f.f.toNat / 2 ^ i % 2 == 1
/-- The source type code of a conversion, C[3:0] (R28). -/
def Fields.srcTy (f : Fields) : Option Ty := Ty.ofCode (f.c.spec.code % 16)
/-- The source format register of a conversion, C[7:4] (R28). -/
def Fields.srcFmt (f : Fields) : Nat := f.c.spec.code / 16
/-- The part p of a conversion (R109). -/
def Fields.part (f : Fields) : Nat := match f.b.spec with | .imm v => v.toNat | _ => 0
/-- The selector literal of a row instruction (R355). -/
def Fields.selector (f : Fields) : Nat := match f.c.spec with | .lit v => v.toNat | _ => 0

/-- Whether a part is in range: p < max(ns, nd)/n (R109). -/
def partOk (s t : Ty) (p : Nat) : Bool := p < max s.lanes t.lanes / min s.lanes t.lanes

/-- Scopes allowed with an access that is relaxed and plain, or not (R131). -/
def scopeOk (plain scratch : Bool) (sc : Nat) : Bool :=
  if plain then sc == 0 else if scratch then sc == 1 || sc == 2 else 1 ≤ sc && sc ≤ 9

/-- Conditions on the spare C of a load: operation 0, a legal scope (R31, R131). -/
def loadSpareOk (f : Fields) (plain scratch : Bool) : Bool :=
  f.c.spec.code < 0x80 && f.cOp == 0 && scopeOk plain scratch f.cScope

/-- Types of an atomic operation (R139). -/
def atomTyOk (op : Nat) (t : Ty) : Bool :=
  if op = 0 then inSet 0x7F0 t.code
  else if op = 1 ∨ op = 2 then inSet 0xF0 t.code
  else if op ≤ 6 then inSet 0x20F0 t.code
  else false

/-- An operand that names an even register, for the 16-B `cas` (R141). -/
def evenReg (o : Opd) : Bool :=
  match o.spec with | .reg n => n.toNat % 2 == 0 | .bcast n => n.toNat % 2 == 0 | _ => false

/-- Conditions of a 4-, 8- or 16-B compare-and-swap (R141). -/
def casOk (f : Fields) : Bool :=
  (f.cOp == 0 && inSet 0x20F0 f.ty.code) || (f.cOp == 1 && f.ty == .b && f.d.toNat % 2 == 0 && evenReg f.b)

/-- Control-register numbers that exist (R37). -/
def cregExists (n : Nat) : Bool := n < 0x30 && n != 0x17
/-- Control registers that `cset` may name (R37). -/
def cregWritable (n : Nat) : Bool :=
  cregExists n && !(n == 0x02 || n == 0x0E || n == 0x0F || n == 0x10 || (0x13 ≤ n && n ≤ 0x16) || 0x20 ≤ n)

/-- The bits of a selector literal that an instruction may set (R355). -/
def selMask (op : Nat) (f0 : Bool) : Nat :=
  match op with
  | 0x600 | 0x60C => 0x7
  | 0x601 => 0x70
  | 0x602 => if f0 then 0x07000070 else 0x07000000
  | 0x603 | 0x604 | 0x606 => 0x777
  | 0x605 => 0x7777
  | 0x607 => 0x7F000077
  | 0x608 => 0xFF3F0070
  | 0x609 => 0x003F0070
  | 0x60A => 0xFF3F0000
  | 0x60B => if f0 then 0x0F000077 else 0x77
  | 0x60E => 0xFF000000
  | _ => 0

/-- Conditions on a row instruction's selector and variants (R355). -/
def rowSelOk (op : Nat) (f : Fields) : Bool :=
  let s := f.selector
  let p := s / 2 ^ 24
  let acc := s / 2 ^ 16 % 64
  (s &&& selMask op (f.fBit 0)) == s
  && (match op with
      | 0x600 | 0x601 => !f.fBit 5 || f.f.toNat / 4 % 8 == 0
      | 0x602 =>
        if f.fBit 0 then f.a == Opd.none && f.f.toNat / 4 == 0 else OUse.ok .u f.a
      | 0x603 | 0x604 | 0x606 => !f.fBit 0 || f.ty.isInt
      | 0x607 =>
        (match Ty.ofCode (p % 16) with
          | some st => st.code ≤ 11 && partOk st f.ty (p / 16)
          | none => false)
      | 0x608 =>
        let l := 32 * 2 ^ (p % 8)
        p % 8 ≤ 4 && acc + 512 / l ≤ 64 && 256 * (p / 8) + 2 * l ≤ 8192
      | 0x60A => 1 ≤ p && p ≤ 64 && acc + p ≤ 64
      | 0x60E => p ≤ 5
      | _ => true)

/-- The conditions that join several fields, or that a table states in words (R31, R86, R103, R109 to R111, R123,
R130, R131, R139, R141, R184, R202, R224, R263, R355). -/
def extraOk (op : Nat) (f : Fields) : Bool :=
  match op with
  | 0x022 => f.nx == .next
  | 0x025 => cregExists f.f.toNat
  | 0x026 => cregWritable f.f.toNat
  | 0x108 | 0x109 => !f.fBit 0 || f.ty.isInt
  | 0x11B =>
    (match f.srcTy with
      | some s =>
        s.code ≤ 11 && f.srcFmt == 0 && (s.isInt || f.ty.isInt) && partOk s f.ty f.part
        && (!(s.isInt && f.ty.isInt) || f.m == 0)
      | none => false)
  | 0x125 =>
    (match f.srcTy with
      | some s =>
        8 ≤ s.code && s.code ≤ 12 && (s == .x || f.srcFmt == 0) && (f.ty == .x || f.f.toNat / 4 == 0)
        && (!(f.ty == .x) || !f.fBit 0) && partOk s f.ty f.part
      | none => false)
  | 0x134 | 0x135 =>
    f.c.spec.code ≤ 5 && (f.ty.isInt || f.c.spec.code ≤ 2) && (f.ty.isFloat || f.m == 0)
  | 0x138 => (match f.srcTy with | some s => 8 ≤ s.code && s.code ≤ 10 && f.srcFmt == 0 | none => false)
  | 0x139 => f.srcTy == some .x
  | 0x300 | 0x304 => f.hint ≤ 6 && loadSpareOk f (f.ord == 0) false
  | 0x302 => f.hint ≤ 6 && loadSpareOk f false false
  | 0x301 | 0x305 => f.hint ≤ 6 && scopeOk (f.ord == 0) false f.d.toNat
  | 0x303 => f.hint ≤ 6 && scopeOk false false f.d.toNat
  | 0x306 | 0x308 => loadSpareOk f (f.ord == 0) true
  | 0x307 | 0x309 => scopeOk (f.ord == 0) true f.d.toNat
  | 0x30A | 0x30C => f.c.spec.code < 0x80 && atomTyOk f.cOp f.ty && scopeOk false false f.cScope
  | 0x30E => f.c.spec.code < 0x80 && atomTyOk f.cOp f.ty && scopeOk false true f.cScope
  | 0x30B | 0x30D => f.c.spec.code < 0x80 && casOk f && scopeOk false false f.cScope
  | 0x30F => f.c.spec.code < 0x10 && f.ord != 0 && scopeOk false false f.cScope
  | 0x310 | 0x311 => f.c.spec.code < 0x10 && 3 ≤ f.cScope && f.cScope ≤ 9
  | 0x312 => f.hint ≤ 6 && (f.c.spec.code == 0 || f.c.spec.code == 0x10)
  | 0x313 => f.c.spec.code == 0 || f.c.spec.code == 0x10
  | 0x314 =>
    f.c.spec.code < 0x80 && 2 ≤ f.cScope && f.cScope ≤ 9
    && ((f.cOp == 0 && f.ty == .n64) || ((f.cOp == 4 || f.cOp == 6) && f.ty == .b))
  | 0x315 => f.c.spec.code < 0x60 && 2 ≤ f.cScope && f.cScope ≤ 9
  | 0x316 => f.c.spec.code == 2
  | 0x403 | 0x404 =>
    (f.ty == .x || f.f.toNat % 16 == 0)
    && (if f.fBit 4 then OUse.ok .handle f.c else f.c == Opd.none)
  | 0x406 => f.a.spec.code != f.b.spec.code
  | 0x40A => !f.fBit 5 || f.m == 0
  | 0x489 | 0x48A | 0x48B =>
    if f.fBit 0 then f.d == 0 && OUse.ok .sReg f.a else f.a == Opd.none
  | 0x48C =>
    if f.fBit 0 then f.c == Opd.none else f.a == Opd.none && OUse.ok .sReg f.c
  | 0x500 => f.fBit 0 || f.c == Opd.none
  | 0x502 | 0x503 => f.hint ≤ 6
  | 0x50A => f.f.toNat ≤ 2
  | 0x583 | 0x584 | 0x58A => f.nx == .next
  | 0x600 | 0x601 | 0x602 | 0x603 | 0x604 | 0x605 | 0x606 | 0x607 | 0x608 | 0x609 | 0x60A | 0x60B | 0x60C | 0x60E =>
    rowSelOk op f
  | _ => true

/-- NW only in the vector class and with D = 0 (R24). -/
def nwOk (op : Nat) (f : Fields) : Bool := !f.nw || (0x100 ≤ op && op < 0x300 && f.d == 0)

/-- The literal rule of R17: at most one operand literal, and then no target. -/
def literalOk (f : Fields) : Bool :=
  f.literals.length ≤ 1 && (f.literals.isEmpty || f.nx.code < 4)

/-- Well-formed fields for an OP11. -/
def Fields.wf (op : Nat) (f : Fields) : Bool :=
  match rowOf op with
  | none => false
  | some r =>
    r.d.ok f.d && r.a.ok f.a && r.b.ok f.b && r.c.ok f.c
    && inSet r.ty f.ty.code && inSet r.m f.m.toNat && (f.f.toNat &&& r.f) == f.f.toNat
    && nwOk op f && literalOk f && extraOk op f

/-- Token i of a `vexpr` (R19). -/
def ExprFields.tok (e : ExprFields) (i : Nat) : Nat := e.toks.toNat / 16 ^ i % 16

/-- How many values a token pops, and how many it pushes (R118). -/
def tokArity : Nat → Option (Nat × Nat)
  | 1 | 2 | 3 | 14 => some (0, 1)
  | 4 | 5 | 6 | 8 | 9 => some (2, 1)
  | 7 => some (3, 1)
  | 10 | 11 => some (1, 1)
  | 12 => some (1, 2)
  | 13 => some (2, 2)
  | _ => none

/-- Run the stack discipline of a program from token to token: `d` is the depth, `ended` says an `end` has come
(R119). -/
def toksOk : List Nat → Nat → Bool → Bool
  | [], d, _ => d == 1
  | 0 :: ts, d, _ => toksOk ts d true
  | t :: ts, d, ended =>
    !ended && (match tokArity t with
      | none => false
      | some (pops, push) => pops ≤ d && d - pops + push ≤ 4 && toksOk ts (d - pops + push) false)

/-- The eight tokens in order. -/
def ExprFields.tokens (e : ExprFields) : List Nat := (List.range 8).map e.tok

/-- Well-formed `vexpr` (R19, R103, R119). -/
def ExprFields.wf (e : ExprFields) : Bool :=
  let f := e.w
  let src := fun (o : Opd) (t : Nat) => if e.tokens.contains t then OUse.ok .v o else o == Opd.none
  f.ty.isFloat && f.m.toNat ≤ 5 && f.f == 0 && nwOk 0x12E f && f.literals.isEmpty && f.nx.code < 4
  && src f.a 1 && src f.b 2 && src f.c 3 && toksOk e.tokens 0 false

/-- Well-formed `fork`: 3 < ob < oj ≤ 32,767 (R87). -/
def ForkFields.wf (f : ForkFields) : Bool :=
  3 < f.ob.toNat && f.ob.toNat < f.oj.toNat && f.oj.toNat ≤ 32767

/-- A well-formed instruction. An event has no fields that an encoding limits. -/
def Instr.wf (i : Instr) : Bool :=
  match i.form with
  | .wide op f => f.wf op
  | .fork f => f.wf
  | .expr e => e.wf
  | .compact k c => c.wf k
  | .event => true

/-- The OP11 of an instruction, or of the W-form its alias names; none for an event. -/
def Instr.op11 (i : Instr) : Option Nat :=
  match i.form with
  | .wide op _ => some op
  | .fork _ => some 0x021
  | .expr _ => some 0x12E
  | .compact k _ => some (compactOp k)
  | .event => none

/-- The instruction classes (R32). -/
inductive Class where
  | uniform | vector | memory | matrix | engine | bundle | system | row
  deriving DecidableEq, Repr

/-- The class of an OP11 (R32). -/
def classOf (op : Nat) : Class :=
  if op < 0x100 then .uniform
  else if op < 0x300 then .vector
  else if op < 0x400 then .memory
  else if op < 0x480 then .matrix
  else if op < 0x500 then .engine
  else if op < 0x580 then .bundle
  else if op < 0x600 then .system
  else .row

/-- Whether a sill strand may execute an OP11 (R33). -/
def sillMay (op : Nat) : Bool :=
  op < 0x100 || 0x600 ≤ op
  || [0x304, 0x305, 0x30C, 0x30D, 0x30F, 0x314, 0x315, 0x509, 0x583, 0x584, 0x589, 0x58A].contains op

/-- Whether a strand may execute an OP11: a core strand not the row class, a sill strand only R33's list. -/
def contextOk (sill : Bool) (op : Nat) : Bool := if sill then sillMay op else op < 0x600

/-- How many parcels an instruction takes (R12). -/
def Instr.parcels (i : Instr) : Nat :=
  match i.form with
  | .wide _ f => if f.long then 3 else 2
  | .fork _ => 3
  | .expr _ => 3
  | .compact _ _ => 1
  | .event => 0

end Sys2Proof
end

