-- ==== Sys2Proof/Machine/Fp.lean ====
section
/-!
DEFINITION. Numbers: exact values, the wide and narrow formats, rounding by pick with its flags, and the functions the
floating-point instructions round (R48 to R59, R113 to R116). A function whose exact value has no finite binary form
is represented by a value of more than 140 significant bits whose lowest bit is 1, which lies strictly between the same
neighbours and gives the same discarded bits.
-/
namespace Sys2Proof.Machine

/-- The five sticky flags, in the places of `sts`[4:0]: NX, UF, OF, DZ, IV (R50). -/
abbrev Flags := BitVec 5

/-- No flag. -/
def noFlags : Flags := 0
/-- NX. -/
def flagNX : Flags := 1
/-- UF. -/
def flagUF : Flags := 2
/-- OF. -/
def flagOF : Flags := 4
/-- DZ. -/
def flagDZ : Flags := 8
/-- IV. -/
def flagIV : Flags := 16

/-- A flag if a condition holds. -/
def flagIf (c : Bool) (f : Flags) : Flags := if c then f else 0

/-- A resolved rounding mode (R51); stochastic rounding carries the number drawn for this rounding (R52). -/
inductive Rm where
  | rne | rtz | rup | rdn
  | rsr (draw : BitVec 32)
  deriving DecidableEq, Repr

/-- An exact value: a NaN, signalling or quiet, an infinity, or ±m·2^e (zero when m = 0, with its sign). -/
inductive Val where
  | nan (signalling : Bool)
  | inf (neg : Bool)
  | fin (neg : Bool) (m : Nat) (e : Int)
  deriving DecidableEq, Repr

/-- The value of an integer. -/
def Val.ofInt (x : Int) : Val := .fin (decide (x < 0)) x.natAbs 0

/-- The sign of a value; a NaN is positive. -/
def Val.neg : Val → Bool
  | .nan _ => false | .inf s => s | .fin s _ _ => s

/-- Whether a value is a NaN. -/
def Val.isNan : Val → Bool | .nan _ => true | _ => false
/-- Whether a value is a signalling NaN. -/
def Val.isSnan : Val → Bool | .nan s => s | _ => false
/-- Whether a value is zero. -/
def Val.isZero : Val → Bool | .fin _ m _ => m == 0 | _ => false

/-- The value with its sign inverted (not a floating-point operation: R105, R118). -/
def Val.negate : Val → Val
  | .nan s => .nan s | .inf s => .inf (!s) | .fin s m e => .fin (!s) m e

/-- The value with a clear sign. -/
def Val.magnitude : Val → Val
  | .nan s => .nan s | .inf _ => .inf false | .fin _ m e => .fin false m e

/-- ±m·2^e as an integer at scale 2^e0, where e0 ≤ e. -/
def scaled (neg : Bool) (m : Nat) (e e0 : Int) : Int :=
  let k := m * 2 ^ (e - e0).toNat
  if neg then -(k : Int) else k

/-- An integer at scale 2^e as a value; an exact zero takes the sign given. -/
def Val.ofScaled (x : Int) (e : Int) (zeroNeg : Bool) : Val :=
  if x = 0 then .fin zeroNeg 0 0 else .fin (decide (x < 0)) x.natAbs e

/-- Compare two values that are not NaN: less than, equal. -/
def Val.lt : Val → Val → Bool
  | .nan _, _ => false
  | _, .nan _ => false
  | .inf s, .inf t => s && !t
  | .inf s, .fin .. => s
  | .fin .., .inf t => !t
  | .fin s m e, .fin t n k => let e0 := min e k; decide (scaled s m e e0 < scaled t n k e0)

/-- Equality of two values that are not NaN; −0 equals +0. -/
def Val.eqv : Val → Val → Bool
  | .inf s, .inf t => s == t
  | .fin s m e, .fin t n k => let e0 := min e k; decide (scaled s m e e0 = scaled t n k e0)
  | _, _ => false

/-- IV when an operand is a signalling NaN (R49). -/
def snanIV (vs : List Val) : Flags := flagIf (vs.any Val.isSnan) flagIV

/-- x + y under IEEE 754-2019 (R113): the exact sum and IV. `down` says the mode is RDN, which gives an exact zero sum
of opposite signs its sign. -/
def Val.add (down : Bool) (x y : Val) : Val × Flags :=
  match x, y with
  | .nan s, _ => (.nan false, flagIf (s || y.isSnan) flagIV)
  | _, .nan s => (.nan false, flagIf s flagIV)
  | .inf s, .inf t => if s = t then (.inf s, 0) else (.nan false, flagIV)
  | .inf s, .fin .. => (.inf s, 0)
  | .fin .., .inf t => (.inf t, 0)
  | .fin s m e, .fin t n k =>
    let e0 := min e k
    (Val.ofScaled (scaled s m e e0 + scaled t n k e0) e0
      (if m = 0 ∧ n = 0 ∧ s = t then s else down), 0)

/-- x × y. -/
def Val.mul (x y : Val) : Val × Flags :=
  match x, y with
  | .nan s, _ => (.nan false, flagIf (s || y.isSnan) flagIV)
  | _, .nan s => (.nan false, flagIf s flagIV)
  | .inf s, .inf t => (.inf (xor s t), 0)
  | .inf s, .fin t n _ => if n = 0 then (.nan false, flagIV) else (.inf (xor s t), 0)
  | .fin s m _, .inf t => if m = 0 then (.nan false, flagIV) else (.inf (xor s t), 0)
  | .fin s m e, .fin t n k => (.fin (xor s t) (m * n) (e + k), 0)

/-- x × y + z with no rounding between (R113). -/
def Val.fma (down : Bool) (x y z : Val) : Val × Flags :=
  let p := Val.mul x y
  let r := Val.add down p.1 z
  (r.1, p.2 ||| r.2 ||| snanIV [x, y, z])

/-- A quotient with its sticky bit: the low bit is 1 when the division leaves a remainder. -/
def stickyDiv (a b : Nat) : Nat := 2 * (a / b) + (if a % b = 0 then 0 else 1)

/-- x / y (R113). -/
def Val.div (x y : Val) : Val × Flags :=
  match x, y with
  | .nan s, _ => (.nan false, flagIf (s || y.isSnan) flagIV)
  | _, .nan s => (.nan false, flagIf s flagIV)
  | .inf _, .inf _ => (.nan false, flagIV)
  | .inf s, .fin t _ _ => (.inf (xor s t), 0)
  | .fin s _ _, .inf t => (.fin (xor s t) 0 0, 0)
  | .fin s m e, .fin t n k =>
    if n = 0 then
      if m = 0 then (.nan false, flagIV) else (.inf (xor s t), flagDZ)
    else
      let sh := 160 + Nat.log2 n - Nat.log2 m
      (.fin (xor s t) (stickyDiv (m * 2 ^ sh) n) (e - k - sh - 1), 0)

/-- The integer square root, bit by bit from bit `k` down; `r` is the root so far. -/
def isqrtFrom (x : Nat) : Nat → Nat → Nat
  | 0, r => r
  | k + 1, r =>
    let r' := r + 2 ^ k
    isqrtFrom x k (if r' * r' ≤ x then r' else r)

/-- The integer square root. -/
def isqrt (x : Nat) : Nat := isqrtFrom x (Nat.log2 x / 2 + 1) 0

/-- A square root with its sticky bit. -/
def stickySqrt (x : Nat) : Nat := let r := isqrt x; 2 * r + (if r * r = x then 0 else 1)

/-- √(m·2^e) for m > 0: (mantissa with sticky, exponent). -/
def sqrtFin (m : Nat) (e : Int) : Nat × Int :=
  let m' := if e % 2 = 0 then m else 2 * m
  let e' := if e % 2 = 0 then e else e - 1
  (stickySqrt (m' * 2 ^ 400), e' / 2 - 200 - 1)

/-- √x (R115). -/
def Val.sqrt : Val → Val × Flags
  | .nan s => (.nan false, flagIf s flagIV)
  | .inf s => if s then (.nan false, flagIV) else (.inf false, 0)
  | .fin s m e =>
    if m = 0 then (.fin s 0 0, 0)
    else if s then (.nan false, flagIV)
    else let r := sqrtFin m e; (.fin false r.1 r.2, 0)

/-- 1/x (R115). -/
def Val.rcp : Val → Val × Flags := Val.div (.fin false 1 0)

/-- 1/√x (R115): the square root of 2^(2K)/m is formed with a sticky bit from the quotient and the root. -/
def Val.rsqrt : Val → Val × Flags
  | .nan s => (.nan false, flagIf s flagIV)
  | .inf s => if s then (.nan false, flagIV) else (.fin false 0 0, 0)
  | .fin s m e =>
    if m = 0 then (.inf s, flagDZ)
    else if s then (.nan false, flagIV)
    else
      let m' := if e % 2 = 0 then m else 2 * m
      let e' := if e % 2 = 0 then e else e - 1
      let sh := 200 + Nat.log2 m'
      let q := 2 ^ (2 * sh) / m'
      let r := isqrt q
      let exact := r * r == q && 2 ^ (2 * sh) % m' == 0
      (.fin false (2 * r + (if exact then 0 else 1)) (-(e' / 2) - sh - 1), 0)

/-- The working precision of `exp2` and `log2`, in fraction bits. -/
def fxBits : Nat := 448

/-- The sum of a Taylor series of exp at `x` (fixed point), from term number `n` with value `t` on. -/
def expSeries (x : Nat) : Nat → Nat → Nat → Nat
  | 0, _, _ => 0
  | fuel + 1, n, t => t + expSeries x fuel (n + 1) (t * x / 2 ^ fxBits / (n + 1))

/-- The sum of z^(2i+1)/(2i+1) (fixed point), from the odd power `p` with exponent `n` on. -/
def atanhSeries (z2 : Nat) : Nat → Nat → Nat → Nat
  | 0, _, _ => 0
  | fuel + 1, n, p => p / n + atanhSeries z2 fuel (n + 2) (p * z2 / 2 ^ fxBits)

/-- ln y for y = m/2^fxBits, 1 ≤ y < 2, as twice the area hyperbolic tangent of (y − 1)/(y + 1). -/
def lnFx (m : Nat) : Nat :=
  let one := 2 ^ fxBits
  let z := (m - one) * one / (m + one)
  2 * atanhSeries (z * z / one) 160 1 z

/-- ln 2 in fixed point. -/
def ln2Fx : Nat := lnFx (2 * 2 ^ fxBits)

/-- 2^f for a fraction f = x/2^fxBits, 0 ≤ f < 1, in fixed point. -/
def exp2Fx (x : Nat) : Nat := expSeries (x * ln2Fx / 2 ^ fxBits) 110 0 (2 ^ fxBits)

/-- A fixed-point approximation with a set sticky bit, cut to 320 fraction bits so that its error lies below them. -/
def fxSticky (x : Nat) : Nat × Int := (2 * (x / 2 ^ (fxBits - 320)) + 1, -321)

/-- 2^x for a finite x (R115). Beyond 2^20 in magnitude any format overflows or underflows; within 2^−200 of an integer
the value lies next to a power of two. -/
def exp2Fin (neg : Bool) (m : Nat) (e : Int) : Val :=
  let top := (Nat.log2 m : Int) + e
  if 20 ≤ top then (if neg then .fin false 3 (-(2 ^ 21)) else .fin false 3 (2 ^ 21))
  else if e ≥ 0 then .fin false 1 (scaled neg m e 0)
  else if top < -200 then
    (if neg then .fin false (2 ^ 250 - 1) (-250) else .fin false (2 ^ 250 + 1) (-250))
  else
    let d := 2 ^ (-e).toNat
    let x : Int := if neg then -(m : Int) else m
    let n := x / (d : Int)
    let r := (x % (d : Int)).toNat
    if r = 0 then .fin false 1 n
    else
      let y := fxSticky (exp2Fx (r * 2 ^ fxBits / 2 ^ (-e).toNat))
      .fin false y.1 (y.2 + n)

/-- 2^x (R115). -/
def Val.exp2 : Val → Val × Flags
  | .nan s => (.nan false, flagIf s flagIV)
  | .inf s => (if s then .fin false 0 0 else .inf false, 0)
  | .fin s m e => if m = 0 then (.fin false 1 0, 0) else (exp2Fin s m e, 0)

/-- log2 of m·2^e for m > 0 (R115): an integer for a power of two, otherwise never a finite binary value. -/
def log2Fin (m : Nat) (e : Int) : Val :=
  let l := Nat.log2 m
  let n := (l : Int) + e
  if m = 2 ^ l then Val.ofScaled n 0 false
  else
    let y := m * 2 ^ fxBits / 2 ^ l
    let f := lnFx y * 2 ^ fxBits / ln2Fx / 2 ^ (fxBits - 320)
    let x : Int := 2 * (n * 2 ^ 320 + f) + 1
    Val.ofScaled x (-321) false

/-- log2 x (R115). -/
def Val.log2 : Val → Val × Flags
  | .nan s => (.nan false, flagIf s flagIV)
  | .inf s => if s then (.nan false, flagIV) else (.inf false, 0)
  | .fin s m e =>
    if m = 0 then (.inf true, flagDZ)
    else if s then (.nan false, flagIV)
    else (log2Fin m e, 0)

/-- x × 2^n (R116). -/
def Val.scale (x : Val) (n : Int) : Val × Flags :=
  match x with
  | .nan s => (.nan false, flagIf s flagIV)
  | .inf s => (.inf s, 0)
  | .fin s m e => (.fin s m (e + n), 0)

/-- ⌊x⌋ of a finite value, clamped to 0..255, and the rest x − that number (R117). -/
def floorClamp (s : Bool) (m : Nat) (e : Int) : Nat × Val :=
  let e0 := min e 0
  let x := if 64 ≤ (Nat.log2 m : Int) + e ∧ m ≠ 0 then none else some (scaled s m e e0)
  match x with
  | none => if s then (0, .fin s m e) else (255, (Val.add false (.fin s m e) (Val.ofInt (-255))).1)
  | some x =>
    let d : Int := (2 ^ (-e0).toNat : Nat)
    let i := max 0 (min 255 (x / d))
    (i.toNat, Val.ofScaled (x - i * d) e0 (s && m == 0))

/-- The smaller (or larger) of x and y under R114; a NaN operand gives the other one. -/
def Val.minmax (wantMin : Bool) (x y : Val) : Val × Flags :=
  let fl := snanIV [x, y]
  match x.isNan, y.isNan with
  | true, true => (.nan false, fl)
  | true, false => (y, fl)
  | false, true => (x, fl)
  | false, false =>
    let less := x.lt y || (x.eqv y && x.neg && !y.neg)
    (if less = wantMin then x else y, fl)

/-- A wide format: exponent bits, fraction bits and bias (R48). -/
structure Wide where
  eb : Nat
  fb : Nat
  bias : Int
  deriving DecidableEq, Repr

/-- FP16. -/
def fp16 : Wide := ⟨5, 10, 15⟩
/-- BF16. -/
def bf16 : Wide := ⟨8, 7, 127⟩
/-- FP32. -/
def fp32 : Wide := ⟨8, 23, 127⟩
/-- FP64. -/
def fp64 : Wide := ⟨11, 52, 1023⟩

/-- The format of a floating-point type; FP64 for a type that is none. -/
def wideOf : Ty → Wide
  | .h => fp16 | .bf => bf16 | .f => fp32 | _ => fp64

/-- The code of +∞, one above the largest finite code. -/
def Wide.infCode (w : Wide) : Nat := (2 ^ w.eb - 1) * 2 ^ w.fb
/-- The canonical NaN (R48). -/
def Wide.nanCode (w : Wide) : Nat := w.infCode + 2 ^ (w.fb - 1)
/-- The sign bit of a code. -/
def Wide.signBit (w : Wide) (neg : Bool) : Nat := if neg then 2 ^ (w.eb + w.fb) else 0

/-- The exact value of a code (R48, R49). -/
def Wide.value (w : Wide) (code : Nat) : Val :=
  let s := bitOf code (w.eb + w.fb)
  let e := bits code w.fb w.eb
  let m := bits code 0 w.fb
  if e = 2 ^ w.eb - 1 then
    if m = 0 then .inf s else .nan (!bitOf code (w.fb - 1))
  else if e = 0 then .fin s m (1 - w.bias - w.fb)
  else .fin s (m + 2 ^ w.fb) (e - w.bias - w.fb)

/-- Whether pick goes up to the next grid value when `r` of `2^sh` is discarded (R52); `tie` says where RNE takes a
tie. -/
def pickUp (rm : Rm) (neg : Bool) (r sh : Nat) (tie : Bool) : Bool :=
  match rm with
  | .rne => decide (2 ^ sh < 2 * r) || (2 * r == 2 ^ sh && tie)
  | .rtz => false
  | .rup => !neg
  | .rdn => neg
  | .rsr draw => decide (2 ^ 32 ≤ r * 2 ^ 32 / 2 ^ sh + draw.toNat)

/-- Round m·2^e (m > 0) onto a grid with `fb` mantissa bits whose finest unit is 2^qmin and whose exponent has no upper
bound: (multiple of the unit, exponent of the unit, inexact) (R52). With no mantissa bit a tie has nothing that decides it, 0 and
the smallest value included: where it goes is a free value (log 6). -/
def pickGrid (rm : Rm) (neg : Bool) (m : Nat) (e : Int) (fb : Nat) (qmin : Int) : Nat × Int × Bool :=
  let q := max ((Nat.log2 m : Int) + e - fb) qmin
  if q ≤ e then (m * 2 ^ (e - q).toNat, q, false)
  else
    let sh0 := (q - e).toNat
    -- far below one unit every mode acts as for the smallest fraction of a unit
    let far := decide (Nat.log2 m + 40 < sh0)
    let m' := if far then 1 else m
    let sh := if far then 40 else sh0
    let a := m' / 2 ^ sh
    let r := m' % 2 ^ sh
    if r = 0 then (a, q, false)
    else
      let tie := if fb = 0 then Config.tieUp a q else a % 2 == 1
      (if pickUp rm neg r sh tie then a + 1 else a, q, true)

/-- Whether an overflow gives the largest finite value and not an infinity (R55). -/
def overflowFinite (sat : Bool) (neg : Bool) : Rm → Bool
  | .rtz => true
  | .rup => sat || neg
  | .rdn => sat || !neg
  | _ => sat

/-- round(f, x, m) for a wide format: the code and the flags (R49, R50, R52, R55). -/
def Wide.round (w : Wide) (sat : Bool) (rm : Rm) (x : Val) : Nat × Flags :=
  match x with
  | .nan s => (w.nanCode, flagIf s flagIV)
  | .inf s => (w.signBit s + w.infCode, 0)
  | .fin s m e =>
    if m = 0 then (w.signBit s, 0)
    else
      let emin := 1 - w.bias
      let g := pickGrid rm s m e w.fb (emin - w.fb)
      let code := (g.2.1 - (emin - w.fb)).toNat * 2 ^ w.fb + g.1
      if w.infCode ≤ code then
        (w.signBit s + (if overflowFinite sat s rm then w.infCode - 1 else w.infCode), flagOF ||| flagNX)
      else
        (w.signBit s + code,
          flagIf g.2.2 flagNX ||| flagIf (g.2.2 && decide ((Nat.log2 m : Int) + e < emin)) flagUF)

/-- Round a value to an integer by a mode (R55, R110): the integer and inexactness. -/
def Val.toInteger (rm : Rm) (s : Bool) (m : Nat) (e : Int) : Int × Bool :=
  if m = 0 then (0, false)
  else if 0 ≤ e then (scaled s m (min e 4096) 0, false)
  else
    let sh := (-e).toNat
    let far := decide (Nat.log2 m + 40 < sh)
    let m' := if far then 1 else m
    let sh' := if far then 40 else sh
    let a := m' / 2 ^ sh'
    let r := m' % 2 ^ sh'
    let n := if r ≠ 0 ∧ pickUp rm s r sh' (a % 2 == 1) = true then a + 1 else a
    (if s then -(n : Int) else n, r != 0)

/-- A narrow format as a format register describes it (R56). -/
structure Narrow where
  s : Nat
  e : Nat
  m : Nat
  bias : Int
  spc : Nat
  sat : Bool
  deriving DecidableEq, Repr

/-- The fields of a format register (R56). -/
def Narrow.ofReg (r : Half) : Narrow :=
  { s := field r 0 1, e := field r 1 3, m := field r 4 3, bias := signed 8 (field r 7 8), spc := field r 15 2
    sat := bitOf r.toNat 17 }

/-- The width W = S + E + M. -/
def Narrow.w (f : Narrow) : Nat := f.s + f.e + f.m

/-- A valid format (R57). -/
def formatValid (r : Half) : Bool :=
  let f := Narrow.ofReg r
  2 ≤ f.w && f.w ≤ 8 && field r 18 6 == 0 && f.spc != 3 && (f.e != 0 || f.spc == 0)
  && (f.spc != 2 || (2 ≤ f.e && 1 ≤ f.m))

/-- The code of all-ones exponent and mantissa, without the sign. -/
def Narrow.allOnes (f : Narrow) : Nat := 2 ^ (f.e + f.m) - 1
/-- The all-ones exponent with a zero mantissa. -/
def Narrow.topExp (f : Narrow) : Nat := (2 ^ f.e - 1) * 2 ^ f.m
/-- The code of max_finite, for E ≥ 1 (R58). -/
def Narrow.maxCode (f : Narrow) : Nat :=
  if f.spc = 1 then f.allOnes - 1 else if f.spc = 2 then f.topExp - 1 else f.allOnes
/-- The sign bit of a code. -/
def Narrow.signBit (f : Narrow) (neg : Bool) : Nat := if f.s = 1 ∧ neg = true then 2 ^ (f.w - 1) else 0

/-- The exact value of a code (R58); bits above the width are ignored (R46). -/
def Narrow.value (f : Narrow) (code : Nat) : Val :=
  let c := code % 2 ^ f.w
  if f.e = 0 then
    let x : Int := if f.s = 1 then signed f.w c else (c : Int)
    Val.ofScaled x (-f.bias) false
  else
    let s := f.s == 1 && bitOf c (f.w - 1)
    let e := bits c f.m f.e
    let m := bits c 0 f.m
    if f.spc = 1 ∧ e * 2 ^ f.m + m = f.allOnes then .nan false
    else if f.spc = 2 ∧ e = 2 ^ f.e - 1 then
      if m = 0 then .inf s else .nan (!bitOf m (f.m - 1))
    else if e = 0 then .fin s m (1 - f.bias - f.m)
    else .fin s (m + 2 ^ f.m) (e - f.bias - f.m)

/-- max_finite(f) as a value (R58). -/
def Narrow.maxFinite (f : Narrow) : Val :=
  if f.e = 0 then .fin false (2 ^ (f.w - f.s) - 1) (-f.bias) else f.value f.maxCode

/-- emax(f) = ⌊log2(max_finite(f))⌋ (R58); free where the largest finite value is 0. -/
def Narrow.emax (f : Narrow) : Int :=
  match f.maxFinite with
  | .fin _ m e => if m = 0 then Config.emaxOfZero else (Nat.log2 m : Int) + e
  | _ => Config.emaxOfZero

/-- The result of a NaN, or of a negative result where there is no sign: the format's NaN, or 0 (R59). -/
def Narrow.nanCode (f : Narrow) : Nat :=
  if f.e = 0 then 0
  else if f.spc = 2 then f.topExp + 2 ^ (f.m - 1)
  else if f.spc = 1 then f.allOnes
  else 0

/-- Whether the format has a NaN (R58). -/
def Narrow.hasNan (f : Narrow) : Bool := f.e != 0 && (f.spc == 1 || f.spc == 2)

/-- The last row of R59: a negative result that does not round to zero, in a format without a sign. `tiny` says that its
magnitude is below the smallest normal, which raises UF too (R50, R52). -/
def Narrow.negative (f : Narrow) (tiny : Bool) : Nat × Flags := (f.nanCode, flagIV ||| flagNX ||| flagIf tiny flagUF)

/-- The code of a value out of range in fixed point: the nearer bound, or the value wrapped (R59). -/
def Narrow.fixedRange (f : Narrow) (sat : Bool) (x : Int) : Nat × Bool :=
  let lo : Int := if f.s = 1 then -((2 ^ (f.w - 1) : Nat) : Int) else 0
  let hi : Int := ((2 ^ (f.w - f.s) : Nat) : Int) - 1
  if lo ≤ x ∧ x ≤ hi then (wrapNat f.w x, false)
  else (wrapNat f.w (if sat then max lo (min hi x) else x), true)

/-- round(f, x, m) for a narrow format (R52, R59). A NaN that becomes 0 raises NX beside IV, as every result that differs from x
does (R59; log 24); UF is that of pick, whatever row of R59 then gives the result. -/
def Narrow.round (f : Narrow) (rm : Rm) (x : Val) : Nat × Flags :=
  match x with
  | .nan s => (f.nanCode, flagIf (s || !f.hasNan) flagIV ||| flagIf (!f.hasNan) flagNX)
  | .inf s =>
    if s && f.s == 0 then f.negative false
    else if f.e = 0 then
      (wrapNat f.w (if s then -((2 ^ (f.w - 1) : Nat) : Int) else ((2 ^ (f.w - f.s) : Nat) : Int) - 1),
        flagIV ||| flagNX)
    else if f.spc = 2 then (f.signBit s + f.topExp, 0)
    else if f.spc = 1 then
      if f.sat then (f.signBit s + f.maxCode, flagNX) else (f.nanCode, flagIV ||| flagNX)
    else (f.signBit s + f.maxCode, flagIV ||| flagNX)
  | .fin s m e =>
    if m = 0 then (if f.e = 0 then 0 else f.signBit s, 0)
    else if f.e = 0 then
      -- fixed point: pick rounds x × 2^BIAS to an integer before the range is tested; min_normal is 2^-BIAS (R58)
      let g := Val.toInteger rm s m (e + f.bias)
      let tiny := decide ((Nat.log2 m : Int) + e < -f.bias)
      let fl := flagIf g.2 flagNX ||| flagIf (g.2 && tiny) flagUF
      if s && f.s == 0 && g.1 != 0 then f.negative tiny
      else
        let r := f.fixedRange f.sat g.1
        (r.1, if r.2 then flagOF ||| flagNX ||| fl else fl)
    else
      let emin := 1 - f.bias
      let g := pickGrid rm s m e f.m (emin - f.m)
      let code := (g.2.1 - (emin - f.m)).toNat * 2 ^ f.m + g.1
      let tiny := decide ((Nat.log2 m : Int) + e < emin)
      let fl := flagIf g.2.2 flagNX ||| flagIf (g.2.2 && tiny) flagUF
      if s && f.s == 0 then
        if code = 0 then (0, fl) else f.negative tiny
      else if code ≤ f.maxCode then (f.signBit s + code, fl)
      else
        let o := flagOF ||| flagNX ||| fl
        if f.spc = 2 then
          (f.signBit s + (if overflowFinite f.sat s rm then f.maxCode else f.topExp), o)
        else if f.spc = 1 then (if f.sat then f.signBit s + f.maxCode else f.nanCode, o)
        else (f.signBit s + f.maxCode, o)

/-- The range of an integer type. -/
def tyLo (t : Ty) : Int := if t.isSigned then -((2 ^ (t.width - 1) : Nat) : Int) else 0
/-- The upper bound of an integer type. -/
def tyHi (t : Ty) : Int :=
  if t.isSigned then ((2 ^ (t.width - 1) : Nat) : Int) - 1 else ((2 ^ t.width : Nat) : Int) - 1

/-- sat(T, x) as a code (R47, R69). -/
def satTy (t : Ty) (x : Int) : Nat := wrapNat t.width (max (tyLo t) (min (tyHi t) x))

/-- Reduce an exact integer result to a code of T, with or without SAT (R47). -/
def reduceTy (t : Ty) (sat : Bool) (x : Int) : Nat := if sat then satTy t x else wrapNat t.width x

/-- A floating-point value converted to an integer type (R55): a NaN gives 0 with IV, a result out of range the nearer
bound with IV, an inexact one NX. A NaN, an infinity and a result out of range raise IV alone: whether NX comes with it R55 leaves
open beside its lead sentence (DESIGN CHOICE, log 24). -/
def toIntTy (t : Ty) (rm : Rm) (x : Val) : Nat × Flags :=
  match x with
  | .nan _ => (0, flagIV)
  | .inf s => (wrapNat t.width (if s then tyLo t else tyHi t), flagIV)
  | .fin s m e =>
    let r := Val.toInteger rm s m e
    if r.1 < tyLo t then (wrapNat t.width (tyLo t), flagIV)
    else if tyHi t < r.1 then (wrapNat t.width (tyHi t), flagIV)
    else (wrapNat t.width r.1, flagIf r.2 flagNX)

/-- Element k of a 64-bit operand, as a code (R46). -/
def elemCode (t : Ty) (x : Word) (k : Nat) : Nat := field x (t.width * k) t.width

/-- Element k as an exact integer (R47). -/
def elemInt (t : Ty) (x : Word) (k : Nat) : Int :=
  if t.isSigned then signed t.width (elemCode t x k) else (elemCode t x k : Int)

/-- Put codes into consecutive elements, the first at element 0 (R46). -/
def packCodes (w : Nat) : List Nat → Nat
  | [] => 0
  | c :: cs => c % 2 ^ w + 2 ^ w * packCodes w cs

/-- A word of elements. -/
def wordOf (w : Nat) (cs : List Nat) : Word := BitVec.ofNat 64 (packCodes w cs)

/-- A word with the same code in every element (R22). -/
def replicate (t : Ty) (code : Nat) : Word := wordOf t.width (List.replicate t.lanes code)

/-- round(T, x, RNE) for an immediate or literal, with no flag (R22). `fmt` is the format register of T = `.x`. -/
def convertTo (t : Ty) (fmt : Half) (x : Val) : Nat :=
  if t = .x then ((Narrow.ofReg fmt).round .rne x).1
  else ((wideOf t).round false .rne x).1

end Sys2Proof.Machine
end

