-- ==== Sys2Proof/Machine/Strand.lean ====
section
/-!
DEFINITION. A strand's state (R3, R7, R37, R155 to R172) and the plain readers and writers of its registers.
-/
namespace Sys2Proof.Machine

/-- A vector register or a latch: 64 bits for each of 32 threads, with each thread's poison mark (R46, R101). -/
structure VReg where
  val  : Vector Word 32
  mark : BitVec 32
  deriving DecidableEq, Repr

/-- All zero, unmarked (R98). -/
def VReg.zero : VReg := ⟨Vector.replicate 32 0, 0⟩

/-- A thread's 64 bits; 0 beyond thread 31. -/
def VReg.get (r : VReg) (t : Nat) : Word := r.val.toArray.getD t 0
/-- A thread's mark. -/
def VReg.marked (r : VReg) (t : Nat) : Bool := r.mark.getLsbD t

/-- A register from each thread's value and mark. -/
def VReg.ofFn (f : Nat → Word × Bool) : VReg :=
  ⟨Vector.ofFn fun t => (f t.val).1, BitVec.ofNat 32 (maskOf ((upto 32).filter fun t => (f t).2))⟩

/-- A write that the uniform side of a strand makes (R13, R70): the result of a uniform instruction as data, so that
the two members of a co-issue pair read before either writes. -/
inductive UWrite where
  /-- A uniform register and its poison mark. -/
  | reg (n : Nat) (x : Word) (mark : Bool)
  | em (m : Half)
  | uc (c : Bool)
  | lr (x : Word)
  | lc0 (x : Half) | lc1 (x : Half) | lh0 (x : Word) | lh1 (x : Word)
  /-- Push a loop level: count and head (R86). -/
  | push (count : Half) (head : Word)
  /-- `sts`[4:0]. -/
  | flags (f : Flags)
  | rnd (x : Nat)
  | seed (x : Half)
  | win (n : Nat) (x : BitVec 16)
  | tpc (x : Word) | tcause (x : BitVec 8) | taddr (x : Word) | tem (x : Half) | tfk (x : Word)
  /-- Give up the turn at the lane (R96). -/
  | yieldTurn
  deriving DecidableEq, Repr

/-- The part a strand plays in a co-issue pair while the step executes it (R13): none, the uniform member gathering its
writes, the other member with those writes to come. -/
inductive PairPhase where
  | none | gather | apply (ws : List UWrite)
  deriving DecidableEq, Repr

/-- The phase of the deferred-region register (R88). -/
inductive ForkPhase where
  | none | aFirst | bFirst | bSecond | aSecond
  deriving DecidableEq, Repr

/-- The phase number of R88. -/
def ForkPhase.code : ForkPhase → Nat
  | .none => 0 | .aFirst => 1 | .bFirst => 2 | .bSecond => 3 | .aSecond => 4

/-- The phase of a number; 5-7 name none (R91). -/
def ForkPhase.ofCode : Nat → Option ForkPhase
  | 0 => some .none | 1 => some .aFirst | 2 => some .bFirst | 3 => some .bSecond | 4 => some .aSecond | _ => Option.none

/-- The deferred-region register (R88), with the offsets that the `fork` gave, in parcels. -/
structure Fork where
  phase : ForkPhase
  at_   : Word
  ob    : Nat
  oj    : Nat
  mask  : Half
  deriving DecidableEq, Repr

/-- An empty deferred-region register. -/
def Fork.empty : Fork := ⟨.none, 0, 0, 0, 0⟩

/-- A line of the instruction buffer: its address in the code window, its 512 bits, when it last supplied an
instruction, and the window it was fetched through (R159). -/
structure BufLine where
  addr : Word
  win  : BitVec 16
  line : BitVec 512
  used : Nat
  deriving DecidableEq, Repr

/-- Why a strand is not ready (R157). A strand that waits executes its instruction again when the wait ends, unless the
event that ends it finishes the instruction. -/
inductive Wait where
  | none
  /-- The line of the next instruction is not in the buffer (R157). -/
  | line
  /-- A register it reads or writes awaits an earlier memory-class instruction, or its own loads are to be gathered. -/
  | data
  /-- A handle or a bundle's or job's completion: the 32-bit handle value (R73, R217). -/
  | handle (h : Half)
  /-- An item of an array operation, or the array queue's room (R186, R190). -/
  | array
  /-- The job limit of its block (R204). -/
  | jobs
  /-- A physical register (R164, R167). -/
  | register
  /-- Acknowledgements of its stores, atomics, signals or installs (R143, R323). -/
  | acks
  /-- The other strands at `bbar` or `commit` (R144, R273). -/
  | barrier
  /-- A memory word (R146). -/
  | word
  | sleep
  /-- A plumb phase (R226). -/
  | plumb
  /-- Batches (R220, R221). -/
  | batch
  /-- A function-table load or swap (R236, R237). -/
  | table
  /-- A view load's decision, or an answer of a bundle's record (R332, R334). -/
  | answer
  /-- Parked on a replayable fault (R407). -/
  | parked
  /-- The answer of a peer module (R470). -/
  | peer
  /-- Stalled by lossless tracing (R344). -/
  | trace
  /-- Row instructions (R357). -/
  | rows
  /-- The bias flips of its `cbias` (R150). -/
  | bias
  deriving DecidableEq, Repr

/-- A strand at its block's barrier (R144): not there, or arrived by an instruction with a selector, and
for `commit` with its handle register (R273). -/
inductive Barrier where
  | away | arrived (nx : Nx) (commit : Option Nat)
  deriving DecidableEq, Repr

/-- How the strand came to its next address: the check of R11 that is still to be made on the line. -/
inductive Arrival where
  /-- Sequential, or already checked. -/
  | sequential
  /-- A non-sequential fetch formed by the instruction at `src`: TGT is checked. -/
  | target (src : Word)
  /-- The return of `tret` (R11): the parcel must begin an instruction. -/
  | tret
  deriving DecidableEq, Repr

/-- What the next-address action changed, kept until the target's check passes: a failed check undoes it (log 9). -/
structure Undo where
  em : Half
  lr : Word
  lc0 : Half
  lc1 : Half
  lh0 : Word
  lh1 : Word
  fork : Fork
  deriving DecidableEq, Repr

/-- One thread's part of a memory access in flight, or the one access of a uniform form. -/
structure Piece where
  thread : Nat
  /-- Global addresses of its bytes, in order; a straddling access lies in two pages. -/
  bytes  : List Nat
  /-- The bytes that have arrived: (position, byte). -/
  got    : List (Nat × Byte)
  mark   : Bool
  deriving DecidableEq, Repr

/-- A memory-class instruction in flight (R157, R163): its pieces, the requests still to be sent (in thread order, R307),
the lines whose reply is to come, and what it writes when all has arrived. -/
structure Access where
  /-- It maps a register or a pair of registers when it completes. -/
  writes : Bool
  /-- Vector destination, or uniform destination. -/
  vector : Bool
  d      : Nat
  pair   : Bool
  ty     : Ty
  /-- What inactive threads keep. -/
  old    : VReg
  old2   : VReg
  active : Half
  pieces : List Piece
  todo   : List MemReq
  wanting : List Nat
  /-- It changes memory: a later access of the strand to one of its lines waits. -/
  alters : Bool
  /-- Registers to free when it completes (R165). -/
  frees  : List Nat
  acquire : Bool
  /-- The view that was open when it was issued ends when it completes (R272). -/
  endsView : Bool
  deriving DecidableEq, Repr

/-- A store, atomic or signal that its home has not acknowledged (R323): its number, its line, and where its home lies:
0 on this module, 1 on a peer, 2 at the host. -/
structure Unacked where
  acc   : Nat
  line  : Nat
  reach : Nat
  deriving DecidableEq, Repr

/-- A batch a strand has closed: its number and the operations not yet complete (R220). -/
structure Batch where
  number : Nat
  ops    : List Nat
  deriving DecidableEq, Repr

/-- A strand. `core` numbers core strands 0-511 and sill strands 512 + the sill core. -/
structure Strand where
  core   : Nat
  slot   : Nat
  blk    : Nat
  sid    : Nat
  /-- The block's linear number and its number of strands, %bid and %nstr (R21). -/
  bid    : Nat
  nstr   : Nat
  sill   : Bool
  prio   : Nat
  -- uniform side (R3, R37, R70, R72)
  s      : Vector Word 64
  sm     : BitVec 64
  em     : Half
  pm     : Half
  uc     : Bool
  lr     : Word
  lc0    : Half
  lc1    : Half
  lh0    : Word
  lh1    : Word
  -- vector side (R53, R163, R168)
  v      : Vector (Option VReg) 64
  lat    : Vector VReg 4
  gens   : Vector Half 32
  ceil   : Nat
  -- status and trap state (R37, R245 to R248)
  fl       : Flags
  trapMode : Bool
  viewOn   : Bool
  joined   : Bool
  tpc    : Word
  tcause : BitVec 8
  taddr  : Word
  tem    : Half
  tfk    : Word
  suspended : Bool
  -- views and bundles (R271, R265)
  vstamp : Word
  vretry : Word
  vem    : Half
  bnd    : Half
  -- other control registers (R37)
  rnd    : Nat
  seed   : Half
  /-- The global number of thread 0, modulo 2^32, which seeds the generators (R53). -/
  gnum   : Nat
  ctxa   : Word
  ctxw   : BitVec 16
  batch  : Nat
  tvec   : Word
  win    : Vector (BitVec 16) 8
  -- sequencing
  cwin   : BitVec 16
  pc     : Word
  seq    : Word
  arrival : Arrival
  /-- The address formed lies outside the 64-bit range of the code window (R11). -/
  wild   : Bool
  undo   : Option Undo
  fork   : Fork
  pair   : PairPhase
  -- the chain in progress (R165, R169, R171): members executed so far, head, frees to come, whether the last member
  -- is of the vector class and flowed on sequentially
  chainPos   : Nat
  chainHead  : Word
  chainFrees : List Nat
  chainFlow  : Bool
  -- engines (R205, R220)
  h       : Vector Half 16
  pending : List Nat
  batches : List Batch
  -- instruction buffer (R159) and accesses in flight (R157)
  ibuf    : List BufLine
  flight  : Map Access
  unacked : List Unacked
  -- scheduling (R157, R158)
  wait    : Wait
  waits   : Nat
  lane    : Option Nat
  /-- The lane has taken the strand at an issue opportunity, and it has not issued since (R158). -/
  turn    : Bool
  yielded : Bool
  ended   : Bool
  asideMark : Bool
  preempt : Bool
  /-- The step since which it has waited for a physical register: the oldest goes on first (R167); 0 for none. -/
  regSince : Nat
  /-- Its trap followed consumed poison (R414). -/
  poisonTrap : Bool
  /-- The `pbar` that has arrived and still waits, by its address, with the phase of that arrival (R251), and the tag key and phase
  a plumb wait is for. -/
  pbarKept : Option (Word × Half)
  plumbAt  : Option (Nat × Half)
  /-- The selector of a `sleep` or `fnld` that waits, and the number of the timer that ends a `sleep` (R236, R238). -/
  pendNx   : Nx
  sleepId  : Nat
  /-- The trap in progress is a PREEMPT save entry (R253). -/
  saveEntry : Bool
  /-- The job that the waiting `hcancel` has asked to stop (R218), and the array operation that a synchronous form waits
  for (R186). -/
  cancelling : Option Nat
  asyncOp  : Option Nat
  /-- The completion words that have come for handles that the instruction waits for (R73, R217); and whether it is a card instruction
  that has read and checked its card, and waits (R203, R204). -/
  words    : List (Half × Half)
  carded   : Bool
  /-- At `bbar` (R144). -/
  barrier : Barrier
  /-- Peer pages that have been granted to the instruction that executes, each with the physical page there, and those that were refused
  (R457, R470). -/
  peerOk  : List (Nat × Nat)
  peerNo  : List Nat
  /-- An answer that a waiting instruction reads when it executes again: a peer's word (R146, R470). -/
  answer  : Option Nat
  /-- The number of the question that it awaits the answer to; 0 for none. -/
  ask     : Nat
  /-- Lines of the present view load that their homes have decided, and the address of what they are (R332). -/
  viewed  : List (Nat × Option (Line × Bool))
  /-- The offset of the page at which it last parked (R407). -/
  parkOff : Nat
  -- sill strands (R347, R357): the job, its grid, what `rsync` will answer, and the row instructions not yet complete
  job     : Nat
  grid    : Nat
  rowFlags : Nat
  rowMarks : Bool
  rowsOut : List Nat
  deriving DecidableEq, Repr

/-- s[n]. -/
def Strand.sreg (st : Strand) (n : Nat) : Word := st.s.toArray.getD n 0
/-- The poison mark of s[n] (R72). -/
def Strand.smark (st : Strand) (n : Nat) : Bool := st.sm.getLsbD n
/-- win[n]. -/
def Strand.window (st : Strand) (n : Nat) : BitVec 16 := st.win.toArray.getD n 0
/-- v[n], if it is allocated (R163). -/
def Strand.vreg (st : Strand) (n : Nat) : Option VReg := st.v.toArray.getD n none
/-- h[n]. -/
def Strand.handle (st : Strand) (n : Nat) : Half := st.h.toArray.getD n 0
/-- Latch b(n+1). -/
def Strand.latch (st : Strand) (n : Nat) : VReg := st.lat.toArray.getD n VReg.zero
/-- The generator state of thread t (R53). -/
def Strand.gen (st : Strand) (t : Nat) : Half := st.gens.toArray.getD t 0

/-- Write s[n] with its mark. -/
def Strand.setS (st : Strand) (n : Nat) (x : Word) (mark : Bool) : Strand :=
  { st with s := st.s.setIfInBounds n x, sm := BitVec.ofNat 64 (putBits st.sm.toNat n 1 (b2n mark)) }
/-- Map v[n]. -/
def Strand.setV (st : Strand) (n : Nat) (r : Option VReg) : Strand := { st with v := st.v.setIfInBounds n r }
/-- Write h[n]. -/
def Strand.setH (st : Strand) (n : Nat) (x : Half) : Strand := { st with h := st.h.setIfInBounds n x }
/-- Write win[n]. -/
def Strand.setWin (st : Strand) (n : Nat) (x : BitVec 16) : Strand := { st with win := st.win.setIfInBounds n x }

/-- `sts` as software reads it (R37). -/
def Strand.sts (st : Strand) : Word :=
  BitVec.ofNat 64 (st.fl.toNat + 256 * b2n st.trapMode + 512 * b2n st.viewOn + 1024 * b2n st.joined)

/-- The physical registers a strand holds: mapped ones and the fresh ones of its loads in flight (R163). -/
def Strand.physCount (st : Strand) : Nat :=
  (st.v.toList.filter Option.isSome).length
  + ((st.flight.map fun p => if p.2.vector then (if p.2.pair then 2 else 1) else 0).foldl (· + ·) 0)

/-- seed_state(g) (R53). -/
def seedState (seed : Half) (g : Nat) : Half :=
  let x := seed ^^^ BitVec.ofNat 32 ((g + 1) * 0x9E3779B9)
  if x = 0 then 0x6D2B79F5#32 else x

/-- One step of a thread's generator (R53): the draw is the new state. -/
def srNext (x : Half) : Half :=
  let y := x ^^^ (x <<< 13)
  let z := y ^^^ (y >>> 17)
  z ^^^ (z <<< 5)

/-- Seed the 32 generators of a strand whose thread 0 has global number `g` (R53, R54). -/
def seedAll (seed : Half) (g : Nat) : Vector Half 32 :=
  Vector.ofFn fun t => seedState seed ((g + t.val) % 2 ^ 32)

/-- A strand with every field at its launch value (R37, R162): what a launch fills in comes from the descriptor. The
latches, which no instruction can read before one has written them (R169), hold 0 (log 7). -/
def Strand.init : Strand :=
  { core := 0, slot := 0, blk := 0, sid := 0, bid := 0, nstr := 1, sill := false, prio := 0
    s := Vector.replicate 64 0, sm := 0, em := 0xFFFFFFFF#32, pm := 0xFFFFFFFF#32, uc := false, lr := 0
    lc0 := 0, lc1 := 0, lh0 := 0, lh1 := 0
    v := Vector.replicate 64 none, lat := Vector.replicate 4 VReg.zero, gens := Vector.replicate 32 0, ceil := 64
    fl := 0, trapMode := false, viewOn := false, joined := false
    tpc := 0, tcause := 0, taddr := 0, tem := 0, tfk := 0, suspended := false
    vstamp := 0, vretry := 0, vem := 0, bnd := 0
    rnd := 0, seed := 0, gnum := 0, ctxa := 0, ctxw := 0, batch := 0, tvec := 0, win := Vector.replicate 8 0
    cwin := 0, pc := 0, seq := 0, arrival := .sequential, wild := false, undo := none, fork := .empty, pair := .none
    chainPos := 0, chainHead := 0, chainFrees := [], chainFlow := false
    h := Vector.replicate 16 0, pending := [], batches := []
    ibuf := [], flight := [], unacked := []
    wait := .none, waits := 0, lane := none, turn := false, yielded := false, ended := false, asideMark := false, preempt := false, regSince := 0
    poisonTrap := false, pbarKept := none, plumbAt := none, pendNx := .next, sleepId := 0, saveEntry := false, cancelling := none, asyncOp := none, words := [], carded := false, barrier := .away, peerOk := [], peerNo := [], answer := none, ask := 0, viewed := [], parkOff := 0
    job := 0, grid := 0, rowFlags := 0, rowMarks := false, rowsOut := [] }

end Sys2Proof.Machine
end

