-- ==== Sys2Proof/Machine/Records.lean ====
section
/-!
DEFINITION. The records of the machine's units: caches and directories (R286 to R297), translations (R404), homes
(R320, R324), cores, blocks and grids (R161 to R175). Plain data.
-/
namespace Sys2Proof.Machine

/-- A word of a cache: 32 bytes, and whether they differ from the copy below (R287, R295). -/
structure CWord where
  data  : BitVec 256
  dirty : Bool
  deriving DecidableEq, Repr

/-- What an extent allocated under hint 0 remembers for the scribe (R292): of words that no access has touched yet, low lies above
high. -/
structure Learn where
  idx  : Nat
  w    : Nat
  low  : Nat
  high : Nat
  deriving DecidableEq, Repr

/-- An extent: words `lo` to `hi` of a frame, and when it was last touched; 0 makes it the coldest (R286, R290). -/
structure Extent where
  frame   : Nat
  lo      : Nat
  hi      : Nat
  touched : Nat
  learn   : Option Learn
  deriving DecidableEq, Repr

/-- The states of an L1 line that holds words; a line without a state is I (R294). -/
inductive Moesi where
  | s | e | o | m
  deriving DecidableEq, Repr

/-- An L1 line state, with the poison mark (R294, R413). -/
structure L1Line where
  st   : Moesi
  mark : Bool
  deriving DecidableEq, Repr

/-- A remote agent of a line: device, cluster, incarnation (R295); the core that asked, and the line by the name it asked
under. Core 1,023 stands for the whole module, once the domain bit is set. -/
structure Remote where
  dev     : Nat
  cluster : Nat
  incarn  : Nat
  core    : Nat
  name    : Nat
  deriving DecidableEq, Repr

/-- A home line state: the directory entry of a line (R295), with the line's poison mark. `incarns` records the
incarnation of each cluster at which a sharer or the owner was recorded (R417). An owner on another module has a number
from 1,024 up (`remoteCore`). `domain`: a fifth remote agent has asked, and every module of the domain is recorded. -/
structure DirLine where
  owner    : Option Nat
  sharers  : List Nat
  clusters : BitVec 64
  remotes  : List Remote
  domain   : Bool
  bounce   : Nat
  lastFar  : Option Nat
  lastOwner : Option Nat
  incarns  : Map Nat
  mark     : Bool
  deriving DecidableEq, Repr

/-- A new directory entry (R302). -/
def DirLine.new : DirLine := ⟨none, [], 0, [], false, 0, none, none, [], false⟩

/-- A cache: extents, the words they cover by word address, and line states by line address; `tick` orders touches. -/
structure Cache (α : Type) where
  extents : List Extent
  words   : Map CWord
  lines   : Map α
  tick    : Nat
  deriving DecidableEq, Repr

/-- An empty cache. -/
def Cache.empty {α : Type} : Cache α := ⟨[], [], [], 0⟩

/-- A scribe entry (R292). -/
structure ScribeEntry where
  conf : Nat
  lo   : Int
  hi   : Int
  deriving DecidableEq, Repr

/-- A translation of one 64-KiB page for one function (R404): the stage-1 leaf bits, the stage-2 leaf bits or the ATS
result, and where the page lies as a global address. `gpa` is the stage-2 page it used. -/
structure Leaf where
  tgt  : Nat
  dev  : Nat
  kind : Nat
  bun  : Bool
  r    : Bool
  w    : Bool
  x    : Bool
  r2   : Bool
  w2   : Bool
  x2   : Bool
  d2   : Bool
  gpa  : Nat
  base : Nat
  deriving DecidableEq, Repr

/-- A TLB entry: function, PASID for host pages, virtual page, and the stage-2 pages its tables and data used. -/
structure TlbEntry where
  fn    : Nat
  pasid : Nat
  page  : Nat
  via   : List Nat
  leaf  : Leaf
  deriving DecidableEq, Repr

/-- A store in an open combine window (R320, R321). -/
structure WinStore where
  rank  : Nat
  core  : Nat
  agent : Agent
  acc   : Nat
  grid  : Nat
  bytes : List (Nat × Byte)
  mark  : Bool
  deriving DecidableEq, Repr

/-- An open combine window of a line: its number, which its timer names, and its stores in order of arrival. -/
structure Window where
  number : Nat
  stores : List WinStore
  deriving DecidableEq, Repr

/-- What a home does once the acknowledgements it waits for have come (R297). -/
inductive HomeDone where
  /-- Grant ownership to the requester (R296). -/
  | grant (r : MemReq)
  /-- Perform a far atomic or signal (R302, R145). -/
  | far (r : MemReq)
  /-- Acknowledge the stores of a closed window (R323). -/
  | ackStores (l : List (Agent × Nat × Nat))
  /-- Release the line's state (R291). -/
  | release
  /-- Answer a load with the words that the owner, on a peer, has sent (R296). -/
  | forward (r : MemReq)
  /-- Perform a signal and acknowledge it (R145). -/
  | signal (r : MemReq)
  /-- Nothing more: a recall before a store joins its window, or of a bias flip (R294, R454). -/
  | recalled
  deriving DecidableEq, Repr

/-- What the machine sends to the outside: to the host, to peers, to the management port. -/
inductive Output where
  /-- A request to a peer's home (R457), and a question whether a page may be used. -/
  | peer (dev domain : Nat) (r : MemReq)
  | peerPage (dev domain strand page : Nat) (write : Bool)
  /-- A vendor-defined message to a peer: the event that it brings about there, with the sender's stamp in it (R334). -/
  | message (dev : Nat) (e : Event)
  /-- The answer to a peer's request (R457, R470), or what a home has decided of its view load (R332, R334): from a home, or the hub. -/
  | answer (dev home : Nat) (a : PeerAnswer)
  /-- The answer to a host's CXL.mem read, from a home or the hub, poisoned or not (R453), and to a CXL.cache snoop (R301). -/
  | hostData (home tag : Nat) (data : BitVec 512) (poison : Bool)
  | snoopData (line : Nat) (data : Option Line)
  /-- A back-invalidate snoop of a line (R454, R455). -/
  | snoop (line : Nat)
  /-- The answer to an ATS Invalidate Request (R406). -/
  | atsDone (pasid page pages : Nat)
  /-- An SPDM or TDISP answer of a function: the request's code, what the spec puts into it, and the rest (R382 to R385). -/
  | secure (fn code : Nat) (known : List Nat) (rest : Nat)
  /-- A device interface report (R385): what it lists of a function: its parcels with their KGEN, its slices, its meter words. -/
  | report (fn : Nat) (parcels : List (Nat × Nat)) (slices : List Nat) (meters : List (Nat × Nat))
  /-- An interrupt write (R452). -/
  | interrupt (fn index addr data : Nat)
  deriving DecidableEq, Repr

/-- A Traverse record that a unit emits (R338, R339): the partition it belongs to, the unit as DIE, UCLASS and UINDEX in
bits [79:64], the code, the payload, the 96 further bits of a two-record event, the stamp, and the strand that emits
it, if one does. -/
structure TraceRec where
  fn      : Nat
  src     : Nat
  code    : Nat
  payload : Nat
  more    : Option Nat
  stamp   : Nat
  strand  : Option Nat
  deriving DecidableEq, Repr

/-- The token bucket of one direction of a link for a function (R390): its level and when it was filled, and whether METER LIMIT has
been written for it. -/
structure Bucket where
  level  : Int
  filled : Nat
  noted  : Bool
  deriving DecidableEq, Repr

/-- What a message on a link is: it brings about an event, or it leaves the module. -/
inductive Cargo where
  | event (e : Event)
  | output (o : Output)
  deriving DecidableEq, Repr

/-- A message that waits at a link for tokens of its function (R390): the hops it has still to take, each with the bytes of its flits,
and when it was sent. -/
structure Waiting where
  fn    : Nat
  hops  : List (Nat × Nat)
  sent  : Nat
  cargo : Cargo
  deriving DecidableEq, Repr

/-- A line that a home is busy with: acknowledgements still to come, what follows, and the requests held meanwhile in
arrival order (R297). -/
structure HomeTx where
  need    : Nat
  done    : HomeDone
  waiters : List Event
  deriving DecidableEq, Repr

/-- A strand that waits on a word of a line (R146). -/
structure Watcher where
  line   : Nat
  strand : Nat
  deriving DecidableEq, Repr

/-- A core's function table (R235): entry i of bank b holds V at 512b + 2i and G at 512b + 2i + 1, +0 where nothing is
listed; the active bank, the block that owns it, the strand whose `fnld` is writing, and the `fnld` in order of issue. -/
structure FnTable where
  entries : Map Half
  active  : Nat
  owner   : Option Nat
  writing : Option Nat
  waiting : List Nat
  deriving DecidableEq, Repr

/-- A tile slot (R181, R183): the block that holds it, its 128 lines and their marks, and the FAULT bit and cause of its
status (R192). -/
structure Slot where
  owner : Option Nat
  lines : Vector Line 128
  marks : BitVec 128
  fault : Bool
  cause : Nat
  deriving DecidableEq, Repr

/-- A slot that no block holds, and what an acquired one reads as (R183). -/
def Slot.free : Slot := ⟨none, Vector.replicate 128 0, 0, false, 0⟩

/-- An accumulator (R182): FP32 elements by row, the running maxima and sums, their marks, the sticky flags, and the
status. -/
structure Acc where
  owner : Option Nat
  c     : Vector (Vector Half 128) 128
  cm    : Vector (BitVec 128) 128
  mx    : Vector Half 128
  sm    : Vector Half 128
  mxm   : BitVec 128
  smm   : BitVec 128
  flags : Flags
  fault : Bool
  cause : Nat
  /-- A subnormal assist is outstanding (R201). -/
  assist : Bool
  deriving DecidableEq, Repr

/-- A free accumulator, and what an acquired one reads as: MX is −∞ (R183). -/
def Acc.free : Acc :=
  { owner := none, c := Vector.replicate 128 (Vector.replicate 128 0), cm := Vector.replicate 128 0
    mx := Vector.replicate 128 0xFF800000#32, sm := Vector.replicate 128 0, mxm := 0, smm := 0, flags := 0
    fault := false, cause := 0, assist := false }

/-- What an engine has had from peers for its present step: the lines read, the lines whose store has been acknowledged,
whether an answer is awaited, and whether one was a refusal (R457, R470); and the offset at which it last parked (R407). -/
structure Port where
  waiting : Bool
  reads   : List (Nat × Line × Bool)
  stored  : List Nat
  refused : Bool
  off     : Nat
  deriving DecidableEq, Repr

/-- No dealings with peers. -/
def Port.idle : Port := ⟨false, [], [], false, 0⟩

/-- One operand of a format block (R62): element kind (0 narrow, 1 BF16, 2 FP16), its format register's value at issue,
block length (0 none), scale format, base and stride of the scales. -/
structure Desc where
  kind   : Nat
  fmt    : Half
  len    : Nat
  sf     : Nat
  base   : Nat
  stride : Nat
  deriving DecidableEq, Repr

/-- A format block as an operation read it at issue (R62, R191). -/
structure FmtBlock where
  a    : Desc
  b    : Desc
  /-- The result format: 0 FP32, 1 BF16, 2 FP16, 3 narrow with `outFmt`. -/
  out  : Nat
  outFmt : Half
  ats  : Half
  bts  : Half
  mark : Bool
  deriving DecidableEq, Repr

/-- Rows of a tile or read-out in memory: row r starts at base + r × stride and is `len` bytes long. The stride has a sign
(R132). -/
structure Rows where
  base   : Nat
  stride : Int
  len    : Nat
  deriving DecidableEq, Repr

/-- What an array operation does (R193 to R199). -/
inductive ArrayWork where
  /-- `tld` or `tst`: `kind` 0 narrow, otherwise 16-bit; W; `.tr`; the slot. -/
  | tile (load : Bool) (kind w : Nat) (tr : Bool) (slot : Nat) (rows : Rows)
  | mma (fb : FmtBlock) (ta tb acc : Nat) (ovr : Bool)
  | mmas (tp sa ob : Nat) (c : Half)
  | azero (acc : Nat)
  /-- `ard`: to the scratchpad with `.sp`. -/
  | ard (acc : Nat) (fb : FmtBlock) (norm sp : Bool) (rows : Rows)
  /-- `asave`, `aload` of an accumulator; `tsave`, `tload` of a slot. -/
  | image (load acc : Bool) (n base : Nat)
  deriving DecidableEq, Repr

/-- How far an array operation is (R186, R188, R201). -/
inductive ArrayPhase where
  | queued | running
  /-- It waits on a page as a replayable fault. -/
  | parked
  /-- Groups from this one on are left to the control core. -/
  | assist (group : Nat)
  /-- Its work is done, and it occupies the array until its cycles have passed (R196). -/
  | finished
  /-- They have passed, and stores of its own are still to be acknowledged (R317, R323). -/
  | settling
  deriving DecidableEq, Repr

/-- An array operation in its core's queue (R186). It leaves the table when it completes. -/
structure ArrayOp where
  code   : Nat
  /-- The item code of its D (R28). -/
  item   : Nat
  core   : Nat
  blk    : Nat
  grid   : Nat
  strand : Nat
  slots  : Nat
  accs   : Nat
  win    : Nat
  work   : ArrayWork
  /-- The strand waits for it (R186). -/
  sync   : Bool
  /-- The `cpym` whose follow-on it is (R212). -/
  job    : Option Nat
  /-- Jobs that write a slot it names, issued earlier (R187). -/
  edges  : List Nat
  phase  : ArrayPhase
  /-- Rows done, slot lines that have received poisoned data (as a mask), and how it ended otherwise than well. -/
  pos    : Nat
  seen   : Nat
  /-- What the control core will write into the accumulator when its assist ends (R201). -/
  rest   : Option Acc
  failed : Option (Nat × Nat)
  port   : Port
  /-- Its stores that are not acknowledged. -/
  acks   : Nat
  deriving DecidableEq, Repr

/-- A region of a job card (R203): `space` 0 global, 1 scratchpad, 2 slot. The row footprint of an asynchronous tile
operation has several rows. -/
structure Region where
  space  : Nat
  base   : Nat
  len    : Nat
  win    : Nat
  rd     : Bool
  wr     : Bool
  rows   : Nat
  stride : Int
  deriving DecidableEq, Repr

/-- What a job does (R211 to R216, R193, R269). -/
inductive JobWork where
  | copy (rows run sstr dstr : Nat)
  | index (scatter : Bool) (count esize : Nat) (wide : Bool) (tbase : Nat)
  | sill (entry : Word) (cwin : BitVec 16) (nstr slice : Nat) (args : List Word) (wins : Vector (BitVec 16) 8)
  | coll (kind op : Nat) (ty : Ty) (count npart rank : Nat) (name : Word)
  | code (bases : List Word)
  | tile (load : Bool) (kind w : Nat) (tr : Bool) (slot : Nat) (rows : Rows) (win : Nat)
  /-- A joiner's close of a bundle. -/
  | close (bundle : Half)
  deriving DecidableEq, Repr

/-- What an array operation of a strand is to do, with the items it names and whether it reads or writes memory; all its
checks have been made (R186). -/
structure Prepared where
  slots : Nat
  accs  : Nat
  work  : ArrayWork
  deriving DecidableEq, Repr

/-- A card that has been read and checked (R203, R204): its regions, its work, and its follow-on with the code and the item (R212). -/
structure CardRead where
  regions : List (Option Region)
  work    : JobWork
  follow  : Option (Nat × Nat × Prepared)
  deriving DecidableEq, Repr

/-- How far a job is (R204, R208, R210, R212, R215). -/
inductive JobPhase where
  | waiting | running
  /-- It waits on a page as a replayable fault. -/
  | parked
  /-- A `cpym` whose copy has landed, or a collective's card that the hub has gathered. -/
  | landed
  /-- It has come to its end: status, and the cause of FAULTED. -/
  | ended (status cause : Nat)
  deriving DecidableEq, Repr

/-- A job (R202 to R222). It leaves the table when it completes. -/
structure Job where
  code    : Nat
  handle  : Half
  blk     : Nat
  grid    : Nat
  strand  : Nat
  core    : Nat
  work    : JobWork
  /-- The four regions of the card, by position. -/
  regions : List (Option Region)
  /-- Jobs and array operations that it waits for (R187, R208). -/
  edges   : List Nat
  follow  : Option Nat
  phase   : JobPhase
  cancel  : Bool
  /-- Rows, elements or lines done, bytes done of the present row, bytes written. -/
  pos     : Nat
  sub     : Nat
  moved   : Nat
  /-- What a code load has read (its records, its image) or a collective's hub has read or is to write, with the poison marks; and
  of a tile move the slot lines that received poisoned data, of a code load the lines it has written. -/
  elems   : List (Nat × Bool)
  buf     : List Nat
  port    : Port
  /-- The sill strands it has started (R214). -/
  sill    : List Nat
  /-- The request packet whose job it is (R450). -/
  packet  : Option Nat
  /-- Its stores that are not acknowledged (R317, R323). -/
  acks    : Nat
  deriving DecidableEq, Repr

/-- A BSU (R350): row registers of eight lines with their marks, the vector buffer of 64 lines with a mark for each, the
accumulators with theirs, the flags, and the counts of rows decrypted, lines checked, tag mismatches and rows
encrypted. -/
structure Bsu where
  rw    : Vector (Vector Line 8) 8
  rwm   : Vector (BitVec 8) 8
  vb    : Vector Line 64
  vbm   : BitVec 64
  ba    : Vector Half 64
  bam   : BitVec 64
  flags : Flags
  counts : Nat × Nat × Nat × Nat
  deriving DecidableEq, Repr

/-- A BSU after its slice has been re-keyed (R350). -/
def Bsu.zero : Bsu :=
  { rw := Vector.replicate 8 (Vector.replicate 8 0), rwm := Vector.replicate 8 0, vb := Vector.replicate 64 0, vbm := 0
    ba := Vector.replicate 64 0, bam := 0, flags := 0, counts := (0, 0, 0, 0) }

/-- A row instruction that the BSUs of its mask have accepted (R353, R356): who issued it, where, the BSUs that have yet to
perform it, its selector and operand, the first byte of its stripe, the pieces of its address, what it has raised, and the
stores not yet acknowledged. It leaves the table when it completes. -/
structure RowOp where
  op     : Nat
  strand : Nat
  fn     : Nat
  grid   : Nat
  core   : Nat
  home   : Nat
  slice  : Nat
  mask   : Nat
  todo   : Nat
  ty     : Ty
  f0     : Bool
  sel    : Nat
  arg    : Word
  stripe : Nat
  parts  : List (Nat × Nat)
  flags  : Flags
  marked : Bool
  acks   : Nat
  port   : Port
  data   : List (Line × Bool)
  deriving DecidableEq, Repr

/-- The state of a bundle's record (R325): COMMITTED with the stamp, ABORTED with the time. -/
inductive BundleState where
  | opened
  | committed (stamp : Nat)
  | aborted (since : Nat)
  deriving DecidableEq, Repr

/-- A bundle's record (R324), or what another module keeps of one that it joins or holds lines of. `block` names the restartable block
whose implicit bundle it is; `gone` counts joiners that have left otherwise than by a close; `latest` is the latest install stamp;
`lines` the lines it holds, each as its device and its physical line; `away` the devices of joiners on other modules, and `left` those
of them that have closed or left; `waits` the companion homes that have yet to acknowledge, as 128·device + home; `asked` the strands
that wait in `bjoin` for a place (R267); `retried` says that a `bopen.retry` has named it (R326). -/
structure Bundle where
  handle  : Half
  name    : Nat
  fn      : Nat
  block   : Option Nat
  need    : Nat
  joins   : Nat
  closes  : Nat
  gone    : Nat
  st      : BundleState
  stamp   : Nat
  latest  : Nat
  lines   : List (Nat × Nat)
  away    : List Nat
  left    : List Nat
  waits   : List Nat
  asked   : List Asker
  retried : Bool
  deriving DecidableEq, Repr

/-- The second version of a line (R327). -/
inductive Version where
  | previous (data : Line) (mark : Bool) (stamp since : Nat)
  | pending (data : Line) (mask : BitVec 128) (mark : Bool) (bundle : Half) (age installed : Nat)
  deriving DecidableEq, Repr

/-- The versions of a line (R327): the stamp of the current one, which memory and the caches hold, and the second. -/
structure Versions where
  stamp  : Nat
  second : Option Version
  deriving DecidableEq, Repr


/-- The units of a core: its retired lanes, the L1, the scribe, the L1 TLB and the function table, the slots and accumulators. Which strand a lane
holds stands with the strand. -/
structure Core where
  /-- Lanes that a self-check has retired (R261). -/
  retired : List Nat
  l1      : Cache L1Line
  scribe  : Map ScribeEntry
  tlb     : List TlbEntry
  table   : FnTable
  slots   : Map Slot
  accs    : Map Acc
  /-- The instruction cache: lines of 64 B by global address, oldest first (R2, R216). -/
  icache  : List (Nat × BitVec 512)
  /-- Lines that the L1 has written back and whose home has not acknowledged it (R297). -/
  writebacks : List Nat
  /-- Stores of strands that have left the core, not yet acknowledged (R298, R323). -/
  orphans : List Unacked
  deriving DecidableEq, Repr

/-- A core that holds nothing. -/
def Core.idle : Core := ⟨[], .empty, [], [], ⟨[], 0, none, none, []⟩, [], [], [], [], []⟩

/-- A home: the L2 slice with its directory, the combine windows, the lines it is busy with and the strands that watch
its words. -/
structure Home where
  l2       : Cache DirLine
  windows  : Map Window
  nextWin  : Nat
  busy     : Map HomeTx
  watchers : List Watcher
  deriving DecidableEq, Repr

/-- A home with an empty L2. -/
def Home.empty : Home := ⟨.empty, [], 0, [], []⟩

/-- An entry of a block's handle table (R205): the issue count that names it, its job, its completion word once the job
has completed, and the order of issue. -/
structure HandleEntry where
  seq   : Nat
  job   : Nat
  done  : Option Half
  order : Nat
  deriving DecidableEq, Repr

/-- An entry of a function's interrupt-remapping table (R452); `why` is the payload of the record of an interrupt that is
pending. -/
structure IntrEntry where
  addr  : Nat
  data  : Nat
  valid : Bool
  mask  : Bool
  pend  : Bool
  why   : Nat
  deriving DecidableEq, Repr

/-- An entry at reset (R452). -/
def IntrEntry.reset : IntrEntry := ⟨0, 0, false, false, false, 0⟩

/-- What holds an AQI (R418, R419, R448): a packet that has been started, or a page that is not usable, until a REPLAY: that of
the ring, or that of a packet's descriptor. -/
inductive Hold where
  | none
  | packet (k : Nat)
  | replay (k : Option Nat)
  deriving DecidableEq, Repr

/-- An AQI (R444 to R446): its binding, its configuration, its ring's indices, the interrupt entry it is armed with, and the
strands that its launches may still bind in this round (R424). -/
structure Aqi where
  valid   : Bool
  revoked : Bool
  pasid   : Nat
  rbase   : Nat
  log2d   : Nat
  en      : Bool
  head    : Nat
  tail    : Nat
  armed   : Option Nat
  paused  : Bool
  errcnt  : Nat
  hold    : Hold
  deficit : Nat
  deriving DecidableEq, Repr

/-- An AQI at reset (R444, R445). -/
def Aqi.reset : Aqi :=
  { valid := false, revoked := false, pasid := 0, rbase := 0, log2d := 6, en := false, head := 0, tail := 0
    armed := none, paused := false, errcnt := 0, hold := .none, deficit := 0 }

/-- A bind record (R427): the block's grid and number, the effective priority at binding, the order of binding, and, for a
block that was set aside, its key. -/
structure Bind where
  grid   : Nat
  bid    : Nat
  prio   : Nat
  order  : Nat
  resume : Option Nat
  deriving DecidableEq, Repr

/-- The TDISP states of an interface (R385). -/
inductive Tdisp where
  | unlocked | locked | run | error
  deriving DecidableEq, Repr

/-- An SPDM connection (R382): nothing negotiated, the version, the capabilities, the algorithms, a key exchange begun. -/
inductive Spdm where
  | start | version | capabilities | algorithms | handshake
  deriving DecidableEq, Repr

/-- A page to move (R378): the leaf entry's global address, the GPA that it maps, the old page and the new one, over 65,536. -/
structure Remap where
  leaf  : Nat
  gpa   : Nat
  old   : Nat
  new   : Nat
  deriving DecidableEq, Repr

/-- How far a RESIZE or MIGRATE is (R380). -/
inductive MovePhase where
  /-- The blocks of the parcels to leave run to their end. -/
  | drain
  /-- Rounds of copying: the number of this one, and the rows to be copied in it. -/
  | copy (round : Nat) (todo : List Nat)
  /-- The old pages' requests come to rest, and then the leaves are written. -/
  | switch
  /-- The pages have been switched, and the parcels that leave are erased. -/
  | erase
  deriving DecidableEq, Repr

/-- A RESIZE or MIGRATE under way (R380): its packet, the parcels to remove, the pages to move, and the rows of old pages
written since they were copied. -/
structure Move where
  packet : Nat
  fn     : Nat
  remove : List Nat
  pages  : List Remap
  dirty  : List Nat
  phase  : MovePhase
  deriving DecidableEq, Repr

/-- A bias flip of a 4-KiB page (R454 to R456): the direction, the lines whose copies or snoops are still to come, and who
waits: a packet, or a strand of `cbias`. -/
structure Flip where
  toHost : Bool
  waits  : List Nat
  packet : Option Nat
  strand : Option Nat
  deriving DecidableEq, Repr

/-- What a parcel is doing (R364). -/
inductive ParcelState where
  | free | erasing | assigned | adding | leaving | migrating | faulty
  deriving DecidableEq, Repr

/-- A plat entry (R364). -/
structure PlatEntry where
  kgen     : Nat
  pidx     : Nat
  lock     : Bool
  degraded : Bool
  state    : ParcelState
  owner    : Nat
  /-- A unit of it has failed, so that it is FAULTY when it has been scrubbed (R376, R417). -/
  bad      : Bool
  /-- The BSUs of its two slices that have failed, as a mask of 32 (R376, R392). -/
  badBsus  : Nat
  deriving DecidableEq, Repr

/-- A plat entry at reset (R364): STATE ERASING. -/
def PlatEntry.reset : PlatEntry := ⟨0, 0, false, false, .erasing, 0, false, 0⟩

/-- A staged fault request (R408): the page it names, what its record will hold. `gpa` is the page's GPA, or for a host
page the untranslated address. -/
structure FaultEntry where
  fn     : Nat
  win    : Nat
  offset : Nat
  gpa    : Nat
  kind   : Nat
  flags  : Nat
  pidx   : Nat
  pasid  : Nat
  count  : Nat
  deriving DecidableEq, Repr

/-- A cluster: the L2 TLB (R404), the staging buffer with DROPPED (R408), the incarnation (R417), whether its cores are
stopped (R434), and retired lanes are known by the cores. -/
structure Cluster where
  tlb     : List TlbEntry
  staged  : List FaultEntry
  dropped : Bool
  incarn  : Nat
  idle    : Bool
  /-- When it last became without work, and whether a timer will look at it (R434). -/
  quiet   : Nat
  timer   : Bool
  /-- The functions of which records have been written since the staging buffer was last empty (R409). -/
  wrote   : List Nat
  deriving DecidableEq, Repr

/-- A cluster at reset: nothing cached, nothing staged, incarnation 0 (log 7), stopped until it is woken (R465). -/
def Cluster.reset : Cluster := ⟨[], [], false, 0, true, 0, false, []⟩

/-- A trace ring (R341): its window, offset and log2 of its places, what the 9600 has written and lost, the stall time, and
the events accepted that are still to be written, oldest first, each as its records. -/
structure Ring where
  win     : Nat
  pasid   : Nat
  off     : Nat
  logN    : Nat
  wr      : Nat
  drops   : Nat
  stallNs : Nat
  rd      : Nat
  todo    : List (List Nat)
  /-- Emitters that have lost records since their last DROPS, with how many and whether since their last record here, and those that
  have stalled since their last record here (R338, R340). An emitter is its unit, beside the partition. -/
  lost    : List (Nat × Nat × Bool)
  stalled : List Nat
  /-- DROPS and STALLNS as the header holds them. -/
  shown   : Nat × Nat
  deriving DecidableEq, Repr

/-- An emitter that lossless tracing has stalled (R344), or a request held behind one: the partition, the emitter unless it is
only held, the places that its step's records take, since when, and the event that comes again or the strand that goes on. -/
structure Stall where
  fn     : Nat
  src    : Option Nat
  need   : Nat
  since  : Nat
  event  : Option Event
  strand : Option Nat
  deriving DecidableEq, Repr

/-- A function's registers that software reaches (R313, R399, R405, R409, R412, R415), and what the 9600 keeps for
them. -/
structure Fn where
  s1root   : Nat
  s2root   : Nat
  /-- SCOPEPOL and CSCOUNT (R313). -/
  capFault : Bool
  cap      : Nat
  capCount : Nat
  /-- The stage-1 invalidation register: what was written, and DONE (R405). -/
  s1inv    : Nat
  s1done   : Bool
  /-- Names given before the operation under way. -/
  s1mark   : Nat
  /-- ERRSTAT (R415). -/
  err      : Bool
  errClass : Nat
  errCause : Nat
  shared   : Bool
  /-- The fault ring (R409): base, EN, ARM, IRQ, and whether a record has been written since the last interrupt. -/
  frBase   : Nat
  frEn     : Bool
  frArm    : Bool
  frIrq    : Nat
  frSince  : Bool
  frTimer  : Nat
  /-- The dirty-hint log (R412). -/
  dhBase   : Nat
  dhEn     : Bool
  dhOvf    : Bool
  /-- DOMAIN (R444). -/
  domain   : Nat
  /-- The trace control word (R275), the filter word (R342), the ring, and the launch that is exempt from stalls (R346). -/
  trcw     : Nat
  trfilt   : Nat
  ring     : Option Ring
  exempt   : Nat
  -- registers of the host port (R421, R422, R443, R444, R449, R452): AQIs, context pool, scheduling policy, packet meter
  -- with its bucket (in 1/16,000,000 of a packet) and the time of its last filling, error log, interrupt entries, the HDM
  -- range, and the writes ignored without a counter of their own
  naqi     : Nat
  ctxOff   : Nat
  ctxWin   : Nat
  ctxLen   : Nat
  schpol   : Nat
  pktmtr   : Nat
  bucket   : Int
  filled   : Nat
  errLog   : Map Nat
  errWr    : Nat
  intr     : Map IntrEntry
  hdmBase  : Nat
  hdmSize  : Nat
  ignored  : Nat
  -- meters (R389), security (R382, R385, R386): the connection, the number of the session that is open or 0, how many there have
  -- been, the session in which the interface was locked, the interface's state, the amendment held by its fields, and the count of
  -- amendments
  meters   : Map Nat
  spdm     : Spdm
  session  : Nat
  sessions : Nat
  lockedBy : Nat
  tdisp    : Tdisp
  amend    : Option Amendment
  amendments : Nat
  -- the launch sequence number given last (R420), and the AQI whose turn it is to bind (R424)
  seq      : Nat
  turn     : Nat
  deriving DecidableEq, Repr

/-- A function's registers at reset, for the PF or a VF: those the spec gives a value hold it; S1ROOT, S2ROOT and the
bases of the fault block hold 0 (log 7). -/
def Fn.reset (pf : Bool) : Fn :=
  { s1root := 0, s2root := 0, capFault := false, cap := if pf then 9 else 7, capCount := 0
    s1inv := 0, s1done := true, s1mark := 0, err := false, errClass := 0, errCause := 0, shared := false
    frBase := 0, frEn := false, frArm := false, frIrq := 0, frSince := false, frTimer := 0
    dhBase := 0, dhEn := false, dhOvf := false, domain := 0, trcw := 0, trfilt := 0xFFFF, ring := none, exempt := 0
    naqi := 0, ctxOff := 0, ctxWin := 0, ctxLen := 0, schpol := 0x0A012010, pktmtr := 0, bucket := 16000000, filled := 0
    errLog := [], errWr := 0, intr := [], hdmBase := 0, hdmSize := 0, ignored := 0, meters := [], spdm := .start
    session := 0, sessions := 0, lockedBy := 0, tdisp := .unlocked, amend := none, amendments := 0, seq := 0, turn := 0 }

/-- How far a block is in its life (R175, R253, R259, R414). -/
inductive BlockPhase where
  | resident
  /-- PREEMPT has been requested of its strands (R252). -/
  | leaving
  /-- Set aside: it has left its core (R254). -/
  | aside
  /-- Killed, with the cause reported and whether it is to be relaunched (R414); its operations in progress end (R259). -/
  | killed (cause : Nat) (again : Bool)
  deriving DecidableEq, Repr

/-- A resident or set-aside block. -/
structure Block where
  grid    : Nat
  bid     : Nat
  core    : Nat
  nstr    : Nat
  strands : List Nat
  phase   : BlockPhase
  /-- The number of launches, the present one included (R414). -/
  launches : Nat
  /-- Its scratchpad: size, bytes (those not listed are 0) and poisoned 128-B lines (R283). -/
  scratchSize : Nat
  scratch : List Host.Cell
  scratchMarks : List Nat
  fmt     : Vector Half 16
  /-- Physical registers reserved for it (R166). -/
  reserved : Nat
  /-- The handle of its open implicit bundle, 0 for none (R273), and the open stamp that the next one keeps (R335). -/
  bundle  : Half
  keepStamp : Option Nat
  /-- The strand priority (R425), the order of admission, and the strands as they were kept when the block left (R255). -/
  prio    : Nat
  admitted : Nat
  saved   : List Strand
  /-- It was pre-empted for the register pool, and is readmitted with its full reservation (R167); when it was requested to leave, the
  time since then that the save limit does not count, and since when more of it runs (R258). -/
  full    : Bool
  asked   : Nat
  credit  : Nat
  holdFrom : Option Nat
  /-- The strands that had ended by themselves when the block was killed to be relaunched (R229). -/
  endedSids : List Nat
  /-- The handle table (R205), the 16-bit issue count, and how many jobs have been issued in all. -/
  handles : Map HandleEntry
  issues  : Nat
  order   : Nat
  deriving DecidableEq, Repr

/-- A block's record before anything has been given to it; a name that no block has reads as this. -/
def Block.absent : Block :=
  { grid := 0, bid := 0, core := 0, nstr := 1, strands := [], phase := .resident, launches := 0
    scratchSize := 0, scratch := [], scratchMarks := [], fmt := Vector.replicate 16 0, reserved := 0, bundle := 0, keepStamp := none
    prio := 0, admitted := 0, saved := [], full := false, asked := 0, credit := 0, holdFrom := none, endedSids := []
    handles := [], issues := 0, order := 0 }

/-- A packet that has been started (R445, R450): a launched grid, with what its descriptor and packet give (R44, R161), or a
packet of another type, for which only the fields of its record and its counters are used. -/
structure Grid where
  fn      : Nat
  seqNo   : Nat
  dims    : Nat × Nat × Nat
  strands : Nat
  cgroup  : Nat
  sgroup  : Nat
  plumb   : Nat
  cooperative : Bool
  restartable : Bool
  overcommit  : Bool
  fntable     : Bool
  pasid   : Nat
  /-- The outstanding counters, by core (R432). -/
  counts  : Map Nat
  /-- Arrival counts of the plumb network, by block, strand, tag and level (R226, R229), without wrapping; and how many phases had
  completed when a block of a group was killed to be relaunched, by the group's first block, tag and level. -/
  arrivals : Map Nat
  phases   : Map Nat
  /-- Blocks that have retired, or were killed and not relaunched. -/
  doneBids : List Nat
  -- the packet (R445, R447): its type, its AQI, HEAD before it, the packet itself, where its record goes, its interrupt
  kind    : Nat
  aqi     : Nat
  head    : Nat
  body    : Nat
  norec   : Bool
  noint   : Bool
  irq     : Nat
  recWin  : Nat
  recOff  : Nat
  -- what a block starts with (R44, R161, R162, R421)
  vregs   : Nat
  scratch : Nat
  entry   : Word
  handler : Word
  cwin    : BitVec 16
  context : Nat
  ctxOff  : Nat
  ctxWin  : Nat
  seed    : Half
  wins    : Vector (BitVec 16) 8
  args    : List Word
  -- binding (R424 to R431): the packet's priority, the age in ms, when it last bound, the lowest number not bound, numbers
  -- that have come back unbound, since when its next group has found no room, the launch for which it stands back, and the
  -- clusters it is drained from, each with that launch or 0
  prio    : Nat
  age     : Nat
  lastBind : Nat
  nextBid : Nat
  returned : List Nat
  waiting : Option Nat
  standBack : Option Nat
  drained : List (Nat × Nat)
  -- its end (R432, R433): blocks retired, blocks killed, the cause of the first kill, how a packet ended, and whether its
  -- record has been dealt with
  retired : Nat
  killed  : Nat
  cause   : Nat
  result  : Option (Nat × Nat)
  ended   : Option Nat
  port    : Port
  isOver    : Bool
  /-- Of a packet: 0 until it is started, then how far it is; pages still to flip, or what it waits for. -/
  step    : Nat
  work    : List Nat
  deriving DecidableEq, Repr

/-- A name that no grid has reads as this. -/
def Grid.absent : Grid :=
  { fn := 0, seqNo := 0, dims := (1, 1, 1), strands := 1, cgroup := 1, sgroup := 1, plumb := 0, cooperative := false
    restartable := false, overcommit := false, fntable := false, pasid := 0, counts := [], arrivals := [], phases := [], doneBids := []
    kind := 1, aqi := 0, head := 0, body := 0, norec := false, noint := false, irq := 0, recWin := 0, recOff := 0
    vregs := 64, scratch := 0, entry := 0, handler := 0, cwin := 0, context := 0, ctxOff := 0, ctxWin := 0, seed := 0
    wins := Vector.replicate 8 0, args := [], prio := 0, age := 0, lastBind := 0, nextBid := 0, returned := []
    waiting := none, standBack := none, drained := [], retired := 0, killed := 0, cause := 0, result := none, ended := none, port := .idle
    isOver := false, step := 0, work := [] }

end Sys2Proof.Machine
end

