-- ==== Sys2Proof/Machine/State.lean ====
section
/-!
DEFINITION. The state of the machine, the reasons a step can stop, and the state right after reset.
-/
namespace Sys2Proof.Machine

/-- Why a step stops with a fault of the model. The chip itself takes every fault of the spec as a trap, a status or a
kill, and goes on. -/
inductive Fault where
  /-- Raised by every instruction's meaning when no strand executes it: `State.act` names none. No run of `step` does
  this. Safe. -/
  | noActor
  deriving DecidableEq, Repr

/-- Why a step is refused. -/
inductive Refusal where
  /-- An instruction that has no meaning yet, by its mnemonic. Safe. -/
  | notModelled (mnemonic : String)
  deriving DecidableEq, Repr

/-- The state of the machine. Tables are keyed by the machine's numbers: strands by 64·core + slot (a sill strand by
32768 + 4·sill core + place), blocks and grids by numbers given in order, cores 0-511, homes 0-63. -/
structure State where
  strands : Map Strand
  blocks  : Map Block
  grids   : Map Grid
  /-- Jobs and array operations not yet complete. -/
  jobs    : Map Job
  arrayOps : Map ArrayOp
  /-- The cards of strands that have read and checked theirs and wait (R203, R204). -/
  cards   : Map CardRead
  /-- Row instructions not yet complete, and the BSUs by 16·slice + number (R350). -/
  rowOps  : Map RowOp
  /-- The cards of peers that wait for their collective, by name (R215). -/
  gathered : List (Word × RemoteCard)
  bsus    : Map Bsu
  /-- The refusals that each BSU has counted (R394). -/
  refusals : Map Nat
  /-- Bundle records by DEV, SLICE and ENTRY as one number (R265, R324), the use counts of the entries, the names
  registered on this module, each with its name space, and handle (R324), and the strands that wait for one to be registered, by its
  name space and it (R267); the versions of lines (R327); the installs that wait for a bundle to settle or be dropped, or for any
  version to go (R328); and the lines whose pending version belongs to a bundle of a module that has returned and is being asked
  about it (R334). -/
  bundles : Map Bundle
  bundleUses : Map Nat
  names   : List (Nat × Nat × Half)
  nameWaits : List (Nat × Nat × Asker)
  versions : Map Versions
  heldInstalls : List (Event × Half)
  rejoined : List (Nat × Half)
  cores   : Map Core
  homes   : Map Home
  clusters : Map Cluster
  /-- Functions: 1-64 the VFs, 127 the PF (R5, R364). -/
  fns     : Map Fn
  /-- The plat, by parcel; an entry not listed holds its reset value (R364). -/
  plat    : Map PlatEntry
  /-- Memory by global address, in canonical form (log 1). -/
  mem     : List Host.Cell
  /-- Lines of memory that are poisoned by ECC (R413), and lines whose integrity tag does not match (R374). -/
  poisoned : List Nat
  badTags  : List Nat
  /-- The hub's key generator and the slices' key stores (R372); the digests that the boot ROM has taken and the alias key pair of this
  boot (R383, R384). -/
  drbg    : Drbg
  keySets : Map KeySet
  digests : Map (BitVec 256)
  aliasKey : Option (Nat × Nat)
  /-- The datum clock, in 1/16 ns (R336). -/
  datum   : Nat
  /-- DEV, the module's device identifier from the manifest, and the routing table's bytes by DEV (R457; log 7). -/
  dev     : Nat
  routes  : Map Nat
  /-- AQIs by 64·function + number (R445), the slot tables of the cores (R427), the clusters that wait to be woken, in order,
  and the time before which none is (R434). -/
  aqis    : Map Aqi
  slotTables : Map (List Bind)
  wakes   : List Nat
  wakeAt  : Nat
  /-- PF packets that wait for the hub, the first of them being performed (R368), and the RESIZE or MIGRATE under way. -/
  pfQueue : List Nat
  move    : Option Move
  /-- 4-KiB pages in host bias, the flips under way, with those waiting behind them (R453 to R456), and lines of host-bias
  pages that have just been snooped. -/
  hostBias : List Nat
  flips   : Map (List Flip)
  snooped : List Nat
  /-- The incarnation of each cluster of a peer, by 64·DEV + cluster (R459); requests of peers held at pages that are not
  usable (R470). -/
  peerIncarn : Map Nat
  peerHeld : List (Nat × Nat × PeerAsk)
  /-- Where pages of peers lie there, by their global page, as each peer has said it last (R340, R470). -/
  peerPages : Map Nat
  /-- Requests of peers that a home is serving, with the device each came from and the home (R457). -/
  peerReqs : Map (Nat × Nat × MemReq)
  /-- What has been asked of peers and is not yet answered (R457, R470). -/
  peerAsked : List (Nat × PeerAsk)
  /-- ATS Invalidate Requests not yet answered: PASID, page, pages, and the names given before (R406). -/
  atsPending : List (Nat × Nat × Nat × Nat)
  /-- MODSTAT, PWRCAP, PRESTART, TDSTAT (R460, R463): STAGE, BOOTERR, READY, DEGRADED, THROTTLE; the limit; FN and DONE; KEYS,
  SCRUB and BUSY; the parcels of the last teardown whose scrub is still to come; and every parcel whose keys are (R376). -/
  stage   : Nat
  bootErr : Nat
  ready   : Bool
  degraded : Bool
  throttle : Nat
  pwrCap  : Nat
  restartFn : Nat
  restartDone : Bool
  tdKeys  : Bool
  tdScrub : Bool
  tdBusy  : Bool
  tdParcels : List Nat
  rekey   : List Nat
  /-- GEN of the capability table (R391), the slices' error counters (R387, R413), whether the datum clock is locked and has
  ever been (R336). -/
  capGen  : Nat
  sliceErrors : Map Nat
  locked  : Bool
  everLocked : Bool
  /-- The PF share ring (R341), and how many eligible records of each event code each emitter has had (R342). -/
  shareRing : Option Ring
  divided : List (Nat × Nat × Nat × Nat)
  /-- Emitters stalled by lossless tracing, oldest first (R344). -/
  stalls  : List Stall
  /-- The token buckets, by 36·function + direction of a meter's link, and the messages that wait for tokens (R390). -/
  buckets : Map Bucket
  linkQueues : List Waiting
  /-- What has been sent to the outside, oldest first, each with its datum time (R337), and the trace records of the present step. -/
  out     : List (Nat × Output)
  records : List TraceRec
  -- the model's own fields (logs 2 to 5): free values drawn, steps taken, names given, messages waiting in order of
  -- arrival, each with the datum time at which it was sent (R337), events with a time before which they do not happen, steps of the engines that take turns with the lanes, the
  -- units that take turns, and the strand that executes
  free    : Nat
  steps   : Nat
  nextId  : Nat
  queue   : List (Nat × Event)
  timers  : List (Nat × Event)
  later   : List Event
  sched   : List Nat
  act     : Option Nat
  deriving DecidableEq, Repr

/-- The machine right after reset: every field as the spec gives it, or as logs 1, 7 and 8 name it. The boot sequence of R465 is
about to run. -/
def State.reset : State :=
  { strands := [], blocks := [], grids := [], jobs := [], arrayOps := [], cards := [], rowOps := [], gathered := [], bsus := [], refusals := [], bundles := [], bundleUses := [], names := [], nameWaits := [], versions := [], heldInstalls := [], rejoined := [], cores := [], homes := [], clusters := [], fns := [], plat := []
    mem := [], poisoned := [], badTags := [], drbg := .zero, keySets := [], digests := [], aliasKey := none, datum := 0, dev := 1, routes := []
    aqis := [], slotTables := [], wakes := [], wakeAt := 0, pfQueue := [], move := none, hostBias := [], flips := [], snooped := []
    peerIncarn := [], peerHeld := [], peerPages := [], peerReqs := [], peerAsked := [], atsPending := [], stage := 0, bootErr := 0, ready := false, degraded := false, throttle := 0
    pwrCap := 6000, restartFn := 0, restartDone := true, tdKeys := false, tdScrub := false, tdBusy := false, tdParcels := [], rekey := []
    capGen := 0, sliceErrors := [], locked := false, everLocked := false, shareRing := none, divided := [], stalls := []
    buckets := [], linkQueues := []
    out := [], records := []
    free := 0, steps := 0, nextId := 1, queue := [(0, .coldReset 1 0 [] [])], timers := [], later := [], sched := [], act := none }

end Sys2Proof.Machine
end

