-- ==== Sys2Proof/Machine/Ops.lean ====
section
/-!
DEFINITION. The operations every family shares: reading and replacing the tables' entries, waiting and stopping,
taking a trap (R245 to R249), forming the next address (R85, R89, R90), completing an instruction, and killing a block
(R259).
-/
namespace Sys2Proof.Machine

/-- The outcome of a step or of an instruction. -/
abbrev Out := Host.Outcome State Fault Refusal

/-- Why an instruction does not complete now. -/
inductive Stop where
  /-- A synchronous fault: the cause code of R245 and what `taddr` receives; none means the instruction's address. -/
  | trap (cause : Nat) (addr : Option Word)
  /-- The strand waits and executes the instruction again (R157). -/
  | wait (w : Wait)
  deriving DecidableEq, Repr

/-- A result, or why there is none. -/
abbrev Res (α : Type) := Except Stop α

/-- The causes of R245. -/
def cIllegalOpcode : Nat := 0x01
/-- ILLEGAL FIELD. -/
def cIllegalField : Nat := 0x02
/-- ILLEGAL SLOT. -/
def cIllegalSlot : Nat := 0x03
/-- ILLEGAL LINE. -/
def cIllegalLine : Nat := 0x04
/-- LINE PARITY. -/
def cLineParity : Nat := 0x05
/-- ILLEGAL TARGET. -/
def cIllegalTarget : Nat := 0x06
/-- ILLEGAL CHAIN. -/
def cIllegalChain : Nat := 0x07
/-- ILLEGAL FORK EXIT. -/
def cIllegalForkExit : Nat := 0x08
/-- REGISTER NOT ALLOCATED. -/
def cNotAllocated : Nat := 0x09
/-- TRANSLATION. -/
def cTranslation : Nat := 0x10
/-- PERMISSION. -/
def cPermission : Nat := 0x11
/-- ALIGNMENT. -/
def cAlignment : Nat := 0x12
/-- WINDOW CROSSING. -/
def cWindowCrossing : Nat := 0x13
/-- FOOTPRINT. -/
def cFootprint : Nat := 0x14
/-- FOREIGN ROW. -/
def cForeignRow : Nat := 0x15
/-- SCRATCH BOUNDS. -/
def cScratchBounds : Nat := 0x16
/-- VIEW REQUIRED. -/
def cViewRequired : Nat := 0x17
/-- POISON CONSUMED. -/
def cPoison : Nat := 0x18
/-- INTEGRITY. -/
def cIntegrity : Nat := 0x19
/-- BUNDLE CAPACITY. -/
def cBundleCapacity : Nat := 0x1A
/-- SLOT NOT CLAIMED. -/
def cSlotNotClaimed : Nat := 0x28
/-- BAD FORMAT. -/
def cBadFormat : Nat := 0x29
/-- ILLEGAL CONTEXT. -/
def cIllegalContext : Nat := 0x2A
/-- SOFTWARE TRAP. -/
def cSoftwareTrap : Nat := 0x30
/-- PREEMPT. -/
def cPreempt : Nat := 0x31
/-- BREAKPOINT. -/
def cBreakpoint : Nat := 0x32
/-- SAVE LIMIT. -/
def cSaveLimit : Nat := 0x33
/-- DOUBLE FAULT. -/
def cDoubleFault : Nat := 0x3F

/-- Stop with a trap whose `taddr` is the instruction's address. -/
def trapAt {α : Type} (cause : Nat) : Res α := .error (.trap cause none)
/-- Stop with a trap whose `taddr` is given. -/
def trapTo {α : Type} (cause : Nat) (addr : Word) : Res α := .error (.trap cause (some addr))
/-- Stop and wait. -/
def waitFor {α : Type} (w : Wait) : Res α := .error (.wait w)
/-- Go on if a condition holds, and trap otherwise. -/
def need (c : Bool) (cause : Nat) : Res Unit := if c then .ok () else trapAt cause

-- Agents of peers

/-- The number that stands for a core of a peer in a directory entry (R295): from 1,024 up. -/
def remoteCore (dev core : Nat) : Nat := 1024 * (dev + 1) + core
/-- The device of such a number. -/
def remoteDev (core : Nat) : Nat := core / 1024 - 1

-- Readers and writers of the tables

/-- The strand under a key. -/
def State.strand (s : State) (k : Nat) : Option Strand := s.strands.find k
/-- Replace a strand. -/
def State.setStrand (s : State) (k : Nat) (st : Strand) : State := { s with strands := s.strands.put k st }
/-- Change a strand, if it exists. -/
def State.updStrand (s : State) (k : Nat) (f : Strand → Strand) : State := { s with strands := s.strands.upd k f }
/-- The block under a key. -/
def State.block (s : State) (b : Nat) : Block := s.blocks.getD b .absent
/-- Change a block, if it exists. -/
def State.updBlock (s : State) (b : Nat) (f : Block → Block) : State := { s with blocks := s.blocks.upd b f }
/-- The grid under a key. -/
def State.grid (s : State) (g : Nat) : Grid := s.grids.getD g .absent
/-- Change a grid, if it exists. -/
def State.updGrid (s : State) (g : Nat) (f : Grid → Grid) : State := { s with grids := s.grids.upd g f }
/-- A core. -/
def State.core (s : State) (c : Nat) : Core := s.cores.getD c .idle
/-- Change a core. -/
def State.updCore (s : State) (c : Nat) (f : Core → Core) : State := { s with cores := s.cores.updD c .idle f }
/-- A home. -/
def State.home (s : State) (h : Nat) : Home := s.homes.getD h .empty
/-- Change a home. -/
def State.updHome (s : State) (h : Nat) (f : Home → Home) : State := { s with homes := s.homes.updD h .empty f }
/-- The cluster that an agent on a core, a sill core or the hub belongs to: 256 stands for the hub. -/
def clusterOf (core : Nat) : Nat := if core < 512 then core / 8 else (core - 512) / 2

/-- The grid that a strand works for: its block's, or that of a sill strand's job. -/
def gridKey (s : State) (st : Strand) : Nat := if st.sill then st.grid else (s.block st.blk).grid
/-- A cluster. -/
def State.cluster (s : State) (c : Nat) : Cluster := s.clusters.getD c .reset
/-- Change a cluster. -/
def State.updCluster (s : State) (c : Nat) (f : Cluster → Cluster) : State :=
  { s with clusters := s.clusters.updD c .reset f }
/-- The number of the PF. -/
def pf : Nat := 127
/-- A function's registers. -/
def State.fn (s : State) (n : Nat) : Fn := s.fns.getD n (.reset (n == pf))
/-- Change a function's registers. -/
def State.updFn (s : State) (n : Nat) (f : Fn → Fn) : State := { s with fns := s.fns.updD n (.reset (n == pf)) f }
/-- The plat entry of a parcel. -/
def State.platOf (s : State) (p : Nat) : PlatEntry := s.plat.getD p .reset
/-- The messages on their way: in the queue, or waiting for tokens at a link (R390). -/
def State.onWay (s : State) : List Event :=
  s.queue.map (·.2) ++ s.linkQueues.filterMap fun w => match w.cargo with | .event e => some e | .output _ => none
/-- The request that a home's event carries. -/
def eventReq : Event → Option MemReq
  | .homeLoadFill r => some r
  | .homeOwnershipRequest r => some r
  | .homeStoreArrival r => some r
  | .homeFarAtomic r => some r
  | .signalArrival r => some r
  | .forwardedRequest _ r _ _ _ => some r
  | .bundleInstall _ r _ _ _ => some r
  | .memoryAccessComplete r => some r.req
  | _ => none

/-- Send a message: it happens after those already sent (log 4). -/
def State.send (s : State) (i : Event) : State := { s with queue := s.queue ++ [(s.datum, i)] }
/-- A step of an engine: it happens in its turn, when no message is on its way (log 5). -/
def State.post (s : State) (i : Event) : State := { s with later := s.later ++ [i] }
/-- An event that happens once the datum clock has reached a time. -/
def State.after (s : State) (units : Nat) (i : Event) : State := { s with timers := s.timers ++ [(s.datum + units, i)] }
/-- A free value and the state that has drawn it (log 2). -/
def State.draw (s : State) : Word × State := (Config.freeWord s.free, { s with free := s.free + 1 })
/-- A fresh name. -/
def State.fresh (s : State) : Nat × State := (s.nextId, { s with nextId := s.nextId + 1 })

/-- Whether the routing table has a valid entry for a device (R457). -/
def routeOk (s : State) (dev : Nat) : Bool := bitOf (s.routes.getD dev 0) 7

/-- Send something to the outside. -/
def State.emitOut (s : State) (o : Output) : State := { s with out := s.out ++ [(s.datum, o)] }

/-- The dies: frame dies 0 to 3, the hub 8, stacks from 16 on (R339). That of a core or sill core. -/
def coreDie (core : Nat) : Nat := if core < 512 then core / 128 else if core < 1023 then 16 + (core - 512) / 8 else 8
/-- That of a home: the host's has its agents on every die, and is taken to lie on the hub. -/
def homeDie (home : Nat) : Nat := if home < 64 then home / 16 else 8
/-- A message of a die of this module, stamped (R334, R337). -/
def State.mail (s : State) (die : Nat) : Mail := ⟨s.dev, die, s.datum⟩
/-- Nobody: a message that no strand waits for. -/
def noAsker : Asker := ⟨0, 0, 0, false⟩

/-- Receive a message: from a peer it took at least 100 ns, from another die 1 ns, and the clock goes forward to that (R337). -/
def recv (s : State) (m : Mail) (die : Nat) : State :=
  if m.dev ≠ s.dev then { s with datum := max s.datum (m.stamp + 1600) }
  else if m.die ≠ die then { s with datum := max s.datum (m.stamp + 16) }
  else s

/-- Ask a peer's home for an access (R457): it is outstanding until the peer answers. One that cannot reach the peer is refused. -/
def State.askPeer (s : State) (dev domain : Nat) (q : MemReq) : State :=
  let r := { q with incarn := (s.cluster (clusterOf q.core)).incarn }
  let s1 := { s with peerAsked := s.peerAsked ++ [(dev, PeerAsk.access r)] }
  if domain = 0 ∨ routeOk s dev = false then s1.send (.peerAccessReply ⟨dev, 8, 0⟩ (.refused r)) else s1.emitOut (.peer dev domain r)

/-- Ask a peer whether a page may be used (R470). -/
def State.askPage (s : State) (dev domain strand page : Nat) (write : Bool) : State :=
  { s with peerAsked := s.peerAsked ++ [(dev, PeerAsk.page strand page write)] }.emitOut (.peerPage dev domain strand page write)

/-- The source field of a core's unit class (R339), and of a slice or cluster. -/
def coreSrc (c ucls : Nat) : Nat := c / 128 * 8192 + ucls * 512 + c % 128
/-- The source field of a unit of a slice's or cluster's number. -/
def sliceSrc (h ucls : Nat) : Nat := h / 16 * 8192 + ucls * 512 + h % 16
/-- The source field of a hub unit. -/
def hubSrc (u : Nat) : Nat := 15 * 512 + u
/-- The source field of a sill core or BSU of a memory slice: `u` is its number within the stack. -/
def sillSrc (slice ucls u : Nat) : Nat := (4 + slice / 32) * 8192 + ucls * 512 + slice / 8 % 4 * 128 + u

/-- Emit a Traverse record (R338): it is filtered and written at the end of the step. -/
def State.emit (s : State) (fn src code payload : Nat) (more : Option Nat := none) (strand : Option Nat := none) :
    State :=
  { s with records := s.records ++ [⟨fn, src, code, payload % 2 ^ 32, more, s.datum, strand⟩] }

/-- Emit a device-wide event, or one of an error, in its two records (R338, R340): whether it concerns a partition, and its
second half; the detail, and a second half that the spec does not lay out, are free values (log 2). -/
def State.emitNotice (s : State) (fn src code : Nat) (part : Bool) (more : Option Nat) : State :=
  let d := s.draw
  let e := d.2.draw
  e.2.emit fn src code (d.1.toNat % 2 ^ 31 + b2n part * 2 ^ 31) (some (more.getD (e.1.toNat + d.1.toNat / 2 ^ 32 * 2 ^ 64)))

/-- Emit a record of a strand: the slot and bits [27:2] of an address, or a payload of its own (R340). -/
def State.emitStrand (s : State) (k : Nat) (st : Strand) (code low : Nat) : State :=
  if st.sill then s
  else s.emit (s.grid (gridKey s st)).fn (coreSrc st.core 0) code (st.slot * 2 ^ 26 + low) none (some k)

/-- Execute at an implicit scope (R314): above CAP it counts and never faults. -/
def implicitScope (s : State) (fn scope : Nat) : State :=
  if scope ≤ (s.fn fn).cap then s else s.updFn fn fun y => { y with capCount := min 0xFFFFFFFF (y.capCount + 1) }

/-- Bits [27:2] of a code address. -/
def pcBits (a : Word) : Nat := field a 2 26

/-- 64 B of the datum clock's units for a number of cycles of the 600 MHz clock, rounded up (R3, R336). -/
def cyclesToDatum (c : Nat) : Nat := ceilDiv (c * 80) 3
/-- The datum clock's units in a number of nanoseconds. -/
def nsToDatum (n : Nat) : Nat := 16 * n

-- Uniform writes

/-- Perform one uniform write (R37, R83, R86, R95). -/
def applyWrite (st : Strand) : UWrite → Strand
  | .reg n x m => st.setS n x m
  | .em m => { st with em := m }
  | .uc c => { st with uc := c }
  | .lr x => { st with lr := x }
  | .lc0 x => { st with lc0 := x }
  | .lc1 x => { st with lc1 := x }
  | .lh0 x => { st with lh0 := x }
  | .lh1 x => { st with lh1 := x }
  | .push c h => { st with lc1 := st.lc0, lh1 := st.lh0, lc0 := c, lh0 := h }
  | .flags f => { st with fl := f }
  | .rnd x => { st with rnd := x }
  | .seed x => { st with seed := x, gens := seedAll x st.gnum }
  | .win n x => st.setWin n x
  | .tpc x => { st with tpc := x }
  | .tcause x => { st with tcause := x }
  | .taddr x => { st with taddr := x }
  | .tem x => { st with tem := x }
  | .tfk x => { st with tfk := x }
  | .yieldTurn => { st with yielded := true }

/-- Perform uniform writes in order. -/
def applyWrites (st : Strand) (ws : List UWrite) : Strand := ws.foldl applyWrite st

/-- Make registers unallocated (R165). -/
def freeRegs (st : Strand) (rs : List Nat) : Strand := rs.foldl (fun a r => a.setV r none) st

/-- End the chain in progress: its frees take effect (R165). -/
def endChain (st : Strand) : Strand :=
  { freeRegs st st.chainFrees with chainPos := 0, chainFrees := [], chainFlow := false }

-- The deferred region

/-- The bounds [lo, hi) of the running region, and the start of the other (R87). -/
def regionBounds (f : Fork) : Int × Int :=
  let a : Int := f.at_.toNat
  match f.phase with
  | .aFirst => (a + 12, a + 4 * f.ob)
  | .aSecond => (a + 12, a + 4 * f.ob)
  | _ => (a + 4 * f.ob, a + 4 * f.oj)

/-- The address a `fork` falls through to: F + 12, past the line word when the `fork` fills slot 4. -/
def fallThrough (at_ : Nat) : Int := if (at_ + 12) % 64 = 0 then at_ + 16 else at_ + 12

/-- What the strand does at the end of the running region (R89): em, the register and the next address. -/
def regionEnd (st : Strand) : Strand × Int :=
  let f := st.fork
  let u := st.em ||| f.mask
  let a : Int := f.at_.toNat
  match f.phase with
  | .aFirst =>
    if f.mask = 0 then ({ st with em := u, fork := .empty }, a + 4 * f.oj)
    else ({ st with em := f.mask, fork := { f with phase := .bSecond, mask := u } }, a + 4 * f.ob)
  | .bFirst => ({ st with em := f.mask, fork := { f with phase := .aSecond, mask := u } }, fallThrough f.at_.toNat)
  | _ => ({ st with em := f.mask, fork := .empty }, a + 4 * f.oj)

/-- The image of the deferred-region register in `tfk` (R91, R246). -/
def forkImage (f : Fork) (tpc : Word) : Word :=
  if f.phase = .none then 0
  else BitVec.ofNat 64
    (f.mask.toNat + f.phase.code * 2 ^ 32 + wrapNat 29 (((f.at_.toNat : Int) - tpc.toNat) / 4) * 2 ^ 35)

-- Killing a block

/-- Kill a block with a cause (R259): its strands stop at once, and BLOCK_RETIRE ends what is left of it. `again` says that
it is to be relaunched (R414). -/
def killBlock (s : State) (b : Nat) (cause : Nat) (again : Bool := false) : State :=
  match s.blocks.find b with
  | none => s
  | some blk =>
    match blk.phase with
    | .killed _ _ => s
    | _ =>
      let stop (st : Strand) : Strand :=
        { st with ended := true, wait := .none, flight := [], lane := none, fork := .empty, pair := .none, preempt := false }
      let s0 := if again then s else s.updGrid blk.grid fun g => { g with cause := if g.cause = 0 then cause else g.cause }
      let s1 := blk.strands.foldl (fun a k => a.updStrand k stop) s0
      let g := s.grid blk.grid
      let ended := (number 0 blk.strands).filter fun p => match s.strand p.2 with | some st => st.ended | none => true
      ((s1.updBlock b fun x => { x with phase := .killed cause again, endedSids := ended.map (·.1) }).emit g.fn (hubSrc 0) 0x95 g.seqNo).send
        (.blockRetire b)

/-- End every sill strand of a job, and the job with a status (R348, R222). Row instructions that BSUs have accepted go
on. -/
def endSill (s : State) (j status cause : Nat) : State :=
  match s.jobs.find j with
  | none => s
  | some x =>
    let stop (st : Strand) : Strand := { st with ended := true, wait := .none, flight := [], lane := none, fork := .empty, pair := .none }
    let s1 := x.sill.foldl (fun (a : State) k => a.updStrand k stop) s
    { s1 with jobs := s1.jobs.put j { x with phase := .ended status cause } }.send (.jobComplete j)

/-- End the jobs of a function's packets (R415, R450), and abort its open bundles. -/
def stopPartition (s : State) (fn : Nat) : State :=
  let js := s.jobs.filter fun p => p.2.packet.isSome && (s.grid p.2.grid).fn == fn
  let s1 := js.foldl (fun a p =>
    if p.2.sill.isEmpty then
      { a with jobs := a.jobs.put p.1 { p.2 with phase := .ended 2 0 } }.send (.jobComplete p.1)
    else endSill a p.1 2 0) s
  (s1.bundles.filter fun p => p.2.fn == fn && p.2.st == .opened).foldl (fun a p =>
    a.send (.bundleCloseArrival (a.mail 8) noAsker p.2.handle .wound [])) s1

/-- Put a function's partition into its error state (R414, R415): ERRSTAT, its strands stopped, its jobs ended, its open
bundles aborted, its grids and packets ended. -/
def enterError (s : State) (fn cls cause : Nat) : State :=
  if (s.fn fn).err then s
  else
    let s1 := s.updFn fn fun f => { f with err := true, errClass := cls, errCause := cause }
    let s2 := (s1.blocks.filter fun p => (s1.grid p.2.grid).fn == fn).foldl (fun a p => killBlock a p.1 cause) s1
    (s2.grids.filter fun p => p.2.fn == fn).foldl (fun a p => a.send (.gridComplete p.1)) (stopPartition s2 fn)

/-- Kill a block whose strand consumed poison (R414): the partition enters its error state with the class that the block's
case gives. -/
def killPoisoned (s : State) (b cause cls : Nat) : State :=
  let g := s.grid (s.block b).grid
  enterError (killBlock s b cause) g.fn (if g.restartable then 4 else cls) cause

/-- A fault, `trap` or `brk` of a sill strand (R348, R450): without regions FOREIGN ROW is a FAULTED like any other. -/
def sillFault (s : State) (st : Strand) (cause : Nat) : State :=
  let bounded := match s.jobs.find st.job with | some x => x.packet.isNone | none => true
  endSill s st.job (if cause = cForeignRow ∧ bounded = true then 5 else if cause = cFootprint then 6 else 3) cause

-- Requesting pre-emption by trap (R251, R252, R258)

/-- Physical registers that the strands of a block hold. -/
def blockRegs (s : State) (blk : Block) : Nat :=
  (blk.strands.map fun k => match s.strand k with | some st => st.physCount | none => 0).foldl (· + ·) 0

/-- Whether a block holds registers on its core. -/
def Block.onCore (b : Block) : Bool :=
  match b.phase with | .resident => true | .leaving => true | _ => false

/-- The resident blocks of a block's victim group: its cluster group, its stack group, or its whole grid (R252). -/
def victimGroup (s : State) (b : Nat) : List Nat :=
  let blk := s.block b
  let g := s.grid blk.grid
  let unit := if g.sgroup = 1 then g.cgroup else g.cgroup * g.sgroup
  (s.blocks.filter fun p => p.2.grid == blk.grid && p.2.phase == .resident
    && (g.cooperative || p.2.bid / unit == blk.bid / unit)).map (·.1)

/-- The save limit of a function, in units of the datum clock (R258, R422). -/
def saveLimit (s : State) (fn : Nat) : Nat :=
  let ms := bits (s.fn fn).schpol 24 8
  (if ms = 0 then 10 else ms) * 16000000

/-- Request PREEMPT of every strand of resident blocks. `full` says that it is for the register pool (R167). -/
def requestPreempt (s : State) (full : Bool) (bs : List Nat) : State :=
  bs.foldl (fun a b =>
    let blk := a.block b
    if blk.phase == .resident then
      let g := a.grid blk.grid
      let a1 := ((a.updBlock b fun x => { x with phase := .leaving, full := x.full || full, asked := a.datum, credit := 0 }).emit g.fn (hubSrc 0)
        0x93 g.seqNo).after (saveLimit a g.fn) (.saveLimitExpiry b blk.core blk.admitted)
      blk.strands.foldl (fun c k => c.send (.preemptDelivery k)) a1
    else a) s

/-- A strand waits for a register that no block has free: the youngest block of the core that holds registers beyond its
reservation gives way, with its group, unless one is leaving already (R167). The youngest is the one admitted last, and a
readmission counts anew: the rule does not say what a block's age is (DESIGN CHOICE, log 25). -/
def registerPressure (s : State) (core : Nat) : State :=
  let here := s.blocks.filter fun p => p.2.core == core
  if here.any fun p => p.2.phase == .leaving then s
  else
    match (here.filter fun p => p.2.phase == .resident && decide (p.2.reserved < blockRegs s p.2)).foldl
        (fun (a : Option (Nat × Block)) p =>
          match a with | some q => if q.2.admitted < p.2.admitted then some p else a | none => some p) none with
    | some p => requestPreempt s true (victimGroup s p.1)
    | none => s

-- Traps

/-- Trap entry (R246): the saved registers, em ← pm, trap mode, and the handler as the next address. In trap mode the
trap is a DOUBLE FAULT, and without a handler the block is killed with the cause (R247, R249). A restartable block that
consumes poison on its first or second launch is killed and relaunched (R414). An open view is suspended, but for one that an acquire
in flight ends (R248, R272). A sill strand has no handler (R348). -/
def enterTrap (s : State) (k : Nat) (st : Strand) (cause : Nat) (tpc taddr : Word) (tem : Half) : State :=
  let s1 := s.setStrand k st
  let b := s.block st.blk
  if st.sill then sillFault s1 st cause
  else if cause == cPoison && (s.grid b.grid).restartable && b.launches ≤ 2 then killBlock s1 st.blk cause true
  else if st.trapMode then
    if st.poisonTrap || cause == cPoison then killPoisoned s1 st.blk cDoubleFault 2
    else killBlock s1 st.blk cDoubleFault
  else if st.tvec = 0 then
    if cause = cPoison then killPoisoned s1 st.blk cause 1 else killBlock s1 st.blk cause
  else
    (s.setStrand k
      { st with
        tpc := tpc, tcause := BitVec.ofNat 8 cause, taddr := taddr, tem := tem
        tfk := forkImage st.fork tpc, fork := .empty
        suspended := (st.viewOn && !st.flight.any fun p => p.2.endsView) || st.suspended, viewOn := false
        em := st.pm, trapMode := true, poisonTrap := cause == cPoison
        pc := st.tvec, arrival := .target st.tvec, undo := none, wild := false, regSince := 0
        chainPos := 0, chainFrees := [], chainFlow := false, pair := .none, wait := .none, plumbAt := none
        barrier := .away, peerOk := [], peerNo := [], cancelling := none, asyncOp := none, words := [], carded := false, ask := 0, answer := none, viewed := [] }).emitStrand k st 0x13 cause

/-- Take a synchronous fault of the instruction at `pc` (R171, R245): inside a chain `tpc` is the chain's head, and the
chain's frees are cancelled. -/
def takeFault (s : State) (k : Nat) (st : Strand) (inChain : Bool) (cause : Nat) (taddr : Word) : State :=
  enterTrap s k st cause (if inChain then st.chainHead else st.pc) taddr st.em

-- The next address

/-- Where an instruction leads: the strand ends, goes on sequentially, or goes to an address; `direct` says that R90 checks it. -/
inductive Goto where
  | ends
  | onward
  | goes (n : Int) (direct : Bool)
  deriving DecidableEq, Repr

/-- A target: the instruction's address plus four times the signed literal (R17). -/
def targetOf (pc : Word) (off : BitVec 32) : Int := (pc.toNat : Int) + 4 * off.toInt

/-- Evaluate the next-address selector (R85). -/
def selectNext (st : Strand) (nx : Nx) : Strand × Goto :=
  match nx with
  | .next => (st, .onward)
  | .loop =>
    if st.lc0.toNat ≤ 1 then
      ({ st with lc0 := st.lc1, lh0 := st.lh1, lc1 := 0, lh1 := 0 }, .onward)
    else ({ st with lc0 := st.lc0 - 1 }, .goes st.lh0.toNat true)
  | .ret => (st, .goes st.lr.toNat true)
  | .endStrand => (st, .ends)
  | .jump o => (st, .goes (targetOf st.pc o) true)
  | .call o => ({ st with lr := st.seq }, .goes (targetOf st.pc o) false)
  | .brz o => (st, if st.em = 0 then .goes (targetOf st.pc o) true else .onward)
  | .bru o => (st, if st.uc then .goes (targetOf st.pc o) true else .onward)

/-- Whether the instruction at `pc` lies in the running region (R89). -/
def inRegion (st : Strand) : Bool :=
  st.fork.phase != .none
  && (let b := regionBounds st.fork; decide (b.1 ≤ st.pc.toNat) && decide ((st.pc.toNat : Int) < b.2))

/-- What the next-address action may change, as it stands (log 9). -/
def Strand.saveNext (st : Strand) (em0 : Half) : Undo :=
  { em := em0, lr := st.lr, lc0 := st.lc0, lc1 := st.lc1, lh0 := st.lh0, lh1 := st.lh1, fork := st.fork }

/-- Go on sequentially: nothing is checked (R11), and a chain may be continued (R169). -/
def goOn (st : Strand) : Strand := { st with pc := st.seq, arrival := .sequential, undo := none, chainFlow := true }

/-- Go to an address that a target, a loop, RET or a `fork` region formed: R11 checks it, the sequential address too. No
continuation may follow (R169). An offset outside 64 bits faults on arrival; its low 64 bits are kept. -/
def goTo (st : Strand) (n : Int) (undo : Undo) : Strand :=
  { st with pc := wrap64 n, arrival := .target st.pc, undo := some undo, chainFlow := false
            wild := !(decide (0 ≤ n) && decide (n < 2 ^ 64)) }

/-- The strand ends after its instruction (R85): its chain ends, which frees its last reads (R165); its deferred-region register is
discarded; its jobs go on. -/
def endStrand (st : Strand) : Strand :=
  { endChain st with ended := true, wait := .none, fork := .empty, lane := none, preempt := false, pair := .none }

/-- A strand that executes another instruction outside trap mode: a `pbar` arrival that was kept is gone (R251). -/
def Strand.unkept (st : Strand) : Strand := { st with pbarKept := if st.trapMode then st.pbarKept else none }

/-- A strand whose instruction has completed: it waits for nothing. -/
def Strand.completed (st : Strand) : Strand := { st.unkept with pair := .none, wait := .none, regSince := 0, words := [], carded := false }

/-- Go to the next address, or to where the running region's end leads (R89). -/
def goNext (st : Strand) (undo : Undo) : Strand :=
  if inRegion st && decide ((st.seq.toNat : Int) = (regionBounds st.fork).2) then
    let e := regionEnd st
    goTo e.1 e.2 undo
  else goOn st

/-- Go to a formed address, or to where the running region's end leads (R89). -/
def goFormed (st : Strand) (n : Int) (undo : Undo) : Strand :=
  if inRegion st && decide (n = (regionBounds st.fork).2) then
    let e := regionEnd st
    goTo e.1 e.2 undo
  else goTo st n undo

/-- Whether an address lies outside the bounds of the running region, its end included (R90): the end belongs to the bounds, since an
n equal to it ends the region (R89; DEDUCED, log 25). -/
def outsideRegion (f : Fork) (n : Int) : Bool :=
  let b := regionBounds f
  decide (n < b.1) || decide (b.2 < n)

/-- Whether a JUMP, a taken branch or LOOP, or RET leads out of the running region (R90). -/
def leavesRegion (st : Strand) (n : Int) : Bool := inRegion st && outsideRegion st.fork n

/-- Complete an instruction: the pair's uniform writes, the flags, the next address with the region rules (R13, R50,
R85, R89, R90). `em0` is em before the instruction. Under ILLEGAL FORK EXIT the effects stand and the last reads are freed, but no
part of the next-address action is taken: a LOOP's counter is not decremented (R14, R246; log 25). -/
def retire (s : State) (k : Nat) (st : Strand) (nx : Nx) (fl : Flags) (em0 : Half) : State :=
  let ws := match st.pair with | .apply ws => ws | _ => []
  let st1 := applyWrites st.completed ws
  let st2 := { st1 with fl := st1.fl ||| fl }
  let undo := st2.saveNext em0
  let r := selectNext st2 nx
  match r.2 with
  | .ends =>
    ((s.setStrand k (endStrand r.1)).emitStrand k r.1 0x12 (pcBits r.1.pc)).send
      (if r.1.sill then .jobComplete r.1.job else .blockRetire r.1.blk)
  | .onward => s.setStrand k (goNext r.1 undo)
  | .goes n direct =>
    if direct && leavesRegion st2 n then enterTrap s k (endChain st2) cIllegalForkExit (wrap64 n) st2.pc em0
    else s.setStrand k (goFormed r.1 n undo)

/-- Continue a strand at an address that a `fork` forms itself, with no region rule (R90). -/
def retireTo (s : State) (k : Nat) (st : Strand) (n : Int) (em0 : Half) (undo : Undo) : State :=
  s.setStrand k (goTo st.completed n { undo with em := em0 })

-- Running an instruction

/-- Run a meaning for the strand that executes. -/
def withActor (s : State) (f : Nat → Strand → Out) : Out :=
  match s.act with
  | none => .fault .noActor
  | some k =>
    match s.strand k with
    | none => .fault .noActor
    | some st => f k st

/-- Wake a strand that waits for one of the named things. -/
def wakeStrand (st : Strand) (ws : List Wait) : Strand := if ws.contains st.wait then { st with wait := .none } else st

/-- Let the next strand in the function table's order try (R236). -/
def tableNext (s : State) (core : Nat) : State :=
  (s.core core).table.waiting.foldl (fun a k => a.updStrand k fun st => wakeStrand st [.table]) s

/-- A strand gives up its place at the function table, if it has one; the next in the order may try (R236, R237). -/
def leaveTable (k core : Nat) (s : State) : State :=
  if (s.core core).table.waiting.contains k then
    tableNext (s.updCore core fun c => { c with table := { c.table with waiting := c.table.waiting.filter (· != k) } }) core
  else s

/-- Deliver PREEMPT (R172, R246, R251): `tpc` names the instruction that would have executed next, and a place in the
function table's order is given up. -/
def takePreempt (s : State) (k : Nat) (st : Strand) (tpc : Word) : State :=
  enterTrap (leaveTable k st.core s) k { st with preempt := false, lane := none, turn := false, saveEntry := true } cPreempt tpc 0 st.em

/-- Whether a chain is in progress: a member has executed, and the instruction after it, which may continue the chain, has not been
decoded (R169, R171, R172). -/
def inChain (st : Strand) : Bool := st.chainPos != 0

/-- Where a strand that is stopped before its instruction restarts: inside a chain, at the chain's head (R171, R172). -/
def restartPc (st : Strand) : Word := if inChain st then st.chainHead else st.pc

/-- Whether a pending PREEMPT is taken at this boundary: not in trap mode, nor between an answer and the instruction that takes it
(R172, R247, R251). -/
def duePreempt (st : Strand) : Bool := st.preempt && !st.trapMode && st.answer.isNone && st.words.isEmpty

/-- A strand waits, and executes its instruction again. It holds no lane, unless it waits inside a chain (R170). The wait for a
register counts from its first step (R167), and takes a pending PREEMPT at once, inside a chain too (R172). -/
def block (s : State) (k : Nat) (st : Strand) (w : Wait) : State :=
  if w = .register ∧ duePreempt st = true then takePreempt s k { st with pair := .none } (restartPc st)
  else
    let s1 := s.setStrand k
      { st with wait := w, lane := if st.chainPos = 0 then none else st.lane, pair := .none
                regSince := if w = .register ∧ st.regSince = 0 then s.steps + 1 else st.regSince }
    if w = .register then registerPressure s1 st.core else s1

/-- End an instruction that did not complete. `st0` is the strand before the instruction. -/
def stopWith (s : State) (k : Nat) (st0 : Strand) (inChain : Bool) : Stop → State
  | .trap c a =>
    takeFault s k { st0 with pair := .none } inChain c (a.getD st0.pc)
  | .wait w => block s k st0 w

/-- End an instruction with its result, or as it stopped. -/
def settle (s : State) (k : Nat) (st0 : Strand) (inChain : Bool) (r : Res State) : Out :=
  match r with
  | .ok s' => .next s'
  | .error e => .next (stopWith s k st0 inChain e)

/-- Whether a vector or a uniform register among those named awaits the data of an access in flight (R157). -/
def inFlight (st : Strand) (vs ss : List Nat) : Bool :=
  st.flight.any fun p =>
    let a := p.2
    (if a.vector then vs else ss).any fun r => r == a.d || (a.pair && r == a.d + 1)

/-- Wait while a register the instruction reads or writes is in flight (R157). -/
def awaitRegs (st : Strand) (vs ss : List Nat) : Res Unit :=
  if inFlight st vs ss then waitFor .data else .ok ()

/-- The strand as a uniform instruction reads it: it ends a chain (R70, R169), also as a member of a co-issue pair, whose other
member may not continue one. -/
def uniformReader (st : Strand) : Strand := endChain st

/-- A uniform instruction's writes go to the co-issue pair, or are performed, and the strand goes on (R13, R70). -/
def uniformDone (s : State) (k : Nat) (st : Strand) (nx : Nx) (ws : List UWrite) : State :=
  match st.pair with
  | .gather => s.setStrand k { endChain st with pair := .apply ws }
  | _ => retire s k (applyWrites (endChain st) ws) nx 0 st.em

/-- Run a uniform instruction, given by its writes. `ss` are the uniform registers it reads or writes. -/
def runUniform (nx : Nx) (ss : List Nat) (f : State → Strand → Res (List UWrite)) (s : State) : Out :=
  withActor s fun k st =>
    let r := uniformReader st
    settle s k r false do
      awaitRegs r [] ss
      let ws ← f s r
      return uniformDone s k st nx ws

/-- Run an instruction of a class that ends any chain and is no uniform instruction: the meaning gives the new state
and strand, to which the next address is then applied. `ss` are the uniform registers it reads or writes. -/
def runPlain (nx : Nx) (ss : List Nat) (f : State → Nat → Strand → Res (State × Strand)) (s : State) : Out :=
  withActor s fun k st =>
    let st1 := endChain st
    settle s k st1 false do
      awaitRegs st1 [] ss
      let r ← f s k st1
      return retire r.1 k r.2 nx 0 st1.em

end Sys2Proof.Machine
end

