-- ==== Sys2Proof/Machine/Memory.lean ====
section
/-!
DEFINITION. Memory as a list of cells in one canonical form (log 1), global addresses, and a block's scratchpad.
-/
namespace Sys2Proof.Machine

/-- What a byte that nothing has written reads as (log 1). -/
def emptyByte : Byte := 0

/-- The byte at an address. -/
def readCell : List Host.Cell → Nat → Byte
  | [], _ => emptyByte
  | (i, b) :: m, a => if i = a then b else if a < i then emptyByte else readCell m a

/-- Write the byte at an address: the list stays ascending, and holds no byte equal to the empty one. -/
def writeCell : List Host.Cell → Nat → Byte → List Host.Cell
  | [], a, b => if b = emptyByte then [] else [(a, b)]
  | (i, c) :: m, a, b =>
    if i = a then (if b = emptyByte then m else (a, b) :: m)
    else if a < i then (if b = emptyByte then (i, c) :: m else (a, b) :: (i, c) :: m)
    else (i, c) :: writeCell m a b

/-- Every address is above `a`, addresses rise strictly, and no byte equals the empty one. -/
def cellsAbove : Nat → List Host.Cell → Bool
  | _, [] => true
  | a, (i, b) :: m => decide (a < i) && b != emptyByte && cellsAbove i m

/-- The canonical form of a memory. -/
def Memory.wf : List Host.Cell → Bool
  | [] => true
  | (i, b) :: m => b != emptyByte && cellsAbove i m

/-- `n` bytes from an address, as a number (R9, R46). -/
def readCells (m : List Host.Cell) (a n : Nat) : Nat := ofBytes ((rangeFrom a n).map (readCell m))

/-- Write bytes from an address on. -/
def writeCells (m : List Host.Cell) : Nat → List Byte → List Host.Cell
  | _, [] => m
  | a, b :: bs => writeCells (writeCell m a b) (a + 1) bs

/-- Write bytes at given addresses. -/
def writeAll (m : List Host.Cell) (l : List (Nat × Byte)) : List Host.Cell :=
  l.foldl (fun a p => writeCell a p.1 p.2) m

/-- Remove the bytes of a range. -/
def clearCells (m : List Host.Cell) (a n : Nat) : List Host.Cell := m.filter fun p => p.1 < a || a + n ≤ p.1

-- Global addresses (log 14): device memory by module physical address (R363), host memory and each peer's memory in
-- ranges of their own

/-- Where host addresses begin. -/
def hostBase : Nat := 2 ^ 70
/-- Where the addresses of a peer begin. -/
def peerBase (dev : Nat) : Nat := (dev + 2) * 2 ^ 70
/-- A global address of this module's device memory. -/
def isDevice (ga : Nat) : Bool := decide (ga < 2 ^ 40)
/-- A global address of host memory. -/
def isHost (ga : Nat) : Bool := decide (hostBase ≤ ga) && decide (ga < peerBase 0)
/-- A global address of a peer's memory. -/
def isPeer (ga : Nat) : Bool := decide (peerBase 0 ≤ ga)
/-- The peer of a global address. -/
def peerOf (ga : Nat) : Nat := ga / 2 ^ 70 - 2
/-- The address within its range. -/
def localOf (ga : Nat) : Nat := ga % 2 ^ 70

/-- The memory slice of a physical address (R363). -/
def sliceOf (pa : Nat) : Nat := pa / 2 ^ 33
/-- The parcel of a physical address. -/
def parcelOf (pa : Nat) : Nat := pa / 2 ^ 34
/-- The number under which the device-side agents of host lines are held together (R282; log 16). -/
def hostHome : Nat := 64
/-- The home of a line (R282). -/
def homeFor (line : Nat) : Nat := if isDevice (line * 128) then parcelOf (line * 128) else hostHome

-- The scratchpad (R283)

/-- The bytes of a range of a block's scratchpad, as a number. -/
def scratchRead (b : Block) (a n : Nat) : Nat := readCells b.scratch a n
/-- Whether a byte of a range lies in a poisoned line. -/
def scratchMarked (b : Block) (a n : Nat) : Bool :=
  b.scratchMarks.any fun l => decide (l * 128 < a + n) && decide (a < (l + 1) * 128) && decide (0 < n)

/-- The lines that a range touches. -/
def linesOf (a n : Nat) : List Nat := if n = 0 then [] else rangeFrom (a / 128) ((a + n - 1) / 128 - a / 128 + 1)

/-- Set or clear the marks of the lines that a write touches: poisoned data marks them (R136), and a write of a whole
line clears its mark (R413). -/
def markLines (marks : List Nat) (a n : Nat) (mark : Bool) : List Nat :=
  if mark then (linesOf a n).foldl addNew marks
  else marks.filter fun l => !(decide (a ≤ l * 128) && decide ((l + 1) * 128 ≤ a + n))

/-- Write bytes of a block's scratchpad. -/
def scratchWrite (b : Block) (a : Nat) (bs : List Byte) (mark : Bool) : Block :=
  { b with scratch := writeCells b.scratch a bs, scratchMarks := markLines b.scratchMarks a bs.length mark }

end Sys2Proof.Machine
end

