-- ==== Sys2Proof/Machine/Caches.lean ====
section
/-!
DEFINITION. The caches: extents, words and line states of the L1s and the L2 slices, their fills and evictions (R285 to
R293), and the reading and writing of a line at its home (R289, R295, R296).
-/
namespace Sys2Proof.Machine

/-- The four words of a line, by word address. -/
def lineWords (line : Nat) : List Nat := rangeFrom (4 * line) 4

/-- Whether an extent covers a word. -/
def Extent.covers (e : Extent) (w : Nat) : Bool := e.frame == w / 32 && decide (e.lo ≤ w % 32) && decide (w % 32 ≤ e.hi)

/-- Whether a word is present (R287). -/
def cachePresent {α : Type} (c : Cache α) (w : Nat) : Bool := c.extents.any (·.covers w)

/-- A word's data, where it is present. -/
def cacheWord {α : Type} (c : Cache α) (w : Nat) : Option CWord := if cachePresent c w then c.words.find w else none

/-- Touch the extents that cover the given words, and widen what they teach the scribe (R290, R292). -/
def cacheTouch {α : Type} (c : Cache α) (ws : List Nat) : Cache α :=
  let upd (e : Extent) : Extent :=
    if ws.any e.covers then
      let mine := (ws.filter e.covers).map (· % 32)
      { e with
        touched := c.tick + 1
        learn := e.learn.map fun l =>
          { l with low := mine.foldl min l.low, high := mine.foldl max l.high } }
    else e
  { c with extents := c.extents.map upd, tick := c.tick + 1 }

/-- What an extent remembers when another run joins it: the touched words of both (R292). -/
def Learn.join : Option Learn → Option Learn → Option Learn
  | some x, some y => some { x with low := min x.low y.low, high := max x.high y.high }
  | x, _ => x

/-- Add a run of words of a frame that is not present: it extends an adjacent extent, or joins two (R287, rule 3), and the whole was last
touched when the latest of them was (R290). -/
def addRun (es : List Extent) (frame lo hi : Nat) (now : Nat) (learn : Option Learn) : List Extent :=
  let adj := es.filter fun e => e.frame == frame && (e.hi + 1 == lo || e.lo == hi + 1)
  let rest := es.filter fun e => !(e.frame == frame && (e.hi + 1 == lo || e.lo == hi + 1))
  let keep := match adj with | e :: r => (r.map (·.learn) ++ [learn]).foldl Learn.join e.learn | [] => learn
  rest ++ [⟨frame, adj.foldl (fun a e => min a e.lo) lo, adj.foldl (fun a e => max a e.hi) hi, adj.foldl (fun a e => max a e.touched) now, keep⟩]

/-- Install words, skipping those present (R287, rules 1 and 2). `cold` leaves a new extent the coldest of its set. -/
def installWords {α : Type} (c : Cache α) (ws : List (Nat × BitVec 256)) (dirty cold : Bool) (learn : Option Learn) :
    Cache α :=
  let now := c.tick + 1
  ws.foldl (fun (c : Cache α) (p : Nat × BitVec 256) =>
    if cachePresent c p.1 then c
    else { c with extents := addRun c.extents (p.1 / 32) (p.1 % 32) (p.1 % 32) (if cold then 0 else now) learn
                  words := c.words.put p.1 ⟨p.2, dirty⟩ }) { c with tick := now }

/-- Install a line of a bundled page: one extent of its own, whatever lies beside it (R289, R300). -/
def installAlone {α : Type} (c : Cache α) (line : Nat) (ws : List (Nat × BitVec 256)) (cold : Bool) : Cache α :=
  if ws.all fun p => cachePresent c p.1 then c
  else
    { c with
      extents := c.extents ++ [⟨line / 8, line % 8 * 4, line % 8 * 4 + 3, if cold then 0 else c.tick + 1, none⟩]
      words := ws.foldl (fun m p => if cachePresent c p.1 then m else m.put p.1 ⟨p.2, false⟩) c.words
      tick := c.tick + 1 }

/-- Cut a word out of an extent: nothing, one piece or two. -/
def cutWord (e : Extent) (w : Nat) : List Extent :=
  if e.covers w then
    (if e.lo < w % 32 then [{ e with hi := w % 32 - 1 }] else [])
      ++ (if w % 32 < e.hi then [{ e with lo := w % 32 + 1 }] else [])
  else [e]

/-- Remove words from every extent that covers them (R287, rule 4). -/
def removeWords {α : Type} (c : Cache α) (ws : List Nat) : Cache α :=
  { c with
    extents := ws.foldl (fun es w => es.flatMap (cutWord · w)) c.extents
    words := ws.foldl (fun m w => m.del w) c.words }

/-- The dirty words of a line: (word address, data). -/
def dirtyWords {α : Type} (c : Cache α) (line : Nat) : List (Nat × BitVec 256) :=
  (lineWords line).filterMap fun w =>
    match cacheWord c w with | some x => if x.dirty then some (w, x.data) else none | none => none

/-- Whether some word of a line is present. -/
def lineHere {α : Type} (c : Cache α) (line : Nat) : Bool := (lineWords line).any (cachePresent c)

/-- The L1 set of a frame (R286): address bits [13:10]. -/
def l1Set (frame : Nat) : Nat := frame % 16
/-- The L2 set of a frame (R286). -/
def l2Set (frame : Nat) : Nat :=
  let pa := frame * 1024
  bits pa 10 11 ^^^ bits pa 21 11 ^^^ bits pa 32 11 ^^^ bits pa 43 9

/-- Whether a set holds more than its pool, its tags or its line states allow (R286). -/
def overfull {α : Type} (c : Cache α) (setOf : Nat → Nat) (tags set : Nat) : Bool :=
  let es := c.extents.filter fun e => setOf e.frame == set
  decide (256 < (es.map fun e => e.hi + 1 - e.lo).foldl (· + ·) 0) || decide (tags < es.length)
    || decide (64 < (c.lines.filter fun p => setOf (p.1 / 8) == set).length)

/-- The coldest extent of a set, but for those that are being filled (R290). -/
def coldest {α : Type} (c : Cache α) (setOf : Nat → Nat) (set : Nat) (filling : Extent → Bool) : Option Extent :=
  (c.extents.filter fun e => setOf e.frame == set && !filling e).foldl
    (fun a e => match a with | none => some e | some x => if e.touched < x.touched then some e else a) none

/-- The colder piece of an extent that the removal of a line has split where its set has no tag for both (R287, rule 4): both were
last touched at one time, and the lower is taken. -/
def splitPiece {α : Type} (c : Cache α) (setOf : Nat → Nat) (tags line : Nat) : Option Extent :=
  if tags < (c.extents.filter fun e => setOf e.frame == setOf (line / 8)).length then
    c.extents.find? fun e => e.frame == line / 8 && e.hi + 1 == line % 8 * 4
  else none

/-- The words of an extent. -/
def extentWords (e : Extent) : List Nat := rangeFrom (32 * e.frame + e.lo) (e.hi + 1 - e.lo)

/-- The lines of an extent. -/
def extentLines (e : Extent) : List Nat := rangeFrom (8 * e.frame + e.lo / 4) (e.hi / 4 - e.lo / 4 + 1)

/-- The partition that a core works for: the owner of its parcel (R364). -/
def fnOfCore (s : State) (c : Nat) : Nat := (s.platOf (c / 8)).owner

/-- The line address that a record carries: in its slice, here or on the peer, or at the host (R340). -/
def traceLine (s : State) (line : Nat) : Nat :=
  if isDevice (line * 128) then line * 128 % 2 ^ 33
  else if isHost (line * 128) then localOf (line * 128)
  else (512 * s.peerPages.getD (line / 512) (localOf (line * 128) / 65536) + line % 512) * 128 % 2 ^ 33

/-- An event of an extent of a frame (R340). -/
def emitExtent (s : State) (fn src code frame lo hi : Nat) : State :=
  s.emit fn src code (traceLine s (8 * frame) / 1024 * 1024 + lo * 32 + hi)

/-- An event of an extent at a home's L2 slice. -/
def emitL2 (s : State) (home code frame lo hi : Nat) : State :=
  if home < 64 then emitExtent s (s.platOf home).owner (sliceSrc home 4) code frame lo hi else s

/-- What a scribe entry becomes when an extent that taught it is evicted (R292). -/
def train (sc : Map ScribeEntry) (l : Learn) : Map ScribeEntry :=
  if l.high < l.low then sc else
  let lo : Int := (l.low : Int) - l.w
  let hi : Int := (l.high : Int) - l.w
  match sc.find l.idx with
  | none => sc.put l.idx ⟨1, lo, hi⟩
  | some e => sc.put l.idx ⟨if e.hi - e.lo = hi - lo then min 3 (e.conf + 1) else 1, lo, hi⟩

-- Writing back

/-- A writeback of masked words to the home of a line (R287, rule 8). `ack` says that the home waits for it; `gone`
that the sender keeps nothing of the line. -/
def writebackMsg (m : Mail) (home core line : Nat) (ws : List (Nat × BitVec 256)) (ack gone mark : Bool) : Event :=
  .writebackArrival m home core line
    (ws.foldl (fun m p => putBits m (p.1 % 4) 1 1) 0)
    (ws.foldl (fun l p => setLineWord l (p.1 % 4) p.2) (0 : Line)) ack gone mark

/-- Send a message to the home of a line: a peer's line has its home there (R301, R457). -/
def toHome (s : State) (line : Nat) (e : Event) : State :=
  if isPeer (line * 128) then s.emitOut (.message (peerOf (line * 128)) e) else s.send e

/-- The number by which the home of a line knows a core of this module. -/
def homeCore (s : State) (line core : Nat) : Nat := if isPeer (line * 128) then remoteCore s.dev core else core

/-- The home at which an agent on a core asks for a line (R282): of a host line the L2 slice of its cluster, the device-side agent; the hub
asks the host itself. -/
def homeBy (line core : Nat) : Nat := if isHost (line * 128) && decide (core < 1023) then clusterOf core else homeFor line

/-- Whether a home has a state for a line. -/
def homeHas (s : State) (home line : Nat) : Bool := ((s.home home).l2.lines.find line).isSome

/-- Where a line is held: a host line in the one slice that has a state for it, or nowhere (log 16). -/
def homeAt (s : State) (line : Nat) : Nat :=
  if isHost (line * 128) then ((upto 64).find? fun h => homeHas s h line).getD hostHome else homeFor line

/-- Write words of a line back that nobody waits for: the L1 notes it until the home acknowledges them (R297). -/
def writeBack (s : State) (core line : Nat) (ws : List (Nat × BitVec 256)) (gone mark : Bool) : State :=
  let s1 := if ws.isEmpty then s else s.updCore core fun k => { k with writebacks := k.writebacks ++ [line] }
  toHome s1 line (writebackMsg (s.mail (coreDie core)) (homeBy line core) (homeCore s line core) line ws false gone mark)

/-- Evict an extent of an L1: dirty words go to their homes, and a line of which nothing is left loses its state (R290, R298).
`teach` says that the scribe learns from it (R292). -/
def l1EvictExtent (s : State) (core : Nat) (e : Extent) (teach : Bool) : State :=
  let c := (s.core core).l1
  let ws := extentWords e
  let c1 := removeWords c ws
  let lines := extentLines e
  let goneLines := lines.filter fun l => !lineHere c1 l
  let s1 := lines.foldl (fun (a : State) l =>
    let d := (dirtyWords c l).filter fun p => ws.contains p.1
    let gone := goneLines.contains l
    let mark := match c.lines.find l with | some x => x.mark | none => false
    if d.isEmpty && !gone then a else writeBack a core l d gone mark) s
  (emitExtent s1 (fnOfCore s core) (coreSrc core 3) 0x41 e.frame e.lo e.hi).updCore core fun k =>
    { k with
      l1 := { c1 with lines := goneLines.foldl (fun m l => m.del l) c1.lines }
      scribe := match e.learn with | some l => if teach then train k.scribe l else k.scribe | none => k.scribe }

/-- Whether an extent of a core's L1 lies in a frame that a load of the core still waits for (R290). -/
def l1Filling (s : State) (core : Nat) (e : Extent) : Bool :=
  s.strands.any fun p => p.2.core == core && p.2.flight.any fun a => a.2.wanting.any fun l => l / 8 == e.frame

/-- Evict extents of an L1 set until it fits (R290). `fuel` bounds the evictions by the tags of a set. -/
def l1Evict (core : Nat) : Nat → Nat → State → State
  | 0, _, s => s
  | fuel + 1, set, s =>
    let c := (s.core core).l1
    if overfull c l1Set 32 set then
      match coldest c l1Set set (l1Filling s core) with
      | none => s
      | some e => l1Evict core fuel set (l1EvictExtent s core e true)
    else s

/-- Take a line out of an L1, words and state: an extent that this splits may lose a piece for want of a tag (R287, rule 4). -/
def l1Remove (s : State) (core line : Nat) : State :=
  let s1 := s.updCore core fun k =>
    { k with l1 := let r := removeWords k.l1 (lineWords line); { r with lines := r.lines.del line } }
  match splitPiece (s1.core core).l1 l1Set 32 line with
  | some e => l1EvictExtent s1 core e false
  | none => s1

/-- Strands waiting on a word of a line at a home read it again (R146). -/
def wakeAt (s : State) (home line : Nat) : State :=
  let ws := (s.home home).watchers.filter fun w => w.line == line
  ws.foldl (fun a w => a.send (.waitRecheck w.strand))
    (s.updHome home fun h => { h with watchers := h.watchers.filter fun w => w.line != line })

/-- Strands waiting on a word of a line read it again (R146): on a host line those at any slice. -/
def wakeWatchers (s : State) (home line : Nat) : State :=
  if isHost (line * 128) then
    ((s.homes.filter fun p => p.2.watchers.any fun w => w.line == line).map (·.1)).foldl (fun a h => wakeAt a h line) s
  else wakeAt s home line

/-- Whether a line lies on a page that is to be moved (R378). -/
def Move.covers (m : Move) (line : Nat) : Bool := m.pages.any fun p => p.old == line / 512

/-- Note that a write has reached the home of a page that is being moved: the row is to be copied again (R380). -/
def noteMoved (s : State) (line : Nat) : State :=
  match s.move with
  | none => s
  | some m => if m.covers line then { s with move := some { m with dirty := addNew m.dirty (line / 8) } } else s

/-- The bytes a window leaves, in coherence order: ascending rank, and within a rank the order of arrival (R321). -/
def windowBytes (w : Window) : List (Nat × Byte) := (sortBy (·.rank) w.stores).flatMap (·.bytes)

/-- Whether bytes, given by offset, cover a line. -/
def wholeLine (bs : List (Nat × Byte)) : Bool := (upto 128).all fun i => bs.any fun p => p.1 == i

/-- Write bytes, given by offset, to a line in memory, with the mark that the data gives it. -/
def memMerge (s : State) (line : Nat) (bs : List (Nat × Byte)) (mark : Bool) : State :=
  { s with
    mem := writeAll s.mem (bs.map fun p => (128 * line + p.1, p.2))
    poisoned := if mark then addNew s.poisoned line else if wholeLine bs then s.poisoned.filter (· != line) else s.poisoned }

/-- The window of a line is closed by the eviction of the line's state (R320): its stores go to memory, and as no L1 holds the line
they are acknowledged. -/
def evictWindow (s : State) (home line : Nat) : State :=
  match (s.home home).windows.find line with
  | none => s
  | some w =>
    let s1 := noteMoved (s.updHome home fun h => { h with windows := h.windows.del line }) line
    let s2 := memMerge s1 line (windowBytes w) (w.stores.any (·.mark))
    let s3 := w.stores.foldl (fun (a : State) x => a.send (.storeAck x.agent x.acc x.grid)) s2
    wakeWatchers (s3.emit (s.platOf home).owner (sliceSrc home 4) 0x52 (traceLine s line)) home line

/-- Write the dirty words of a line from its L2 to memory (R287, rule 8). -/
def l2Clean (s : State) (home line : Nat) : State :=
  let c := (s.home home).l2
  let d := dirtyWords c line
  let bytes := d.flatMap fun p => number (32 * p.1) (toBytes 32 p.2.toNat)
  let s1 := { s with mem := writeAll s.mem bytes }
  let mark := match c.lines.find line with | some x => x.mark | none => false
  let s2 := if d.isEmpty then s1 else
    { s1 with poisoned := if mark then addNew s1.poisoned line else s1.poisoned.filter (· != line) }
  s2.updHome home fun h =>
    { h with l2 := { h.l2 with words := d.foldl (fun m p => m.put p.1 ⟨p.2, false⟩) h.l2.words } }

/-- Whether a directory entry records any copy. -/
def DirLine.cached (d : DirLine) : Bool :=
  d.owner.isSome || !d.sharers.isEmpty || d.clusters != 0 || !d.remotes.isEmpty

/-- Remove a line's words from an L2, after writing them back. Its state goes too, and its window, unless an L1 still holds the line
or the home is busy with it (R291, R320). What waits on a word of a host line reads it anew, since the host may now change it unheard
(R146). -/
def l2DropLine (s : State) (home line : Nat) : State :=
  let s1 := l2Clean s home line
  let h1 := s1.home home
  let needed := (h1.busy.find line).isSome || match h1.l2.lines.find line with | some d => d.cached | none => false
  let s2 := if needed then s1 else evictWindow s1 home line
  (if isHost (line * 128) then wakeWatchers s2 home line else s2).updHome home fun h =>
    let c := removeWords h.l2 (lineWords line)
    { h with l2 := { c with lines := if needed then c.lines else c.lines.del line } }

/-- Remove a line from an L2: an extent that this splits may lose a piece for want of a tag (R287, rule 4). -/
def l2Drop (s : State) (home line : Nat) : State :=
  let s1 := l2DropLine s home line
  match splitPiece (s1.home home).l2 l2Set 48 line with
  | some e => (extentLines e).foldl (fun a l => l2DropLine a home l) (emitL2 s1 home 0x51 e.frame e.lo e.hi)
  | none => s1

/-- The lines of an L2 set that have a state. -/
def setLines (s : State) (home set : Nat) : List Nat :=
  ((s.home home).l2.lines.filter fun p => l2Set (p.1 / 8) == set).map (·.1)

/-- Whether an L2 set is too full for what it is to hold: `more` line states beside those it has (R286). The hub keeps no lines. -/
def l2Short (s : State) (home set more : Nat) : Bool :=
  decide (home < hostHome) && (overfull (s.home home).l2 l2Set 48 set || decide (64 < (setLines s home set).length + more))

/-- Evict extents of an L2 set, but not that of the line `keep`, which is being filled, until it fits; a line that the directory still
needs keeps its state with no words (R290, R291). -/
def l2Evict (home keep more : Nat) : Nat → Nat → State → State
  | 0, _, s => s
  | fuel + 1, set, s =>
    if l2Short s home set more then
      match coldest (s.home home).l2 l2Set set (fun e => e.covers (4 * keep)) with
      | none => s
      | some e => l2Evict home keep more fuel set
          ((extentLines e).foldl (fun a l => l2DropLine a home l) (emitL2 s home 0x51 e.frame e.lo e.hi))
    else s

/-- The line as memory holds it. -/
def memLine (s : State) (line : Nat) : Line := BitVec.ofNat 1024 (readCells s.mem (128 * line) 128)

/-- The copies of a line at its home and in L1s are marked as poisoned. -/
def markCopies (s : State) (line : Nat) : State :=
  { s with
    homes := s.homes.upd (homeFor line) fun h => { h with l2 := { h.l2 with lines := h.l2.lines.upd line fun d => { d with mark := true } } }
    cores := s.cores.map fun p => (p.1, { p.2 with l1 := { p.2.l1 with lines := p.2.l1.lines.upd line fun x => { x with mark := true } } }) }

/-- Find out whether a line's integrity tag does not match (R374, R375): such a line is poisoned in memory and wherever it is held, and
its owner's ring takes the record, of the BSU in which the row lies (R351). -/
def checkTag (s : State) (line : Nat) : Bool × State :=
  if s.badTags.contains line then
    let pa := line * 128
    (true, (markCopies { s with badTags := s.badTags.filter (· != line), poisoned := addNew s.poisoned line } line).emit
      (s.platOf (parcelOf pa)).owner (sillSrc (sliceOf pa) 9 (sliceOf pa % 8 * 16 + line / 8 % 16)) 0x84 (sliceOf pa % 8 * 2 ^ 29 + pa % 2 ^ 33 / 1024))
  else (false, s)

/-- Whether a line has a state in its home, or a state is free for it (R290, R291). -/
def hasRoom (s : State) (home line : Nat) : Bool :=
  decide (hostHome ≤ home) || homeHas s home line || decide ((setLines s home (l2Set (line / 8))).length < 64)

/-- Evict extents until a line state is free for a line, if that suffices (R290). -/
def makeRoom (s : State) (home line : Nat) : State :=
  if hasRoom s home line then s else l2Evict home line 1 64 (l2Set (line / 8)) s

/-- Install a line in its home's L2, which has a line state for it. -/
def l2Put (s : State) (home line : Nat) (cold : Bool) : State :=
  let h := s.home home
  let d := h.l2.lines.getD line { DirLine.new with mark := s.poisoned.contains line }
  let ml := memLine s line
  let ws := (lineWords line).map fun w => (w, lineWord ml (w % 4))
  let c0 := if cold then cacheTouch h.l2 ((lineWords line).filter (cachePresent h.l2)) else h.l2
  let c := if (s.versions.find line).isSome then installAlone c0 line ws cold else installWords c0 ws false cold none
  let c1 := if cold then c else cacheTouch c (lineWords line)
  let s1 := s.updHome home fun h => { h with l2 := { c1 with lines := c1.lines.put line d } }
  l2Evict home line 0 64 (l2Set (line / 8))
    (if (lineWords line).all (cachePresent h.l2) then s1 else emitL2 s1 home 0x50 (line / 8) (line % 8 * 4) (line % 8 * 4 + 3))

/-- Bring a line into its home's L2, with a directory entry (R289, R302), where a line state is free for it (R291). A line of a bundled
page is an extent of its own (R300). `cold` makes a new extent the coldest of its set; words that are present are touched (R288, R290). -/
def l2Fill (s : State) (home line : Nat) (cold : Bool) : State :=
  let s1 := makeRoom s home line
  if hasRoom s1 home line then l2Put s1 home line cold else s1

/-- The same for an access to the line, which checks its tag (R374). A fill of more than an access touches leaves the check to the access
that will (R293). -/
def l2Read (s : State) (home line : Nat) (cold : Bool) : State := l2Fill (checkTag s line).2 home line cold

/-- The directory entry of a line. -/
def dirOf (s : State) (home line : Nat) : DirLine := (s.home home).l2.lines.getD line .new

/-- Change the directory entry of a line. -/
def updDir (s : State) (home line : Nat) (f : DirLine → DirLine) : State :=
  s.updHome home fun h => { h with l2 := { h.l2 with lines := h.l2.lines.updD line .new f } }

/-- The line as its home's L2 and memory hold it. -/
def homeLine (s : State) (home line : Nat) : Line :=
  let c := (s.home home).l2
  (lineWords line).foldl (fun l w =>
    match cacheWord c w with | some x => setLineWord l (w % 4) x.data | none => l) (memLine s line)

/-- The line as coherence gives it: the home's copy with the owner's dirty words over it (R296). Stores of an open
window are not seen (R322). -/
def coherentLine (s : State) (home line : Nat) : Line :=
  match (dirOf s home line).owner with
  | none => homeLine s home line
  | some o => (dirtyWords (s.core o).l1 line).foldl (fun l p => setLineWord l (p.1 % 4) p.2) (homeLine s home line)

/-- Whether a line is poisoned, wherever it is held (R413). -/
def linePoisoned (s : State) (home line : Nat) : Bool :=
  match (s.home home).l2.lines.find line with
  | some d => d.mark || (match d.owner with
      | some o => (match (s.core o).l1.lines.find line with | some x => x.mark | none => false)
      | none => false)
  | none => s.poisoned.contains line

/-- Merge bytes, given by offset, into the home's copy of a line, and mark the line as the data says: poisoned data
marks it, and a write of all of it clears the mark (R287, R413). Where the home has no line state for it they go to memory (R291). -/
def homeMerge (s : State) (home line : Nat) (bs : List (Nat × Byte)) (mark : Bool) : State :=
  let whole := wholeLine bs
  let s0 := if whole then { s with badTags := s.badTags.filter (· != line) } else s
  let s1 := noteMoved (l2Read s0 home line false) line
  if homeHas s1 home line then
    let l := mergeBytes (homeLine s1 home line) bs
    let touched := (lineWords line).filter fun w => bs.any fun p => p.1 / 32 == w % 4
    let s2 := s1.updHome home fun h =>
      { h with l2 := { h.l2 with
          words := touched.foldl (fun m w => m.put w ⟨lineWord l (w % 4), true⟩) h.l2.words } }
    wakeWatchers (updDir s2 home line fun d => { d with mark := if mark then true else if whole then false else d.mark })
      home line
  else wakeWatchers (memMerge s1 line bs mark) home line

-- Accesses of engines, walkers and the hub, at once (log 5): they happen when no message is on its way

/-- Forget a core's copy. A cluster's bit stays: another core of it may hold one. -/
def DirLine.dropCore (d : DirLine) (core : Nat) : DirLine :=
  let rs := d.remotes.filter fun r => remoteCore r.dev r.core != core
  { d with sharers := d.sharers.filter (· != core), owner := if d.owner = some core then none else d.owner
           remotes := rs, domain := d.domain && rs.any fun r => r.core == 1023 }

/-- Whether a remote agent counts: the entry of a module, or of a cluster of its present incarnation (R295, R459). -/
def Remote.live (s : State) (r : Remote) : Bool :=
  r.core == 1023 || s.peerIncarn.getD (64 * r.dev + r.cluster) 0 == r.incarn

/-- The cores that an invalidation goes to: the owner and the sharers, of the incarnation recorded (R295, R417). -/
def DirLine.holders (s : State) (d : DirLine) : List Nat :=
  let all := (match d.owner with | some o => [o] | none => [])
    ++ (if d.clusters != 0 then (ones 64 d.clusters.toNat).flatMap fun c => rangeFrom (8 * c) 8 else d.sharers)
    ++ (d.remotes.filter (Remote.live s)).map fun r => remoteCore r.dev r.core
  (all.foldl addNew []).filter fun c =>
    match d.incarns.find (c / 8) with | some n => n == (s.cluster (c / 8)).incarn | none => true

/-- Write a line of this core's L1 back to its home, at once, and drop it if `drop` (R148). A peer's home is sent the
writeback. -/
def l1Clean (s : State) (core line : Nat) (drop : Bool) : State :=
  let c := (s.core core).l1
  match c.lines.find line with
  | none => s
  | some x =>
    let home := homeBy line core
    let d := dirtyWords c line
    let s1 := if isPeer (line * 128) then (if d.isEmpty && !drop then s else writeBack s core line d drop x.mark)
      else if d.isEmpty then s
      else homeMerge s home line (d.flatMap fun p => number (32 * (p.1 % 4)) (toBytes 32 p.2.toNat)) x.mark
    if drop then
      let s2 := l1Remove s1 core line
      if ((s2.home home).l2.lines.find line).isSome then updDir s2 home line fun e => e.dropCore core else s2
    else
      s1.updCore core fun k =>
        { k with l1 := { k.l1 with words := d.foldl (fun m p => m.put p.1 ⟨p.2, false⟩) k.l1.words } }

/-- Close the open window of a line and take every L1's copy back, at once (R296, R320); copies on peers are invalidated. -/
def settleLine (s : State) (home line : Nat) : State :=
  let s1 := match (s.home home).windows.find line with
    | none => s
    | some w =>
      let a := homeMerge (s.updHome home fun h => { h with windows := h.windows.del line }) home line (windowBytes w)
        (w.stores.any (·.mark))
      w.stores.foldl (fun b x => b.send (.storeAck x.agent x.acc x.grid))
        (a.emit (s.platOf home).owner (sliceSrc home 4) 0x52 (traceLine s line))
  let s2 := (((dirOf s1 home line).holders s1).filter (· < 1024)).foldl (fun a c => l1Clean a c line true) s1
  if (dirOf s2 home line).remotes.isEmpty then s2 else
    (dirOf s2 home line).remotes.foldl (fun (a : State) r =>
      updDir (a.emitOut (.message r.dev (.l1Invalidation (a.mail (homeDie home)) home r.core r.name))) home line fun d =>
        d.dropCore (remoteCore r.dev r.core)) s2

/-- Store bytes at a global address of this module or of the host, for an agent without an L1 (R289): every copy is
taken back first, and host memory is written through. -/
def farStore (s : State) (ga : Nat) (bs : List Byte) (mark : Bool) : State :=
  (linesOf ga bs.length).foldl (fun a l =>
    let h := homeAt s l
    let mine := ((number ga bs).filter fun p => p.1 / 128 == l).map fun p => (p.1 % 128, p.2)
    let a1 := homeMerge (settleLine a h l) h l mine mark
    if isDevice (l * 128) then a1 else l2Drop a1 h l) s

/-- Store a number of `n` bytes. -/
def farWrite (s : State) (ga n x : Nat) : State := farStore s ga (toBytes n x) false

/-- Whether a line lies on a page in host bias (R453). -/
def hostBiased (s : State) (line : Nat) : Bool := s.hostBias.contains (line / 32)

/-- What one read of a line finds, by an agent that waits for nothing (log 5): in host bias the home snoops the host, and what
the host has is a free value (R454). -/
def deviceView (s : State) (home line : Nat) : Line :=
  if hostBiased s line then
    match Config.hostDirty line s.free with | some l => l | none => coherentLine s home line
  else coherentLine s home line

/-- Read `n` bytes at a global address as an agent does at the homes, without an L1 (R289): the bytes as a number, and whether a line of
them is poisoned. -/
def farRead (s : State) (ga n : Nat) : Nat × Bool :=
  let bytes := (rangeFrom ga n).map fun a => lineByte (deviceView s (homeAt s (a / 128)) (a / 128)) (a % 128)
  (ofBytes bytes, (linesOf ga n).any fun l => linePoisoned s (homeAt s l) l)

/-- Whether the open window of a line holds a store of a core. -/
def ownWindow (s : State) (core : Option Nat) (home line : Nat) : Bool :=
  match core, (s.home home).windows.find line with
  | some c, some w => w.stores.any fun x => x.core == c
  | _, _ => false

/-- What a read at the homes by an agent of a core does beside giving the bytes: the tags are checked (R374), words that an L2 holds are
touched (R290), and the core's own stores come first (R304, R403). -/
def readNote (s : State) (core : Option Nat) (ga n : Nat) : State :=
  (linesOf ga n).foldl (fun (a : State) l =>
    let h := homeAt a l
    let b := (checkTag (if ownWindow a core h l then settleLine a h l else a) l).2
    if homeHas b h l then b.updHome h fun x => { x with l2 := cacheTouch x.l2 ((lineWords l).filter fun w => decide (32 * w < ga + n) && decide (ga < 32 * w + 32)) }
    else b) s

end Sys2Proof.Machine
end

