-- ==== Sys2Proof/Machine/Meters.lean ====
section
/-!
DEFINITION. The bandwidth meters of the links (R388 to R390): the buckets, the path between dies and to the host port, and the reads
and writes that walkers and the hub make within one step.
-/
namespace Sys2Proof.Machine

-- Buckets (R389, R390)

/-- A direction of a meter's link: meters 0 to 7 have two; towards the host port, the fabric ports and peers there is one. -/
def hopOf (meter dir : Nat) : Nat := 2 * meter + dir

/-- A function's meter word (R389). -/
def meterWord (s : State) (fn meter : Nat) : Nat := (s.fn fn).meters.getD meter 0
/-- RATE of the link of a hop: 0 is no limit. -/
def hopRate (s : State) (fn hop : Nat) : Nat := meterWord s fn (hop / 2) % 512

/-- The unit of a bucket's level: 1/4,096,000 byte, of which RATE × the link's MB/s come in every unit of the datum clock. -/
def byteUnits : Nat := 4096000
/-- A bucket's capacity in units: BURST in 4 KiB, 0 standing for 1. -/
def bucketCap (word : Nat) : Int := max 1 (bits word 16 16) * 4096 * byteUnits

/-- A bucket, filled up to now; one that is not listed is full (R390). -/
def bucketNow (s : State) (fn hop : Nat) : Bucket :=
  let cap := bucketCap (meterWord s fn (hop / 2))
  match s.buckets.find (36 * fn + hop) with
  | none => ⟨cap, s.datum, false⟩
  | some b => { b with
      level := min cap (b.level + hopRate s fn hop * Config.linkRate (hop / 2) * (s.datum - b.filled)), filled := s.datum }

/-- Whether a flit may leave (R390): its bucket is above 0. -/
def hopOpen (s : State) (fn hop : Nat) : Bool := hopRate s fn hop == 0 || decide (0 < (bucketNow s fn hop).level)

/-- Take the tokens of a message's flits, `n` bytes; the first time since the METER packet that the bucket empties is recorded
(R390). -/
def takeBytes (s : State) (fn hop n : Nat) : State :=
  if hopRate s fn hop = 0 then s
  else
    let b := bucketNow s fn hop
    let l := b.level - n * byteUnits
    let first := decide (l ≤ 0) && !b.noted
    let s1 := { s with buckets := s.buckets.put (36 * fn + hop) { b with level := l, noted := b.noted || first } }
    if first then s1.emitNotice pf (hubSrc 8) 0xC1 true none else s1

/-- A METER packet's word: both directions of the meter start full (R389, R390). -/
def setMeter (s : State) (fn meter word : Nat) : State :=
  { s with buckets := (s.buckets.del (36 * fn + hopOf meter 0)).del (36 * fn + hopOf meter 1) }.updFn fn fun f =>
    { f with meters := f.meters.put meter word }

-- Paths (R388; log 30)

/-- The frame die of a core, or of a sill core's stack; 4 is the hub. -/
def frameOf (core : Nat) : Nat := if core < 512 then core / 128 else if core < 640 then (core - 512) / 32 else 4
/-- The frame die of a home; the host's lies beyond the hub. -/
def frameOfHome (home : Nat) : Nat := if home < 64 then home / 16 else 4

/-- The hops between two dies: neighbours on the ring of frame dies by their link, opposite ones by one of the two ways, and the hub by
its own links. -/
def path (a b : Nat) : List Nat :=
  let up (d : Nat) : Nat := hopOf (d % 4) 0
  let down (d : Nat) : Nat := hopOf ((d + 3) % 4) 1
  if a = b then []
  else if b = 4 then [hopOf (4 + a) 0]
  else if a = 4 then [hopOf (4 + b) 1]
  else
    match (b + 4 - a) % 4 with
    | 1 => [up a]
    | 3 => [down a]
    | _ => if Config.ringWay a b then [up a, up (a + 1)] else [down a, down (a + 3)]

/-- The hops of a message with some bytes of data. -/
def withBytes (data : Nat) (hops : List Nat) : List (Nat × Nat) := hops.map fun h => (h, Config.messageBytes data)

/-- A message has gone from one die to another and has been answered: the clock is past both transits (R337). -/
def transit (s : State) (die home : Nat) : State := if die = home then s else { s with datum := s.datum + 32 }

/-- A read or a write of `n` bytes that a walker or the hub makes within one step takes the tokens of its request and of its answer, to
host memory those of the host port too (R388; log 30), and the time of both between dies (R337). -/
def chargeFar (s : State) (fn die ga n : Nat) (write : Bool) : State :=
  let home := if isDevice ga then frameOfHome (homeFor (ga / 128)) else 4
  let port := if isHost ga then [hopOf 8 0] else []
  let there := withBytes (if write then n else 0) (path die home ++ port)
  let back := withBytes (if write then 0 else n) (path home die)
  (there ++ back).foldl (fun a h => takeBytes a fn h.1 h.2) (transit s die home)

end Sys2Proof.Machine
end

