-- ==== Sys2Proof/Machine/Translate.lean ====
section
/-!
DEFINITION. Address translation: the TLBs, the walk of stage 1 and stage 2, ATS, and the outcomes of R402 (R399 to
R406), with the dirty bits and the dirty-hint log (R411, R412), and parking with its fault requests (R407, R408).
-/
namespace Sys2Proof.Machine

/-- The agent that a translation serves: function, PASID, cluster, and the core whose L1 TLB it uses, if any. -/
structure Who where
  fn    : Nat
  pasid : Nat
  cl    : Nat
  core  : Option Nat
  deriving DecidableEq, Repr

/-- Which pages an access may touch (R138, R268): any; plain ones, with the cause that it raises on a bundled one; bundled ones. -/
inductive PageNeed where
  | any
  | plain (cause : Nat)
  | bundled
  deriving DecidableEq, Repr

/-- What an access asks of its page (R400): a write, a fetch or else a read; and whether it is to be bundled. -/
structure Ask where
  write : Bool
  fetch : Bool
  bun   : PageNeed
  deriving DecidableEq, Repr

/-- The outcome of a translation (R402). A replayable outcome gives its kind, the GPA or host address for the record, and
whether the page holds a stage-1 table. -/
inductive Xlate where
  | ok (ga : Nat) (leaf : Leaf)
  | trap (cause : Nat)
  | replay (kind gpa : Nat) (table : Bool)
  deriving DecidableEq, Repr

/-- The outcome of stage 2 for one page. -/
inductive Stage2 where
  /-- The leaf's global address and its value, and whether an entry above it has a reserved field that is not 0. -/
  | leaf (at_ v : Nat) (bad : Bool)
  | absent
  deriving DecidableEq, Repr

/-- The GPA index at a level of stage 2 (R401). -/
def s2Index (gpa lvl : Nat) : Nat := bits gpa (16 + 12 * lvl) 12

/-- The die of the unit that translates: its cluster's, or the hub (R388). -/
def Who.die (w : Who) : Nat := frameOfHome w.cl

/-- Read a table entry for an agent, as its acquire load (R403). -/
def readEntry (s : State) (w : Who) (at_ : Nat) : Nat × State :=
  let s1 := readNote (chargeFar s w.fn w.die at_ 8 false) w.core at_ 8
  ((farRead s1 at_ 8).1, s1)

/-- Walk stage 2 from a table down (R401): `lvl` levels lie below the present one. An entry that is absent, or a leaf that refuses the
access, comes before a reserved field above it (R402, orders 3 to 5): `bad` says that there is one. -/
def s2Walk (w : Who) (host : Bool) (gpa : Nat) : Nat → Nat → Bool → State → Stage2 × State
  | lvl, table, bad, s =>
    let at_ := (if host then hostBase else 0) + table + 8 * s2Index gpa lvl
    let r := readEntry s w at_
    let v := r.1
    match lvl with
    | 0 => (if bitOf v 0 then .leaf at_ v bad else .absent, r.2)
    | l + 1 =>
      if !bitOf v 0 then (.absent, r.2)
      else s2Walk w host gpa l (bits v 15 37 * 2 ^ 15) (bad || bits v 52 12 != 0 || bits v 1 14 != 0) r.2

/-- Stage 2 of a function's page (R401). S2ROOT's address is a module physical address or a host address (log 15). -/
def stage2 (s : State) (w : Who) (gpa : Nat) : Stage2 × State :=
  let root := (s.fn w.fn).s2root
  s2Walk w (bitOf root 0) gpa 2 (bits root 15 37 * 2 ^ 15) false s

/-- Whether a physical page lies in mappable memory (R327, R363): 6 GiB of a slice, less the version area in the second
slice of a parcel. -/
def mappable (pa : Nat) : Bool :=
  let o := pa % 2 ^ 33
  decide (pa < 2 ^ 40) && decide (o < 6 * 2 ^ 30 - (if sliceOf pa % 2 = 1 then 64 * 2 ^ 20 else 0))

/-- Whether a function owns the slice of a physical address (R364, R367). -/
def owns (s : State) (fn pa : Nat) : Bool := (s.platOf (parcelOf pa)).owner == fn

/-- Append a page to the function's dirty-hint log, or note that it overflowed (R412). WRIDX and RDIDX are the first two
words of the header (R341). -/
def logHint (s : State) (fn gpa : Nat) : State :=
  let f := s.fn fn
  if !f.dhEn || f.dhOvf then s
  else
    let base := hostBase + f.dhBase
    let s := chargeFar s fn 4 base 16 false
    let wr := (farRead s base 8).1
    let rd := (farRead s (base + 8) 8).1
    if wr - rd = 4096 then s.updFn fn fun f => { f with dhOvf := true }
    else farWrite (farWrite (chargeFar s fn 4 base 16 true) (base + 0x80 + 8 * (wr % 4096)) 8 (gpa / 65536 * 65536)) base 8 (wr + 1)

/-- A stage-2 leaf with A set on use, and D on a write (R403, R411). -/
def usedLeaf (v : Nat) (write : Bool) : Nat :=
  let v1 := putBits v 4 1 1
  if write then putBits v1 5 1 1 else v1

/-- The walker's compare-and-swap of a stage-2 leaf: A is set on use, and D, with its hint, before a write (R403, R411,
R412). -/
def setAD (s : State) (w : Who) (gpa at_ v : Nat) (write : Bool) : State :=
  let v2 := usedLeaf v write
  let s1 := if v2 = v then s else farWrite (chargeFar s w.fn w.die at_ 8 true) at_ 8 v2
  if write && !bitOf v 5 then logHint s1 w.fn gpa else s1

/-- Whether the walker's compare-and-swap of a leaf would find another value than it read: stores to its line are in an open window,
which the compare-and-swap closes (R302, R322, R403). -/
def leafOpen (s : State) (at_ v : Nat) (write : Bool) : Bool :=
  usedLeaf v write != v && ((s.home (homeAt s (at_ / 128))).windows.find (at_ / 128)).isSome

/-- Stage 2 for an access that sets A and D: a compare-and-swap that fails makes the walk start again from stage 2's root (R403). -/
def stage2For (w : Who) (gpa : Nat) (write : Bool) : Nat → State → Stage2 × State
  | 0, s => stage2 s w gpa
  | n + 1, s =>
    match stage2 s w gpa with
    | (.leaf at_ v bad, s1) =>
      if leafOpen s1 at_ v write then stage2For w gpa write n (settleLine s1 (homeAt s1 (at_ / 128)) (at_ / 128))
      else (.leaf at_ v bad, s1)
    | r => r

/-- Report a bad stage-2 entry: CLASS 3, without the error state (R402, R415). -/
def reportBadLeaf (s : State) (fn : Nat) : State :=
  s.updFn fn fun f => if f.err then f else { f with errClass := 3, errCause := cTranslation }

/-- A home refuses a function that does not own the slice (R367): the slice's counter rises, and a record goes to the requester's
ring only (log 18). -/
def refuseForeign (s : State) (fn pa : Nat) : State :=
  let n := sliceOf pa
  { s with refusals := s.refusals.updD (16 * n) 0 fun c => min 0xFFFFFFFF (c + 1) }.emit fn (sillSrc n 9 (n % 8 * 16)) 0x83
    (n % 8 * 2 ^ 29 + pa % 2 ^ 33 / 1024)

/-- One page through stage 2 for a read, write or fetch: the physical page, or the outcome (R402, orders 3 to 5). -/
def viaStage2 (s : State) (w : Who) (gpa : Nat) (write fetch table : Bool) : Xlate × State :=
  match stage2For w gpa write 4 s with
  | (.absent, s) => (.replay 1 gpa table, s)
  | (.leaf at_ v bad, s) =>
    let r := bitOf v 1
    let wr := bitOf v 2
    let x := bitOf v 3
    if !(if write then wr else if fetch then x else r) then (.replay 2 gpa table, s)
    else
      let pa := bits v 16 36 * 65536
      if bad = true ∨ bits v 52 12 ≠ 0 ∨ bits v 6 10 ≠ 0 ∨ mappable pa = false ∨ owns s w.fn pa = false then
        (.trap cTranslation, reportBadLeaf s w.fn)
      else
        (.ok (pa + gpa % 65536)
          ⟨0, 0, 0, false, true, true, true, r, wr, x, write || bitOf v 5, gpa / 65536, pa⟩,
          setAD s w gpa at_ v write)

/-- The VA index at a level of stage 1 (R400): twelve bits at the top, thirteen below. -/
def s1Index (va lvl : Nat) : Nat := bits va (16 + 13 * lvl) (if lvl = 4 then 12 else 13)

/-- What a stage-1 leaf gives, or why it is refused (R400, R402, order 1). -/
def s1Leaf (v : Nat) : Option Leaf :=
  let tgt := bits v 9 2
  let bun := bitOf v 6
  if !bitOf v 0 || bits v 11 5 != 0 || bits v 7 2 != 0 || bits v 4 2 == 3 || tgt == 3 || (bun && tgt == 1)
      || (tgt != 2 && bits v 52 12 != 0) then none
  else some ⟨tgt, bits v 52 12, bits v 4 2, bun, bitOf v 1, bitOf v 2, bitOf v 3, true, true, true, true,
    bits v 16 36, 0⟩

/-- The permission checks of a stage-1 leaf (R402, order 2). -/
def s1Refuses (l : Leaf) (a : Ask) : Option Nat :=
  if !(if a.write then l.w else if a.fetch then l.x else l.r) then some cPermission
  else
    match a.bun with
    | .any => none
    | .plain c => if l.bun then some c else none
    | .bundled => if l.bun then none else some cPermission

/-- Walk stage 1 from the table at a GPA: the leaf's value, or an outcome; and the stage-2 pages used (R400, R402). -/
def s1Walk (s : State) (w : Who) (va : Nat) : Nat → Nat → List Nat → (Xlate ⊕ Nat × List Nat) × State
  | lvl, table, via =>
    let gpa := table + 8 * s1Index va lvl
    match viaStage2 s w gpa false false true with
    | (.ok ga _, s0) =>
      let e := readEntry s0 w ga
      let v := e.1
      let s1 := e.2
      match lvl with
      | 0 => (.inr (v, gpa / 65536 :: via), s1)
      | l + 1 =>
        if !bitOf v 0 || bits v 52 12 != 0 || bits v 1 15 != 0 then (.inl (.trap cTranslation), s1)
        else s1Walk s1 w va l (bits v 16 36 * 65536) (gpa / 65536 :: via)
    | (o, s1) => (.inl o, s1)

/-- Translate by walking (R399 to R403, R406): the outcome, the pages whose stage-2 leaves it used, and the state. -/
def walk (s : State) (w : Who) (a : Ask) (va : Nat) : Xlate × List Nat × State :=
  match s1Walk s w va 4 (bits (s.fn w.fn).s1root 16 36 * 65536) [] with
  | (.inl o, s1) => (o, [], s1)
  | (.inr (v, via), s1) =>
    match s1Leaf v with
    | none => (.trap cTranslation, via, s1)
    | some l =>
      match s1Refuses l a with
      | some c => (.trap c, via, s1)
      | none =>
        let gpa := l.gpa * 65536 + va % 65536
        if l.tgt = 0 then
          match viaStage2 s1 w gpa a.write a.fetch false with
          | (.ok ga l2, s2) =>
            (.ok ga { l with r2 := l2.r2, w2 := l2.w2, x2 := l2.x2, d2 := l2.d2, base := l2.base }, l.gpa :: via, s2)
          | (o, s2) => (o, via, s2)
        else if l.tgt = 1 then
          let ans := Config.atsAnswer w.pasid l.gpa s1.free
          let s2 := { s1 with free := s1.free + 1 }
          if !(if a.write then bitOf ans 1 else bitOf ans 0) then (.replay 3 (l.gpa * 65536) false, via, s2)
          else
            let base := hostBase + ans / 4 * 65536
            (.ok (base + va % 65536)
              { l with r2 := bitOf ans 0, w2 := bitOf ans 1, x2 := bitOf ans 0, base := base }, via, s2)
        else
          let base := peerBase l.dev + l.gpa * 65536
          (.ok (base + va % 65536) { l with base := base }, via, s1)

/-- Whether a TLB entry answers an access: its stage-1 and stage-2 bits allow it, and a write finds D set (R404). -/
def tlbAnswers (l : Leaf) (a : Ask) : Bool :=
  (s1Refuses l a).isNone && (if a.write then l.w2 && l.d2 else if a.fetch then l.x2 else l.r2)

/-- Find a page in a TLB. -/
def tlbFind (t : List TlbEntry) (fn pasid page : Nat) : Option TlbEntry :=
  t.find? fun e => e.fn == fn && e.page == page && (e.leaf.tgt != 1 || e.pasid == pasid)

/-- `n` bytes of a packet at an offset. -/
def Grid.at_ (x : Grid) (o n : Nat) : Nat := bits x.body (8 * o) (8 * n)

/-- The entries that an INVALIDATE names (R405): those that used a stage-2 leaf or table of a GPA range, or the ATS entries of a
host range. -/
def invalidates (x : Grid) (e : TlbEntry) : Bool :=
  let first := x.at_ 8 8 / 65536
  let within (p : Nat) : Bool := decide (first ≤ p) && decide (p < first + x.at_ 0x10 4)
  e.fn == x.at_ 3 1
    && (if x.at_ 2 1 = 0 then e.via.any within else e.leaf.tgt == 1 && e.pasid == x.at_ 0x14 4 && within e.leaf.gpa)

/-- The entries that a function's stage-1 invalidation names (R405). -/
def s1Names (v : Nat) (e : TlbEntry) : Bool :=
  bitOf v 1 || e.page == (if bitOf v 3 then 0 else bits v 4 12 * 16) * 2 ^ 48 + bits v 16 48

/-- The ATS entries of a range (R406). -/
def atsNames (pasid page pages : Nat) (e : TlbEntry) : Bool :=
  e.leaf.tgt == 1 && e.pasid == pasid && decide (page ≤ e.leaf.gpa) && decide (e.leaf.gpa < page + pages)

/-- Whether an entry is named by an invalidation under way: no TLB takes it before that is complete (R405, R406). -/
def beingRemoved (s : State) (e : TlbEntry) : Bool :=
  (!(s.fn e.fn).s1done && s1Names (s.fn e.fn).s1inv e)
  || (s.grids.any fun p => p.2.kind == 0x43 && p.2.step != 0 && p.2.result.isNone && !p.2.isOver && invalidates p.2 e)
  || s.atsPending.any fun p => atsNames p.1 p.2.1 p.2.2.1 e

/-- Add an entry: the oldest goes when the TLB is full. -/
def tlbAdd (t : List TlbEntry) (cap : Nat) (e : TlbEntry) : List TlbEntry :=
  (t.filter fun x => !(x.fn == e.fn && x.page == e.page && x.pasid == e.pasid)).drop (t.length + 1 - cap) ++ [e]

/-- Remove a page. -/
def tlbDrop (t : List TlbEntry) (fn page : Nat) : List TlbEntry := t.filter fun x => !(x.fn == fn && x.page == page)

/-- An event of class 6 (R340): the unit of the cluster, or the hub. -/
def emitFault (s : State) (w : Who) (code off : Nat) : State :=
  s.emit w.fn (if w.cl < 64 then sliceSrc w.cl 7 else hubSrc 0) code off

/-- Translate an 80-bit virtual address (R399 to R404): a TLB entry that answers is used as it stands, and an L2 TLB gives it
to the core's; one that does not is discarded and the walk decides. The home checks the owner of the slice either way (R367). -/
def translate (s : State) (w : Who) (a : Ask) (va : Nat) : Xlate × State :=
  let page := va / 65536
  let l1 := match w.core with | some c => tlbFind (s.core c).tlb w.fn w.pasid page | none => none
  let hit := match l1 with | some e => some e | none => tlbFind (s.cluster w.cl).tlb w.fn w.pasid page
  let miss : Xlate × State :=
    let s0 := emitFault s w 0x60 va
    let s1 := (match w.core with | some c => s0.updCore c fun k => { k with tlb := tlbDrop k.tlb w.fn page } | none => s0)
      |>.updCluster w.cl fun k => { k with tlb := tlbDrop k.tlb w.fn page }
    match walk s1 w a va with
    | (.ok ga l, via, s2) =>
      let e : TlbEntry := ⟨w.fn, w.pasid, page, via, l⟩
      if beingRemoved s2 e then (.ok ga l, s2) else
      let s3 := s2.updCluster w.cl fun k => { k with tlb := tlbAdd k.tlb 2048 e }
      (.ok ga l, match w.core with | some c => s3.updCore c fun k => { k with tlb := tlbAdd k.tlb 64 e } | none => s3)
    | (o, _, s2) => (o, s2)
  match hit with
  | some e =>
    if !tlbAnswers e.leaf a then miss
    else if e.leaf.tgt == 0 && !owns s w.fn e.leaf.base then (.trap cPermission, refuseForeign s w.fn e.leaf.base)
    else
      (.ok (e.leaf.base + va % 65536) e.leaf, match l1, w.core with
        | none, some c => s.updCore c fun k => { k with tlb := tlbAdd k.tlb 64 e }
        | _, _ => s)
  | none => miss

/-- Whether the leaf of stage 1 of an address is there and marks its page as bundled (R188, R400). -/
def leafBun (s : State) (w : Who) (va : Nat) : Bool × State :=
  match s1Walk s w va 4 (bits (s.fn w.fn).s1root 16 36 * 65536) [] with
  | (.inr (v, _), s1) => ((match s1Leaf v with | some l => l.bun | none => false), s1)
  | (.inl _, s1) => (false, s1)

/-- The page at an address if it is mapped and resident, whatever its permission bits (R147). -/
def probePage (s : State) (w : Who) (va : Nat) : Option (Nat × Leaf) × State :=
  match s1Walk s w va 4 (bits (s.fn w.fn).s1root 16 36 * 65536) [] with
  | (.inl _, s1) => (none, s1)
  | (.inr (v, _), s1) =>
    match s1Leaf v with
    | none => (none, s1)
    | some l =>
      let off := va % 65536
      if l.tgt = 0 then
        match stage2 s1 w (l.gpa * 65536) with
        | (.leaf _ x bad, s2) =>
          let pa := bits x 16 36 * 65536
          (if bad = false ∧ bits x 52 12 = 0 ∧ bits x 6 10 = 0 ∧ mappable pa = true ∧ owns s2 w.fn pa = true
            then some (pa + off, { l with base := pa }) else none, s2)
        | (.absent, s2) => (none, s2)
      else if l.tgt = 1 then
        let ans := Config.atsAnswer w.pasid l.gpa s1.free
        (if ans = 0 then none else some (hostBase + ans / 4 * 65536 + off, { l with base := hostBase + ans / 4 * 65536 }),
          { s1 with free := s1.free + 1 })
      else (some (peerBase l.dev + l.gpa * 65536 + off, { l with base := peerBase l.dev + l.gpa * 65536 }), s1)

-- Parking and fault requests (R407, R408)

/-- A page that an access could not use: what its record will say. -/
structure PageFault where
  win   : Nat
  off   : Nat
  kind  : Nat
  gpa   : Nat
  table : Bool
  write : Bool
  fetch : Bool
  deriving DecidableEq, Repr

/-- Whether two outcomes concern one page (R408): the page that is not usable, whatever names led to it. -/
def PageFault.samePage (p q : PageFault) : Bool :=
  p.gpa / 65536 == q.gpa / 65536 && p.table == q.table && (p.kind == 3) == (q.kind == 3)

/-- Whether a staged entry names the page of a request (R408). -/
def FaultEntry.names (e : FaultEntry) (w : Who) (p : PageFault) : Bool :=
  e.fn == w.fn && e.gpa / 65536 == p.gpa / 65536 && bitOf e.flags 3 == p.table && (e.kind == 3) == (p.kind == 3)
    && (p.kind != 3 || e.pasid == w.pasid)

/-- The time from a fault request to its record in an empty ring, and from one record to the next, in ns: those of the run that the spec
prints (log 34). -/
def firstWriteNs : Nat := 520
def nextWriteNs : Nat := 80

/-- A staging buffer writes its next record some ns from now, unless it is writing already. -/
def writeNext (s : State) (cluster ns : Nat) : State :=
  if s.timers.any fun t => t.2 == .faultRecordWrite cluster then s else s.after (nsToDatum ns) (.faultRecordWrite cluster)

/-- Send one fault request to a cluster's staging buffer (R408): it coalesces with its page's entry, or is staged, or is
dropped when all eight are taken. Number 257 is the hub's buffer for the requests of peers (R470). -/
def requestFault (s : State) (w : Who) (p : PageFault) : State :=
  let flags := (if p.write then 2 else if p.fetch then 4 else 1) + (if p.table then 8 else 0) + (if w.cl = 257 then 32 else 0)
  let cl := s.cluster w.cl
  if cl.staged.any fun e => e.names w p then
    s.updCluster w.cl fun c =>
      { c with staged := c.staged.map fun e =>
          if e.names w p then { e with count := min 0xFFFF (e.count + 1), flags := e.flags ||| flags } else e }
  else if cl.staged.length < 8 then
    let e : FaultEntry :=
      ⟨w.fn, p.win, p.off / 65536 * 65536, p.gpa / 65536 * 65536, p.kind, flags,
        if w.cl < 64 then (s.platOf w.cl).pidx else 0, if p.kind = 3 then w.pasid else 0, 1⟩
    emitFault (writeNext (s.updCluster w.cl fun c => { c with staged := c.staged ++ [e] }) w.cl firstWriteNs) w 0x61 p.off
  else emitFault (s.updCluster w.cl fun c => { c with dropped := true }) w 0x62 p.off

/-- Park a strand on pages that are not usable: it is not ready, and one request goes out for each distinct page (R407,
R408). -/
def parkStrand (s : State) (k : Nat) (st : Strand) (w : Who) (ps : List PageFault) : State :=
  let distinct := ps.foldl (fun (l : List PageFault) p =>
    if l.any p.samePage then l else l ++ [p]) []
  let s1 := distinct.foldl (fun a p => requestFault a w p) s
  s1.setStrand k { st with wait := .parked, lane := none, pair := .none, parkOff := match ps with | p :: _ => p.off | [] => 0 }

/-- Park a strand on its instruction or on the fetch of it; inside a chain it goes on from the chain's head (R171). PARKED (R340). A
PREEMPT that is pending reaches it at once (R172, R251). -/
def parkMem (s : State) (k : Nat) (st : Strand) (w : Who) (inside : Bool) (ps : List PageFault) : State :=
  let st1 := if inside then
      { st with pc := st.chainHead, arrival := .sequential, undo := none, chainPos := 0, chainFrees := [], chainFlow := false }
    else st
  let s1 := (parkStrand s k st1 w ps).emitStrand k st 0x15 (pcBits st.pc)
  if duePreempt st1 then takePreempt s1 k { st1 with pair := .none } st1.pc else s1

/-- The agent of a strand's accesses, by the TLB of its core or sill core (R347, R404). -/
def whoOf (s : State) (st : Strand) : Who :=
  let g := s.grid (gridKey s st)
  ⟨g.fn, g.pasid, clusterOf st.core, some st.core⟩

end Sys2Proof.Machine
end

