-- ==== Sys2Proof/Machine/Access.lean ====
section
/-!
DEFINITION. Memory accesses in flight: what an L1 holds and does, the requests sent to homes, the replies, and the
completion of an instruction (R163, R288 to R299, R302, R320, R323, R432).
-/
namespace Sys2Proof.Machine

-- Atomics as functions of the old value (R139 to R141)

/-- The bytes of an atomic's memory operand (R139). -/
def atomSize (t : Ty) : Nat := match t with | .i64 => 8 | .n64 => 8 | .b => 8 | _ => 4

/-- One RNE addition of floating-point codes, with subnormals in full and canonical NaNs (R140). -/
def atomAddFloat (w : Wide) (x y : Nat) : Nat := (w.round false .rne (Val.add false (w.value x) (w.value y)).1).1

/-- The new value of an atomic (R140). -/
def atomNew (op : Nat) (t : Ty) (old b : Nat) : Nat :=
  let w := 8 * atomSize t
  let x : Int := if t.isSigned then signed w old else old
  let y : Int := if t.isSigned then signed w b else b % 2 ^ w
  match op with
  | 0 =>
    match t with
    | .h => atomAddFloat fp16 (bits old 0 16) (bits b 0 16) + atomAddFloat fp16 (bits old 16 16) (bits b 16 16) * 65536
    | .bf => atomAddFloat bf16 (bits old 0 16) (bits b 0 16) + atomAddFloat bf16 (bits old 16 16) (bits b 16 16) * 65536
    | .f => atomAddFloat fp32 old (b % 2 ^ 32)
    | _ => (old + b) % 2 ^ w
  | 1 => if x ≤ y then old else b % 2 ^ w
  | 2 => if y ≤ x then old else b % 2 ^ w
  | 3 => old &&& b % 2 ^ w
  | 4 => old ||| b % 2 ^ w
  | 5 => old ^^^ b % 2 ^ w
  | _ => b % 2 ^ w

/-- Perform an operation on a line: the bytes it changes, by offset, and the old value of an atomic. -/
def opBytes (line : Line) : MemOp → List (Nat × Byte) × Option Nat
  | .load => ([], none)
  | .store bs _ => (bs, none)
  | .atomic op t off b =>
    let n := atomSize t
    let old := field line (8 * off) (8 * n)
    (number off (toBytes n (atomNew op t old b.toNat)), some old)
  | .cas n off cmp new =>
    let old := field line (8 * off) (8 * n)
    (if old = cmp then number off (toBytes n new) else [], some old)

/-- Whether an operation's data are poisoned. -/
def opMark : MemOp → Bool | .store _ m => m | _ => false
/-- Whether an operation reads and writes in one: such a one is not performed on a poisoned line (R140). -/
def opAtomic : MemOp → Bool | .atomic _ _ _ _ => true | .cas _ _ _ _ => true | _ => false

-- The L1 (R286 to R292, R298)

/-- The L1's copy of a line, over given data: what the L1 holds takes precedence. -/
def l1Line (c : Cache L1Line) (line : Nat) (base : Line) : Line :=
  (lineWords line).foldl (fun l w => match cacheWord c w with | some x => setLineWord l (w % 4) x.data | none => l) base

/-- Whether the L1 holds all the bytes at offsets [off, off+n) of a line. -/
def l1Holds (c : Cache L1Line) (line off n : Nat) : Bool :=
  (upto 4).all fun w => !(decide (32 * w < off + n) && decide (off < 32 * w + 32)) || cachePresent c (4 * line + w)

/-- The offsets an operation touches. -/
def opRange : MemOp → Nat × Nat
  | .load => (0, 0)
  | .store bs _ => (bs.foldl (fun m p => min m p.1) 128, bs.foldl (fun m p => max m (p.1 + 1)) 0)
  | .atomic _ t off _ => (off, off + atomSize t)
  | .cas n off _ _ => (off, off + n)

/-- Whether offsets [r.1, r.2) of a line touch its word w (R290). -/
def meetsWord (r : Nat × Nat) (w : Nat) : Bool := decide (32 * w < r.2) && decide (r.1 < 32 * w + 32)

/-- Whether a core's L1 may perform an operation by itself: it owns the line and holds the words (R296). -/
def l1Owns (s : State) (core line : Nat) (op : MemOp) : Bool :=
  let c := (s.core core).l1
  let r := opRange op
  (match c.lines.find line with | some x => x.st == .m || x.st == .e | none => false) && l1Holds c line r.1 (r.2 - r.1)

/-- Perform an operation in an L1 that owns the line (R296, R302): its words become dirty, and strands waiting on the
line read it again. The old value of an atomic comes with the line's mark. -/
def l1Perform (s : State) (home core line : Nat) (op : MemOp) : (Nat × Bool) × State :=
  let c := (s.core core).l1
  let marked := match c.lines.find line with | some x => x.mark | none => false
  let l := l1Line c line 0
  let r := opBytes l op
  let bs := if marked && opAtomic op then [] else r.1
  let l' := mergeBytes l bs
  let touched := (lineWords line).filter fun w => bs.any fun p => p.1 / 32 == w % 4
  let whole := (upto 128).all fun i => bs.any fun p => p.1 == i
  let s1 := s.updCore core fun k =>
    { k with l1 := cacheTouch { k.l1 with
        words := touched.foldl (fun m w => m.put w ⟨lineWord l' (w % 4), true⟩) k.l1.words
        lines := k.l1.lines.put line
          ⟨.m, if opMark op then true else if whole then false else marked⟩ }
                 ((lineWords line).filter fun w => meetsWord (opRange op) (w % 4)) }
  ((r.2.getD 0, marked), if bs.isEmpty then s1 else wakeWatchers s1 home line)

/-- Write a plain store's bytes into words the L1 already holds (R298). -/
def l1WriteThrough (s : State) (core line : Nat) (bs : List (Nat × Byte)) (mark : Bool) : State :=
  let c := (s.core core).l1
  let here := (lineWords line).filter fun w => cachePresent c w && bs.any fun p => p.1 / 32 == w % 4
  if here.isEmpty then s
  else
    let l := mergeBytes (l1Line c line 0) bs
    s.updCore core fun k =>
      { k with l1 := cacheTouch { k.l1 with
          words := here.foldl (fun m w => m.put w ⟨lineWord l (w % 4), false⟩) k.l1.words
          lines := k.l1.lines.upd line fun x => { x with mark := x.mark || mark } } here }

/-- Give up a line of an L1: dirty words go to the home, and nothing of the line stays (R287, R296). -/
def l1GiveUp (s : State) (home core line : Nat) (ack : Bool) : State :=
  let c := (s.core core).l1
  match c.lines.find line with
  | none => s
  | some x =>
    let d := dirtyWords c line
    toHome (l1Remove s core line) line
      (writebackMsg (s.mail (coreDie core)) home (homeCore s line core) line d ack true x.mark)

/-- Install words of a line in an L1 (R287, R296): `mask` names the words, `st` the state a new line takes; an existing
line only rises to M. -/
def l1Install (s : State) (core line : Nat) (data : Line) (mask : Nat) (st : Moesi) (mark : Bool)
    (learn : Option Learn) : State :=
  let ws := (ones 4 mask).map fun i => (4 * line + i, lineWord data i)
  let put (x : Option L1Line) : L1Line :=
    match x with
    | none => ⟨st, mark⟩
    | some y => ⟨if st = .m then .m else y.st, y.mark || mark⟩
  let s1 := s.updCore core fun k =>
    { k with l1 := let c := installWords k.l1 ws false false learn
                   { c with lines := c.lines.put line (put (c.lines.find line)) } }
  let s2 := if ws.isEmpty then s1 else
    emitExtent s1 (fnOfCore s core) (coreSrc core 3) 0x40 (line / 8) (line % 8 * 4 + (ones 4 mask).headD 0)
      (line % 8 * 4 + (ones 4 mask).getLastD 0)
  l1Evict core 64 (l1Set (line / 8)) s2

-- Fill ranges (R288, R292)

/-- The entry of the scribe for an access at a code address (R292). -/
def scribeIndex (pc : Word) (frame : Nat) : Nat := field pc 3 9 ^^^ frame % 512

/-- The words of a frame that a fill under a hint requests, given the touched words in ascending order. -/
def fillWords (sc : Map ScribeEntry) (pc : Word) (hint frame : Nat) (touched : List Nat) : List Nat :=
  let lo := touched.headD 0
  let hi := touched.getLastD 0
  let lines (n : Nat) : List Nat := touched.flatMap fun w => rangeFrom (w / n * n) n
  match hint with
  | 1 => touched
  | 2 => lines 4
  | 3 => lines 8
  | 4 => lines 16
  | 5 => upto 32
  | 6 => []
  | _ =>
    match sc.find (scribeIndex pc frame) with
    | some e =>
      if e.conf = 0 then lines 4
      else
        let a := min lo ((lo : Int) + e.lo).toNat
        let b := max hi (min 31 ((lo : Int) + e.hi).toNat)
        rangeFrom a (b + 1 - a)
    | none => lines 4

-- Sending requests

/-- What a request is at its home: a load's fill, a plain store, an SO store that takes ownership or, where no L1 is to hold the line,
is performed at the home (R288, R289), a signal, an atomic near or far (R302). -/
def reqEvent (r : MemReq) (near : Bool) : Event :=
  match r.op with
  | .load => .homeLoadFill r
  | .store _ _ => if !r.so then .homeStoreArrival r else if r.fill = 0 then .homeFarAtomic r else .homeOwnershipRequest r
  | .atomic .. => if r.closing then .signalArrival r else if near then .homeOwnershipRequest r else .homeFarAtomic r
  | .cas .. => if near then .homeOwnershipRequest r else .homeFarAtomic r

/-- Whether an atomic runs near: the line's bounce counter is below 2, and the agent has an L1 (R302). -/
def nearHere (s : State) (r : MemReq) : Bool := decide ((dirOf s r.home r.line).bounce < 2) && decide (r.core % 1024 < 512)

/-- Send a request to the line's home: the peer's homes are outside (R457). -/
def sendReq (s : State) (r : MemReq) : State :=
  if isPeer (r.line * 128) then s.askPeer (peerOf (r.line * 128)) (s.fn (s.grid r.grid).fn).domain r
  else s.send (reqEvent r (nearHere s r))

/-- Count one more operation of a grid that is not acknowledged on a core (R432). -/
def countUp (s : State) (grid core : Nat) : State :=
  s.updGrid grid fun g => { g with counts := g.counts.updD core 0 (· + 1) }

/-- Note that a cluster may have become without work: a timer looks at it after 1 ms (R434). -/
def noteQuiet (s : State) (cl : Nat) : State :=
  if 64 ≤ cl then s
  else
    let c := s.cluster cl
    let s1 := s.updCluster cl fun x => { x with quiet := s.datum, timer := true }
    if c.timer then s1 else s1.after 16000000 (.clusterIdle cl)

/-- Count one less, and see whether the grid is complete (R432). -/
def countDown (s : State) (grid core : Nat) : State :=
  let s1 := s.updGrid grid fun g => { g with counts := g.counts.updD core 0 (· - 1) }
  let s2 := if (s1.grid grid).counts.getD core 0 = 0 then noteQuiet s1 (clusterOf core) else s1
  if (s2.grid grid).counts.all fun p => p.2 == 0 then s2.send (.gridComplete grid) else s2

/-- How far a line's home lies, for the reach of a release (R323). -/
def reachOf (line : Nat) : Nat := if isPeer (line * 128) then 1 else if isHost (line * 128) then 2 else 0

/-- Whether a release at a scope waits for a home (R323). -/
def waitsFor (scope reach : Nat) : Bool :=
  match reach with | 0 => true | 1 => decide (7 ≤ scope) | _ => decide (8 ≤ scope)

/-- Send a request whose acknowledgement the strand and its grid count (R323, R432). -/
def sendCounted (s : State) (k : Nat) (r : MemReq) : State :=
  sendReq (countUp (s.updStrand k fun st => { st with unacked := st.unacked ++ [⟨r.acc, r.line, reachOf r.line⟩] })
    r.grid r.core) r

-- Completion (R135, R163, R165)

/-- The register value that bytes deliver (R134, R140). -/
def widen (t : Ty) (n x : Nat) : Word := if t.isSigned then wrap64 (signed (8 * n) x) else BitVec.ofNat 64 x

/-- The number that a piece's bytes spell. -/
def Piece.value (p : Piece) : Nat :=
  ofBytes ((upto p.bytes.length).map fun i => match p.got.find? fun g => g.1 == i with | some g => g.2 | none => 0)

/-- The piece of a thread. -/
def Access.piece (a : Access) (t : Nat) : Option Piece := a.pieces.find? fun p => p.thread == t

/-- The vector that an access delivers: 8 bytes from byte `lo` of each piece of a pair, or the widened value. -/
def Access.result (a : Access) (lo : Nat) (old : VReg) : VReg :=
  VReg.ofFn fun t =>
    match a.piece t with
    | some p =>
      if activeIn' a.active t then
        ((if a.pair then BitVec.ofNat 64 (bits p.value (8 * lo) 64) else widen a.ty p.bytes.length p.value), p.mark)
      else (old.get t, old.marked t)
    | none => (old.get t, old.marked t)
where
  activeIn' (m : Half) (t : Nat) : Bool := m.getLsbD t

/-- An acquire access ends the view that was open when it was issued, when it completes (R272). -/
def endViewOn (st : Strand) (c : Bool) : Strand := if c then { st with viewOn := false } else st

/-- Complete an access: map its destination, free the registers it read last, and wake the strand. -/
def completeAccess (s : State) (k id : Nat) : State :=
  s.updStrand k fun st =>
    match st.flight.find id with
    | none => st
    | some a =>
      let st1 := { st with flight := st.flight.del id }
      let st2 :=
        if !a.writes then st1
        else if a.vector then
          let x := st1.setV a.d (some (a.result 0 a.old))
          if a.pair then x.setV (a.d + 1) (some (a.result 8 a.old2)) else x
        else
          match a.piece 0 with
          | none => st1
          | some p =>
            if a.pair then (st1.setS a.d (BitVec.ofNat 64 (bits p.value 0 64)) p.mark).setS (a.d + 1)
              (BitVec.ofNat 64 (bits p.value 64 64)) p.mark
            else st1.setS a.d (widen a.ty p.bytes.length p.value) p.mark
      let dst := if a.writes && a.vector then (if a.pair then [a.d, a.d + 1] else [a.d]) else []
      endViewOn (wakeStrand (freeRegs st2 (a.frees.filter fun r => !dst.contains r)) [.data, .acks, .register]) a.endsView

/-- Deliver bytes of a line to the pieces of an access: of one thread for ordered accesses, of all otherwise. -/
def Access.deliver (a : Access) (line : Nat) (data : Line) (mark : Bool) (only : Option Nat) (words : Nat → Bool) : Access :=
  { a with pieces := a.pieces.map fun p =>
      if only.isSome && only != some p.thread then p
      else
        let add := (number 0 p.bytes).filter fun q =>
          q.2 / 128 == line && words (q.2 % 128 / 32) && !(p.got.any fun g => g.1 == q.1)
        { p with got := p.got ++ add.map (fun q => (q.1, lineByte data (q.2 % 128)))
                 mark := p.mark || (mark && !add.isEmpty) } }

/-- Deliver an atomic's old value to a thread. -/
def Access.deliverOld (a : Access) (t old : Nat) (mark : Bool) : Access :=
  { a with pieces := a.pieces.map fun p =>
      if p.thread = t then { p with got := number 0 (toBytes p.bytes.length old), mark := p.mark || mark } else p }

/-- Change an access in flight. -/
def updAccess (s : State) (k id : Nat) (f : Access → Access) : State :=
  s.updStrand k fun st => { st with flight := st.flight.upd id f }

/-- The words of a line that an access reads (of one thread, or of all). -/
def Access.wordsOf (a : Access) (line : Nat) (only : Option Nat) : List Nat :=
  (lineWords line).filter fun w => a.pieces.any fun p =>
    !(only.isSome && only != some p.thread) && p.bytes.any fun g => g / 32 == w

/-- Take from the L1 what it holds of a line (R287, rule 5): the words that are read are touched (R290). -/
def captureL1 (s : State) (k id core line : Nat) (only : Option Nat) : State :=
  let c := (s.core core).l1
  let mark := match c.lines.find line with | some x => x.mark | none => false
  let ws := match (s.strand k).bind fun st => st.flight.find id with | some a => a.wordsOf line only | none => []
  let s1 := updAccess s k id fun a =>
    a.deliver line (l1Line c line 0) mark only fun w => cachePresent c (4 * line + w)
  s1.updCore core fun x => { x with l1 := cacheTouch x.l1 (ws.filter (cachePresent c)) }

/-- Whether an access has all the bytes of a line that it wants (of one thread, or of all). -/
def Access.hasLine (a : Access) (line : Nat) (only : Option Nat) : Bool :=
  a.pieces.all fun p => (only.isSome && only != some p.thread)
    || (number 0 p.bytes).all fun q => q.2 / 128 != line || p.got.any fun g => g.1 == q.1

/-- Send the next requests of an ordered access, performing in the L1 what it can (R302, R307); complete it when nothing is
left. `fuel` bounds the requests. -/
def advance : Nat → Nat → Nat → State → State
  | 0, _, _, s => s
  | fuel + 1, k, id, s =>
    match (s.strand k).bind fun st => st.flight.find id with
    | none => s
    | some a =>
      if !a.wanting.isEmpty then s
      else
        match a.todo with
        | [] => completeAccess s k id
        | r :: rest =>
          let s1 := updAccess s k id fun x => { x with todo := rest }
          match r.op with
          | .load =>
            let s2 := captureL1 s1 k id r.core r.line (some r.thread)
            let here := match (s2.strand k).bind fun st => st.flight.find id with
              | some x => x.hasLine r.line (some r.thread) | none => true
            if here then advance fuel k id s2
            else sendReq (updAccess s2 k id fun x => { x with wanting := [r.line] }) r
          | op =>
            let near := r.core < 512 && (!opAtomic op || nearHere s1 r)
            if near && l1Owns s1 r.core r.line op then
              let p := l1Perform s1 r.home r.core r.line op
              advance fuel k id (updAccess p.2 k id fun x => x.deliverOld r.thread p.1.1 p.1.2)
            else sendReq (countUp (updAccess s1 k id fun x => { x with wanting := [r.line] }) r.grid r.core) r

/-- Whether a core has a plain store to a line that has not been performed, of a strand of its own or of one that has left it: a fill of
that line is then not kept (R298, R318). -/
def storesPending (s : State) (core line : Nat) : Bool :=
  (s.core core).orphans.any (fun u => u.line == line)
    || s.strands.any fun p => p.2.core == core && p.2.unacked.any fun u => u.line == line

/-- What the L1 installs of a reply (R296): nothing of a copy that a store of the core has made stale. -/
def replyInstall (r : Reply) (s : State) : State :=
  let q := r.req
  let st : Moesi := match r.state with | 3 => .m | 2 => .e | _ => .s
  let at_ := q.line % 8 * 4
  let learn := q.learn.map fun l =>
    (⟨l.1, l.2.1, (ones 4 l.2.2).foldl (fun m w => min m (at_ + w)) 32, (ones 4 l.2.2).foldl (fun m w => max m (at_ + w)) 0⟩ : Learn)
  if r.state = 0 ∨ (r.state ≠ 3 ∧ storesPending s q.core q.line = true) then s
  else l1Install s q.core q.line r.data q.fill st r.mark learn

/-- An access takes the data of a load: of its thread alone on an SO page, where threads go one by one (R135, R163). The words that it
reads are touched in the L1 (R290, R292). -/
def deliverLoad (r : Reply) (k : Nat) (s : State) : State :=
  let q := r.req
  let only := if q.so then some q.thread else none
  let ws := match (s.strand k).bind fun st => st.flight.find q.acc with | some a => a.wordsOf q.line only | none => []
  let s1 := updAccess s k q.acc fun a => a.deliver q.line r.data r.mark only fun _ => true
  if 512 ≤ q.core then s1 else s1.updCore q.core fun c => { c with l1 := cacheTouch c.l1 (ws.filter (cachePresent c.l1)) }

/-- An access takes the old value of an atomic: the home's, or with ownership granted that of the core's own L1 (R302). -/
def deliverAtomic (r : Reply) (k : Nat) (s : State) : State :=
  let q := r.req
  let s1 := countDown s q.grid q.core
  match r.old with
  | some o => updAccess s1 k q.acc fun a => a.deliverOld q.thread o r.mark
  | none =>
    let p := l1Perform s1 q.home q.core q.line q.op
    updAccess p.2 k q.acc fun a => a.deliverOld q.thread p.1.1 p.1.2

/-- The access no longer wants the line; it goes on, and completes when nothing is left (R163). -/
def accessGoesOn (q : MemReq) (k : Nat) (s : State) : State :=
  advance 80 k q.acc (updAccess s k q.acc fun a => { a with wanting := a.wanting.filter (· != q.line) })

/-- An ended sill strand has had a store performed: its job may have come to its end (R207, R214). -/
def sillLooks (s : State) (k : Nat) : State :=
  match s.strand k with
  | some t => if t.sill && t.ended then s.send (.jobComplete t.job) else s
  | none => s

/-- MEMORY_ACCESS_COMPLETE (R163, R296): a reply reaches its core. The L1 installs what it is given; a grant of ownership
performs its operation there; the access takes its data, goes on, and completes when nothing is left. -/
def execMemoryAccessComplete (r : Reply) (s : State) : Out :=
  match r.req.agent with
  | .strand k =>
    .next (sillLooks (accessGoesOn r.req k
      (if r.req.op = .load then deliverLoad r k (replyInstall r s) else deliverAtomic r k (replyInstall r s))) k)
  | _ => .next (replyInstall r s)

/-- The core of the strand under a key. -/
def coreOfKey (k : Nat) : Nat := if k < 32768 then k / 64 else 512 + (k - 32768) / 4

-- Messages between dies (R337)

/-- The die of the unit that makes a request: of a strand, of an engine or of a BSU; the hub makes those of the outside. -/
def reqDie (r : MemReq) : Nat :=
  match r.agent with
  | .job _ => coreDie (r.rank % 1024)
  | .arrayOp _ => coreDie (r.rank % 1024)
  | .peer _ => 8
  | _ => coreDie r.core

/-- The core for which an engine or a BSU works. -/
def agentCore (s : State) : Agent → Option Nat
  | .job j => (s.jobs.find j).map (·.core)
  | .arrayOp o => (s.arrayOps.find o).map (·.core)
  | .bsu o => (s.rowOps.find o).map (·.home)
  | _ => none

/-- Whether a request, a reply or an acknowledgement goes from one die of the module to another: between the unit that asks and a
home. -/
def crossesDies (s : State) (e : Event) : Bool :=
  let asks (r : MemReq) : Bool := reqDie r != homeDie r.home
  let acks (core line : Nat) : Bool := !isPeer (line * 128) && coreDie core != homeDie (homeBy line core)
  match e with
  | .homeLoadFill r => asks r
  | .homeOwnershipRequest r => asks r
  | .homeStoreArrival r => asks r
  | .homeFarAtomic r => asks r
  | .signalArrival r => asks r
  | .memoryAccessComplete p => !isPeer (p.req.line * 128) && asks p.req
  | .storeAck (.strand k) acc _ =>
    (match (s.strand k).bind fun st => st.unacked.find? fun u => u.acc == acc with
    | some u => acks (coreOfKey k) u.line
    | none => false)
  | .storeAck a line _ => (match agentCore s a with | some c => acks c line | none => false)
  | _ => false

/-- A message that was sent at a time arrives: the clock has gone on by the transit between dies at least (R337). -/
def arrive (s : State) (sent : Nat) (e : Event) : State :=
  if crossesDies s e then { s with datum := max s.datum (sent + 16) } else s

-- Row instructions not yet complete (R357)

/-- Change a row instruction. -/
def State.updRow (s : State) (o : Nat) (f : RowOp → RowOp) : State := { s with rowOps := s.rowOps.upd o f }

/-- Whether a row instruction stores to memory, and so counts until its stores are acknowledged (R357, R432). -/
def RowOp.stores (o : RowOp) : Bool := o.op == 0x601 || o.op == 0x60A

/-- Let the sill strands that wait for BSUs look again. -/
def wakeRows (s : State) : State :=
  { s with strands := s.strands.map fun p => (p.1, wakeStrand p.2 [.rows]) }

/-- Complete a row instruction that every BSU has performed and whose stores have been acknowledged: its strand's next
`rsync` has what it raised (R357). -/
def rowDone (s : State) (id : Nat) : State :=
  match s.rowOps.find id with
  | none => s
  | some o =>
    if o.todo ≠ 0 ∨ o.acks ≠ 0 then s
    else
      let s1 := { s with rowOps := s.rowOps.del id }.updStrand o.strand fun st =>
        if st.rowsOut.contains id then
          { st with rowsOut := st.rowsOut.filter (· != id), rowFlags := st.rowFlags ||| o.flags.toNat
                    rowMarks := st.rowMarks || o.marked }
        else st
      sillLooks (wakeRows (if o.stores then countDown s1 o.grid o.core else s1)) o.strand

/-- The other strands of a core that wait for acknowledgements look again: a load may wait for a store of its core (R304, R308). -/
def wakeMates (s : State) (core but : Nat) : State :=
  { s with strands := s.strands.map fun p =>
      if p.2.core = core ∧ p.2.wait = .acks ∧ p.1 ≠ but then (p.1, { p.2 with wait := .none }) else p }

/-- A store of a strand is acknowledged: it is outstanding no longer, of the strand or of one that has left the core, and what waited for
that looks again. -/
def strandAcked (s : State) (k acc : Nat) : State :=
  let core := coreOfKey k
  let s1 := s.updStrand k fun st => wakeStrand { st with unacked := st.unacked.filter fun u => u.acc != acc } [.acks, .data]
  wakeMates (if (s1.core core).orphans.isEmpty then s1
    else s1.updCore core fun c => { c with orphans := c.orphans.filter fun u => u.acc != acc }) core k

/-- STORE_ACK (R323): a home acknowledges a store, atomic or signal; the strand may go on with a release, and the grid's
counter falls. -/
def execStoreAck (agent : Agent) (acc grid : Nat) (s : State) : Out :=
  match agent with
  | .strand k => .next (sillLooks (countDown (strandAcked s k acc) grid (coreOfKey k)) k)
  | .peer dev =>
    match s.peerReqs.find acc with
    | some (_, home, q) => .next ({ s with peerReqs := s.peerReqs.del acc }.emitOut (.answer dev home (.ack q)))
    | none => .next s
  | .bsu id => .next (rowDone (s.updRow id fun o => { o with acks := o.acks - 1 }) id)
  | .hub => .next (countDown s grid 1024)
  | .fetch _ => .next s
  | .job j =>
    let s1 := { s with jobs := s.jobs.upd j fun x => { x with acks := x.acks - 1 } }
    .next (match s1.jobs.find j with | some x => if x.acks = 0 then s1.send (.jobComplete j) else s1 | none => s1)
  | .arrayOp o =>
    let s1 := { s with arrayOps := s.arrayOps.upd o fun x => { x with acks := x.acks - 1 } }
    .next (match s1.arrayOps.find o with
      | some x => if x.acks = 0 ∧ x.phase = .settling then s1.send (.arrayOpComplete o) else s1
      | none => s1)
  | .l1 core =>
    -- the name of the line stands in the place of the access
    let s1 := s.updCore core fun c => { c with writebacks := c.writebacks.erase acc }
    .next { s1 with strands := s1.strands.map fun p => if p.2.core = core then (p.1, wakeStrand p.2 [.acks]) else p }
  | .host => .next s

end Sys2Proof.Machine
end

