-- ==== Sys2Proof/Machine/Links.lean ====
section
/-!
DEFINITION. The messages that cross metered links (R388 to R390): the way of each between dies, to the host port and to fabric ports,
and the queues in which messages wait for tokens at their sender.
-/
namespace Sys2Proof.Machine

-- Messages (R388; log 30)

/-- The bytes of data that a request carries. -/
def opData : MemOp → Nat
  | .load => 0
  | .store bs _ => bs.length
  | .atomic .. => 8
  | .cas .. => 16

/-- The bytes of data that its answer carries. -/
def answerData : MemOp → Nat
  | .load => 128
  | .store .. => 0
  | _ => 128

/-- The function whose traffic a request is: a peer's is that of the partition whose memory it asks for. -/
def reqFn (s : State) (r : MemReq) : Nat :=
  match r.agent with
  | .peer _ => (s.platOf r.home).owner
  | .hub => (s.grid r.grid).fn
  | _ => (s.grid r.grid).fn

/-- The die that a request comes from: a strand's, the core for which an engine works, or the hub. -/
def reqFrame (r : MemReq) : Nat :=
  match r.agent with
  | .strand _ => frameOf r.core
  | .fetch _ => frameOf r.core
  | .job _ => frameOf (r.rank % 1024)
  | .arrayOp _ => frameOf (r.rank % 1024)
  | .bsu _ => frameOfHome r.home
  | _ => 4

/-- The hops of a request on its way to its home. One about a host line that the slice, the device-side agent, does not hold also takes
the agent's request to the host and the answer's way back (R282). -/
def reqHops (s : State) (r : MemReq) : List (Nat × Nat) :=
  let there := withBytes (opData r.op) (path (reqFrame r) (frameOfHome r.home))
  if !isHost (r.line * 128) || ((lineWords r.line).all fun w => cachePresent (s.home r.home).l2 w) then there
  else there ++ withBytes 0 (path (frameOfHome r.home) 4 ++ [hopOf 8 0]) ++ withBytes 128 (path 4 (frameOfHome r.home))

/-- A message's function and hops on its way to where it is handled: requests, forwards, answers, invalidations, writebacks and
acknowledgements between cores and homes, and what peers answer (R388). -/
def eventHops (s : State) (e : Event) : Nat × List (Nat × Nat) :=
  let req (r : MemReq) : Nat × List (Nat × Nat) := (reqFn s r, reqHops s r)
  let move (core data a b : Nat) : Nat × List (Nat × Nat) := (fnOfCore s core, withBytes data (path a b))
  match e with
  | .homeLoadFill r => req r
  | .homeOwnershipRequest r => req r
  | .homeStoreArrival r => req r
  | .homeFarAtomic r => req r
  | .signalArrival r => req r
  | .bundleInstall m r _ _ _ => if m.dev = s.dev then req r else (0, [])
  | .forwardedRequest m r owner _ _ =>
    if owner < 512 ∧ m.dev = s.dev then (reqFn s r, withBytes 0 (path (frameOfHome r.home) (frameOf owner))) else (0, [])
  | .memoryAccessComplete p =>
    if p.req.home < 64 then (reqFn s p.req, withBytes (answerData p.req.op) (path (frameOfHome p.req.home) (reqFrame p.req))) else (0, [])
  | .l1Invalidation m home core _ => if core < 512 ∧ m.dev = s.dev then move core 0 (frameOfHome home) (frameOf core) else (0, [])
  | .invalidationAck m home core _ => if core < 512 ∧ m.dev = s.dev then move core 0 (frameOf core) (frameOfHome home) else (0, [])
  | .writebackArrival m home core _ mask _ _ _ _ =>
    if core < 512 ∧ m.dev = s.dev then move core (32 * (ones 4 mask).length) (frameOf core) (frameOfHome home) else (0, [])
  | .storeAck (.strand k) acc grid =>
    (match (s.strand k).bind fun st => st.unacked.find? fun u => u.acc == acc with
    | some u =>
      if u.reach = 1 then (0, [])
      else ((s.grid grid).fn, withBytes 0 (path (frameOfHome (homeBy u.line (coreOfKey k))) (frameOf (coreOfKey k))))
    | none => (0, []))
  | .peerAccessReply _ (.reply p) => (reqFn s p.req, withBytes (answerData p.req.op) (path 4 (reqFrame p.req)))
  | .peerAccessReply _ (.ack r) => (reqFn s r, withBytes 0 (path 4 (reqFrame r)))
  | _ => (0, [])

/-- The fabric port that the routing table gives a peer (R457). -/
def portOf (s : State) (dev : Nat) : Nat := s.routes.getD dev 0 % 8

/-- The bytes of data that an answer to a peer carries. -/
def peerData : PeerAnswer → Nat
  | .reply r => answerData r.req.op
  | .viewed _ _ _ (some _) => 128
  | _ => 0

/-- The function and hops of what is sent to the outside: accesses to peers, by their port and by the meter of all of them, messages and
answers to peers, data of host reads, and interrupts to the host (R388): what a home sends is its partition's. -/
def outputHops (s : State) (o : Output) : Nat × List (Nat × Nat) :=
  match o with
  | .peer dev _ r =>
    (reqFn s r, withBytes (opData r.op) (path (reqFrame r) 4 ++ [hopOf (9 + portOf s dev) 0, hopOf 17 0]))
  | .peerPage dev _ k _ _ =>
    (match s.strand k with
    | some st => ((s.grid (gridKey s st)).fn, withBytes 0 (path (frameOf st.core) 4 ++ [hopOf (9 + portOf s dev) 0]))
    | none => (0, []))
  | .message dev e =>
    (match e with
    | .l1Invalidation _ home _ _ => ((s.platOf home).owner, withBytes 0 (path (frameOfHome home) 4 ++ [hopOf (9 + portOf s dev) 0]))
    | .writebackArrival _ _ core _ mask _ _ _ _ =>
      (fnOfCore s core, withBytes (32 * (ones 4 mask).length) (path (frameOf core) 4 ++ [hopOf (9 + portOf s dev) 0]))
    | .bundleInstall _ r _ _ _ => (reqFn s r, withBytes (opData r.op) (path (reqFrame r) 4 ++ [hopOf (9 + portOf s dev) 0, hopOf 17 0]))
    | _ => (0, []))
  | .answer dev home a => ((s.platOf home).owner, withBytes (peerData a) (path (frameOfHome home) 4 ++ [hopOf (9 + portOf s dev) 0]))
  | .hostData home _ _ _ => ((s.platOf home).owner, withBytes 64 (path (frameOfHome home) 4 ++ [hopOf 8 0]))
  | .interrupt fn _ _ _ => (fn, withBytes 4 [hopOf 8 0])
  | _ => (0, [])

/-- The hops on which a function is limited. -/
def metered (s : State) (p : Nat × List (Nat × Nat)) : List (Nat × Nat) := p.2.filter fun h => hopRate s p.1 h.1 != 0

-- Waiting for tokens (R390)

/-- Go over hops while they are open and no earlier message of the function waits there: what is left of the way. `ahead` are the
messages that wait already. -/
def passHops (fn : Nat) (ahead : List Waiting) : List (Nat × Nat) → State → List (Nat × Nat) × State
  | [], s => ([], s)
  | (h, n) :: q, s =>
    if hopOpen s fn h && !(ahead.any fun w => w.fn == fn && (w.hops.map (·.1)).head? == some h) then
      passHops fn ahead q (takeBytes s fn h n)
    else ((h, n) :: q, s)

/-- A message has passed its last hop: an event is handled next, at the earliest 1 ns after it was sent (R337), an output has left. -/
def deliver (w : Waiting) (s : State) : State :=
  match w.cargo with
  | .event e => { s with datum := max s.datum (w.sent + 16), queue := (0, e) :: s.queue }
  | .output o => { s with out := s.out ++ [(w.sent, o)] }

/-- Send a message over its hops: it is delivered, or waits in its function's queue. -/
def enterLinks (s : State) (w : Waiting) : State :=
  let r := passHops w.fn s.linkQueues w.hops s
  if r.1.isEmpty then deliver w r.2 else { r.2 with linkQueues := r.2.linkQueues ++ [{ w with hops := r.1 }] }

/-- Every message that waits tries again, in the order in which they came; those that are freed are handled in that order (R297). -/
def pumpLinks (s : State) : State :=
  if s.linkQueues.isEmpty then s
  else
    let s1 := s.linkQueues.foldl enterLinks { s with linkQueues := [], queue := [] }
    { s1 with queue := s1.queue.reverse ++ s.queue }

/-- What a step has sent to the outside goes over its links: a metered one waits if it must. -/
def meterOutputs (s0 s1 : State) : State :=
  let fresh := s1.out.drop s0.out.length
  if fresh.all fun o => (metered s1 (outputHops s1 o.2)).isEmpty then s1
  else
    fresh.foldl (fun (a : State) o =>
      let p := outputHops s1 o.2
      enterLinks a ⟨p.1, metered s1 p, o.1, .output o.2⟩) { s1 with out := s1.out.take s0.out.length }

-- Engines (R390)

/-- The hops of an engine's read of a line at its home: of its request, and of the answer's way back. -/
def readHops (s : State) (r : MemReq) : List (Nat × Nat) :=
  reqHops s r ++ withBytes 128 (path (frameOfHome r.home) (reqFrame r))

/-- Whether an engine's read may go: every bucket on its way is above 0 (R390). -/
def readOpen (s : State) (r : MemReq) : Bool := (readHops s r).all fun h => hopOpen s (reqFn s r) h.1

/-- An engine's read of a line takes the tokens of its request and its answer. -/
def chargeRead (s : State) (r : MemReq) : State := (readHops s r).foldl (fun a h => takeBytes a (reqFn s r) h.1 h.2) s

end Sys2Proof.Machine
end

