-- ==== Sys2Proof/Machine/Homes.lean ====
section
/-!
DEFINITION. The homes: fills and forwards, ownership, combine windows, far atomics, signals, invalidations, writebacks
and their acknowledgements (R145, R289 to R302, R320 to R323).
-/
namespace Sys2Proof.Machine

-- The directory (R295)

/-- The peers that this module's routing table reaches (R457). -/
def fabricDevs (s : State) : List Nat := (s.routes.filter fun p => bitOf p.2 7 && p.1 != s.dev).map (·.1)

/-- Record a core as a sharer: four core numbers, and beyond them a mask of clusters; or an agent of a peer, which asked under
the line `name`: four of them, and beyond them every module of `devs` (R295). -/
def DirLine.addSharer (d : DirLine) (core incarn name : Nat) (devs : List Nat) : DirLine :=
  if 1024 ≤ core then
    let r : Remote := ⟨remoteDev core, core % 1024 / 8, incarn, core % 1024, name⟩
    if d.domain || d.remotes.contains r then d
    else if d.remotes.length < 4 then { d with remotes := d.remotes ++ [r] }
    else { d with domain := true, remotes := d.remotes ++ devs.map fun v => ⟨v, 127, 0, 1023, name⟩ }
  else
  let d1 := { d with incarns := d.incarns.put (core / 8) incarn }
  let bit (c : Nat) : BitVec 64 := BitVec.ofNat 64 (2 ^ (c / 8))
  if d.clusters != 0 then { d1 with clusters := d.clusters ||| bit core }
  else if d.sharers.contains core then d1
  else if d.sharers.length < 4 then { d1 with sharers := d.sharers ++ [core] }
  else { d1 with sharers := [], clusters := d.sharers.foldl (fun m c => m ||| bit c) (bit core) }

-- Held requests (R297)

/-- Whether a home is busy with a line. -/
def busyLine (s : State) (home line : Nat) : Bool := ((s.home home).busy.find line).isSome

/-- Hold a request until the home has done with its line. -/
def holdReq (s : State) (home line : Nat) (e : Event) : State :=
  s.updHome home fun h => { h with busy := h.busy.upd line fun t => { t with waiters := t.waiters ++ [e] } }

/-- Invalidate a copy: on a peer by a message, under the name that the peer knows the line by. -/
def sendInvalidation (s : State) (home line core : Nat) : State :=
  if core < 1024 then s.send (.l1Invalidation (s.mail (homeDie home)) home core line)
  else
    match (dirOf s home line).remotes.find? fun r => remoteCore r.dev r.core == core with
    | some r => s.emitOut (.message r.dev (.l1Invalidation (s.mail (homeDie home)) home r.core r.name))
    | none => s

/-- The line that a message of a core names: a peer names it as it asked for it. -/
def homeName (s : State) (home core line : Nat) : Nat :=
  if core < 1024 then line
  else
    match (s.home home).l2.lines.find? fun p =>
        p.2.remotes.any fun r => remoteCore r.dev r.core == core && r.name == line with
    | some p => p.1
    | none => line

/-- Whether the directory knows the copy that a message of a core is about: a peer's is forgotten when its parcel is
released (R376) or the peer has left (R458). -/
def homeKnows (s : State) (home core line : Nat) : Bool :=
  decide (core < 1024) || (s.home home).l2.lines.any fun p => p.2.remotes.any fun r => remoteCore r.dev r.core == core && r.name == line

/-- The incarnation of the cluster of a core, here or on a peer (R417, R459). -/
def incarnOf (s : State) (core : Nat) : Nat :=
  if core < 1024 then (s.cluster (core / 8)).incarn else s.peerIncarn.getD (64 * remoteDev core + core % 1024 / 8) 0

/-- Invalidate copies of a line and note what follows when all have answered. -/
def beginTx (s : State) (home line : Nat) (cores : List Nat) (done : HomeDone) (waiters : List Event) : State :=
  cores.foldl (fun a c => sendInvalidation a home line c)
    (s.updHome home fun h => { h with busy := h.busy.put line ⟨cores.length, done, waiters⟩ })

-- Answers

/-- Send a reply on its way (R296): to a core of this module as MEMORY_ACCESS_COMPLETE, to a peer as its answer (R457). -/
def sendReply (s : State) (r : Reply) : State :=
  match r.req.agent with
  | .peer dev =>
    (match s.peerReqs.find r.req.acc with
    | some (_, home, q) => { s with peerReqs := s.peerReqs.del r.req.acc }.emitOut (.answer dev home (.reply { r with req := q }))
    | none => s)
  | _ => s.send (.memoryAccessComplete r)

/-- The name of a request's line where it was made. -/
def reqName (s : State) (r : MemReq) : Nat :=
  match r.agent with
  | .peer _ => (match s.peerReqs.find r.acc with | some (_, _, q) => q.line | none => r.line)
  | _ => r.line

/-- Answer a load with a line (R296). `state` is what the L1 may keep. -/
def answerLoad (s : State) (r : MemReq) (data : Line) (mark : Bool) (state : Nat) : State :=
  sendReply s ⟨r, data, mark, if r.fill = 0 then 0 else state, none⟩

/-- Grant ownership (R296, R302). -/
def grantOwnership (s : State) (r : MemReq) : State :=
  let s1 := l2Read s r.home r.line r.cold
  let s2 := updDir s1 r.home r.line fun d =>
    let e := { d with owner := some r.core, sharers := [], clusters := 0, remotes := [], incarns := [] }
    if r.core < 1024 then { e with incarns := [(r.core / 8, incarnOf s r.core)] }
    else { e.addSharer r.core (incarnOf s r.core) (reqName s r) (fabricDevs s) with owner := some r.core, domain := false }
  let line := homeLine s2 r.home r.line
  sendReply (s2.emit (fnOfCore s r.core) (sliceSrc r.home 5) 0x54 (traceLine s r.line))
    ⟨r, line, linePoisoned s2 r.home r.line, 3, none⟩

/-- Perform an operation at the home's ALU (R140, R302): not on a poisoned line. The old value and the mark. -/
def performFar (s : State) (home line : Nat) (op : MemOp) : (Nat × Bool) × State :=
  let s1 := l2Read s home line false
  let mark := linePoisoned s1 home line
  let r := opBytes (homeLine s1 home line) op
  if mark && opAtomic op then ((r.2.getD 0, mark), s1)
  else ((r.2.getD 0, mark), homeMerge s1 home line r.1 (opMark op))

/-- A far atomic, once no L1 holds the line: performed, counted for the bounce counter, answered (R302). An SO store that fills no L1
is performed alike (R288). -/
def doFar (s : State) (r : MemReq) : State :=
  let p := performFar s r.home r.line r.op
  let s1 := if !opAtomic r.op then p.2 else
    (updDir p.2 r.home r.line fun d =>
      { d with bounce := if d.lastFar = some r.core then d.bounce - 1 else d.bounce, lastFar := some r.core }).emit
        (fnOfCore s r.core) (sliceSrc r.home 5) 0x53 (traceLine s r.line)
  sendReply s1 ⟨r, 0, p.1.2, 0, some p.1.1⟩

/-- A signal, once no L1 holds the line: performed and acknowledged (R145). -/
def doSignal (s : State) (r : MemReq) : State :=
  let p := performFar s r.home r.line r.op
  p.2.send (.storeAck r.agent r.acc r.grid)

/-- Record the requester of a load as a sharer, if an L1 is to take words of the line (R295, R296). -/
def share (s : State) (r : MemReq) : State :=
  if r.fill = 0 then s
  else updDir s r.home r.line fun x => x.addSharer r.core (incarnOf s r.core) (reqName s r) (fabricDevs s)

/-- Answer a load with the words that its owner, on a peer, has sent to the home (R296; log 16). -/
def answerForward (s : State) (r : MemReq) : State :=
  let s1 := l2Fill s r.home r.line r.cold
  answerLoad (share s1 r) r (homeLine s1 r.home r.line) (linePoisoned s1 r.home r.line) 1

/-- What follows when the last acknowledgement has come; the requests held meanwhile come next, in their order (R297). -/
def finishTx (s : State) (home line : Nat) (t : HomeTx) : State :=
  let s1 := s.updHome home fun h => { h with busy := h.busy.del line }
  let s2 := match t.done with
    | .grant r => grantOwnership s1 r
    | .far r => doFar s1 r
    | .signal r => doSignal s1 r
    | .ackStores l => l.foldl (fun (a : State) (p : Agent × Nat × Nat) => a.send (.storeAck p.1 p.2.1 p.2.2)) s1
    | .release => l2Drop s1 home line
    | .forward r => answerForward s1 r
    | .recalled => s1
  { s2 with queue := t.waiters.map (fun e => (0, e)) ++ s2.queue }

/-- During a bias flip the home is busy with all 32 lines of the page: when the last copy or snoop of all has answered, the flip
can end (R454, R455). -/
def flipReady (s : State) (home line : Nat) : State :=
  let page := line / 32
  if (s.flips.find page).isNone then s
  else if (rangeFrom (32 * page) 32).all fun l =>
      match (s.home home).busy.find l with | some t => t.need == 1 | none => false then
    s.send (.biasFlipEnd page)
  else s

/-- One acknowledgement has come. -/
def ackTx (s : State) (home line : Nat) : State :=
  match (s.home home).busy.find line with
  | none => s
  | some t =>
    if t.need ≤ 1 then finishTx s home line t
    else flipReady (s.updHome home fun h => { h with busy := h.busy.put line { t with need := t.need - 1 } }) home line

/-- Invalidate every copy but one core's, then go on; at once when there is none. -/
def recallThen (s : State) (home line : Nat) (keep : Option Nat) (done : HomeDone) (waiters : List Event) : State :=
  let cores := ((dirOf s home line).holders s).filter fun c => keep != some c
  if cores.isEmpty then finishTx s home line ⟨0, done, waiters⟩ else beginTx s home line cores done waiters

-- Pages in host bias (R454)

/-- Whether a request has to wait for a snoop of the host first. -/
def needSnoop (s : State) (line : Nat) : Bool := hostBiased s line && !s.snooped.contains line

/-- Snoop the host for a line: the home is busy with it until the response. -/
def snoopLine (s : State) (home line : Nat) (waiters : List Event) : State :=
  (s.updHome home fun h => { h with busy := h.busy.put line ⟨1, .recalled, waiters⟩ }).emitOut (.snoop line)

/-- In host bias a home keeps nothing of a line: it goes back to memory (R454). -/
def dropHost (s : State) (home line : Nat) : State :=
  if hostBiased s line then
    (l2Drop s home line).updHome home fun h => { h with l2 := { h.l2 with lines := h.l2.lines.del line } }
  else s

/-- The same, and the snoop that has been made counts no more. -/
def unhost (s : State) (home line : Nat) : State :=
  let s1 := dropHost s home line
  if s1.snooped.isEmpty then s1 else { s1 with snooped := s1.snooped.filter (· != line) }

/-- No line state is free for a request's line: a line of the set that L1s still hold is invalidated there, and its state released
when all have answered; the request waits (R291). -/
def releaseFor (s : State) (home line : Nat) (waiters : List Event) : State :=
  let ls := setLines s home (l2Set (line / 8))
  match ls.find? fun l => !busyLine s home l with
  | some l => recallThen s home l none .release waiters
  | none => waiters.foldl (fun a e => holdReq a home (ls.headD 0) e) s

/-- The home and line that a home's event is about. -/
def homeLineOf : Event → Option (Nat × Nat)
  | .homeLoadFill q => some (q.home, q.line)
  | .homeStoreArrival q => some (q.home, q.line)
  | .homeOwnershipRequest q => some (q.home, q.line)
  | .homeFarAtomic q => some (q.home, q.line)
  | .signalArrival q => some (q.home, q.line)
  | .combineWindowClose home line _ => some (home, line)
  | .bundleInstall _ q _ _ _ => some (q.home, q.line)
  | .viewLoadDecide _ _ line _ _ => some (homeFor line, line)
  | _ => none

/-- The line that a home is busy with and behind which an earlier request about `line` is held: a later one waits there too (R297). -/
def heldAt (s : State) (home line : Nat) : Option Nat :=
  ((s.home home).busy.find? fun t => t.2.waiters.any fun e => homeLineOf e == some (home, line)).map (·.1)

/-- The slice other than `home` that holds a host line: the host takes the line back from it first (R282, R301; log 16). -/
def otherHolder (s : State) (home line : Nat) : Option Nat :=
  if isHost (line * 128) then (upto 64).find? fun h => h != home && homeHas s h line else none

/-- Take a host line from the slice that holds it: its copies are invalidated, its words go to the host, and what waits comes again. -/
def takeFrom (s : State) (h line : Nat) (waiters : List Event) : State :=
  if busyLine s h line then waiters.foldl (fun a e => holdReq a h line e) s else recallThen s h line none .release waiters

/-- Hold an install until a bundle has settled or been dropped (R328); 0 stands for any version, and for the switch of a page (R380). -/
def holdInstall (s : State) (e : Event) (h : Half) : State := { s with heldInstalls := s.heldInstalls ++ [(e, h)] }

/-- Whether the home of a line holds a new request to it for the switch of its page (R380): one of a bundle that has a pending version
on those pages goes on, so that the version can promote or drop (DESIGN CHOICE, log 37). -/
def switchHolds (s : State) (line : Nat) (h : Half) : Bool :=
  match s.move with
  | some m => m.phase == .switch && m.covers line && !(s.versions.any fun p => m.covers p.1 && match p.2.second with
      | some (.pending _ _ _ b _ _) => b == h
      | _ => false)
  | none => false

/-- The bundle of the strand that made a request. -/
def reqBundle (s : State) (e : Event) : Half :=
  match eventReq e with
  | some r => (match r.agent with | .strand k => (match s.strand k with | some st => st.bnd | none => 0) | _ => r.bnd)
  | none => 0

/-- A request at its home (R297, R380, R454): it is held for the switch of its page, while the home is busy with the line, behind an
earlier one, for a line state, or for a snoop of the host. -/
def atHome (s : State) (home line : Nat) (e : Event) (f : State → State) : Out :=
  if switchHolds s line (reqBundle s e) then .next (holdInstall s e 0)
  else if busyLine s home line then .next (holdReq s home line e)
  else
    match heldAt s home line, otherHolder s home line with
    | some l, _ => .next (holdReq s home l e)
    | none, some h => .next (takeFrom s h line [e])
    | none, none =>
      let s := makeRoom s home line
      if !hasRoom s home line then .next (releaseFor s home line [e])
      else if needSnoop s line then .next (snoopLine s home line [e])
      else .next (unhost (f s) home line)

-- Combine windows (R320 to R323)

/-- Close the open window of a line: merge it by rank, invalidate the copies of R298, and acknowledge its stores when
those have answered. -/
def closeWindow (s : State) (home line : Nat) : State :=
  match (s.home home).windows.find line with
  | none => s
  | some w =>
    let s1 := s.updHome home fun h => { h with windows := h.windows.del line }
    let s2 := homeMerge s1 home line (windowBytes w) (w.stores.any (·.mark))
    let cores := (w.stores.map (·.core)).foldl addNew []
    let keep := match cores with | [c] => some c | _ => none
    let s3 := s2.emit (s.platOf home).owner (sliceSrc home 4) 0x52 (traceLine s line)
    recallThen s3 home line keep (.ackStores (w.stores.map fun x => (x.agent, x.acc, x.grid))) []

/-- Perform a store alone: a window of its own that closes at once. -/
def storeAlone (s : State) (r : MemReq) (bs : List (Nat × Byte)) (mark : Bool) : State :=
  closeWindow (s.updHome r.home fun h =>
    { h with windows := h.windows.put r.line ⟨h.nextWin, [⟨r.rank, r.core, r.agent, r.acc, r.grid, bs, mark⟩]⟩
             nextWin := h.nextWin + 1 }) r.home r.line

/-- The length of a combine window in units of the datum clock: 64 cycles (R320). -/
def windowUnits : Nat := cyclesToDatum 64

/-- A plain store joins the open window of its line, or opens one for 64 cycles (R320, R321). -/
def joinWindow (s : State) (r : MemReq) (bs : List (Nat × Byte)) (mark : Bool) : State :=
  let ws : WinStore := ⟨r.rank, r.core, r.agent, r.acc, r.grid, bs, mark⟩
  let s := l2Read s r.home r.line r.cold
  match (s.home r.home).windows.find r.line with
  | some w => s.updHome r.home fun h => { h with windows := h.windows.put r.line { w with stores := w.stores ++ [ws] } }
  | none =>
    let n := (s.home r.home).nextWin
    (s.updHome r.home fun h => { h with windows := h.windows.put r.line ⟨n, [ws]⟩, nextWin := n + 1 }).after windowUnits
      (.combineWindowClose r.home r.line n)

/-- HOME_STORE_ARRIVAL (R294, R298, R320): an L1's M copy is recalled first; a release closes the window and is performed
alone; a plain store joins the window or opens one. Windows form for device memory only. -/
def execHomeStoreArrival (r : MemReq) (s : State) : Out :=
  match r.op with
  | .store bs mark =>
    atHome s r.home r.line (.homeStoreArrival r) fun s =>
      match (dirOf s r.home r.line).owner with
      | some o => beginTx s r.home r.line [o] .recalled [.homeStoreArrival r]
      | none =>
        if r.closing || !isDevice (r.line * 128) || hostBiased s r.line then
          let s1 := closeWindow s r.home r.line
          if busyLine s1 r.home r.line then holdReq s1 r.home r.line (.homeStoreArrival r)
          else storeAlone s1 r bs mark
        else
          joinWindow s r bs mark
  | _ => .next s

/-- COMBINE_WINDOW_CLOSE (R321): 64 cycles after it opened, unless a closing request came first. -/
def execCombineWindowClose (home line number : Nat) (s : State) : Out :=
  match (s.home home).windows.find line with
  | some w => if w.number = number then .next (closeWindow s home line) else .next s
  | none => .next s

-- Versions (R327, R335)

/-- The versions of a line. -/
def versionsOf (s : State) (line : Nat) : Versions := s.versions.getD line ⟨0, none⟩

/-- Merge the bytes of a mask over a line. -/
def mergeMask (base data : Line) (mask : BitVec 128) : Line :=
  mergeBytes base ((ones 128 mask.toNat).map fun i => (i, lineByte data i))

/-- Whether a block's strands write into an implicit bundle. -/
def restartableBlock (s : State) (st : Strand) : Bool := !st.sill && (s.grid (s.block st.blk).grid).restartable

/-- Whether a line has a pending version: no L1 holds such a line (R335). -/
def pendingHere (s : State) (line : Nat) : Bool :=
  match (versionsOf s line).second with | some (.pending ..) => true | _ => false

/-- What a load of a line returns: the home's copy, with the pending bytes of the implicit bundle of the block that asks over it
(R335). -/
def overPending (s : State) (bnd : Half) (line : Nat) (data : Line) : Line :=
  match (versionsOf s line).second with
  | some (.pending d m _ h _ _) => if bnd ≠ 0 ∧ h = bnd then mergeMask data d m else data
  | _ => data

-- Requests

/-- Forward a load to the owner of its line, here or on a peer, under the name that the peer knows the line by; the home is busy with
the line until the owner has answered (R296, R297). -/
def forwardTo (s : State) (r : MemReq) (owner : Nat) (data : Line) (mark : Bool) : State :=
  let begin_ (d : HomeDone) : State := s.updHome r.home fun h => { h with busy := h.busy.put r.line ⟨1, d, []⟩ }
  if owner < 1024 then (share (begin_ .recalled) r).send (.forwardedRequest (s.mail (homeDie r.home)) r owner data mark)
  else
    match (dirOf s r.home r.line).remotes.find? fun x => remoteCore x.dev x.core == owner with
    | some x => (begin_ (.forward r)).emitOut (.message x.dev (.forwardedRequest (s.mail (homeDie r.home)) { r with line := x.name } x.core data mark))
    | none => answerForward (updDir s r.home r.line fun d => { d with owner := none }) r

/-- Whether a load's request is about a line that its access touches, or a line that its fill takes in beside (R288, R293). -/
def reqTouches (s : State) (r : MemReq) : Bool :=
  match r.agent with
  | .strand k => (match (s.strand k).bind fun st => st.flight.find r.acc with
    | some a => a.pieces.any fun p => p.bytes.any fun g => g / 128 == r.line
    | none => false)
  | _ => true

/-- HOME_LOAD_FILL (R289, R296): the home sends its copy, or forwards to the owner, who has the dirty words. A load of a
line with an open window reads it as it stood (R322). -/
def execHomeLoadFill (r : MemReq) (s : State) : Out :=
  atHome s r.home r.line (.homeLoadFill r) fun s =>
    let s1 := if reqTouches s r then l2Read s r.home r.line r.cold else l2Fill s r.home r.line r.cold
    let d := dirOf s1 r.home r.line
    let r := if pendingHere s r.line || hostBiased s r.line then { r with fill := 0 } else r
    let data := overPending s r.bnd r.line (homeLine s1 r.home r.line)
    match d.owner with
    | some o => if o = r.core then answerLoad s1 r data d.mark 1 else forwardTo s1 r o data d.mark
    | none =>
      if r.fill ≠ 0 ∧ r.so = true ∧ (d.holders s1).isEmpty = true then
        answerLoad (updDir (share s1 r) r.home r.line fun x =>
          { x with owner := some r.core, sharers := [] }) r data d.mark 2
      else answerLoad (share s1 r) r data d.mark 1

/-- The state of a copy after its owner has forwarded the line (R296). -/
def sharedState : Moesi → Moesi
  | .m => .o
  | .e => .s
  | y => y

/-- An L1 puts its copy of a line into a state. -/
def setCopy (s : State) (core line : Nat) (x : L1Line) : State :=
  s.updCore core fun k => { k with l1 := { k.l1 with lines := k.l1.lines.put line x } }

/-- Whether a writeback of a core's line is still on its way to its home. -/
def writebackComes (s : State) (home core line : Nat) : Bool :=
  s.onWay.any fun e => match e with | .writebackArrival _ h c l .. => h == home && c == core && l == line | _ => false

/-- A core of a peer's line owns it no longer but shares it, or the other way round has kept it: the directory follows (R295, R296). -/
def ownerShares (s : State) (home line owner name : Nat) : State :=
  updDir s home line fun d => ({ d with owner := none }).addSharer owner (incarnOf s owner) name (fabricDevs s)

/-- FORWARDED_REQUEST (R296): the owner sends its dirty words over the home's, and goes from M to O or from E to S, of which the
directory takes note. An owner that has given the line up meanwhile has sent its writeback first: when that has arrived, the home
answers anew. An owner of a peer's line sends its words to the line's home (log 16). -/
def execForwardedRequest (m : Mail) (r : MemReq) (owner : Nat) (found : Line × Bool) (s : State) : Out :=
  let data := found.1
  let mark := found.2
  let s := recv s m (coreDie owner)
  let c := (s.core owner).l1
  if isPeer (r.line * 128) then
    match c.lines.find r.line with
    | none => .next (toHome s r.line (writebackMsg (s.mail (coreDie owner)) r.home (homeCore s r.line owner) r.line [] true true false))
    | some x =>
      .next (toHome (setCopy s owner r.line ⟨sharedState x.st, x.mark⟩) r.line
        (writebackMsg (s.mail (coreDie owner)) r.home (homeCore s r.line owner) r.line (dirtyWords c r.line) true false x.mark))
  else
    match c.lines.find r.line with
    | none =>
      if writebackComes s r.home owner r.line then .next (s.send (.forwardedRequest m r owner data mark))
      else .next (ackTx ((updDir s r.home r.line fun d => d.dropCore owner).updHome r.home fun h =>
        { h with busy := h.busy.upd r.line fun t => { t with waiters := .homeLoadFill r :: t.waiters } }) r.home r.line)
    | some x =>
      let l := (dirtyWords c r.line).foldl (fun a p => setLineWord a (p.1 % 4) p.2) data
      let s1 := setCopy s owner r.line ⟨sharedState x.st, x.mark⟩
      let s2 := if sharedState x.st = .s then ownerShares s1 r.home r.line owner r.line else s1
      .next (ackTx (answerLoad s2 r l (mark || x.mark) 1) r.home r.line)

/-- HOME_OWNERSHIP_REQUEST (R296, R302): an atomic on a line whose bounce counter has reached 2 runs far; otherwise every
other copy is invalidated, and then ownership is granted. A move from one core's L1 to another's counts. -/
def execHomeOwnershipRequest (r : MemReq) (s : State) : Out :=
  atHome s r.home r.line (.homeOwnershipRequest r) fun s =>
    let s1 := closeWindow s r.home r.line
    if busyLine s1 r.home r.line then holdReq s1 r.home r.line (.homeOwnershipRequest r)
    else
      let d := dirOf s1 r.home r.line
      if (opAtomic r.op && decide (2 ≤ d.bounce)) || pendingHere s1 r.line || hostBiased s1 r.line then
        recallThen s1 r.home r.line none (.far r) []
      else
        let moves := match d.owner with | some o => o != r.core | none => false
        let s2 := if moves then updDir s1 r.home r.line fun x => { x with bounce := min 3 (x.bounce + 1) } else s1
        recallThen s2 r.home r.line (some r.core) (.grant r) []

/-- HOME_FAR_ATOMIC (R302): the window closes, every copy is recalled or invalidated, and the home performs the atomic. -/
def execHomeFarAtomic (r : MemReq) (s : State) : Out :=
  atHome s r.home r.line (.homeFarAtomic r) fun s =>
    let s1 := closeWindow s r.home r.line
    if busyLine s1 r.home r.line then holdReq s1 r.home r.line (.homeFarAtomic r)
    else recallThen s1 r.home r.line none (.far r) []

/-- SIGNAL_ARRIVAL (R145): a closing request, performed at the word's home and acknowledged. -/
def execSignalArrival (r : MemReq) (s : State) : Out :=
  atHome s r.home r.line (.signalArrival r) fun s =>
    let s1 := closeWindow s r.home r.line
    if busyLine s1 r.home r.line then holdReq s1 r.home r.line (.signalArrival r)
    else recallThen s1 r.home r.line none (.signal r) []

-- Invalidations and writebacks

/-- An L1 gives a line up: its words leave every extent (R297). -/
def giveLine (s : State) (core line : Nat) : State :=
  emitExtent (l1Remove s core line)
    (fnOfCore s core) (coreSrc core 3) 0x42 (line / 8) (line % 8 * 4) (line % 8 * 4 + 3)

/-- An invalidation for a whole module, of a line with more remote agents than its entry holds: every L1 here gives it up (R295). -/
def invalidateAll (s : State) (home line : Nat) : State :=
  let cs := (s.cores.filter fun p => (p.2.l1.lines.find line).isSome).map (·.1)
  let s1 := cs.foldl (fun (a : State) c =>
    let d := dirtyWords (a.core c).l1 line
    let mark := match (a.core c).l1.lines.find line with | some x => x.mark | none => false
    let b := giveLine a c line
    if d.isEmpty && !mark then b else writeBack b c line d true mark) s
  toHome s1 line (.invalidationAck (s1.mail 8) home (homeCore s line 1023) line)

/-- L1_INVALIDATION (R296, R297): the line's words leave every extent; a holder of dirty words writes them back, and that
is its acknowledgement. -/
def execL1Invalidation (m : Mail) (home : Nat) (copy : LineCopy) (s : State) : Out :=
  let core := copy.core
  let line := copy.line
  let s := recv s m (coreDie core)
  let c := (s.core core).l1
  if core = 1023 then .next (invalidateAll s home line) else
  match c.lines.find line with
  | none => .next (toHome s line (.invalidationAck (s.mail (coreDie core)) home (homeCore s line core) line))
  | some x =>
    let d := dirtyWords c line
    let s1 := giveLine s core line
    if d.isEmpty && !x.mark then .next (toHome s1 line (.invalidationAck (s1.mail (coreDie core)) home (homeCore s line core) line))
    else .next (toHome s1 line (writebackMsg (s1.mail (coreDie core)) home (homeCore s line core) line d true true x.mark))

/-- INVALIDATION_ACK (R297). -/
def execInvalidationAck (m : Mail) (home : Nat) (copy : LineCopy) (s : State) : Out :=
  let core := copy.core
  let line := copy.line
  let s := recv s m (homeDie home)
  let l := homeName s home core line
  if !homeKnows s home core line then .next s
  else .next (ackTx (updDir s home l fun d => d.dropCore core) home l)

/-- A home acknowledges a writeback, under the name by which the sender knows the line (R297). -/
def ackWriteback (s : State) (home core name : Nat) : State :=
  if core < 1024 then s.send (.storeAck (.l1 core) name 0)
  else s.emitOut (.answer (remoteDev core) home (.kept (core % 1024) name))

/-- The home's copy and directory after a writeback: the masked words are merged, a mark stays with the line, and the sender may have
given the line up or, asked for words that it had not changed, share it from now on (R287, rule 8, R296). -/
def mergeWriteback (s : State) (home core line name : Nat) (bs : List (Nat × Byte)) (gone mark : Bool) : State :=
  let s1 := if bs.isEmpty then s else homeMerge s home line bs mark
  let s2 := if mark && bs.isEmpty then updDir s1 home line fun d => { d with mark := true } else s1
  let known := ((s2.home home).l2.lines.find line).isSome
  let asked := match (s2.home home).busy.find line with | some ⟨_, .forward _, _⟩ => true | _ => false
  if gone && known then updDir s2 home line fun d => d.dropCore core
  else if asked && bs.isEmpty && (dirOf s2 home line).owner == some core then ownerShares s2 home line core name
  else s2

/-- WRITEBACK_ARRIVAL (R287, rule 8, R297): the masked words are merged into the home's copy; the home may have waited for it, and
otherwise acknowledges it. -/
def execWritebackArrival (m : Mail) (home : Nat) (copy : LineCopy) (mask : Nat) (data : Line) (ack gone mark : Bool) (s : State) : Out :=
  let core := copy.core
  let line := copy.line
  let s := recv s m (homeDie home)
  let bs := (ones 4 mask).flatMap fun w => number (32 * w) (toBytes 32 (lineWord data w).toNat)
  let done (a : State) : State := if ack || bs.isEmpty then a else ackWriteback a home core line
  if !homeKnows s home core line then .next (done s) else
  let l := homeName s home core line
  let s1 := mergeWriteback s home core l line bs gone mark
  .next (if ack then ackTx s1 home l else done s1)

/-- WAIT_RECHECK (R146): the strand reads its word again. -/
def execWaitRecheck (strand : Nat) (s : State) : Out := .next (s.updStrand strand fun st => wakeStrand st [.word])

end Sys2Proof.Machine
end

