-- ==== Sys2Proof/Machine/Engine.lean ====
section
/-!
DEFINITION. What the engines share (R188, R210): their accesses to global memory, the scratchpad and the slots, the names
of operations not yet complete, and the waking of what waits for them.
-/
namespace Sys2Proof.Machine

/-- An engine at work: for whom it translates, who asks peers, what they have answered, and the core it counts on. -/
structure Eng where
  who   : Who
  agent : Agent
  port  : Port
  grid  : Nat
  core  : Nat
  deriving DecidableEq, Repr

/-- Why an engine's step does not complete now: a failure at an offset, pages that are not usable (R407, R408), a request that a
peer must answer first (R457, R470), or a line that its home is busy with (R297). -/
inductive EStop where
  | fault (cause off : Nat)
  | park (ps : List PageFault)
  | peer (r : MemReq)
  | busy
  deriving DecidableEq, Repr

/-- A step of an engine: what it changed before it stopped stays (translations). -/
abbrev E (α : Type) := ExceptT EStop (StateM State) α

/-- Split [off, off+n) at pages: (offset, length), at most `fuel` pieces. -/
def splitPages : Nat → Nat → Nat → List (Nat × Nat)
  | 0, _, _ => []
  | fuel + 1, off, n =>
    if n = 0 then []
    else
      let m := min n (65536 - off % 65536)
      (off, m) :: splitPages fuel (off + m) (n - m)

/-- One page of an access: where it lies (global address, length, page kind), or that it is not usable. A bundled page is a PERMISSION
(R188, R210). -/
def engPage (g : Eng) (write : Bool) (win off n : Nat) : E ((Nat × Nat × Nat) ⊕ PageFault) := do
  let s ← get
  let r := translate s g.who ⟨write, false, .plain cPermission⟩ (win * 2 ^ 64 + off)
  set r.2
  match r.1 with
  | .ok ga l =>
    let refused := isPeer ga && (g.port.refused || (s.fn g.who.fn).domain == 0 || !routeOk s (peerOf ga))
    if refused then throw (.fault cPermission off) else return .inl (ga, n, l.kind)
  | .trap c => throw (.fault c off)
  | .replay kind gpa table => return .inr ⟨win, off, kind, gpa, table, write, false⟩

/-- Where the pages of an access lie. It parks on every page of it that is not usable (R408). -/
def engPages (g : Eng) (write : Bool) (win off n : Nat) : E (List (Nat × Nat × Nat)) := do
  let rs ← (splitPages (n / 65536 + 2) off n).mapM fun p => engPage g write win p.1 p.2
  let bad := rs.filterMap fun r => match r with | .inr f => some f | .inl _ => none
  if !bad.isEmpty then throw (.park bad)
  return rs.filterMap fun r => match r with | .inl x => some x | .inr _ => none

/-- The implicit bundle of the restartable block that a job or an array operation works for, or 0: its reads see what the bundle has
pending (R335). -/
def engBundle (s : State) : Agent → Half
  | .job j => (match s.jobs.find j with | some x => if (s.grid x.grid).restartable && x.packet.isNone then (s.block x.blk).bundle else 0 | none => 0)
  | .arrayOp o => (match s.arrayOps.find o with | some x => if (s.grid x.grid).restartable then (s.block x.blk).bundle else 0 | none => 0)
  | _ => 0

/-- The request of an engine about a line: no L1 is its own (R289, R298), and its rank is that of its core (R321). -/
def engReq (s : State) (g : Eng) (line : Nat) (op : MemOp) : MemReq :=
  { bnd := engBundle s g.agent, agent := g.agent, acc := line, thread := 0, grid := g.grid, core := 1023, rank := s.dev * 1024 + min g.core 1023
    home := homeBy line g.core, line := line, so := false, fill := 0, cold := false, learn := none, closing := false, op := op }

/-- Whether a request about a line is set aside at its home by lossless tracing (R344). -/
def lineHeld (s : State) (home line : Nat) : Bool :=
  s.stalls.any fun x => match x.event with | some e => homeLineOf e == some (home, line) | none => false

/-- Wait until the home of a line can serve it at once: it does not hold new requests for a switch (R380), it is not busy, has a line state for it (R291), a page in host bias has been
snooped (R454), no peer holds a copy, and no request about it is set aside (R344). -/
def homeReady (core line : Nat) (bundle : Half) : E Unit := do
  let h := homeBy line core
  let s := makeRoom (← get) h line
  set s
  if switchHolds s line bundle || busyLine s h line || lineHeld s h line || (heldAt s h line).isSome then throw .busy
  else if (otherHolder s h line).isSome then
    set (takeFrom s ((otherHolder s h line).getD h) line [])
    throw .busy
  else if !hasRoom s h line then
    set (releaseFor s h line [])
    throw .busy
  else if needSnoop s line then
    set (snoopLine s h line [])
    throw .busy
  else if !(dirOf s h line).remotes.isEmpty then
    set (recallThen s h line none .recalled [])
    throw .busy

/-- Whether a store of an agent to a line is on its way, or in an open window: the agent's own read comes after it (R304). -/
def ownStore (s : State) (a : Agent) (line : Nat) : Bool :=
  (match (s.home (homeAt s line)).windows.find line with | some w => w.stores.any fun x => x.agent == a | none => false)
    || s.onWay.any fun e => match e with | .homeStoreArrival r => r.agent == a && r.line == line | _ => false

/-- Wait until an engine can read a line: the peer has answered, or the links on the way have tokens (R390) and its home can serve it. -/
def engReady (g : Eng) (line : Nat) : E Unit := do
  let s ← get
  let r := engReq s g line .load
  if isPeer (line * 128) then
    if !(g.port.reads.any fun x => x.1 == line) then throw (.peer r)
  else
    if ownStore s g.agent line || !readOpen s r then throw .busy
    homeReady g.core line (engBundle s g.agent)

/-- The bytes of a line that an engine reads, with its mark: from the peer's answer, or at the home, whose L2 it fills (R289). -/
def engTake (g : Eng) (line : Nat) (s : State) : (Line × Bool) × State :=
  if isPeer (line * 128) then
    (match g.port.reads.find? fun r => r.1 == line with | some r => (r.2.1, r.2.2) | none => (0, true), s)
  else
    let h := homeBy line g.core
    let r := engReq s g line .load
    let t := l2Read (transit (chargeRead s r) (reqDie r) (homeDie h)) h line false
    ((overPending t (engBundle s g.agent) line (coherentLine t h line), linePoisoned t h line), dropHost t h line)

/-- Read lines, once all of them can be read. -/
def engLines (g : Eng) (lines : List Nat) : E (List (Line × Bool)) := do
  for l in lines do engReady g l
  lines.mapM fun l => modifyGet (engTake g l)

/-- Read `n` bytes at an offset of a window (R210): the bytes, and whether a line of them is poisoned. -/
def engRead (g : Eng) (win off n : Nat) : E (List Byte × Bool) := do
  let ps ← engPages g false win off n
  let ls := ps.flatMap fun p => (linesOf p.1 p.2.1).map fun l => (p, l)
  let ds ← engLines g (ls.map (·.2))
  let bytes := (ls.zip ds).flatMap fun (x : ((Nat × Nat × Nat) × Nat) × Line × Bool) =>
    let lo := max x.1.1.1 (128 * x.1.2)
    (rangeFrom lo (min (x.1.1.1 + x.1.1.2.1) (128 * x.1.2 + 128) - lo)).map fun a => lineByte x.2.1 (a % 128)
  return (bytes, ds.any (·.2))

/-- One more store of an engine is on its way. -/
def countStore (s : State) : Agent → State
  | .job j => { s with jobs := s.jobs.upd j fun x => { x with acks := x.acks + 1 } }
  | .arrayOp o => { s with arrayOps := s.arrayOps.upd o fun x => { x with acks := x.acks + 1 } }
  | _ => s

/-- A store of an engine to a line whose home is here: a job's and an array operation's go to the home as plain stores, one of an SO
page alone (R320, R321); the writes of the hub are releases, performed alone and at once (R319; log 5). -/
def engStore (g : Eng) (ga kind : Nat) (bs : List Byte) (mark : Bool) (s : State) : State :=
  let l := ga / 128
  match g.agent with
  | .hub => let h := homeAt s l; dropHost (farStore (chargeFar s (s.grid g.grid).fn 4 ga bs.length true) ga bs mark) h l
  | _ => (countStore s g.agent).send
      (.homeStoreArrival { engReq s g l (.store (number (ga % 128) bs) mark) with closing := kind == 1 })

/-- Write bytes at an offset of a window: all of its pages are checked before anything is written. `mark` says which bytes
are poisoned; a line that receives one is marked (R136). -/
def engWrite (g : Eng) (win off : Nat) (bs : List Byte) (mark : Nat → Bool) : E Unit := do
  let ps ← engPages g true win off bs.length
  for p in ps do
    for l in linesOf p.1 p.2.1 do
      if !isPeer (l * 128) && g.agent == .hub then
        let s ← get
        if !readOpen s (engReq s g l .load) then throw .busy
        homeReady g.core l 0
  let _ ← ps.foldlM (fun (pos : Nat) (p : Nat × Nat × Nat) => do
    for l in linesOf p.1 p.2.1 do
      let lo := max p.1 (128 * l)
      let at_ := pos + (lo - p.1)
      let mine := (bs.drop at_).take (min (p.1 + p.2.1) (128 * l + 128) - lo)
      let m := (rangeFrom at_ mine.length).any mark
      if isPeer lo then
        if !g.port.stored.contains l then
          let s ← get
          throw (.peer (engReq s g l (.store (number (lo % 128) mine) m)))
      else modify (engStore g lo p.2.2 mine m)
    return pos + p.2.1) 0

-- Slots (R181)

/-- A slot of a core. -/
def State.slot (s : State) (core n : Nat) : Slot := (s.core core).slots.getD n .free
/-- Change a slot. -/
def State.updSlot (s : State) (core n : Nat) (f : Slot → Slot) : State :=
  s.updCore core fun c => { c with slots := c.slots.updD n .free f }
/-- An accumulator of a core. -/
def State.acc (s : State) (core n : Nat) : Acc := (s.core core).accs.getD n .free
/-- Change an accumulator. -/
def State.updAcc (s : State) (core n : Nat) (f : Acc → Acc) : State :=
  s.updCore core fun c => { c with accs := c.accs.updD n .free f }

/-- Line i of a slot. -/
def Slot.line (x : Slot) (i : Nat) : Line := x.lines.toArray.getD i 0

/-- Set or clear bit `i` of a 128-bit mask of marks. -/
def setMark (m : BitVec 128) (i : Nat) (b : Bool) : BitVec 128 := BitVec.ofNat 128 (putBits m.toNat i 1 (b2n b))

/-- Bytes of a slot region from an offset on, and whether a line of them is marked. A region that passes the end of slot n
goes on in slot n+1 (R203). -/
def slotRead (s : State) (core n off len : Nat) : List Byte × Bool :=
  let at_ (a : Nat) : Slot := s.slot core (n + a / 16384)
  ((rangeFrom off len).map fun a => lineByte ((at_ a).line (a % 16384 / 128)) (a % 128),
    (linesOf off len).any fun l => (at_ (128 * l)).marks.getLsbD (l % 128))

/-- Write bytes of a slot region; poisoned data marks the lines, and a whole line clears its mark (R210). -/
def slotWrite (s : State) (core n off : Nat) (bs : List Byte) (mark : Bool) : State :=
  (linesOf off bs.length).foldl (fun a l =>
    let mine := ((number off bs).filter fun p => p.1 / 128 == l).map fun p => (p.1 % 128, p.2)
    a.updSlot core (n + l / 128) fun x =>
      { x with
        lines := x.lines.setIfInBounds (l % 128) (mergeBytes (x.line (l % 128)) mine)
        marks := if mark then setMark x.marks (l % 128) true
                 else if mine.length = 128 then setMark x.marks (l % 128) false else x.marks }) s

-- Operations not yet complete

/-- Whether a job or array operation has completed. -/
def opDone (s : State) (id : Nat) : Bool := (s.jobs.find id).isNone && (s.arrayOps.find id).isNone

/-- Change a job. -/
def State.updJob (s : State) (j : Nat) (f : Job → Job) : State := { s with jobs := s.jobs.upd j f }
/-- Change an array operation. -/
def State.updArray (s : State) (o : Nat) (f : ArrayOp → ArrayOp) : State := { s with arrayOps := s.arrayOps.upd o f }

/-- Jobs and array operations of a block. -/
def blockWork (s : State) (b : Nat) : List Nat :=
  (s.jobs.filter fun p => p.2.blk == b).map (·.1) ++ (s.arrayOps.filter fun p => p.2.blk == b).map (·.1)

/-- Wake the strands of a block that wait for its operations: they look again (R157). -/
def wakeBlock (s : State) (b : Nat) : State :=
  (s.block b).strands.foldl (fun a k => a.updStrand k fun st =>
    match st.wait with
    | .handle _ => { st with wait := .none }
    | .jobs => { st with wait := .none }
    | .batch => { st with wait := .none }
    | .array => if st.asyncOp.isSome then st else { st with wait := .none }
    | _ => st) s

/-- The agent's translation context of a grid's engine work on a core. -/
def engWho (s : State) (grid core : Nat) : Who :=
  let g := s.grid grid
  ⟨g.fn, g.pasid, clusterOf core, none⟩

-- The array queue (R186, R187, R201)

/-- The array operations of a core, in their order. -/
def arrayQueue (s : State) (core : Nat) : List (Nat × ArrayOp) := s.arrayOps.filter fun p => p.2.core == core

/-- Whether an operation touches memory (R188). -/
def ArrayOp.touchesMem (o : ArrayOp) : Bool :=
  match o.work with | .tile .. => true | .ard .. => true | .image .. => true | _ => false

/-- Whether what an operation waits for has come: jobs that write its slots, and the copy of its `cpym` (R187, R212). -/
def arrayFree (s : State) (o : ArrayOp) : Bool :=
  o.edges.all (fun e => (s.jobs.find e).isNone)
  && match o.job with
    | some j => (match s.jobs.find j with | some x => x.phase == .landed | none => true)
    | none => true

/-- The operation that may start next on a core: the first in order, but that operations on what a subnormal assist names
wait and others pass them (R186, R201). `slots`, `accs` and `mem` are what waits. -/
def nextArray (s : State) : Nat → Nat → Bool → List (Nat × ArrayOp) → Option Nat
  | _, _, _, [] => none
  | slots, accs, mem, (i, o) :: r =>
    match o.phase with
    | .assist _ => nextArray s (slots ||| o.slots) (accs ||| o.accs) mem r
    | .queued =>
      if slots &&& o.slots ≠ 0 ∨ accs &&& o.accs ≠ 0 ∨ (mem && o.touchesMem) = true then
        nextArray s (slots ||| o.slots) (accs ||| o.accs) (mem || o.touchesMem) r
      else if arrayFree s o then some i else none
    | _ => none

/-- Whether an operation occupies its array. -/
def ArrayOp.atWork (o : ArrayOp) : Bool :=
  match o.phase with | .running => true | .parked => true | .finished => true | .settling => true | _ => false

/-- Let the array of a core start its next operation, if it can (R186). -/
def arrayPump (s : State) (core : Nat) : State :=
  let q := arrayQueue s core
  if q.any fun p => p.2.atWork then s
  else match nextArray s 0 0 false q with
    | some i => s.post (.arrayOpStart i)
    | none => s

/-- Wake the strands of a core that wait for its array queue: they look again (R186). -/
def wakeArray (s : State) (core : Nat) : State :=
  { s with strands := s.strands.map fun p =>
      if p.2.core = core ∧ p.2.wait = .array ∧ p.2.asyncOp = none then (p.1, { p.2 with wait := .none }) else p }

/-- Let a block's waiting jobs look whether they may start, and its core's array too (R187, R208). -/
def jobPump (s : State) (b : Nat) : State :=
  let js := s.jobs.filter fun p => p.2.blk == b && p.2.phase == .waiting && p.2.edges.all (opDone s)
  arrayPump (js.foldl (fun a p => a.post (.jobStart p.1)) s) (s.block b).core

/-- Take an operation that has not started out of its core's queue (R212, R222, R251): what is behind it moves up, and the jobs that
waited for it look again (R187). -/
def dropArrayOp (s : State) (op : Nat) : State :=
  match s.arrayOps.find op with
  | none => s
  | some o =>
    wakeArray (arrayPump (jobPump (countDown { s with arrayOps := s.arrayOps.del op } o.grid o.core) o.blk) o.core) o.core

-- Time that the save limit does not count (R258, R345)

/-- The block for which an agent works. -/
def agentBlock (s : State) : Agent → Option Nat
  | .strand k => (s.strand k).map (·.blk)
  | .job j => (s.jobs.find j).map (·.blk)
  | .arrayOp o => (s.arrayOps.find o).map (·.blk)
  | .bsu o => (s.rowOps.find o).bind fun x => (s.strand x.strand).map (·.blk)
  | _ => none

/-- The grid for which an agent works. -/
def agentGrid (s : State) : Agent → Option Nat
  | .strand k => (s.strand k).map (gridKey s)
  | .job j => (s.jobs.find j).map (·.grid)
  | .arrayOp o => (s.arrayOps.find o).map (·.grid)
  | .bsu o => (s.rowOps.find o).map (·.grid)
  | _ => none

/-- The agents whose work an event is: those of a request, of the stores in a combine window, of a collective. -/
def eventAgents (s : State) : Event → List Agent
  | .instructionLineArrival k _ _ _ => [.strand k]
  | .jobStart j => [.job j]
  | .jobComplete j => [.job j]
  | .arrayOpStart o => [.arrayOp o]
  | .arrayOpComplete o => [.arrayOp o]
  | .subnormalAssistDone o => [.arrayOp o]
  | .preemptDelivery k => [.strand k]
  | .sleepExpiry k _ => [.strand k]
  | .plumbPhaseComplete k => [.strand k]
  | .functionTableWriteDone _ k => [.strand k]
  | .homeLoadFill q => [q.agent]
  | .homeStoreArrival q => [q.agent]
  | .homeOwnershipRequest q => [q.agent]
  | .homeFarAtomic q => [q.agent]
  | .signalArrival q => [q.agent]
  | .memoryAccessComplete q => [q.req.agent]
  | .bundleInstall _ q _ _ _ => [q.agent]
  | .viewLoadDecide _ who _ _ _ => if who.dev = s.dev then [.strand who.strand] else []
  | .bsuExecute o _ => [.bsu o]
  | .combineWindowClose home line _ =>
    (match (s.home home).windows.find line with | some w => w.stores.map (·.agent) | none => [])
  | .collectiveStart _ name _ =>
    (s.jobs.filter fun p => match p.2.work with | .coll _ _ _ _ _ _ n => n == name | _ => false).map fun p => .job p.1
  | _ => []

/-- The blocks whose work an event is. -/
def eventBlocks (s : State) (e : Event) : List Nat :=
  match e with
  | .blockLeave b => [b]
  | .blockRetire b => [b]
  | _ => (eventAgents s e).filterMap (agentBlock s)

/-- The blocks that a stalled emitter works for. -/
def Stall.blocks (s : State) (x : Stall) : List Nat :=
  match x.strand with
  | some k => ((s.strand k).bind fun st => if st.wait = .trace then some st.blk else none).toList
  | none => match x.event with | some e => eventBlocks s e | none => []

/-- Whether a block is held up by a subnormal assist or by tracing. -/
def blockHeld (s : State) (b : Nat) : Bool :=
  (s.arrayOps.any fun p => p.2.blk == b && match p.2.phase with | .assist _ => true | _ => false)
    || s.stalls.any fun x => (x.blocks s).contains b

/-- A block begins to be held up. -/
def holdBegin (s : State) (b : Nat) : State :=
  s.updBlock b fun x => { x with holdFrom := some (x.holdFrom.getD s.datum) }

/-- One of the things that hold a block up has ended: when none is left, the time since PREEMPT was requested does not count. -/
def holdEnd (s : State) (b : Nat) : State :=
  if blockHeld s b then s
  else s.updBlock b fun x =>
    match x.holdFrom with
    | none => x
    | some t => { x with holdFrom := none, credit := x.credit + (s.datum - max t x.asked) }

/-- The time that has counted against a leaving block's save limit. -/
def saveTime (s : State) (b : Block) : Nat :=
  s.datum - b.asked - b.credit - (match b.holdFrom with | some t => s.datum - max t b.asked | none => 0)

/-- How an engine's step ended: `again` is the event that continues it. -/
inductive EDone (α : Type) where
  | done (a : α)
  | fault (cause off : Nat)
  | later

/-- Take an engine's step: each page that is not usable sends its request and parks the engine (R408), a peer's answer is awaited, a
busy line is tried again. `hold` notes whether it is parked and its port. -/
def engRun {α : Type} (g : Eng) (again : Event) (hold : Bool → Port → State → State) (x : E α) (s : State) :
    EDone α × State :=
  match x.run s with
  | (.ok a, s1) => (.done a, { s1 with snooped := [] })
  | (.error (.fault c o), s1) => (.fault c o, s1)
  | (.error (.park ps), s1) =>
    (.later, hold true { g.port with off := match ps with | p :: _ => p.off | [] => 0 } (ps.foldl (fun a p => requestFault a g.who p) s1))
  | (.error (.peer r), s1) =>
    (.later, hold false { g.port with waiting := true }
      (s1.askPeer (peerOf (r.line * 128)) (s1.fn g.who.fn).domain r))
  | (.error .busy, s1) => (.later, s1.post again)

end Sys2Proof.Machine
end

