-- ==== Sys2Proof/Machine/Flags.lean ====
section
/-!
DEFINITION. Condition outcomes and the flags of compares (R29, R80, R81, R106). The flags of arithmetic are computed
with each rounding in Machine/Fp.lean.
-/
namespace Sys2Proof.Machine

/-- The outcome of a condition code, from less, equal and unordered (R29). -/
def condOf (m : Nat) (lt eq un : Bool) : Bool :=
  match m with
  | 0 => eq
  | 1 => !eq
  | 2 => lt
  | 3 => lt || eq
  | 4 => !lt && !eq && !un
  | 5 => !lt && !un
  | 6 => un
  | _ => false

/-- A condition on two integers. -/
def condInt (m : Nat) (x y : Int) : Bool := condOf m (decide (x < y)) (decide (x = y)) false

/-- A condition on two floating-point values: with a NaN only `.ne` and `.un` hold (R106). -/
def condVal (m : Nat) (x y : Val) : Bool :=
  let un := x.isNan || y.isNan
  if un then m == 1 || m == 6 else condOf m (x.lt y) (x.eqv y) false

/-- IV of a floating-point compare: the four ordering conditions on any NaN, the others on a signalling one (R106). -/
def condFlags (m : Nat) (x y : Val) : Flags :=
  if 2 ≤ m ∧ m ≤ 5 then flagIf (x.isNan || y.isNan) flagIV else snanIV [x, y]

end Sys2Proof.Machine
end

