-- ==== Sys2Proof/Machine/Operands.lean ====
section
/-!
DEFINITION. Every operand form: uniform and vector sources, specials, immediates, literals, handles, poison marks and
the checks that come with reading them (R20 to R23, R72, R73, R101, R102).
-/
namespace Sys2Proof.Machine

/-- An immediate of a type: the signed value in every element (R22). -/
def immWord (t : Ty) (fmt : Half) (v : BitVec 5) : Word :=
  if t.isInt || t == .b then replicate t (wrapNat t.width v.toInt)
  else replicate t (convertTo t fmt (Val.ofInt v.toInt))

/-- An operand literal of a type (R22): integer bits, sign-extended for `.i64` and `.b`, zero-extended for `.n64`; FP32
bits for a floating-point type, unchanged for `.f`. -/
def litWord (t : Ty) (fmt : Half) (v : BitVec 32) : Word :=
  if t == .i64 || t == .b then v.signExtend 64
  else if t.isInt then replicate t v.toNat
  else if t == .f then replicate t v.toNat
  else replicate t (convertTo t fmt (fp32.value v.toNat))

/-- The specials with one value for the strand (R21); %tid and %rank differ by thread. -/
def uniformSpecialValue (st : Strand) (n : Nat) : Word :=
  match n with
  | 1 => 0
  | 2 => BitVec.allOnes 64
  | 3 => BitVec.ofNat 64 st.sid
  | 4 => BitVec.ofNat 64 st.bid
  | 5 => BitVec.ofNat 64 st.nstr
  | 6 => st.em.setWidth 64
  | 8 => st.pm.setWidth 64
  | 9 => st.lc0.setWidth 64
  | 10 => st.lc1.setWidth 64
  | _ => 0

/-- The entry a handle names in its block's table, if it names one (R205). -/
def handleEntry (blk : Block) (h : Half) : Option HandleEntry :=
  if field h 16 16 = 0 ∨ field h 6 10 ≠ 0 then none
  else
    match blk.handles.find (field h 0 6) with
    | none => none
    | some e => if e.seq = field h 16 16 then some e else none

/-- The entry that a handle names for a strand: with the word that has come while its instruction waited, though another job may have
taken the entry since (R205, R217). -/
def handleSeen (s : State) (st : Strand) (h : Half) : Option HandleEntry :=
  match st.words.find? fun w => w.1 == h with
  | some w => some ⟨field h 16 16, st.cancelling.getD 0, some w.2, 0⟩
  | none => handleEntry (s.block st.blk) h

/-- Read the completion word of a handle: 0 for NONE, and a wait until the job has completed (R73, R207). -/
def readHandle (s : State) (st : Strand) (h : Half) : Res Word :=
  match handleSeen s st h with
  | none => .ok 0
  | some e =>
    match e.done with
    | some w => .ok (w.setWidth 64)
    | none => waitFor (.handle h)

/-- Read an operand through the uniform column: its value and its poison mark. -/
def uread (s : State) (st : Strand) (t : Ty) (o : Opd) : Res (Word × Bool) :=
  match o.spec with
  | .reg n => .ok (st.sreg n.toNat, st.smark n.toNat)
  | .special n => .ok (uniformSpecialValue st n.toNat, false)
  | .lit v => .ok (litWord t 0 v, false)
  | .imm v => .ok (immWord t 0 v, false)
  | .handle n => do
    let w ← readHandle s st (st.handle n.toNat)
    return (w, false)
  | .bcast n => .ok (st.sreg n.toNat, st.smark n.toNat)
  | _ => .ok (0, false)

/-- Read an operand through the uniform column where a mark is consumed (R72). -/
def uval (s : State) (st : Strand) (t : Ty) (o : Opd) : Res Word := do
  let r ← uread s st t o
  if r.2 then trapAt cPoison else return r.1

/-- The uniform registers that an operand names. -/
def sRegsOf (o : Opd) : List Nat :=
  match o.spec with | .reg n => [n.toNat] | .bcast n => [n.toNat] | _ => []

/-- The uniform registers of the vector column: broadcasts and mask destinations. -/
def bRegsOf (o : Opd) : List Nat := match o.spec with | .bcast n => [n.toNat] | _ => []

/-- The vector registers that an operand names. -/
def vRegsOf (o : Opd) : List Nat := match o.spec with | .reg n => [n.toNat] | _ => []

/-- The latches that an operand reads, as 1 to 4. -/
def latchesOf (o : Opd) : List Nat := match o.spec with | .latch n => [n.toNat + 1] | _ => []

/-- The vector register whose last read the operand marks (R23). -/
def lastRegOf (o : Opd) : List Nat := if o.last then vRegsOf o else []

/-- Active threads of an execution mask (R97). -/
def activeIn (em : Half) (t : Nat) : Bool := em.getLsbD t

/-- The numbers of the active threads, ascending. -/
def activeList (em : Half) : List Nat := ones 32 em.toNat

/-- Read an operand through the vector column in a thread: value and mark (R21, R22). An unallocated register has been
refused before. -/
def vread (st : Strand) (t : Ty) (fmt : Half) (o : Opd) (th : Nat) : Word × Bool :=
  match o.spec with
  | .reg n => match st.vreg n.toNat with | some r => (r.get th, r.marked th) | none => (0, false)
  | .latch n => let r := st.latch n.toNat; (r.get th, r.marked th)
  | .special n =>
    if n = 0 then (BitVec.ofNat 64 th, false)
    else if n = 7 then (BitVec.ofNat 64 (popcount th st.em.toNat), false)
    else (uniformSpecialValue st n.toNat, false)
  | .lit v => (litWord t fmt v, false)
  | .imm v => (immWord t fmt v, false)
  | .bcast n => (st.sreg n.toNat, st.smark n.toNat)
  | _ => (0, false)

/-- REGISTER NOT ALLOCATED for a vector source that is unallocated, whether or not any thread is active (R102). -/
def checkAllocated (st : Strand) (os : List Opd) : Res Unit :=
  need (os.all fun o => (vRegsOf o).all fun r => (st.vreg r).isSome) cNotAllocated

/-- POISON CONSUMED when an operand carries a mark in one of the threads (R101). -/
def checkMarks (st : Strand) (os : List Opd) (threads : List Nat) : Res Unit :=
  need (os.all fun o => threads.all fun t => !(vread st .b 0 o t).2) cPoison

/-- A format register of the strand's block (R56). -/
def fmtReg (s : State) (st : Strand) (n : Nat) : Half := if st.sill then 0 else (s.block st.blk).fmt.toArray.getD n 0

/-- BAD FORMAT for a format register that holds an invalid value (R57). -/
def checkFormat (s : State) (st : Strand) (n : Nat) : Res Unit :=
  need (formatValid (fmtReg s st n)) cBadFormat

/-- The rounding mode that M names, or `rnd` for 0 (R51): RSR takes the draw given. -/
def modeOf (st : Strand) (m : Nat) (draw : Half) : Rm :=
  match (if m = 0 then st.rnd else m - 1) with
  | 0 => .rne | 1 => .rtz | 2 => .rup | 3 => .rdn | _ => .rsr draw

/-- Whether the resolved mode draws (R52). -/
def isRsr (st : Strand) (m : Nat) : Bool := (if m = 0 then st.rnd else m - 1) == 4

/-- Whether the strand's block owns its core's function table (R235). -/
def ownsTable (s : State) (st : Strand) : Bool := (s.core st.core).table.owner == some st.blk

/-- Whether an opcode raises ILLEGAL CONTEXT at step 2 of R34, before its fields are looked at: on the wrong kind of strand (R33),
`tret` outside trap mode (R232), `cset` of a trap register there (R37; `creg` is the field F), `bbar` in trap mode (R144), `vftbl`,
`fnld` and `fnswap` without the function table (R117, R235). What R225 and R264 name is operand-time. -/
def contextFault (s : State) (st : Strand) (op creg : Nat) : Bool :=
  !contextOk st.sill op
  || (op == 0x584 && !st.trapMode)
  || (op == 0x026 && decide (9 ≤ creg) && decide (creg ≤ 13) && !st.trapMode)
  || (op == 0x316 && st.trapMode)
  || ((op == 0x12D || op == 0x587 || op == 0x588) && !ownsTable s st)

-- The chain (R169)

/-- The conditions of R169 on a continuation: class, predecessor, flow, pair, length and depth. `latches` are those it
reads. -/
def chainLegal (st : Strand) (latches : List Nat) : Bool :=
  let p := st.chainPos + 1
  1 ≤ st.chainPos && st.chainFlow && st.pair == .none && p ≤ 5 && latches.all (· ≤ p - 1)

/-- The strand at the start of an instruction that may continue a chain: one that reads no latch ends the chain. -/
def chainEnter (st : Strand) (latches : List Nat) : Strand := if latches.isEmpty then endChain st else st

/-- Check a continuation: ILLEGAL CHAIN unless R169 allows it. -/
def chainCheck (st : Strand) (latches : List Nat) : Res Unit :=
  need (latches.isEmpty || chainLegal st latches) cIllegalChain

/-- Run an instruction in its context, or take ILLEGAL CONTEXT before its fields and operands are looked at (R34, step 2); `lat`
are the latches it reads. -/
def inContext (op creg : Nat) (lat : List Nat) (body : State → Out) (s : State) : Out :=
  withActor s fun k st0 =>
    let st := chainEnter st0 lat
    if contextFault s st op creg then .next (takeFault s k { st with pair := .none } (st.chainPos != 0) cIllegalContext st.pc)
    else body s

-- Allocation (R163 to R167)

/-- The physical registers of a core that no block has reserved and that are free (R166, R233): of 2,048, each resident
block takes the larger of its reservation and its use. -/
def freePool (s : State) (c : Nat) : Nat :=
  2048 - ((s.blocks.map fun p =>
    if p.2.core = c ∧ p.2.onCore = true then max p.2.reserved (blockRegs s p.2) else 0).foldl (· + ·) 0)

/-- Whether the strand may take `n` more physical registers (R164, R166, R167). Above the ceiling it waits for a memory-class
instruction in flight, or faults; beyond the block's reservation it needs an unreserved register of the core, and waits for one. -/
def checkRoom (s : State) (st : Strand) (n : Nat) : Res Unit :=
  if n = 0 then .ok ()
  else if st.ceil < st.physCount + n then
    if st.flight.isEmpty then trapAt cNotAllocated else waitFor .data
  else
    let blk := s.block st.blk
    if blockRegs s blk + n ≤ max blk.reserved (blockRegs s blk) + freePool s st.core then .ok ()
    else waitFor .register

end Sys2Proof.Machine
end

