-- ==== Sys2Proof/Machine/Uniform.lean ====
section
/-!
DEFINITION. The uniform class: packed integer arithmetic, moves, masks, loops, `fork`, identity, time and control
registers (R70 to R96), and its compact aliases (R35).
-/
namespace Sys2Proof.Machine

-- Shared operations

/-- The elements of a type, each computed from its number. -/
def elements (t : Ty) (f : Nat → Nat) : Word := wordOf t.width ((upto t.lanes).map f)

/-- A packed operation on exact integers, reduced or saturated (R77, R104). -/
def packed2 (t : Ty) (sat : Bool) (op : Int → Int → Int) (x y : Word) : Word :=
  elements t fun k => reduceTy t sat (op (elemInt t x k) (elemInt t y k))

/-- A packed operation on element codes. -/
def packedCode (t : Ty) (op : Nat → Nat → Nat) (x y : Word) : Word :=
  elements t fun k => op (elemCode t x k) (elemCode t y k)

/-- The high w bits of a product: ⌊x·y / 2^w⌋. -/
def mulHigh (t : Ty) (x y : Int) : Int := (x * y) / ((2 ^ t.width : Nat) : Int)

/-- The quotient of R47: toward zero, all bits set for a zero divisor. -/
def divElem (t : Ty) (x y : Int) : Int :=
  if y = 0 then (if t.isSigned then -1 else ((2 ^ t.width : Nat) : Int) - 1) else Int.tdiv x y

/-- The remainder of R47: the sign of the dividend, the dividend for a zero divisor. -/
def remElem (x y : Int) : Int := if y = 0 then x else Int.tmod x y

/-- `shl` of an element (R78). -/
def shlElem (t : Ty) (x n : Nat) : Nat := x * 2 ^ (n % t.width) % 2 ^ t.width
/-- `shr` of an element. -/
def shrElem (t : Ty) (x n : Nat) : Nat := x / 2 ^ (n % t.width)
/-- `sar` of an element. -/
def sarElem (t : Ty) (x n : Nat) : Nat :=
  wrapNat t.width (signed t.width x / ((2 ^ (n % t.width) : Nat) : Int))
/-- `rot` of an element, to the left. -/
def rotElem (t : Ty) (x n : Nat) : Nat :=
  let r := n % t.width
  (x * 2 ^ r + x / 2 ^ (t.width - r)) % 2 ^ t.width

/-- `min` and `max` of integers. -/
def minInt (x y : Int) : Int := if y < x then y else x
/-- The larger of two integers. -/
def maxInt (x y : Int) : Int := if x < y then y else x

/-- Position and length of `bfx` and `bfi` (R82). -/
def bfPos (b : Word) : Nat := field b 0 6
/-- The length, at most 64. -/
def bfLen (b : Word) : Nat := min (field b 8 7) 64

/-- `bfx` (R82). -/
def bfxWord (t : Ty) (x b : Word) : Word :=
  let len := bfLen b
  let f := bits x.toNat (bfPos b) len
  if t == .i64 && 0 < len then wrap64 (signed len f) else BitVec.ofNat 64 f

/-- `bfi` (R82). -/
def bfiWord (x b base : Word) : Word :=
  let mask : Word := BitVec.ofNat 64 ((2 ^ bfLen b - 1) * 2 ^ bfPos b)
  (base &&& ~~~mask) ||| ((x <<< bfPos b) &&& mask)

/-- An element mask: all ones where the condition holds (R80, R106). -/
def maskElements (t : Ty) (c : Nat → Bool) : Word := elements t fun k => if c k then 2 ^ t.width - 1 else 0

/-- Select per element (R81, R107). -/
def selWord (t : Ty) (m : Nat) (x y z : Word) : Word :=
  elements t fun k => if condInt m (elemInt t z k) 0 then elemCode t x k else elemCode t y k

/-- The uniform registers of the operands and of the destination. -/
def uRegs (f : Fields) (withD : Bool) : List Nat :=
  sRegsOf f.a ++ sRegsOf f.b ++ sRegsOf f.c ++ (if withD then [f.d.toNat] else [])

/-- A uniform instruction of two sources that writes D (R77, R78). -/
def uniform2 (f : Fields) (op : Word → Word → Word) (s : State) : Out :=
  runUniform f.nx (uRegs f true) (fun s st => do
    let x ← uval s st f.ty f.a
    let y ← uval s st f.ty f.b
    return [.reg f.d.toNat (op x y) false]) s

/-- A uniform instruction of one source that writes D. -/
def uniform1 (f : Fields) (op : Word → Word) (s : State) : Out :=
  runUniform f.nx (uRegs f true) (fun s st => do
    let x ← uval s st f.ty f.a
    return [.reg f.d.toNat (op x) false]) s

/-- A mask instruction: em from em, pm and src(A)[31:0] (R83). -/
def uniformMask (f : Fields) (op : Half → Half → Half → Half) (s : State) : Out :=
  runUniform f.nx (uRegs f false) (fun s st => do
    let x ← uval s st f.ty f.a
    return [.em (op st.em st.pm (x.setWidth 32))]) s

-- Data instructions (R75 to R84)

/-- `nop` (R75). -/
def execNop (f : Fields) (s : State) : Out := runUniform f.nx [] (fun _ _ => return []) s

/-- `mov`: the destination takes the source and its mark (R72, R76). -/
def execMov (f : Fields) (s : State) : Out :=
  runUniform f.nx (uRegs f true) (fun s st => do
    let x ← uread s st f.ty f.a
    return [.reg f.d.toNat x.1 x.2]) s

/-- The half-writing moves: D is marked after them if it was, or if the source is (R72, R76). -/
def movHalf (f : Fields) (op : Word → Word → Word) (s : State) : Out :=
  runUniform f.nx (uRegs f true) (fun s st => do
    let x ← uread s st f.ty f.a
    return [.reg f.d.toNat (op (st.sreg f.d.toNat) x.1) (st.smark f.d.toNat || x.2)]) s

/-- `movl` (R76). -/
def execMovl (f : Fields) (s : State) : Out :=
  movHalf f (fun d x => (d &&& 0xFFFFFFFF00000000#64) ||| (x &&& 0xFFFFFFFF#64)) s
/-- `movh` (R76). -/
def execMovh (f : Fields) (s : State) : Out :=
  movHalf f (fun d x => (d &&& 0xFFFFFFFF#64) ||| ((x &&& 0xFFFFFFFF#64) <<< 32)) s

/-- `add` (R77). -/
def execAdd (f : Fields) (s : State) : Out := uniform2 f (packed2 f.ty (f.fBit 0) (· + ·)) s
/-- `sub` (R77). -/
def execSub (f : Fields) (s : State) : Out := uniform2 f (packed2 f.ty (f.fBit 0) (· - ·)) s
/-- `mul` (R77). -/
def execMul (f : Fields) (s : State) : Out := uniform2 f (packed2 f.ty (f.fBit 0) (· * ·)) s
/-- `mulh` (R77). -/
def execMulh (f : Fields) (s : State) : Out := uniform2 f (packed2 f.ty false (mulHigh f.ty)) s
/-- `div` (R47, R77). -/
def execDiv (f : Fields) (s : State) : Out := uniform2 f (packed2 f.ty (f.fBit 0) (divElem f.ty)) s
/-- `rem` (R47, R77). -/
def execRem (f : Fields) (s : State) : Out := uniform2 f (packed2 f.ty false remElem) s
/-- `and` (R77). -/
def execAnd (f : Fields) (s : State) : Out := uniform2 f (fun x y => x &&& y) s
/-- `or` (R77). -/
def execOr (f : Fields) (s : State) : Out := uniform2 f (fun x y => x ||| y) s
/-- `xor` (R77). -/
def execXor (f : Fields) (s : State) : Out := uniform2 f (fun x y => x ^^^ y) s
/-- `andn`: x AND NOT y (R77). -/
def execAndn (f : Fields) (s : State) : Out := uniform2 f (fun x y => x &&& ~~~y) s
/-- `shl` (R78). -/
def execShl (f : Fields) (s : State) : Out := uniform2 f (packedCode f.ty (shlElem f.ty)) s
/-- `shr` (R78). -/
def execShr (f : Fields) (s : State) : Out := uniform2 f (packedCode f.ty (shrElem f.ty)) s
/-- `sar` (R78). -/
def execSar (f : Fields) (s : State) : Out := uniform2 f (packedCode f.ty (sarElem f.ty)) s
/-- `rot` (R78). -/
def execRot (f : Fields) (s : State) : Out := uniform2 f (packedCode f.ty (rotElem f.ty)) s
/-- `clz` (R79). -/
def execClz (f : Fields) (s : State) : Out :=
  uniform1 f (fun x => elements f.ty fun k => clz f.ty.width (elemCode f.ty x k)) s
/-- `ctz` (R79). -/
def execCtz (f : Fields) (s : State) : Out :=
  uniform1 f (fun x => elements f.ty fun k => ctz f.ty.width (elemCode f.ty x k)) s
/-- `popc` (R79). -/
def execPopc (f : Fields) (s : State) : Out :=
  uniform1 f (fun x => elements f.ty fun k => popcount f.ty.width (elemCode f.ty x k)) s
/-- `min` (R77). -/
def execMin (f : Fields) (s : State) : Out := uniform2 f (packed2 f.ty false minInt) s
/-- `max` (R77). -/
def execMax (f : Fields) (s : State) : Out := uniform2 f (packed2 f.ty false maxInt) s

/-- `sel` (R81): the test's mark faults; D takes the mark of what it selects (R72). An element selects by itself, so D
is marked if any selected element's source is. -/
def execSel (f : Fields) (s : State) : Out :=
  runUniform f.nx (uRegs f true) (fun s st => do
    let x ← uread s st f.ty f.a
    let y ← uread s st f.ty f.b
    let z ← uval s st f.ty f.c
    let picks := (upto f.ty.lanes).map fun k => condInt f.m.toNat (elemInt f.ty z k) 0
    let mark := (picks.any id && x.2) || (picks.any not && y.2)
    return [.reg f.d.toNat (selWord f.ty f.m.toNat x.1 y.1 z) mark]) s

/-- `bfx` (R82). -/
def execBfx (f : Fields) (s : State) : Out := uniform2 f (bfxWord f.ty) s

/-- `bfi` (R82). -/
def execBfi (f : Fields) (s : State) : Out :=
  runUniform f.nx (uRegs f true) (fun s st => do
    let x ← uval s st f.ty f.a
    let y ← uval s st f.ty f.b
    let z ← uval s st f.ty f.c
    return [.reg f.d.toNat (bfiWord x y z) false]) s

/-- `cmp`: an element mask, and `uc` from element 0 (R80). -/
def execCmp (f : Fields) (s : State) : Out :=
  runUniform f.nx (uRegs f true) (fun s st => do
    let x ← uval s st f.ty f.a
    let y ← uval s st f.ty f.b
    let c := fun k => condInt f.m.toNat (elemInt f.ty x k) (elemInt f.ty y k)
    return [.reg f.d.toNat (maskElements f.ty c) false, .uc (c 0)]) s

/-- `ffs`: the lowest set bit, 64 for none, and `uc` (R84). -/
def execFfs (f : Fields) (s : State) : Out :=
  runUniform f.nx (uRegs f true) (fun s st => do
    let x ← uval s st f.ty f.a
    return [.reg f.d.toNat (BitVec.ofNat 64 (ctz 64 x.toNat)) false, .uc (x != 0)]) s

-- Mask instructions (R83)

/-- `emget`. -/
def execEmget (f : Fields) (s : State) : Out :=
  runUniform f.nx (uRegs f true) (fun _ st => return [.reg f.d.toNat (st.em.setWidth 64) false]) s
/-- `emset`. -/
def execEmset (f : Fields) (s : State) : Out := uniformMask f (fun _ pm a => a &&& pm) s
/-- `emand`. -/
def execEmand (f : Fields) (s : State) : Out := uniformMask f (fun em _ a => em &&& a) s
/-- `emandn`. -/
def execEmandn (f : Fields) (s : State) : Out := uniformMask f (fun em _ a => em &&& ~~~a) s
/-- `emor`. -/
def execEmor (f : Fields) (s : State) : Out := uniformMask f (fun em pm a => (em ||| a) &&& pm) s

-- Sequencing (R86, R88, R96)

/-- `loop`: push a level whose head is the next address (R86). -/
def execLoop (f : Fields) (s : State) : Out :=
  runUniform f.nx (uRegs f false) (fun s st => do
    let x ← uval s st f.ty f.a
    return [.push (x.setWidth 32) st.seq]) s

/-- Whether the line holding an address is in the strand's instruction buffer (R88, R159). -/
def buffered (st : Strand) (n : Int) : Bool :=
  st.ibuf.any fun b => b.win == st.cwin && decide ((b.addr.toNat : Int) = n / 64 * 64)

/-- What `fork` does (R88): the strand after it and the next address; with the register occupied it falls through
(R92). -/
def forkStep (f : ForkFields) (st : Strand) (xa xb : Word) : Strand × Int :=
  let ma := (xa.setWidth 32 : Half) &&& st.em
  let mb := (xb.setWidth 32 : Half) &&& st.em
  let base : Int := st.pc.toNat
  let startB := base + 4 * f.ob.toNat
  let reg (p : ForkPhase) (m : Half) : Fork := ⟨p, st.pc, f.ob.toNat, f.oj.toNat, m⟩
  if st.fork.phase != .none then (st, st.seq.toNat)
  else if ma = 0 ∧ mb = 0 then ({ st with em := 0 }, base + 4 * f.oj.toNat)
  else if ma = 0 then ({ st with em := mb }, startB)
  else if mb = 0 ∨ (buffered st startB && !buffered st (base + 12)) = false then
    ({ st with em := ma, fork := reg .aFirst mb }, st.seq.toNat)
  else ({ st with em := mb, fork := reg .bFirst ma }, startB)

/-- `fork` (R88, R92). -/
def execFork (f : ForkFields) (s : State) : Out :=
  withActor s fun k st =>
    let st1 := endChain st
    settle s k st1 false do
      awaitRegs st1 [] [f.a.toNat, f.b.toNat]
      let xa ← uval s st1 .i8 ⟨.reg f.a, false⟩
      let xb ← uval s st1 .i8 ⟨.reg f.b, false⟩
      let r := forkStep f st1 xa xb
      if st1.fork.phase != .none then return retire s k st1 .next 0 st1.em
      else return retireTo s k r.1 r.2 st1.em (st1.saveNext st1.em)

/-- `yield` (R96). -/
def execYield (f : Fields) (s : State) : Out := runUniform f.nx [] (fun _ _ => return [.yieldTurn]) s

-- Identity, time and control state (R93 to R95)

/-- Block coordinates within the grid (R93). -/
def blockCoord (dims : Nat × Nat × Nat) (bid sel : Nat) : Nat :=
  match sel with
  | 0 => bid % max dims.1 1
  | 1 => bid / max dims.1 1 % max dims.2.1 1
  | _ => bid / max (dims.1 * dims.2.1) 1

/-- The value `getid` returns for a selector below 16 (R93, R174). The parcel's
number is its PIDX (R365), and a core's number follows from it. A sill strand has no block (R347). -/
def getidValue (s : State) (st : Strand) (sel : Nat) : Nat :=
  let g := s.grid (gridKey s st)
  let cg := st.bid / max g.cgroup 1
  if st.sill then
    match sel with
    | 6 => st.sid
    | 7 => st.nstr
    | 13 => (s.platOf (clusterOf st.core)).pidx
    | 15 => g.seqNo
    | _ => 0
  else
  match sel with
  | 0 | 1 | 2 => blockCoord g.dims st.bid sel
  | 3 => g.dims.1
  | 4 => g.dims.2.1
  | 5 => g.dims.2.2
  | 6 => st.sid
  | 7 => st.nstr
  | 8 => st.bid % max g.cgroup 1
  | 9 => cg % max g.sgroup 1
  | 10 => cg
  | 11 => st.bid / max (g.cgroup * g.sgroup) 1
  | 12 => (s.platOf (st.core / 8)).pidx * 8 + st.core % 8
  | 13 => (s.platOf (st.core / 8)).pidx
  | 14 => st.slot
  | _ => g.seqNo

/-- `getid`: a selector of 16 or above is an operand-time ILLEGAL FIELD (R93). -/
def execGetid (f : Fields) (s : State) : Out :=
  runUniform f.nx (uRegs f true) (fun s st => do
    let x ← uval s st f.ty f.a
    need (decide (x.toNat < 16)) cIllegalField
    return [.reg f.d.toNat (BitVec.ofNat 64 (getidValue s st x.toNat)) false]) s

/-- `time`: the datum clock (R94). -/
def execTime (f : Fields) (s : State) : Out :=
  runUniform f.nx (uRegs f true) (fun s _ => return [.reg f.d.toNat (BitVec.ofNat 64 s.datum) false]) s

/-- The value of a control register (R37). -/
def cregValue (s : State) (st : Strand) (n : Nat) : Word :=
  if n = 0x00 then st.sts
  else if n = 0x01 then st.em.setWidth 64
  else if n = 0x02 then st.pm.setWidth 64
  else if n = 0x03 then BitVec.ofNat 64 (b2n st.uc)
  else if n = 0x04 then st.lr
  else if n = 0x05 then st.lc0.setWidth 64
  else if n = 0x06 then st.lc1.setWidth 64
  else if n = 0x07 then st.lh0
  else if n = 0x08 then st.lh1
  else if n = 0x09 then st.tpc
  else if n = 0x0A then st.tcause.setWidth 64
  else if n = 0x0B then st.taddr
  else if n = 0x0C then st.tem.setWidth 64
  else if n = 0x0D then st.tfk
  else if n = 0x0E then st.vstamp
  else if n = 0x0F then st.vretry
  else if n = 0x10 then st.bnd.setWidth 64
  else if n = 0x11 then BitVec.ofNat 64 st.rnd
  else if n = 0x12 then st.seed.setWidth 64
  else if n = 0x13 then st.ctxa
  else if n = 0x14 then st.ctxw.setWidth 64
  else if n = 0x15 then BitVec.ofNat 64 st.batch
  else if n = 0x16 then st.tvec
  else if 0x18 ≤ n ∧ n < 0x20 then (st.window (n - 0x18)).setWidth 64
  else if 0x20 ≤ n ∧ n < 0x30 then (fmtReg s st (n - 0x20)).setWidth 64
  else 0

/-- `cget` (R95). -/
def execCget (f : Fields) (s : State) : Out :=
  runUniform f.nx (uRegs f true) (fun s st => return [.reg f.d.toNat (cregValue s st f.f.toNat) false]) s

/-- What a `cset` writes, or its operand-time fault (R37, R83, R91, R95). Bits 8 to 10 of `sts` are read-only and
ignored; its other upper bits are reserved. -/
def cregWrite (st : Strand) (n : Nat) (x : Word) : Res (List UWrite) :=
  let h : Half := x.setWidth 32
  if n = 0x00 then do
    need (decide (bits x.toNat 5 3 = 0 ∧ bits x.toNat 11 53 = 0)) cIllegalField
    return [.flags (x.setWidth 5)]
  else if n = 0x01 then return [.em (h &&& st.pm)]
  else if n = 0x03 then return [.uc (x.getLsbD 0)]
  else if n = 0x04 then return [.lr x]
  else if n = 0x05 then return [.lc0 h]
  else if n = 0x06 then return [.lc1 h]
  else if n = 0x07 then return [.lh0 x]
  else if n = 0x08 then return [.lh1 x]
  else if n = 0x09 then return [.tpc x]
  else if n = 0x0A then return [.tcause (x.setWidth 8)]
  else if n = 0x0B then return [.taddr x]
  else if n = 0x0C then return [.tem h]
  else if n = 0x0D then do
    need (decide (field x 32 3 ≤ 4)) cIllegalField
    return [.tfk x]
  else if n = 0x11 then do
    need (decide (field x 0 3 ≤ 4)) cIllegalField
    return [.rnd (field x 0 3)]
  else if n = 0x12 then return [.seed h]
  else if 0x18 ≤ n ∧ n < 0x20 then return [.win (n - 0x18) (x.setWidth 16)]
  else return []

/-- `cset` (R37, R95): of a trap register outside trap mode an ILLEGAL CONTEXT, before all else (R34); a marked source raises POISON
CONSUMED (R72). -/
def execCset (f : Fields) (s : State) : Out :=
  inContext 0x026 f.f.toNat [] (runUniform f.nx (uRegs f false) fun s st => do
    let x ← uval s st f.ty f.a
    cregWrite st f.f.toNat x) s

-- Compact aliases (R35, R36): each is exactly its W-form

/-- Compact `nop`. -/
def execNopC (c : CFields) (s : State) : Out := execNop (c.expand 16) s
/-- Compact `mov`. -/
def execMovC (c : CFields) (s : State) : Out := execMov (c.expand 17) s
/-- Compact `add`. -/
def execAddC (c : CFields) (s : State) : Out := execAdd (c.expand 18) s
/-- Compact `sub`. -/
def execSubC (c : CFields) (s : State) : Out := execSub (c.expand 19) s
/-- Compact `mul`. -/
def execMulC (c : CFields) (s : State) : Out := execMul (c.expand 20) s
/-- Compact `and`. -/
def execAndC (c : CFields) (s : State) : Out := execAnd (c.expand 21) s
/-- Compact `or`. -/
def execOrC (c : CFields) (s : State) : Out := execOr (c.expand 22) s
/-- Compact `xor`. -/
def execXorC (c : CFields) (s : State) : Out := execXor (c.expand 23) s
/-- Compact `andn`. -/
def execAndnC (c : CFields) (s : State) : Out := execAndn (c.expand 24) s
/-- Compact `shl`. -/
def execShlC (c : CFields) (s : State) : Out := execShl (c.expand 25) s
/-- Compact `shr`. -/
def execShrC (c : CFields) (s : State) : Out := execShr (c.expand 26) s
/-- Compact `sar`. -/
def execSarC (c : CFields) (s : State) : Out := execSar (c.expand 27) s
/-- Compact `min`. -/
def execMinC (c : CFields) (s : State) : Out := execMin (c.expand 28) s
/-- Compact `max`. -/
def execMaxC (c : CFields) (s : State) : Out := execMax (c.expand 29) s
/-- Compact `rot`. -/
def execRotC (c : CFields) (s : State) : Out := execRot (c.expand 30) s
/-- Compact `mulh`. -/
def execMulhC (c : CFields) (s : State) : Out := execMulh (c.expand 31) s

end Sys2Proof.Machine
end

