-- ==== Sys2Proof/Machine/Vector.lean ====
section
/-!
DEFINITION. The vector class, integer and per-thread part (R97 to R112, R121), and what every vector instruction shares:
its checks, its destination, its latches, its last reads (R98, R100 to R102, R163 to R169).
-/
namespace Sys2Proof.Machine

/-- What a vector instruction computes from the strand: the result of each thread (used in active threads only), the
generators after its draws, its flags, and the mask for its mask destination, if its
entry gives it one. -/
structure VOut where
  val  : Nat → Word × Bool
  gens : Vector Half 32
  fl   : Flags
  mask : Option Half

/-- A result with no draw, flag or mask. -/
def VOut.plain (st : Strand) (val : Nat → Word × Bool) : VOut := ⟨val, st.gens, 0, none⟩

/-- Mark registers for freeing at the chain's end: a destination's own mark is cancelled (R23, R165). -/
def markLastReads (st : Strand) (os : List Opd) (d : Option Nat) : Strand :=
  let fs := st.chainFrees ++ os.flatMap lastRegOf
  { st with chainFrees := match d with | some r => fs.filter (· != r) | none => fs }

/-- Shift the latches and write b1 (R168). -/
def pushLatch (st : Strand) (r : VReg) : Strand :=
  { st with lat := ⟨#[r, st.latch 0, st.latch 1, st.latch 2], rfl⟩ }

/-- The value D holds after the instruction in each thread (R98); inactive threads keep the old value, or read zero. -/
def mergeActive (em : Half) (old : Option VReg) (val : Nat → Word × Bool) : VReg :=
  VReg.ofFn fun t =>
    if activeIn em t then val t
    else match old with | some r => (r.get t, r.marked t) | none => (0, false)

/-- Write the result of a vector instruction: D or only the latch, and b1 (R98, R163, R168). -/
def writeVector (st : Strand) (f : Fields) (val : Nat → Word × Bool) : Strand :=
  if f.nw then pushLatch st (mergeActive st.em none val)
  else
    let r := mergeActive st.em (st.vreg f.d.toNat) val
    pushLatch (st.setV f.d.toNat (some r)) r

/-- Note that a chain member has executed: its position, and the head's address for a head (R169, R171). -/
def chainMember (st : Strand) (continues : Bool) : Strand :=
  if continues then { st with chainPos := st.chainPos + 1 } else { st with chainPos := 1, chainHead := st.pc }

/-- The registers that a vector instruction reads or writes are not in flight (R157), its chain is legal (R169), its sources
are allocated (R102), its own checks pass, and there is room for a fresh D (R163, R164). -/
def vectorReady (s : State) (st : Strand) (f : Fields) (os : List Opd) (check : State → Strand → Res Unit) : Res Unit := do
  chainCheck st (os.flatMap latchesOf)
  awaitRegs st ((if f.nw then [] else [f.d.toNat]) ++ os.flatMap vRegsOf) (os.flatMap bRegsOf ++ bRegsOf f.c)
  checkAllocated st os
  check s st
  checkRoom s st (if f.nw || (st.vreg f.d.toNat).isSome then 0 else 1)

/-- The strand after a vector instruction: D or the latch, the generators, the last reads, the mask destination, its place in
the chain (R23, R98, R100, R163 to R169). -/
def vectorWrite (st : Strand) (f : Fields) (os : List Opd) (r : VOut) : Strand :=
  let st1 := writeVector { st with gens := r.gens } f r.val
  let st2 := markLastReads st1 os (if f.nw then none else some f.d.toNat)
  let st3 := match r.mask, f.c.spec with
    | some m, .bcast n => st2.setS n.toNat (m.setWidth 64) false
    | _, _ => st2
  chainMember st3 (!(os.flatMap latchesOf).isEmpty)

/-- The strand at the start of an instruction with vector operands: one that reads no latch ends a chain (R169). -/
def vectorStart (st0 : Strand) (os : List Opd) : Strand := chainEnter st0 (os.flatMap latchesOf)

/-- The end of a vector instruction: its writes, its flags, and the next address. -/
def vectorDone (s : State) (k : Nat) (st : Strand) (f : Fields) (os : List Opd) (r : VOut) : State :=
  retire s k (vectorWrite st f os r) f.nx r.fl st.em

/-- Run a vector instruction (R97 to R102, R163 to R171). `os` are its operands; `check` makes the format and poison
checks of its entry; `body` computes. -/
def runVector (f : Fields) (os : List Opd) (check : State → Strand → Res Unit)
    (body : State → Strand → VOut) (s : State) : Out :=
  withActor s fun k st0 =>
    let st := vectorStart st0 os
    settle s k st (st.chainPos != 0) do
      vectorReady s st f os check
      return vectorDone s k st f os (body s st)

/-- The check of an ordinary per-thread instruction: no value it reads is marked (R101). -/
def noMarks (os : List Opd) (_s : State) (st : Strand) : Res Unit := checkMarks st os (activeList st.em)

/-- What a function of the operands' values computes in each thread. -/
def threadOut (f : Fields) (op : Word → Word → Word → Word) (st : Strand) : VOut :=
  VOut.plain st fun t => (op (vread st f.ty 0 f.a t).1 (vread st f.ty 0 f.b t).1 (vread st f.ty 0 f.c t).1, false)

/-- A per-thread instruction with no flags, of one to three sources. -/
def perThread (f : Fields) (os : List Opd) (op : Word → Word → Word → Word) (s : State) : Out :=
  runVector f os (noMarks os) (fun _ st => threadOut f op st) s

/-- One source. -/
def vector1 (f : Fields) (op : Word → Word) (s : State) : Out := perThread f [f.a] (fun x _ _ => op x) s
/-- Two sources. -/
def vector2 (f : Fields) (op : Word → Word → Word) (s : State) : Out :=
  perThread f [f.a, f.b] (fun x y _ => op x y) s
/-- Three sources. -/
def vector3 (f : Fields) (op : Word → Word → Word → Word) (s : State) : Out :=
  perThread f [f.a, f.b, f.c] op s

-- Integer arithmetic and bits (R104, R105)

/-- `vmov`: the mark of each value is copied (R101, R108). -/
def execVmov (f : Fields) (s : State) : Out :=
  runVector f [f.a] (fun _ _ => .ok ()) (fun _ st => VOut.plain st fun t => vread st f.ty 0 f.a t) s
/-- `vadd`. -/
def execVadd (f : Fields) (s : State) : Out := vector2 f (packed2 f.ty (f.fBit 0) (· + ·)) s
/-- `vsub`. -/
def execVsub (f : Fields) (s : State) : Out := vector2 f (packed2 f.ty (f.fBit 0) (· - ·)) s
/-- `vmul`. -/
def execVmul (f : Fields) (s : State) : Out := vector2 f (packed2 f.ty (f.fBit 0) (· * ·)) s
/-- `vmulh`. -/
def execVmulh (f : Fields) (s : State) : Out := vector2 f (packed2 f.ty false (mulHigh f.ty)) s
/-- x × y + z, formed exactly and reduced once (R104). -/
def madWord (f : Fields) (x y z : Word) : Word :=
  elements f.ty fun k => reduceTy f.ty (f.fBit 0) (elemInt f.ty x k * elemInt f.ty y k + elemInt f.ty z k)

/-- `vmad`. -/
def execVmad (f : Fields) (s : State) : Out := vector3 f (madWord f) s
/-- `vdiv`. -/
def execVdiv (f : Fields) (s : State) : Out := vector2 f (packed2 f.ty (f.fBit 0) (divElem f.ty)) s
/-- `vrem`. -/
def execVrem (f : Fields) (s : State) : Out := vector2 f (packed2 f.ty false remElem) s

/-- Magnitudes (R105): a float's sign is cleared as a bit. -/
def absWord (f : Fields) (x : Word) : Word :=
  elements f.ty fun k =>
    if f.ty.isInt then reduceTy f.ty (f.fBit 0) (elemInt f.ty x k).natAbs else elemCode f.ty x k % 2 ^ (f.ty.width - 1)
/-- `vabs`. -/
def execVabs (f : Fields) (s : State) : Out := vector1 f (absWord f) s
/-- Negations (R105): a float's sign is inverted as a bit. -/
def negWord (f : Fields) (x : Word) : Word :=
  elements f.ty fun k =>
    if f.ty.isInt then reduceTy f.ty (f.fBit 0) (-(elemInt f.ty x k)) else elemCode f.ty x k ^^^ 2 ^ (f.ty.width - 1)
/-- `vneg`. -/
def execVneg (f : Fields) (s : State) : Out := vector1 f (negWord f) s
/-- `vmin`. -/
def execVmin (f : Fields) (s : State) : Out := vector2 f (packed2 f.ty false minInt) s
/-- `vmax`. -/
def execVmax (f : Fields) (s : State) : Out := vector2 f (packed2 f.ty false maxInt) s
/-- `vavg`: rounded up, or down with `.dn`. -/
def execVavg (f : Fields) (s : State) : Out :=
  vector2 f (packed2 f.ty false fun x y => (x + y + (if f.fBit 1 then 0 else 1)) / 2) s
/-- `vand`. -/
def execVand (f : Fields) (s : State) : Out := vector2 f (fun x y => x &&& y) s
/-- `vor`. -/
def execVor (f : Fields) (s : State) : Out := vector2 f (fun x y => x ||| y) s
/-- `vxor`. -/
def execVxor (f : Fields) (s : State) : Out := vector2 f (fun x y => x ^^^ y) s
/-- `vandn`: x AND NOT y. -/
def execVandn (f : Fields) (s : State) : Out := vector2 f (fun x y => x &&& ~~~y) s
/-- `vshl`. -/
def execVshl (f : Fields) (s : State) : Out := vector2 f (packedCode f.ty (shlElem f.ty)) s
/-- `vshr`. -/
def execVshr (f : Fields) (s : State) : Out := vector2 f (packedCode f.ty (shrElem f.ty)) s
/-- `vsar`. -/
def execVsar (f : Fields) (s : State) : Out := vector2 f (packedCode f.ty (sarElem f.ty)) s
/-- `vrot`. -/
def execVrot (f : Fields) (s : State) : Out := vector2 f (packedCode f.ty (rotElem f.ty)) s
/-- `vclz`. -/
def execVclz (f : Fields) (s : State) : Out :=
  vector1 f (fun x => elements f.ty fun k => clz f.ty.width (elemCode f.ty x k)) s
/-- `vpopc`. -/
def execVpopc (f : Fields) (s : State) : Out :=
  vector1 f (fun x => elements f.ty fun k => popcount f.ty.width (elemCode f.ty x k)) s
/-- `vbfx` (R82 in each thread). -/
def execVbfx (f : Fields) (s : State) : Out := vector2 f (bfxWord f.ty) s
/-- `vbfi` (R82 in each thread). -/
def execVbfi (f : Fields) (s : State) : Out := vector3 f bfiWord s

-- Compares and selects (R106, R107)

/-- Whether any element of a type satisfies a condition, or the first one does (F[1], R106). -/
def anyOrFirst (f : Fields) (c : Nat → Bool) : Bool := if f.fBit 1 then (upto f.ty.lanes).any c else c 0

/-- A mask over active threads. -/
def threadMask (em : Half) (c : Nat → Bool) : Half := BitVec.ofNat 32 (maskOf ((activeList em).filter c))

/-- What a compare gives (R106): element masks, its flags, and the thread mask. -/
def compareOut (f : Fields) (c : Word → Word → Nat → Bool) (fl : Word → Word → Flags) (st : Strand) : VOut :=
  let x := fun t => (vread st f.ty 0 f.a t).1
  let y := fun t => (vread st f.ty 0 f.b t).1
  { val := fun t => (maskElements f.ty (c (x t) (y t)), false)
    gens := st.gens
    fl := (activeList st.em).foldl (fun a t => a ||| fl (x t) (y t)) 0
    mask := some (threadMask st.em fun t => anyOrFirst f (c (x t) (y t))) }

/-- A compare of two sources element by element (R106). -/
def runCompare (f : Fields) (c : Word → Word → Nat → Bool) (fl : Word → Word → Flags) (s : State) : Out :=
  runVector f [f.a, f.b] (noMarks [f.a, f.b]) (fun _ st => compareOut f c fl st) s

/-- `vcmp` (R106). -/
def execVcmp (f : Fields) (s : State) : Out :=
  runCompare f (fun x y k => condInt f.m.toNat (elemInt f.ty x k) (elemInt f.ty y k)) (fun _ _ => 0) s

/-- What `vsel` selects in each thread, with the marks of what it selects (R101, R107). -/
def selOut (f : Fields) (st : Strand) : VOut :=
  VOut.plain st fun t =>
    let x := vread st f.ty 0 f.a t
    let y := vread st f.ty 0 f.b t
    let z := (vread st f.ty 0 f.c t).1
    let picks := (upto f.ty.lanes).map fun k => condInt f.m.toNat (elemInt f.ty z k) 0
    (selWord f.ty f.m.toNat x.1 y.1 z, (picks.any id && x.2) || (picks.any not && y.2))

/-- `vsel` (R107): the test's mark faults, and the mark of the selected source is copied (R101). -/
def execVsel (f : Fields) (s : State) : Out :=
  runVector f [f.a, f.b, f.c] (fun _ st => checkMarks st [f.c] (activeList st.em)) (fun _ st => selOut f st) s

-- Packing (R112)

/-- The elements of A, then those of B, at half the width (R110, R112). -/
def packWord (f : Fields) (x y : Word) : Word :=
  let half := (Ty.ofCode (f.ty.code - 2)).getD .i8
  let conv := fun w => (upto f.ty.lanes).map fun k => reduceTy half (f.fBit 0) (elemInt f.ty w k)
  wordOf half.width (conv x ++ conv y)

/-- `vpack`. -/
def execVpack (f : Fields) (s : State) : Out := vector2 f (packWord f) s

/-- Half of A's elements at twice the width (R112). -/
def unpackWord (f : Fields) (x : Word) : Word :=
  let wide := (Ty.ofCode (f.ty.code + 2)).getD .i16
  elements wide fun k => wrapNat wide.width (elemInt f.ty x (k + (if f.fBit 1 then f.ty.lanes / 2 else 0)))

/-- `vunpack`. -/
def execVunpack (f : Fields) (s : State) : Out := vector1 f (unpackWord f) s

/-- A byte lookup in the 16 bytes of A and B (R121). -/
def permWord (x y z : Word) : Word :=
  wordOf 8 ((upto 8).map fun j =>
    let i := field z (8 * j) 8
    if 128 ≤ i then 0
    else
      let e := i % 16
      if e < 8 then field x (8 * e) 8 else field y (8 * (e - 8)) 8)

/-- `vperm`. -/
def execVperm (f : Fields) (s : State) : Out := vector3 f permWord s

-- Moves between threads (R99, R122)

/-- The value of an operand in a thread as the cross-thread moves see it: zero, unmarked, outside pm (R99). -/
def crossRead (st : Strand) (o : Opd) (t : Nat) : Word × Bool :=
  if activeIn st.pm t then vread st .b 0 o t else (0, false)

/-- The uniform operand of `vbcast`, `vrott` and `vslide`. -/
def countOf (st : Strand) (o : Opd) : Nat := (vread st .b 0 o 0).1.toNat

/-- What a move gives: each thread's source, as `pick` names it. -/
def moveOut (pick : Strand → Nat → Opd × Nat) (st : Strand) : VOut :=
  VOut.plain st fun t => crossRead st (pick st t).1 (pick st t).2

/-- A cross-thread move: `pick` names each thread's source (R122). A marked index or count is consumed poison (R101);
the count is read once for the strand. -/
def runMove (f : Fields) (os counts : List Opd) (perStrand : Bool) (pick : Strand → Nat → Opd × Nat) (s : State) : Out :=
  runVector f os
    (fun _ st => checkMarks st counts (if perStrand then [0] else activeList st.em))
    (fun _ st => moveOut pick st) s

/-- `vshuf`'s source (R122). -/
def pickShuf (f : Fields) (st : Strand) (t : Nat) : Opd × Nat :=
  let i := (vread st .b 0 f.b t).1.toNat % 32
  (f.a, if f.fBit 1 then t ^^^ i else i)
/-- `vshuf`. -/
def execVshuf (f : Fields) (s : State) : Out := runMove f [f.a, f.b] [f.b] false (pickShuf f) s
/-- `vbcast`. -/
def execVbcast (f : Fields) (s : State) : Out :=
  runMove f [f.a, f.b] [f.b] true (fun st _ => (f.a, countOf st f.b % 32)) s
/-- `vrott`. -/
def execVrott (f : Fields) (s : State) : Out :=
  runMove f [f.a, f.b] [f.b] true (fun st t => (f.a, (t + 32 - countOf st f.b % 32) % 32)) s
/-- `vslide`'s source (R122). -/
def pickSlide (f : Fields) (st : Strand) (t : Nat) : Opd × Nat :=
  let n := min (countOf st f.b % 64) 32
  if f.fBit 1 then (if t + n ≤ 31 then (f.a, t + n) else (f.c, t + n - 32))
  else if n ≤ t then (f.a, t - n) else (f.c, t + 32 - n)
/-- `vslide`. -/
def execVslide (f : Fields) (s : State) : Out := runMove f [f.a, f.b, f.c] [f.b] true (pickSlide f) s

/-- The active threads whose value is not zero (R126). -/
def ballotMask (f : Fields) (st : Strand) : Half := threadMask st.em fun t => (vread st f.ty 0 f.a t).1 != 0
/-- `vballot`. -/
def execVballot (f : Fields) (s : State) : Out :=
  runVector f [f.a] (noMarks [f.a]) (fun _ st =>
    { val := fun _ => ((ballotMask f st).setWidth 64, false), gens := st.gens, fl := 0, mask := some (ballotMask f st) }) s

-- Compact aliases (R35, R36)

/-- Compact `vmov`. -/
def execVmovC (c : CFields) (s : State) : Out := execVmov (c.expand 1) s
/-- Compact `vadd`. -/
def execVaddC (c : CFields) (s : State) : Out := execVadd (c.expand 2) s
/-- Compact `vsub`. -/
def execVsubC (c : CFields) (s : State) : Out := execVsub (c.expand 3) s
/-- Compact `vmul`. -/
def execVmulC (c : CFields) (s : State) : Out := execVmul (c.expand 4) s
/-- Compact `vmin`. -/
def execVminC (c : CFields) (s : State) : Out := execVmin (c.expand 5) s
/-- Compact `vmax`. -/
def execVmaxC (c : CFields) (s : State) : Out := execVmax (c.expand 6) s
/-- Compact `vand`. -/
def execVandC (c : CFields) (s : State) : Out := execVand (c.expand 7) s
/-- Compact `vor`. -/
def execVorC (c : CFields) (s : State) : Out := execVor (c.expand 8) s
/-- Compact `vxor`. -/
def execVxorC (c : CFields) (s : State) : Out := execVxor (c.expand 9) s
/-- Compact `vshl`. -/
def execVshlC (c : CFields) (s : State) : Out := execVshl (c.expand 10) s
/-- Compact `vshr`. -/
def execVshrC (c : CFields) (s : State) : Out := execVshr (c.expand 11) s
/-- Compact `vsar`. -/
def execVsarC (c : CFields) (s : State) : Out := execVsar (c.expand 12) s

end Sys2Proof.Machine
end

