-- ==== Sys2Proof/Machine/MemAccess.lean ====
section
/-!
DEFINITION. What every memory instruction shares: addresses, the checks of every thread before anything is performed,
scopes and the cap, the waits of the ordering rules, and the performing of loads, stores and atomics (R132 to R141,
R303 to R323).
-/
namespace Sys2Proof.Machine

/-- Why a memory instruction is not performed now: a fault or a wait, pages that are not usable (R407), or pages of peers
that are still to be asked for (R457, R470). -/
inductive MStop where
  | stop (e : Stop)
  | park (ps : List PageFault)
  | askPeer (pages : List (Nat × Bool))
  deriving DecidableEq, Repr

/-- A computation of a memory instruction: what it changes before it stops stays (translations, counters). -/
abbrev M (α : Type) := ExceptT MStop (StateM State) α

/-- A result with no effect on the state. -/
def liftRes {α : Type} (r : Res α) : M α := match r with | .ok a => pure a | .error e => throw (.stop e)
/-- Trap with an address. -/
def mtrap {α : Type} (cause : Nat) (addr : Word) : M α := throw (.stop (.trap cause (some addr)))
/-- Trap at the instruction. -/
def mtrapHere {α : Type} (cause : Nat) : M α := throw (.stop (.trap cause none))
/-- Wait. -/
def mwait {α : Type} (w : Wait) : M α := throw (.stop (.wait w))

/-- Ask peers for pages: the strand is as if parked until they have answered (R470). A page of a peer that the function
has no way to reach is refused (R457). Inside a chain it keeps its lane and the latches (R170). -/
def askPeers (s : State) (k : Nat) (st : Strand) (pages : List (Nat × Bool)) : State :=
  let fn := (whoOf s st).fn
  let dom := (s.fn fn).domain
  pages.foldl (fun a p =>
    if dom = 0 ∨ routeOk a (peerOf (p.1 * 65536)) = false then
      a.updStrand k fun x => { x with peerNo := addNew x.peerNo p.1, wait := .none }
    else a.askPage (peerOf (p.1 * 65536)) dom k p.1 p.2)
    (s.setStrand k { st with wait := .peer, lane := if st.chainPos = 0 then none else st.lane, pair := .none })

/-- A memory instruction waits: one that reads no latch has ended the chain. -/
def memWait (s : State) (k : Nat) (st : Strand) (w : Wait) (ends : Bool) : State :=
  block s k (if ends then endChain st else st) w

/-- Run a memory instruction: `vs` are the vector operands, for the chain rules (R169). -/
def runMem (vs : List Opd) (body : Nat → Strand → M Unit) (s : State) : Out :=
  withActor s fun k st0 =>
    let lat := vs.flatMap latchesOf
    let st := chainEnter st0 lat
    let inside := st.chainPos != 0
    match chainCheck st lat with
    | .error e => .next (stopWith s k st inside e)
    | .ok _ =>
      match (body k st).run s with
      | (.ok _, s1) => .next s1
      | (.error (.stop (.wait w)), s1) => .next (memWait s1 k ((s1.strand k).getD st) w lat.isEmpty)
      | (.error (.stop e), s1) => .next (stopWith s1 k st inside e)
      | (.error (.park ps), s1) => .next (parkMem s1 k st (whoOf s1 st) inside ps)
      | (.error (.askPeer ps), s1) => .next (askPeers s1 k st ps)

/-- A strand after a memory instruction: outside a chain its last reads are freed (R165). A member of a chain is its last, but the
chain's end is found only when the next instruction is decoded (R169, R171): the frees are pending until then. -/
def memLast (member : Bool) (st : Strand) : Strand := if member then { st with chainPos := 5 } else endChain st

/-- Mark the last reads of a chain's memory member; its destinations cancel their marks (R165). -/
def memMarks (st0 : Strand) (os : List Opd) (ds : List Nat) (st : Strand) : Strand :=
  if st0.chainPos = 0 then st
  else { st with chainFrees := (st.chainFrees ++ os.flatMap lastRegOf).filter fun r => !ds.contains r }

/-- End a memory instruction: the strand as changed, its frees, and the next address. `st0` is the strand as the instruction found
it, a chain that it does not continue having ended. -/
def memRetire (k : Nat) (nx : Nx) (st0 : Strand) (f : Strand → Strand) (s : State) : State :=
  match s.strand k with
  | none => s
  | some st =>
    retire s k { memLast (st0.chainPos != 0) (f st) with peerOk := [], peerNo := [], viewed := [], ask := 0, answer := none } nx 0 st0.em

/-- End a memory instruction. -/
def finishMem (k : Nat) (nx : Nx) (st0 : Strand) (f : Strand → Strand) : M Unit := modify (memRetire k nx st0 f)

-- Sizes and operands (R134)

/-- The bytes of an access (R134). -/
def accessSize : Ty → Nat
  | .i8 => 1 | .n8 => 1 | .i16 => 2 | .n16 => 2 | .i32 => 4 | .n32 => 4 | .i64 => 8 | .n64 => 8
  | .h => 2 | .bf => 2 | .f => 4 | .d => 8 | .x => 8 | .b => 8

/-- The operands of a memory instruction, read through its column: value and mark by thread. -/
structure MemOpnds where
  base : Nat → Word × Bool
  off  : Nat → Word × Bool
  data : Nat → Word × Bool

/-- Read an operand through the column of the form. -/
def memOpnd (s : State) (st : Strand) (vec : Bool) (t : Ty) (o : Opd) : Res (Nat → Word × Bool) :=
  if vec then .ok fun th => vread st t 0 o th
  else do
    let r ← uread s st t o
    return fun _ => r

/-- Read the operands: A as an unsigned offset, B as `.i64`, C as the data's type (R132). -/
def memOpnds (s : State) (st : Strand) (vec : Bool) (f : Fields) (bTy : Ty) : Res MemOpnds := do
  let a ← memOpnd s st vec .n64 f.a
  let b ← memOpnd s st vec bTy f.b
  let c ← memOpnd s st vec f.ty f.c
  return ⟨a, b, c⟩

/-- The threads that take part. -/
def memThreads (st : Strand) (vec : Bool) : List Nat := if vec then activeList st.em else [0]

-- Checks (R131 to R138, R402)

/-- One page's part of a thread's access: where its bytes lie in the value, and where they lie in memory. -/
structure Part where
  thread : Nat
  pos    : Nat
  n      : Nat
  ga     : Nat
  kind   : Nat
  bun    : Bool
  /-- The offset of the thread's access, and of this part. -/
  off    : Nat
  poff   : Nat
  deriving DecidableEq, Repr

/-- Split [off, off+n) at pages: (position, offset, length). At most two parts. -/
def pageSplit (off n : Nat) : List (Nat × Nat × Nat) :=
  let m := 65536 - off % 65536
  if n ≤ m then [(0, off, n)] else [(0, off, m), (m, off + m, n - m)]

/-- A line whose tag does not match is found out when it is read (R375). -/
def findBadTag (line : Nat) : M Bool := do
  let r := checkTag (← get) line
  set r.2
  return r.1

/-- Translate one part: the part, or the page to be parked on. -/
def resolvePart (st : Strand) (w : Who) (a : Ask) (win th off : Nat) (p : Nat × Nat × Nat) :
    M (Part ⊕ PageFault) := do
  let s ← get
  let r := translate s w a (win * 2 ^ 64 + p.2.1)
  set r.2
  match r.1 with
  | .ok ga l =>
    if isPeer ga && st.peerNo.contains (ga / 65536) then mtrap cPermission (BitVec.ofNat 64 off)
    else return .inl ⟨th, p.1, p.2.2, ga, l.kind, l.bun, off, p.2.1⟩
  | .trap c => mtrap c (BitVec.ofNat 64 off)
  | .replay kind gpa table => return .inr ⟨win, p.2.1, kind, gpa, table, a.write, false⟩

/-- Whether some byte range of a window lies in a region of a sill strand's job that allows it (R210, R214). Strands of a
core, and those of NBLAUNCH, have no regions. -/
def inRegions (s : State) (st : Strand) (win off n : Nat) (rd wr : Bool) : Bool :=
  if !st.sill then true
  else match s.jobs.find st.job with
    | none => true
    | some x => x.packet.isSome || (x.regions.filterMap id).any fun r =>
        r.space == 0 && r.win == win && decide (r.base ≤ off) && decide (off + n ≤ r.base + r.len)
        && (!rd || r.rd) && (!wr || r.wr)

/-- Check one thread's access: address, alignment, translation, integrity of loads. -/
def resolveThread (st : Strand) (w : Who) (a : Ask) (win size : Nat) (aligned integ : Bool) (o : MemOpnds)
    (withOff : Bool) (th : Nat) : M (List Part × List PageFault) := do
  let b := o.base th
  let d := if withOff then o.off th else (0, false)
  if b.2 || d.2 then mtrapHere cPoison
  let off : Int := (b.1.toNat : Int) + d.1.toInt
  if off < 0 ∨ 2 ^ 64 < off + size then mtrap cWindowCrossing (wrap64 off)
  if aligned && off.toNat % size != 0 then mtrap cAlignment (wrap64 off)
  if !inRegions (← get) st win off.toNat size (!a.write || !withOff) a.write then mtrap cFootprint (wrap64 off)
  let rs ← (pageSplit off.toNat size).mapM (resolvePart st w a win th off.toNat)
  let parts := rs.filterMap fun r => match r with | .inl p => some p | .inr _ => none
  let faults := rs.filterMap fun r => match r with | .inr p => some p | .inl _ => none
  if integ then
    for p in parts do
      for l in linesOf p.ga p.n do
        if ← findBadTag l then mtrap cIntegrity (BitVec.ofNat 64 (p.poff + l * 128 - p.ga))
  return (parts, faults)

/-- The pages of peers among parts that have not been asked for yet. -/
def unasked (st : Strand) (ps : List Part) : List Nat :=
  (((ps.filter fun p => isPeer p.ga).map fun p => p.ga / 65536).foldl addNew []).filter fun g => !st.peerOk.any (·.1 == g)

/-- Check threads one after another (R135, R136). One that fails traps, once the pages of peers that lower threads name have been asked
for, since a refusal there comes first (R402, order 7). -/
def resolveEach (st : Strand) (a : Ask) (check : Nat → M (List Part × List PageFault)) :
    List Nat → List Part → List PageFault → M (List Part × List PageFault)
  | [], ps, fs => return (ps, fs)
  | th :: rest, ps, fs => do
    let r ← tryCatch (check th) fun e => do
      let ask := unasked st ps
      if ask.isEmpty then throw e else throw (.askPeer (ask.map fun g => (g, a.write)))
    resolveEach st a check rest (ps ++ r.1) (fs ++ r.2)

/-- Check every thread in ascending order (R135, R136): the lowest failing thread traps; otherwise pages of peers are asked for, and then
pages that are not usable park the instruction (R402). -/
def resolveAll (st : Strand) (w : Who) (a : Ask) (win size : Nat) (aligned integ : Bool) (o : MemOpnds)
    (withOff : Bool) (threads : List Nat) : M (List Part) := do
  let r ← resolveEach st a (resolveThread st w a win size aligned integ o withOff) threads [] []
  let ask := unasked st r.1
  if !ask.isEmpty then throw (.askPeer (ask.map fun g => (g, a.write)))
  if !r.2.isEmpty then throw (.park r.2)
  return r.1

/-- What an instruction's cause is on a bundled page (R138): a load outside a view, or a store outside a restartable
block. -/
def bunCause (s : State) (st : Strand) (load store : Bool) : PageNeed :=
  if load then (if st.viewOn then .any else .plain cViewRequired)
  else if store && restartableBlock s st then .any
  else .plain cPermission

/-- The scope at which an explicit scope executes (R314): above CAP it counts, or raises PERMISSION with the given
address. -/
def capScope (fn scope : Nat) (addr : Nat) : M Nat := do
  let s ← get
  let x := s.fn fn
  if scope ≤ x.cap then return scope
  else if x.capFault then mtrap cPermission (BitVec.ofNat 64 addr)
  else
    set (s.updFn fn fun y => { y with capCount := min 0xFFFFFFFF (y.capCount + 1) })
    return x.cap

/-- PERMISSION for an explicit scope above a cap that faults (R314); nothing is counted yet. -/
def scopeCheck (fn scope addr : Nat) : M Unit := do
  let x := (← get).fn fn
  if x.cap < scope ∧ x.capFault = true then mtrap cPermission (BitVec.ofNat 64 addr)

/-- The same for an access that is an acquire or a release, at the offset of its lowest active thread. -/
def accessScope (ordered : Bool) (fn scope : Nat) (ps : List Part) : M Unit :=
  match ordered, ps with
  | true, p :: _ => scopeCheck fn scope p.off
  | _, _ => pure ()

-- Waits of the ordering rules (R307 to R310, R323)

/-- Wait for what must come before: after an acquire, its data; before a release, earlier loads and acknowledgements in
its reach; before an `lda`, an earlier `stl`. -/
def orderWaits (st : Strand) (release : Option Nat) (lda : Bool) : Res Unit :=
  if st.flight.any fun p => p.2.acquire then waitFor .data
  else
    match release with
    | some sc =>
      if !st.flight.isEmpty then waitFor .data
      else if st.unacked.any fun u => waitsFor sc u.reach then waitFor .acks
      else .ok ()
    | none =>
      if lda && st.flight.any (fun p => p.2.alters) then waitFor .data
      else if lda && !st.unacked.isEmpty then waitFor .acks
      else .ok ()

/-- The lines of parts. -/
def partLines (ps : List Part) : List Nat := (ps.flatMap fun p => linesOf p.ga p.n).foldl addNew []

/-- Whether a load of a line waits for stores of its core to it that have not been performed: unless the L1 holds its words, in which
they stand, so that nobody reads what the L1 gave before and the home does not give yet (R298, R304). An `lda` waits for them always
(R308). -/
def loadWaits (s : State) (st : Strand) (p : Part) (lda : Bool) (l : Nat) : Bool :=
  let own := st.unacked.any fun u => u.line == l
  (own || (decide (st.core < 512) && storesPending s st.core l))
    && (lda || (own && restartableBlock s st) || !l1Holds (s.core st.core).l1 l
        (max p.ga (128 * l) - 128 * l) (min (p.ga + p.n) (128 * l + 128) - max p.ga (128 * l)))

/-- Wait for earlier accesses of the strand to the same lines, and for all earlier ones when a page is SO (R304, R307). `load` is given
for a load, with whether it is an `lda`. -/
def lineWaits (s : State) (st : Strand) (ps : List Part) (load : Option Bool) : Res Unit :=
  let ls := partLines ps
  let inFl (all : Bool) : Bool := st.flight.any fun p =>
    (all || p.2.alters) && ((p.2.wanting ++ p.2.todo.map (·.line)).any ls.contains)
  if ps.any (fun p => p.kind == 1) && (!st.flight.isEmpty || !st.unacked.isEmpty) then
    waitFor (if st.flight.isEmpty then .acks else .data)
  else if inFl load.isNone then waitFor .data
  else
    match load with
    | some lda => if ps.any fun p => (linesOf p.ga p.n).any (loadWaits s st p lda) then waitFor .acks else .ok ()
    | none => .ok ()

-- Requests

/-- The parts of a part by line: (line, offset, position, length). -/
def partSplit (p : Part) : List (Nat × Nat × Nat × Nat) :=
  (linesOf p.ga p.n).map fun l =>
    let a := max p.ga (128 * l)
    (l, a - 128 * l, p.pos + (a - p.ga), min (p.ga + p.n) (128 * l + 128) - a)

/-- The request of a strand about a line. -/
def strandReq (s : State) (k : Nat) (st : Strand) (acc thread line : Nat) (so : Bool) (op : MemOp) : MemReq :=
  { agent := .strand k, acc := acc, thread := thread, grid := gridKey s st, core := st.core
    rank := s.dev * 1024 + st.core, home := homeBy line st.core, line := line, so := so, fill := 0, cold := false
    learn := none, closing := false, op := op, bnd := if restartableBlock s st then st.bnd else 0 }

/-- The pieces of an access, from its parts in ascending thread order. -/
def piecesOf (threads : List Nat) (ps : List Part) : List Piece :=
  threads.map fun t => ⟨t, (ps.filter fun p => p.thread == t).flatMap fun p => rangeFrom p.ga p.n, [], false⟩

/-- The word addresses that an access touches in a line's frame, ascending. -/
def touchedWords (ps : List Part) (frame : Nat) : List Nat :=
  (upto 32).filter fun w => ps.any fun p =>
    decide (p.ga < 1024 * frame + 32 * w + 32) && decide (1024 * frame + 32 * w < p.ga + p.n)

/-- The fill requests of an access (R288): for each frame that misses, the lines of the fill range and the touched lines, with
the words of each. Each frame follows its own page's kind (R306). -/
def fillReqs (s : State) (k : Nat) (st : Strand) (acc hint : Nat) (ps : List Part) : List MemReq :=
  let c := s.core st.core
  let lines := partLines ps
  let frames := (lines.map (· / 8)).foldl addNew []
  let noL1 := decide (512 ≤ st.core) || ps.any fun p => p.bun
  frames.flatMap fun fr =>
    let so := ps.any fun p => p.kind == 1 && (linesOf p.ga p.n).any fun l => l / 8 == fr
    let touched := touchedWords ps fr
    let missing := touched.any fun w => !cachePresent c.l1 (32 * fr + w)
    if !missing && !noL1 then []
    else
      let fw := if noL1 then [] else fillWords c.scribe st.pc hint fr touched
      ((upto 8).filter fun i =>
        fw.any (fun w => w / 4 == i && !cachePresent c.l1 (32 * fr + w))
          || touched.any fun w => w / 4 == i && (noL1 || !cachePresent c.l1 (32 * fr + w))).map fun i =>
        { strandReq s k st acc 0 (8 * fr + i) so .load with
          fill := maskOf ((fw.filter fun w => w / 4 == i && !cachePresent c.l1 (32 * fr + w)).map (· % 4))
          cold := hint == 6
          learn := if hint = 0 then some (scribeIndex st.pc fr, touched.headD 0,
            maskOf ((touched.filter fun w => w / 4 == i).map (· % 4))) else none }

-- Performing

/-- Name an access, enter it, and go on with it. -/
def beginAccess (k : Nat) (mk : Nat → Access) : StateM State Nat := do
  let s ← get
  let id := s.nextId
  set ({ s with nextId := id + 1 }.updStrand k fun st => { st with flight := st.flight.put id (mk id) })
  return id

/-- Perform a load (R135, R289): on an SO page thread by thread, otherwise all lines at once, the parts of each page by its own kind
(R306); what the L1 holds is taken at issue. Bundled lines have been decided before (R332), and the load of a view has the implicit scope .ten (R314). -/
def performLoad (k : Nat) (st : Strand) (f : Fields) (vec acq : Bool) (all : List Part) (frees : List Nat) : StateM State Unit := do
  if all.any fun p => p.bun then modify fun s => implicitScope s (whoOf s st).fn 7
  let s ← get
  let ps := all.filter fun p => !p.bun
  let so := ps.filter fun p => p.kind == 1
  let lines := partLines (ps.filter fun p => p.kind != 1)
  let noL1 := decide (512 ≤ st.core)
  let threads := memThreads st vec
  let old := (st.vreg f.d.toNat).getD VReg.zero
  let reqs := fillReqs s k st 0 f.hint ps
  let id ← beginAccess k fun id =>
    { writes := true, vector := vec, d := f.d.toNat, pair := false, ty := f.ty, old := old, old2 := old
      active := st.em, pieces := piecesOf threads all
      todo := so.flatMap fun p => (partSplit p).map fun x =>
        match reqs.find? fun r => r.line == x.1 with
        | some r => { r with acc := id, thread := p.thread }
        | none => { strandReq s k st id p.thread x.1 true .load with fill := 0 }
      wanting := [], alters := false, frees := frees, acquire := acq, endsView := acq }
  modify fun s => updAccess s k id fun a => st.viewed.foldl (fun (a : Access) v =>
    match v.2 with | some d => a.deliver v.1 d.1 d.2 none fun _ => true | none => a) a
  modify fun s => if noL1 then s else lines.foldl (fun a l => captureL1 a k id st.core l none) s
  let s1 ← get
  let want := lines.filter fun l =>
    match (s1.strand k).bind fun x => x.flight.find id with | some a => !a.hasLine l none | none => false
  set (updAccess s1 k id fun a => { a with wanting := want })
  let ordered := partLines so
  modify fun s => (reqs.filter fun r => !ordered.contains r.line).foldl (fun a r => sendReq a { r with acc := id }) s
  modify (advance 80 k id)

/-- The bytes that a thread's part writes to each line: (line, bytes by offset). -/
def storeBytes (x : Word) (p : Part) : List (Nat × List (Nat × Byte)) :=
  (partSplit p).map fun q => (q.1, number q.2.1 (bytesFrom x.toNat q.2.2.1 q.2.2.2))

/-- The requests of a store on SO pages, part by part in thread order (R136): each takes ownership of its line, and of a frame that
misses the words that the hint or the scribe asks for; where no L1 is filled it is performed at the home (R288, R289). -/
def soStores (s : State) (k : Nat) (st : Strand) (hint id : Nat) (release : Bool) (so : List Part) (fills : List MemReq)
    (data : Nat → Word × Bool) : List MemReq :=
  let noL1 := decide (512 ≤ st.core) || hint == 6
  so.flatMap fun p => (storeBytes (data p.thread).1 p).map fun q =>
    let mine := maskOf ((upto 4).filter fun w => q.2.any fun b => b.1 / 32 == w)
    let r := (fills.find? fun r => r.line == q.1).getD (strandReq s k st id p.thread q.1 true .load)
    { r with acc := id, thread := p.thread, op := .store q.2 (data p.thread).2, closing := release, cold := hint == 6
             fill := if noL1 then 0 else r.fill ||| mine }

/-- Perform a store (R136): on SO pages part by part in thread order with ownership; otherwise one message for each line,
in which a higher thread's byte comes later. -/
def performStore (k : Nat) (st : Strand) (hint : Nat) (release : Bool) (ps : List Part) (data : Nat → Word × Bool) :
    StateM State Unit := do
  let so := ps.filter fun p => p.kind == 1
  let plain := ps.filter fun p => p.kind != 1
  for l in partLines plain do
    let mine := plain.filter fun p => (linesOf p.ga p.n).contains l
    let bs := mine.flatMap fun p => ((storeBytes (data p.thread).1 p).filter fun q => q.1 == l).flatMap (·.2)
    let mark := mine.any fun p => (data p.thread).2
    let s ← get
    let r := { strandReq s k st s.nextId 0 l false (.store bs mark) with
               closing := release && mine.any fun p => p.kind != 2, cold := hint == 6 }
    let s1 := { s with nextId := s.nextId + 1 }
    let owned : Bool := match (s1.core st.core).l1.lines.find l with | some x => x.st != .s | none => false
    let s2 := if 512 ≤ st.core then s1
      else if owned then l1GiveUp s1 (homeBy l st.core) st.core l false
      else l1WriteThrough s1 st.core l bs mark
    set (sendCounted s2 k r)
  if !so.isEmpty then
    let s ← get
    let fills := if 512 ≤ st.core ∨ hint = 6 then [] else fillReqs s k st 0 hint so
    let id ← beginAccess k fun id =>
      { writes := false, vector := false, d := 0, pair := false, ty := .b, old := VReg.zero, old2 := VReg.zero
        active := st.em, pieces := [], todo := soStores s k st hint id release so fills data
        wanting := [], alters := true, frees := [], acquire := false, endsView := false }
    let touched := partLines so
    modify fun s => (fills.filter fun r => !touched.contains r.line).foldl (fun a r => sendReq a { r with acc := id }) s
    modify (advance 80 k id)

/-- Perform an atomic or `cas`, one thread after another (R136, R140, R302); a near one fills its line (R289). -/
def performAtomic (k : Nat) (st : Strand) (f : Fields) (vec acq pair : Bool) (ps : List Part) (frees : List Nat)
    (op : Part → MemOp) : StateM State Unit := do
  let s ← get
  let old := (st.vreg f.d.toNat).getD VReg.zero
  let old2 := (st.vreg (f.d.toNat + 1)).getD VReg.zero
  let id ← beginAccess k fun id =>
    { writes := true, vector := vec, d := f.d.toNat, pair := pair, ty := f.ty, old := old, old2 := old2
      active := st.em, pieces := piecesOf (memThreads st vec) ps
      todo := ps.map fun p =>
        { strandReq s k st id p.thread (p.ga / 128) true (op p) with fill := 15 }
      wanting := [], alters := true, frees := frees, acquire := acq, endsView := acq }
  modify (advance 80 k id)

end Sys2Proof.Machine
end

