-- ==== Sys2Proof/Machine/Handles.lean ====
section
/-!
DEFINITION. Handles, the issue and completion of jobs, footprint edges, and batches (R204 to R208, R217 to R221).
-/
namespace Sys2Proof.Machine

-- Footprints (R203, R208)

/-- The byte ranges of a region: place (window, or slot), first byte, byte after the last. A slot region may go on in the
next slot (R203). -/
def Region.spans (r : Region) : List (Nat × Nat × Nat) :=
  match r.space with
  | 2 => (r.base, 0, min r.len 16384) :: (if 16384 < r.len then [(r.base + 1, 0, r.len - 16384)] else [])
  | _ => (upto r.rows).map fun (i : Nat) =>
    let a := (r.base + i * r.stride).toNat
    (r.win, a, a + r.len)

/-- Whether two regions overlap (R208). -/
def regionsMeet (x y : Region) : Bool :=
  x.space == y.space && x.spans.any fun p => y.spans.any fun q =>
    p.1 == q.1 && decide (p.2.1 < q.2.2) && decide (q.2.1 < p.2.2)

/-- The slots that a job names or, with `wr`, writes (R187). -/
def jobSlots (regions : List (Option Region)) (work : JobWork) (wr : Bool) : Nat :=
  let ofRegion : Option Region → List Nat
    | some r => if r.space = 2 ∧ (!wr || r.wr) = true then r.spans.map (·.1) else []
    | none => []
  let tile := match work with
    | .tile load kind _ _ slot _ _ => if wr && !load then [] else if kind = 0 then [slot] else [slot, slot + 1]
    | _ => []
  maskOf (regions.flatMap ofRegion ++ tile)

/-- What a new job of a block waits for (R187, R208): earlier jobs with an overlapping region of which one is written, and,
if it writes slots, the array operations that name them. -/
def jobEdges (s : State) (blk : Nat) (regions : List (Option Region)) (work : JobWork) : List Nat :=
  let mine := regions.filterMap id
  let js := s.jobs.filter fun p => p.2.blk == blk && (p.2.regions.filterMap id).any fun y =>
    mine.any fun x => (x.wr || y.wr) && regionsMeet x y
  let m := jobSlots regions work true
  let os := s.arrayOps.filter fun p => p.2.blk == blk && p.2.slots &&& m != 0
  js.map (·.1) ++ os.map (·.1)

/-- The jobs of a block that write one of some slots (R187). -/
def slotWriters (s : State) (blk slots : Nat) : List Nat :=
  (s.jobs.filter fun p => p.2.blk == blk && jobSlots p.2.regions p.2.work true &&& slots != 0).map (·.1)

-- The handle table (R205, R206)

/-- The handle of an entry. -/
def entryHandle (i seq : Nat) : Half := BitVec.ofNat 32 (seq * 65536 + i)

/-- Whether a handle register of the block holds a value. -/
def heldHandle (s : State) (b : Block) (h : Half) : Bool :=
  b.strands.any fun k => match s.strand k with | some st => st.h.toList.contains h | none => false

/-- The entry that a new job takes (R205): a free one, the oldest completed one that no handle register holds, or the oldest
completed one. -/
def chooseEntry (s : State) (b : Block) : Nat :=
  match (upto 64).find? fun i => (b.handles.find i).isNone with
  | some i => i
  | none =>
    let done := sortBy (fun p => p.2.order) (b.handles.filter fun p => p.2.done.isSome)
    match done.find? fun p => !heldHandle s b (entryHandle p.1 p.2.seq) with
    | some p => p.1
    | none => (done.headD (0, ⟨0, 0, none, 0⟩)).1

/-- Take an entry for a job: the handle, and the state (R205). -/
def takeHandle (s : State) (blk job : Nat) : Half × State :=
  let b := s.block blk
  let i := chooseEntry s b
  let n := b.issues % 65535 + 1
  (entryHandle i n,
    s.updBlock blk fun x =>
      { x with handles := x.handles.put i ⟨n, job, none, x.order⟩, issues := n, order := x.order + 1 })

/-- A completion word (R206). -/
def completionWord (status cause moved : Nat) : Half :=
  BitVec.ofNat 32 (status + 256 *
    (match status with | 3 => cause | 4 => 0 | 5 => 0 | _ => min (moved / 1024) 0xFFFFFF))

/-- Note that a block's operations have become fewer: it may retire, also when it stands aside, or leave (R222, R254). -/
def noteWork (s : State) (b : Nat) : State :=
  match (s.block b).phase with
  | .leaving => s.send (.blockLeave b)
  | _ => s.send (.blockRetire b)

/-- How the packet ends whose effect is a job (R450). -/
def packetEnd (status cause : Nat) : Nat × Nat := if status = 1 then (1, 0) else if status = 2 then (4, 0) else (3, cause)

/-- Write a job's completion word and take the job from the table: what waits for it looks again (R206, R208). -/
def completeJob (s : State) (j : Nat) (status cause : Nat) : State :=
  match s.jobs.find j with
  | none => s
  | some x =>
    let w := completionWord status cause x.moved
    let i := field x.handle 0 6
    let s1 := { s with jobs := s.jobs.del j }.updBlock x.blk fun b =>
      { b with handles := b.handles.upd i fun e => if e.job = j then { e with done := some w } else e }
    let s2 := if x.packet.isSome then s1.updGrid x.grid fun g =>
        if g.ended.isSome then g else { g with result := some (packetEnd status cause) }
      else s1.emit (s.grid x.grid).fn (coreSrc x.core 2) 0x32 w.toNat
    let s3 := (s.block x.blk).strands.foldl (fun (a : State) k => a.updStrand k fun st =>
      if st.wait = .handle x.handle then { st with words := (x.handle, w) :: st.words } else st) s2
    noteWork (jobPump (wakeBlock (countDown s3 x.grid x.core) x.blk) x.blk) x.blk

/-- Tell the peers of the fabric domain about a participant of a collective (R215, log 10). -/
def tellPeers (s : State) (x : Job) (news : CardNews) : State :=
  let fn := (s.grid x.grid).fn
  let domain := (s.fn fn).domain
  match x.work with
  | .coll kind op ty count np rank name =>
    if domain = 0 then s
    else (s.routes.filter fun p => bitOf p.2 7 && p.1 != s.dev).foldl (fun (a : State) p =>
      a.emitOut (.message p.1 (.collectiveStart 0 name
        [⟨news, domain, s.dev, a.datum, x.core * 64 + x.strand % 64, kind, op, ty, count, np, rank, x.elems⟩]))) s
  | _ => s

/-- Let the `nbl` jobs that wait for places on sill cores look again (R214). -/
def pumpSill (s : State) : State :=
  (s.jobs.filter fun p => p.2.phase == .waiting && (match p.2.work with | .sill .. => true | _ => false)).foldl
    (fun a p => a.post (.jobStart p.1)) s

/-- Whether a sill strand has ended and everything it stored has been performed, so that its place is free (R207, R214). -/
def sillGone (s : State) (k : Nat) : Bool :=
  match s.strand k with
  | some t => t.ended && t.flight.isEmpty && t.unacked.isEmpty && !(s.rowOps.any fun p => p.2.strand == k && p.2.stores)
  | none => true

/-- Take away those strands of an `nbl` job whose places are free, and let other jobs have the places (R214). -/
def removeSill (s : State) (job : Nat) (x : Job) : State :=
  let gone := x.sill.filter (sillGone s)
  if gone.isEmpty then s
  else
    let s1 := gone.foldl (fun (a : State) k => { a with strands := a.strands.del k }.emit (a.grid x.grid).fn
      (sillSrc ((k - 32768) / 4) 8 ((k - 32768) / 4 % 8)) 0x81 ((k - 32768) / 4 % 8 * 2 ^ 29)) s
    pumpSill (s1.updJob job fun y => { y with sill := y.sill.filter fun k => !gone.contains k })

/-- Region i of a job. -/
def Job.region (x : Job) (i : Nat) : Region := ((x.regions[i]?).join).getD ⟨0, 0, 0, 0, false, false, 1, 0⟩

/-- Remove the lines that a code load has written from the instruction caches and the instruction buffers of the partition's
cores (R216). -/
def dropCode (s : State) (fn : Nat) (r : Region) (written : Nat) (lines : List Nat) : State :=
  { s with
    cores := s.cores.map fun p =>
      if (s.platOf (clusterOf p.1)).owner = fn then
        (p.1, { p.2 with icache := p.2.icache.filter fun l => !lines.contains l.1 })
      else p
    strands := s.strands.map fun p =>
      if (s.grid (gridKey s p.2)).fn = fn then
        (p.1, { p.2 with ibuf := p.2.ibuf.filter fun b =>
          !(b.win.toNat == r.win && decide (r.base ≤ b.addr.toNat) && decide (b.addr.toNat < r.base + written)) })
      else p }

/-- JOB_COMPLETE (R206): a job that has come to its end writes its completion word when its stores have been acknowledged (R317,
R323); an `nbl` ends when every strand that it has started has ended and its stores have been performed (R207, R214). A code load
drops the lines it has written (R216). -/
def execJobComplete (job : Nat) (s : State) : Out :=
  match s.jobs.find job with
  | none => .next s
  | some x =>
    let s1 := removeSill s job x
    let left := x.sill.any fun k => !sillGone s k
    match x.phase, x.work with
    | .ended st c, w =>
      let s2 := match w with | .code _ => dropCode s1 (s.grid x.grid).fn (x.region 1) x.moved x.buf | _ => s1
      .next (if left || x.acks != 0 then s1 else completeJob (tellPeers s2 x .leaves) job st c)
    | .running, .sill .. => .next (if left then s1 else completeJob s1 job 1 0)
    | _, _ => .next s

/-- Bring a job to its end. A `cpym` that does not land drops its follow-on, unstarted (R212). -/
def endJob (s : State) (j status cause : Nat) : State :=
  match s.jobs.find j with
  | none => s
  | some x =>
    let s1 := match x.follow with
      | none => s
      | some o =>
        match s.arrayOps.find o with
        | none => s
        | some a =>
          if a.phase == ArrayPhase.queued then
            dropArrayOp s o
          else s
    ((s1.updJob j fun y => { y with phase := .ended status cause }).send (.jobComplete j))

/-- Wait while 64 jobs of the block are not complete (R204). -/
def jobRoom (st : Strand) : M Unit := do
  if 64 ≤ ((← get).jobs.filter fun p => p.2.blk == st.blk).length then mwait .jobs

/-- Enter a job of the strand (R204, R205, R220): the handle goes to h[d] and the job to the pending set. The job's number. -/
def putJob (k : Nat) (st : Strand) (d code : Nat) (regions : List (Option Region)) (work : JobWork) (s : State) : Nat × State :=
  let j := s.nextId
  let h := takeHandle { s with nextId := j + 1 } st.blk j
  let b := s.block st.blk
  let job : Job :=
    { code := code, handle := h.1, blk := st.blk, grid := b.grid, strand := k, core := st.core, work := work
      regions := regions, edges := jobEdges s st.blk regions work, follow := none, phase := .waiting, cancel := false
      pos := 0, sub := 0, moved := 0, elems := [], buf := [], port := .idle, sill := [], packet := none, acks := 0 }
  let s1 := countUp { h.2 with jobs := h.2.jobs.put j job } b.grid st.core
  let s2 := s1.updStrand k fun x => { x.setH d h.1 with pending := x.pending ++ [j] }
  (j, jobPump (s2.emit (s.grid b.grid).fn (coreSrc st.core 2) 0x30 h.1.toNat) st.blk)

/-- Enter a job when the block has room for it. Its number. -/
def issueJob (k : Nat) (st : Strand) (d code : Nat) (regions : List (Option Region)) (work : JobWork) : M Nat := do
  jobRoom st
  let r := putJob k st d code regions work (← get)
  set r.2
  return r.1

-- Handle instructions (R217 to R219)

/-- The handle that an instruction names: h[D], or with `.u` the low half of A, whose reserved bits must be 0. -/
def handleOf (s : State) (st : Strand) (f : Fields) : Res Half :=
  if f.f.getLsbD 0 then do
    let a ← uval s st .i8 f.a
    need (field a 6 10 == 0) cIllegalField
    return a.setWidth 32
  else .ok (st.handle (f.d.toNat % 16))

/-- The result register that C names by its code. -/
def resOf (f : Fields) : Nat := f.c.spec.code % 64

/-- The uniform registers of an engine instruction. -/
def engRegs (f : Fields) (res : Bool) : List Nat := sRegsOf f.a ++ if res then [resOf f] else []

/-- The completion word, or 0, to the result register; UC says whether there is one (R217). -/
def handleResult (f : Fields) (w : Option Half) (x : Strand) : Strand :=
  { x.setS (resOf f) ((w.getD 0).setWidth 64) false with uc := w.isSome }

/-- `hwait` (R217). -/
def execHwait (f : Fields) (s : State) : Out :=
  runMem [] (fun k st => do
    let s ← get
    liftRes (awaitRegs st [] (engRegs f true))
    let h ← liftRes (handleOf s st f)
    match handleSeen s st h with
    | none => finishMem k f.nx st (handleResult f none)
    | some e =>
      match e.done with
      | none => mwait (.handle h)
      | some w => finishMem k f.nx st (handleResult f (some w))) s

/-- `htest` (R217). -/
def execHtest (f : Fields) (s : State) : Out :=
  runMem [] (fun k st => do
    let s ← get
    liftRes (awaitRegs st [] (engRegs f true))
    let h ← liftRes (handleOf s st f)
    let w := (handleEntry (s.block st.blk) h).bind fun e => e.done
    finishMem k f.nx st (handleResult f w)) s

/-- Whether `hcancel` can stop a job (R218): it is waiting, or a copy, gather, scatter or tile move under way, or one that has been stopped
and whose stores are still to be acknowledged. -/
def cancellable (x : Job) : Bool :=
  match x.work with
  | .close _ => false
  | .coll .. => false
  | .sill .. => x.phase == .waiting
  | .code _ => x.phase == .waiting
  | _ => match x.phase with
    | .waiting | .running | .parked | .ended 2 _ => true
    | _ => false

/-- Ask a job to stop (R218): one that waits is removed; one under way stops at its next point. -/
def cancelJob (s : State) (j : Nat) : State :=
  match s.jobs.find j with
  | none => s
  | some x =>
    if x.phase = .waiting then endJob s j 2 0
    else (s.updJob j fun y => { y with cancel := true }).post (.jobStart j)

/-- `hcancel` is done: whether the job became CANCELLED (R218). -/
def cancelDone (c : Bool) (x : Strand) : Strand := { x with uc := c, cancelling := none }

/-- `hcancel` (R218): it waits until the job has stopped, and says whether it became CANCELLED. -/
def execHcancel (f : Fields) (s : State) : Out :=
  runMem [] (fun k st => do
    let s ← get
    liftRes (awaitRegs st [] (engRegs f false))
    let h ← liftRes (handleOf s st f)
    let fin (c : Bool) : M Unit := finishMem k f.nx st (cancelDone c)
    match handleSeen s st h with
    | none => fin false
    | some e =>
      match s.jobs.find e.job, e.done with
      | some x, none =>
        if st.cancelling = some e.job then
          if x.phase = .landed then fin false else mwait (.handle h)
        else if cancellable x then
          set ((cancelJob s e.job).updStrand k fun y => { y with cancelling := some e.job })
          mwait (.handle h)
        else fin false
      | _, d => fin (st.cancelling == some e.job && (d.getD 0).toNat % 256 == 2)) s

/-- `hmov` (R219): F[0] chooses the direction; it never waits. -/
def execHmov (f : Fields) (s : State) : Out :=
  runMem [] (fun k st => do
    let s ← get
    if f.f.getLsbD 0 then
      liftRes (awaitRegs st [] (engRegs f false))
      let a ← liftRes (uval s st .i8 f.a)
      if field a 6 10 ≠ 0 then mtrapHere cIllegalField
      finishMem k f.nx st fun x => x.setH (f.d.toNat % 16) (a.setWidth 32)
    else
      liftRes (awaitRegs st [] [resOf f])
      finishMem k f.nx st fun x =>
        x.setS (resOf f) ((st.handle (f.d.toNat % 16)).setWidth 64) false) s

-- Batches (R220, R221)

/-- The batches of a strand that are not complete, oldest first. -/
def openBatches (s : State) (st : Strand) : List Batch := st.batches.filter fun b => !b.ops.all (opDone s)

/-- The number of the next batch would be too far from that of the oldest open one (R220). -/
def batchFull (st : Strand) : List Batch → Bool
  | b :: _ => decide (32768 ≤ (st.batch + 1 + 65536 - b.number) % 65536)
  | [] => false

/-- The pending set becomes a batch with the next number (R220). -/
def closeBatch (st : Strand) (bs : List Batch) (x : Strand) : Strand :=
  let n := (st.batch + 1) % 65536
  { x with batch := n, batches := bs ++ [⟨n, st.pending⟩], pending := [] }

/-- `aclose` (R220). -/
def execAclose (f : Fields) (s : State) : Out :=
  runMem [] (fun k st => do
    let bs := openBatches (← get) st
    if batchFull st bs then mwait .batch
    finishMem k f.nx st (closeBatch st bs)) s

/-- What `await` waits for and checks: no batch up to n is open, and n is no number ahead (R221). -/
def awaitChecks (f : Fields) (st : Strand) : M Unit := do
  let s ← get
  liftRes (awaitRegs st [] (engRegs f false))
  let a ← liftRes (uval s st .i8 f.a)
  let n := field a 0 16
  let ahead := (n + 65536 - st.batch) % 65536
  if 1 ≤ ahead ∧ ahead ≤ 32767 then mtrapHere cIllegalField
  if (openBatches s st).any fun b => decide ((n + 65536 - b.number) % 65536 < 32768) then mwait .batch

/-- `await` (R221). -/
def execAwait (f : Fields) (s : State) : Out :=
  runMem [] (fun k st => do
    awaitChecks f st
    finishMem k f.nx st id) s

end Sys2Proof.Machine
end

