-- ==== Sys2Proof/Machine/MatrixMath.lean ====
section
/-!
DEFINITION. The arithmetic of the matrix array: format blocks and block scales (R61 to R63), the order of sums (R64,
R65), `mma`, the online-softmax step and read-out (R195, R197, R198), with the marks of R200.
-/
namespace Sys2Proof.Machine

-- Format blocks (R62, R63)

/-- The values of an operand's elements by their codes (R48, R58, R195). -/
def Desc.value (d : Desc) (code : Nat) : Val :=
  match d.kind with
  | 0 => (Narrow.ofReg d.fmt).value code
  | 1 => bf16.value code
  | _ => fp16.value code

/-- The block length that a descriptor byte names (R62). -/
def blockLen (n : Nat) : Nat := if n = 0 then 0 else 8 * 2 ^ n

/-- The first address outside the scratchpad of an access that leaves it (R245). -/
def outsideAt (size a : Nat) : Word := BitVec.ofNat 64 (max a size)

/-- Read one operand's descriptor: rows 3 to 5 of R63. -/
def descOf (b : Block) (byte kind base stride : Nat) : Res Desc := do
  let len := byte / 16 % 4
  let sf := byte / 64
  need (sf != 3 && (sf == 0) == (len == 0) && kind != 3) cBadFormat
  need (kind == 0 || sf == 0) cBadFormat
  let fmt : Half := b.fmt.toArray.getD (byte % 16) 0
  need (kind != 0 || formatValid fmt) cBadFormat
  return ⟨kind, fmt, blockLen len, sf, base, stride⟩

/-- The first address outside the scratchpad that an operand's scale bytes reach, if one does: row 7 of R63. -/
def scalesOutside (size : Nat) (d : Desc) : Option Nat :=
  if d.sf = 0 then none
  else (upto 128).findSome? fun i =>
    let a := d.base + i * d.stride
    if size < a + 128 / d.len then some (max a size) else none

/-- Check and read a format block (R63). -/
def readFmtBlock (b : Block) (addr : Nat) : Res FmtBlock := do
  if addr % 32 ≠ 0 then trapTo cAlignment (BitVec.ofNat 64 addr)
  if b.scratchSize < addr + 32 then trapTo cScratchBounds (outsideAt b.scratchSize addr)
  let at_ (o n : Nat) : Nat := scratchRead b (addr + o) n
  let outf := at_ 2 1
  let kinds := at_ 3 1
  need (outf / 4 % 4 == 0 && (outf % 4 == 3 || outf / 16 == 0) && kinds / 16 == 0 && at_ 0x1C 4 == 0) cBadFormat
  let da ← descOf b (at_ 0 1) (kinds % 4) (at_ 4 4) (at_ 8 4)
  let db ← descOf b (at_ 1 1) (kinds / 4 % 4) (at_ 0xC 4) (at_ 0x10 4)
  let of : Half := b.fmt.toArray.getD (outf / 16) 0
  need (outf % 4 != 3 || formatValid of) cBadFormat
  let finite (x : Nat) : Bool := match fp32.value x with | .fin _ _ _ => true | _ => false
  need (finite (at_ 0x14 4) && finite (at_ 0x18 4)) cBadFormat
  match scalesOutside b.scratchSize da, scalesOutside b.scratchSize db with
  | some a, _ => trapTo cScratchBounds (BitVec.ofNat 64 a)
  | none, some a => trapTo cScratchBounds (BitVec.ofNat 64 a)
  | none, none =>
    return ⟨da, db, outf % 4, of, BitVec.ofNat 32 (at_ 0x14 4), BitVec.ofNat 32 (at_ 0x18 4), scratchMarked b addr 32⟩

/-- A block scale's value (R61). -/
def scaleVal (sf c : Nat) : Val :=
  if c = 0xFF then .nan false
  else if sf = 1 then .fin false 1 ((c : Int) - 127)
  else if c / 8 = 0 then .fin false (c % 8) (-17)
  else .fin false (8 + c % 8) ((c / 8 : Nat) - 18 : Int)

/-- The scales of row or column `i` of an operand, in ascending blocks, and whether one of their bytes is poisoned (R62,
R200). -/
def scaleRow (b : Block) (d : Desc) (i : Nat) : List Val × Bool :=
  if d.sf = 0 then ([], false)
  else
    let a := d.base + i * d.stride
    let n := 128 / d.len
    ((upto n).map fun j => scaleVal d.sf (scratchRead b (a + j) 1), scratchMarked b a n)

-- Slots as operands (R181)

/-- Row i of an operand in a slot or pair, and whether a line of it is marked. -/
def operandRow (s : State) (core slot : Nat) (d : Desc) (i : Nat) : List Val × Bool :=
  if d.kind = 0 then
    let x := s.slot core slot
    ((upto 128).map fun j => d.value (lineByte (x.line i) j).toNat, x.marks.getLsbD i)
  else
    let x := s.slot core (slot + i / 64)
    let l := 2 * (i % 64)
    ((upto 128).map fun j => d.value (field (x.line (l + j / 64)) (16 * (j % 64)) 16),
      x.marks.getLsbD l || x.marks.getLsbD (l + 1))

-- The order of sums (R64, R65)

/-- The exact sum of values, from the first on. -/
def sumExact : List Val → Val × Flags
  | [] => (.fin false 0 0, 0)
  | x :: xs => xs.foldl (fun a y => let r := Val.add false a.1 y; (r.1, a.2 ||| r.2)) (x, 0)

/-- The value that a group adds: its scales are decided before its elements. -/
def groupVal (xs ys : List Val) (scales : List Val) (ats bts : Val) : Val × Flags :=
  if scales.any Val.isNan then (.nan false, 0)
  else if (ats :: bts :: scales).any Val.isZero then (.fin false 0 0, 0)
  else
    let ps := List.zipWith Val.mul xs ys
    let s := sumExact (ps.map (·.1))
    let fl := ps.foldl (fun a p => a ||| p.2) s.2
    (scales ++ [ats, bts]).foldl (fun a c => let r := Val.mul a.1 c; (r.1, a.2 ||| r.2)) (s.1, fl)

/-- The elements of group `g` of a row. -/
def groupOf (row : List Val) (g len : Nat) : List Val := (row.drop (g * len)).take len

/-- The accumulator after one more group: one rounding (R64). -/
def addGroup (acc : Half) (v : Val × Flags) : Half × Flags :=
  let r := Val.add false (fp32.value acc.toNat) v.1
  let c := fp32.round false .rne r.1
  (BitVec.ofNat 32 c.1, v.2 ||| r.2 ||| c.2)

/-- An operand row with its scales and whether anything of it is marked. -/
structure ARow where
  elems  : List Val
  scales : List Val
  mark   : Bool

/-- The accumulator before each group from `g` on and after the last, with the flags raised so far. -/
def dotFrom (fb : FmtBlock) (len : Nat) (x y : ARow) (acc : Half) : List Nat → Flags → List (Half × Flags)
  | [], fl => [(acc, fl)]
  | g :: gs, fl =>
    let scale (r : ARow) : List Val := match r.scales[g]? with | some v => [v] | none => []
    let v := groupVal (groupOf x.elems g len) (groupOf y.elems g len) (scale x ++ scale y)
      (fp32.value fb.ats.toNat) (fp32.value fb.bts.toNat)
    let r := addGroup acc v
    (acc, fl) :: dotFrom fb len x y r.1 gs (fl ||| r.2)

/-- A nonzero FP32 code of magnitude below 2^−126 (R201). -/
def subnormal (c : Half) : Bool := field c 23 8 == 0 && field c 0 23 != 0

/-- The group length of an `mma` (R195). -/
def groupLen (fb : FmtBlock) : Nat :=
  if fb.a.len ≠ 0 then fb.a.len else if fb.b.len ≠ 0 then fb.b.len else if fb.a.kind = 0 then 32 else 16

/-- Element (i, j) of an accumulator. -/
def Acc.elem (a : Acc) (i j : Nat) : Half := (a.c.toArray.getD i (Vector.replicate 128 0)).toArray.getD j 0
/-- The marks of row i. -/
def Acc.rowMarks (a : Acc) (i : Nat) : BitVec 128 := a.cm.toArray.getD i 0
/-- MX[i] and SM[i]. -/
def Acc.mxAt (a : Acc) (i : Nat) : Half := a.mx.toArray.getD i 0
/-- SM[i]. -/
def Acc.smAt (a : Acc) (i : Nat) : Half := a.sm.toArray.getD i 0

/-- A mask of 128 bits from a predicate. -/
def mask128 (f : Nat → Bool) : BitVec 128 := BitVec.ofNat 128 (maskOf ((upto 128).filter f))

/-- What an `mma` computes from group `g` on (R195): for every element the accumulators before each group, and the marks of
the result. -/
def mmaTable (s : State) (o : ArrayOp) (fb : FmtBlock) (ta tb acc g : Nat) (ovr : Bool) :
    Vector (Vector (List (Half × Flags)) 128) 128 × Vector (BitVec 128) 128 :=
  let b := s.block o.blk
  let len := groupLen fb
  let row (slot : Nat) (d : Desc) (i : Nat) : ARow :=
    let e := operandRow s o.core slot d i
    let c := scaleRow b d i
    ⟨e.1, c.1, e.2 || c.2⟩
  let rs : Vector ARow 128 := Vector.ofFn fun i => row ta fb.a i
  let cs : Vector ARow 128 := Vector.ofFn fun j => row tb fb.b j
  let a := s.acc o.core acc
  let colMarks := mask128 fun j => (cs.toArray.getD j ⟨[], [], false⟩).mark
  (rs.mapIdx fun i x => cs.mapIdx fun j y =>
      dotFrom fb len x y (if ovr && g == 0 then 0 else a.elem i j) (rangeFrom g (128 / len - g)) 0,
    rs.mapIdx fun i x =>
      if x.mark || fb.mark then BitVec.allOnes 128 else colMarks ||| (if ovr then 0 else a.rowMarks i))

/-- The lowest group at which some element would round to a subnormal (R201), counted from the table's first. -/
def assistGroup (t : Vector (Vector (List (Half × Flags)) 128) 128) : Option Nat :=
  (t.toList.flatMap fun r => r.toList.filterMap fun l => (l.drop 1).findIdx? fun p => subnormal p.1).min?

/-- The accumulator with the table's entries after `n` groups, and their flags. -/
def mmaPut (a : Acc) (t : Vector (Vector (List (Half × Flags)) 128) 128) (n : Nat) : Acc :=
  { a with
    c := t.map fun r => r.map fun l => (l.getD n (0, 0)).1
    flags := t.toList.foldl (fun fl r => r.toList.foldl (fun f l => f ||| (l.getD n (0, 0)).2) fl) a.flags }

/-- The marks that an `mma` leaves: those of its elements; a marked byte of the format block marks the whole accumulator
(R200). -/
def mmaMarks (fb : FmtBlock) (cm : Vector (BitVec 128) 128) (a : Acc) : Acc :=
  { a with
    cm := cm, mxm := if fb.mark then BitVec.allOnes 128 else a.mxm, smm := if fb.mark then BitVec.allOnes 128 else a.smm }

-- The online-softmax step (R197)

/-- Round to FP32, RNE. -/
def toF32 (x : Val × Flags) : Half × Flags := let r := fp32.round false .rne x.1; (BitVec.ofNat 32 r.1, x.2 ||| r.2)
/-- The value of an FP32 code. -/
def ofF32 (x : Half) : Val := fp32.value x.toNat
/-- The canonical FP32 NaN. -/
def nanF32 : Half := BitVec.ofNat 32 fp32.nanCode

/-- One row of the step: P as BF16 codes, O, MX, SM and the flags. -/
structure SoftRow where
  p  : List Nat
  o  : List Half
  mx : Half
  sm : Half
  fl : Flags

/-- exp2 of an FP32 value. -/
def exp2F (x : Half) : Val × Flags := (ofF32 x).exp2

/-- x·c with no rounding. -/
def timesC (x c : Val) : Val := (Val.mul x c).1

/-- One row of `mmas`. -/
def softRow (c : Half) (scores : List Half) (os : List Half) (m0 l0 : Half) : SoftRow :=
  let ss := scores.map ofF32
  let mn := ss.foldl (fun m x => (Val.minmax false m x).1) (ofF32 m0)
  let posInf := match mn with | .inf false => true | _ => false
  if ss.any Val.isNan || (ofF32 m0).isNan || (ofF32 l0).isNan || posInf then
    ⟨List.replicate 128 bf16.nanCode, List.replicate 128 nanF32, nanF32, nanF32, flagIV⟩
  else
    let cv := ofF32 c
    let mnInf := match mn with | .inf true => true | _ => false
    let ps : List (Nat × Flags) :=
      if mnInf then List.replicate 128 (0, 0)
      else ss.map fun x =>
        let d := toF32 (Val.add false (timesC x cv) (timesC mn cv).negate)
        let e := exp2F d.1
        let r := bf16.round false .rne e.1
        (r.1, d.2 ||| e.2 ||| r.2)
    let f : Half × Flags :=
      if mnInf then (BitVec.ofNat 32 (fp32.round false .rne (Val.ofInt 1)).1, 0)
      else
        let dm := Val.add false (ofF32 m0) mn.negate
        let d := toF32 (timesC dm.1 cv, dm.2)
        let e := exp2F d.1
        let r := toF32 e
        (r.1, d.2 ||| r.2)
    let os' := os.map fun x => toF32 (Val.mul (ofF32 x) (ofF32 f.1))
    let l1 := toF32 (Val.mul (ofF32 l0) (ofF32 f.1))
    let l := (upto 8).foldl (fun (a : Half × Flags) g =>
      let sum := sumExact (((ps.drop (16 * g)).take 16).map fun p => bf16.value p.1)
      let r := toF32 (Val.add false (ofF32 a.1) sum.1)
      (r.1, a.2 ||| r.2)) l1
    ⟨ps.map (·.1), os'.map (·.1), BitVec.ofNat 32 (fp32.round false .rne mn).1, l.1,
      (ps.foldl (fun a p => a ||| p.2) 0) ||| f.2 ||| (os'.foldl (fun a p => a ||| p.2) 0) ||| l.2⟩

/-- Write 16-bit codes as row i of a slot pair, marked or not (R181). -/
def putPairRow (s : State) (core tp i : Nat) (codes : List Nat) (mark : Bool) : State :=
  slotWrite s core tp (256 * i) (codes.flatMap fun c => toBytes 2 c) mark

/-- `mmas` on every row (R197, R200). -/
def mmasRun (s : State) (core tp sa ob : Nat) (c : Half) : State :=
  (upto 128).foldl (fun s i =>
    let sc := s.acc core sa
    let o := s.acc core ob
    let r := softRow c ((upto 128).map fun j => sc.elem i j) ((upto 128).map fun j => o.elem i j) (o.mxAt i) (o.smAt i)
    let mark := sc.rowMarks i != 0 || o.mxm.getLsbD i || o.smm.getLsbD i
    (putPairRow s core tp i r.p mark).updAcc core ob fun a =>
      { a with
        c := a.c.setIfInBounds i (Vector.ofFn fun j => r.o.getD j.val 0)
        cm := if mark then a.cm.setIfInBounds i (BitVec.allOnes 128) else a.cm
        mx := a.mx.setIfInBounds i r.mx
        sm := a.sm.setIfInBounds i r.sm
        mxm := if mark then setMark a.mxm i true else a.mxm
        smm := if mark then setMark a.smm i true else a.smm
        flags := a.flags ||| r.fl }) s

-- Read-out (R198)

/-- The bits that one element of a read-out takes in memory (R60, R198). -/
def outBits (fb : FmtBlock) : Nat :=
  match fb.out with | 0 => 32 | 1 => 16 | 2 => 16 | _ => if (Narrow.ofReg fb.outFmt).w ≤ 4 then 4 else 8

/-- Bytes of a row of elements of 4, 8, 16 or 32 bits (R60). -/
def packRow (n : Nat) (codes : List Nat) : List Byte := toBytes (n * codes.length / 8) (packCodes n codes)

/-- Row i of a read-out: its bytes, the marks of its elements, and the flags. A poisoned byte of the format block marks what is written, and
leaves the accumulator's own marks as they are (R200 does not say; DESIGN CHOICE, log 22). -/
def readOut (a : Acc) (fb : FmtBlock) (norm : Bool) (i : Nat) : List Byte × BitVec 128 × Flags :=
  let rs := (upto 128).map fun j =>
    let x := ofF32 (a.elem i j)
    let y := if norm then Val.div x (ofF32 (a.smAt i)) else (x, 0)
    let r := match fb.out with
      | 0 => fp32.round false .rne y.1
      | 1 => bf16.round false .rne y.1
      | 2 => fp16.round false .rne y.1
      | _ => (Narrow.ofReg fb.outFmt).round .rne y.1
    (r.1, y.2 ||| r.2)
  (packRow (outBits fb) (rs.map (·.1)),
    if fb.mark || (norm && a.smm.getLsbD i) then BitVec.allOnes 128 else a.rowMarks i,
    rs.foldl (fun f r => f ||| r.2) 0)

end Sys2Proof.Machine
end

