-- ==== Sys2Proof/Decode.lean ====
section
/-!
DEFINITION. Decoding and encoding of instructions (R9, R12, R15 to R20, R32, R35, R36). A slot's 96 bits, or the bytes
of an instruction, are read as one little-endian number; the fields of a form are its widths in order from bit 0.
-/
namespace Sys2Proof

/-- Why a decoder refuses: each names the fault of R12 or R34 it stands for. `illegalField` carries the OP11 that was
refused, because the context of an opcode is checked before its fields (R34). -/
inductive Reject where
  | illegalSlot
  | illegalOpcode
  | illegalField (op : Nat)
  deriving DecidableEq, Repr

/-- Take a number apart into fields of the given widths, lowest first. -/
def unpackFields : List Nat → Nat → List Nat
  | [], _ => []
  | w :: ws, x => x % 2 ^ w :: unpackFields ws (x / 2 ^ w)

/-- Put fields together, each given as (width, value), lowest first. -/
def packFields : List (Nat × Nat) → Nat
  | [] => 0
  | (w, v) :: r => v % 2 ^ w + 2 ^ w * packFields r

/-- The widths of the W-form and X-form from bit 0: LEN, NX3, OP11, D, NW, K, A, LA, B, LB, C, LC, T, M, F, literal
(R16, R17). -/
def wideWidths : List Nat := [2, 3, 11, 6, 1, 1, 8, 1, 8, 1, 8, 1, 4, 3, 6, 32]

/-- The widths of the C-form from bit 0: LEN, NX2, type index, operation with class, D, A, B, LA, LB (R15, R35). -/
def compactWidths : List Nat := [2, 2, 3, 5, 6, 6, 6, 1, 1]

/-- A one-bit field. -/
def flagOf (n : Nat) : Bool := n == 1

/-- 1 for a set flag. -/
def flagBit (x : Bool) : Nat := if x then 1 else 0

/-- The fields of the plain layout, but for the forms of R17 and the types of R27: the literal is given to whichever
operand names it. -/
def fieldsOf (nx d nw a la b lb c lc m f lit : Nat) (ty : Ty) : Fields :=
  let l := BitVec.ofNat 32 lit
  { nx := Nx.ofCode l nx
    nw := flagOf nw
    d := BitVec.ofNat 6 d
    a := ⟨Spec.ofCode l a, flagOf la⟩
    b := ⟨Spec.ofCode l b, flagOf lb⟩
    c := ⟨Spec.ofCode l c, flagOf lc⟩
    ty := ty
    m := BitVec.ofNat 3 m
    f := BitVec.ofNat 6 f }

/-- Decode the plain layout of an allocated opcode: K must agree with the operands, and the length with K and the
selector (R17). -/
def decodePlain (len op : Nat) (fs : Fields) (k : Nat) : Except Reject Instr :=
  match Instr.ofOp op fs with
  | none => .error .illegalOpcode
  | some i =>
    if fs.k = flagOf k ∧ fs.long = (len == 2) ∧ i.wf = true then .ok i else .error (.illegalField op)

/-- Decode a 64-bit or 96-bit instruction (R16 to R19, R32). -/
def decodeWide (x : Nat) : Except Reject Instr :=
  match unpackFields wideWidths x with
  | [len, nx, op, d, nw, k, a, la, b, lb, c, lc, t, m, f, lit] =>
    if op = 0x021 then
      let i := Instr.fork ⟨BitVec.ofNat 6 a, BitVec.ofNat 6 b, BitVec.ofNat 16 lit, BitVec.ofNat 16 (lit / 65536)⟩
      if len = 2 ∧ nx = 0 ∧ d = 0 ∧ nw = 0 ∧ k = 0 ∧ a < 64 ∧ la = 0 ∧ b < 64 ∧ lb = 0 ∧ c = 0 ∧ lc = 0 ∧ t = 0
          ∧ m = 0 ∧ f = 0 ∧ i.wf = true
      then .ok i else .error (.illegalField op)
    else if op = 0x12E then
      match Ty.ofCode t with
      | none => .error (.illegalField op)
      | some ty =>
        let i := Instr.vexpr ⟨fieldsOf nx d nw a la b lb c lc m f 0 ty, BitVec.ofNat 32 lit⟩
        if len = 2 ∧ k = 0 ∧ i.wf = true then .ok i else .error (.illegalField op)
    else
      match Ty.ofCode t with
      | none => if (rowOf op).isSome then .error (.illegalField op) else .error .illegalOpcode
      | some ty =>
        decodePlain len op (fieldsOf nx d nw a la b lb c lc m f (if len = 2 then lit else 0) ty) k
  | _ => .error .illegalSlot

/-- Decode a 32-bit instruction (R15, R35, R36). -/
def decodeCompact (x : Nat) : Except Reject Instr :=
  match unpackFields compactWidths x with
  | [_, nx, t, k, d, a, b, la, lb] =>
    if (compactTy k t).isNone then .error .illegalOpcode
    else
      match Instr.ofCompact k ⟨BitVec.ofNat 3 t, BitVec.ofNat 2 nx, BitVec.ofNat 6 d, BitVec.ofNat 6 a,
        BitVec.ofNat 6 b, flagOf la, flagOf lb⟩ with
      | none => .error .illegalOpcode
      | some i => if i.wf then .ok i else .error (.illegalField (compactOp k))
  | _ => .error .illegalOpcode

/-- The number of parcels that LEN gives; 0 for the reserved code (R12). -/
def lenParcels (x : Nat) : Nat :=
  match x % 4 with | 0 => 1 | 1 => 2 | 2 => 3 | _ => 0

/-- Decode the instruction whose first parcel is the lowest of `x`. -/
def decode (x : Nat) : Except Reject Instr :=
  match x % 4 with
  | 0 => decodeCompact x
  | 1 => decodeWide (x % 2 ^ 64)
  | 2 => decodeWide (x % 2 ^ 96)
  | _ => .error .illegalSlot

/-- The number that bytes spell, lowest first (R9). -/
def bytesToNat : List (BitVec 8) → Nat
  | [] => 0
  | b :: bs => b.toNat + 256 * bytesToNat bs

/-- Decode from bytes, on any list of them: too few bytes for the length make an ILLEGAL SLOT. -/
def decodeBytes (bs : List (BitVec 8)) : Except Reject (Instr × List (BitVec 8)) :=
  let n := 4 * lenParcels (bytesToNat (bs.take 4))
  if n = 0 ∨ bs.length < n then .error .illegalSlot
  else
    match decode (bytesToNat (bs.take n)) with
    | .ok i => .ok (i, bs.drop n)
    | .error r => .error r

/-- The bits of the plain layout (R16, R17). -/
def encodeWide (op : Nat) (f : Fields) : Nat :=
  packFields [(2, if f.long then 2 else 1), (3, f.nx.code), (11, op), (6, f.d.toNat), (1, flagBit f.nw),
    (1, flagBit f.k), (8, f.a.spec.code), (1, flagBit f.a.last), (8, f.b.spec.code), (1, flagBit f.b.last),
    (8, f.c.spec.code), (1, flagBit f.c.last), (4, f.ty.code), (3, f.m.toNat), (6, f.f.toNat),
    (32, if f.long then f.literal.toNat else 0)]

/-- The bits of `fork` (R18). -/
def encodeFork (f : ForkFields) : Nat :=
  packFields [(2, 2), (3, 0), (11, 0x021), (6, 0), (1, 0), (1, 0), (8, f.a.toNat), (1, 0), (8, f.b.toNat), (1, 0),
    (8, 0), (1, 0), (4, 0), (3, 0), (6, 0), (32, f.ob.toNat + 65536 * f.oj.toNat)]

/-- The bits of `vexpr` (R19). -/
def encodeExpr (e : ExprFields) : Nat :=
  let f := e.w
  packFields [(2, 2), (3, f.nx.code), (11, 0x12E), (6, f.d.toNat), (1, flagBit f.nw), (1, 0),
    (8, f.a.spec.code), (1, flagBit f.a.last), (8, f.b.spec.code), (1, flagBit f.b.last),
    (8, f.c.spec.code), (1, flagBit f.c.last), (4, f.ty.code), (3, f.m.toNat), (6, f.f.toNat), (32, e.toks.toNat)]

/-- The bits of a compact instruction (R15, R35). -/
def encodeCompact (k : Nat) (c : CFields) : Nat :=
  packFields [(2, 0), (2, c.nx.toNat), (3, c.t.toNat), (5, k), (6, c.d.toNat), (6, c.a.toNat), (6, c.b.toNat),
    (1, flagBit c.la), (1, flagBit c.lb)]

/-- The bits of an instruction, the first parcel lowest. An event has none. -/
def encode (i : Instr) : Nat :=
  match i.form with
  | .wide op f => encodeWide op f
  | .fork f => encodeFork f
  | .expr e => encodeExpr e
  | .compact k c => encodeCompact k c
  | .event => 0

/-- The instruction that the decoder reads from an instruction whose bits are `w`, numbered as the opcode table numbers
them; bits above `nbits` are 0. -/
def decodeTableWord (nbits w : Nat) : Option Instr :=
  match decode (w % 2 ^ nbits) with
  | .ok i => some i
  | .error _ => none

end Sys2Proof
end

