-- ==== Sys2Proof/Machine/Fetch.lean ====
section
/-!
DEFINITION. From a lane to an instruction: issue opportunities (R158), the instruction buffer and its lines (R159), the
line checks (R9 to R14), the target checks (R11), decoding with the order of R34, and co-issue pairs (R13).
-/
namespace Sys2Proof.Machine

-- A line's slots (R9, R12)

/-- Parcel `p` of slot `k` of a line. -/
def parcelAt (l : BitVec 512) (k p : Nat) : Nat := field l (32 + 96 * k + 32 * p) 32
/-- The 96 bits of slot `k`. -/
def slotAt (l : BitVec 512) (k : Nat) : Nat := field l (32 + 96 * k) 96
/-- The TGT bit of a parcel of a slot. -/
def tgtBit (l : BitVec 512) (k p : Nat) : Bool := l.getLsbD (11 + 3 * k + p)
/-- The PAIR bit of a slot. -/
def pairBit (l : BitVec 512) (k : Nat) : Bool := l.getLsbD (6 + k)

/-- The instructions of a slot as (first parcel, parcels), from parcel `p` on, and whether the filling is legal (R12). A
filling that breaks off keeps the first parcel of the instruction that does not fit, with 0 parcels. -/
def slotStarts (sl : Nat) : Nat → Nat → List (Nat × Nat) × Bool
  | 0, p => ([], p == 3)
  | fuel + 1, p =>
    if p = 3 then ([], true)
    else
      let n := bits sl (32 * p) 2 + 1
      if n = 4 ∨ 3 < p + n then ([(p, 0)], false)
      else
        let r := slotStarts sl fuel (p + n)
        ((p, n) :: r.1, r.2)

/-- The instructions of slot `k` of a line. -/
def startsOf (l : BitVec 512) (k : Nat) : List (Nat × Nat) × Bool := slotStarts (slotAt l k) 3 0

/-- Decode the instruction of slot `k` at parcel `p`, `n` parcels long. -/
def decodePart (l : BitVec 512) (k p n : Nat) : Except Reject Instr := decode (bits (slotAt l k) (32 * p) (32 * n))

-- Pairs (R13)

/-- The architectural registers that an instruction writes, numbered: `s` from 0, `v` from 100, `h` from 200, control
registers from 300. Flags are not counted: both members may raise them. What the pair's next-address selector changes (`lc0` by LOOP,
`lr` by CALL) is not counted as the non-uniform member's write: R13 leaves that open (DESIGN CHOICE, log 25). -/
def writesOf (i : Instr) : List Nat :=
  match i.form with
  | .expr e => if e.w.nw then [] else [100 + e.w.d.toNat]
  | .compact k c => (if compactOp k = 0 then [] else if compactOp k < 0x100 then [c.d.toNat] else [100 + c.d.toNat])
  | .wide op f =>
    let d := f.d.toNat
    let dst := match rowOf op with
      | some r =>
        (match r.d with
         | .s => [d] ++ (if op = 0x30D ∧ f.cOp = 1 then [d + 1] else [])
         | .v => if f.nw then [] else [100 + d] ++ (if op = 0x30B ∧ f.cOp = 1 then [101 + d] else [])
         | .handle => if op = 0x48C ∧ f.fBit 0 = false then [] else
                      if op = 0x489 ∨ op = 0x48A ∨ op = 0x48B then [] else [200 + d]
         | _ => [])
        ++ (match r.c, f.c.spec with
            | .maskDst, .bcast n => [n.toNat]
            | .sReg, .reg n => [n.toNat]
            | .code, .reg n => if op = 0x48C ∧ f.fBit 0 = false then [n.toNat] else []
            | _, _ => [])
      | none => []
    dst ++ (match op with
      | 0x01A | 0x020 => [303]
      | 0x01C | 0x01D | 0x01E | 0x01F => [301]
      | 0x022 => [305, 306, 307, 308]
      | 0x026 => [300 + f.f.toNat]
      | 0x489 | 0x48A | 0x48B => [303]
      | _ => [])
  | _ => []

/-- Whether two instructions may form a pair: one of the uniform class, the other of the vector, memory or engine
class, and no register written by both. -/
def pairLegal (x y : Instr) : Bool :=
  match x.op11, y.op11 with
  | some a, some b =>
    let other (c : Class) : Bool := c == .vector || c == .memory || c == .engine
    ((classOf a == .uniform && other (classOf b)) || (classOf b == .uniform && other (classOf a)))
      && (writesOf x).all fun r => !(writesOf y).contains r
  | _, _ => false

/-- The OP11 that parcels name, as far as it can be read: what the classes of a pair are judged by. -/
def rawOp (x : Nat) : Option Nat :=
  if x % 4 = 0 then
    let k := bits x 7 5
    if (compactTy k (bits x 4 3)).isSome then some (compactOp k) else none
  else
    let op := bits x 5 11
    if (rowOf op).isSome ∨ op = 0x021 ∨ op = 0x12E then some op else none

/-- Whether the two instructions of a slot form a legal pair. Instructions whose fields are refused are judged by their
classes; ILLEGAL FIELD follows when they execute (R13, R34). -/
def slotPairOk (l : BitVec 512) (k : Nat) (x y : Nat × Nat) : Bool :=
  match decodePart l k x.1 x.2, decodePart l k y.1 y.2 with
  | .ok i, .ok j => pairLegal i j
  | _, _ =>
    match rawOp (bits (slotAt l k) (32 * x.1) (32 * x.2)), rawOp (bits (slotAt l k) (32 * y.1) (32 * y.2)) with
    | some a, some b =>
      let other (c : Class) : Bool := c == .vector || c == .memory || c == .engine
      (classOf a == .uniform && other (classOf b)) || (classOf b == .uniform && other (classOf a))
    | _, _ => false

-- The line checks (R10, R11, R14)

/-- Whether the line word and the five slots have even parity (R10). -/
def lineParityOk (l : BitVec 512) : Bool :=
  l.getLsbD 5 == parity 26 (field l 6 26) && (upto 5).all fun k => l.getLsbD k == parity 96 (slotAt l k)

/-- Whether RSV is zero and every TGT bit stands on a first parcel (R11). -/
def lineWordOk (l : BitVec 512) : Bool :=
  field l 26 6 == 0 && (upto 5).all fun k =>
    let firsts := (startsOf l k).1
    (upto 3).all fun p =>
      !tgtBit l k p || (if pairBit l k then p == 0 else firsts.any fun f => f.1 == p)

/-- Whether every slot is filled legally and every pair is one (R12, R13). -/
def lineSlotsOk (l : BitVec 512) : Bool :=
  (upto 5).all fun k =>
    let r := startsOf l k
    r.2 && (!pairBit l k || (match r.1 with | [x, y] => slotPairOk l k x y | _ => false))

/-- The fault of a line, in the order of R14. -/
def lineFault (l : BitVec 512) : Option Nat :=
  if !lineParityOk l then some cLineParity
  else if !lineWordOk l then some cIllegalLine
  else if !lineSlotsOk l then some cIllegalSlot
  else none

-- Finding the instruction at an address

/-- The instruction of slot `k` at parcel `p`, as it decodes, with its field F (R16). -/
def decodeWithF (l : BitVec 512) (k p n : Nat) : Except Reject Instr × Nat :=
  (decodePart l k p n, bits (slotAt l k) (32 * p + 58) 6)

/-- What stands at an address of a line: the instructions that execute there (two for a pair), as they decode, each with its field
F, and the parcel after them; none when no instruction begins there. -/
def instrsAt (l : BitVec 512) (off : Nat) : Option (List (Except Reject Instr × Nat) × Nat) :=
  if off < 4 then none
  else
    let k := (off - 4) / 12
    let p := (off - 4) % 12 / 4
    let st := (startsOf l k).1
    if pairBit l k then
      (if p = 0 then some (st.map (fun x => decodeWithF l k x.1 x.2), 3) else none)
    else
      match st.find? fun x => x.1 == p with
      | some x => some ([decodeWithF l k x.1 x.2], x.1 + x.2)
      | none => none

/-- The address of the first parcel after parcel `p` of the slot at an offset: a line word is passed over (R9). -/
def seqAfter (base off p : Nat) : Word :=
  let a := base + 4 + (off - 4) / 12 * 12 + 4 * p
  BitVec.ofNat 64 (if a % 64 = 0 then a + 4 else a)

/-- Whether an instruction reads a latch, which makes it a continuation (R169). -/
def readsLatch (i : Instr) : Bool :=
  let vecs (op : Nat) (f : Fields) : Bool :=
    match rowOf op with
    | none => false
    | some r =>
      (r.a == .v && !(latchesOf f.a).isEmpty) || (r.b == .v && !(latchesOf f.b).isEmpty)
        || (r.c == .v && !(latchesOf f.c).isEmpty)
  match i.form with
  | .wide op f => vecs op f
  | .expr e => !(latchesOf e.w.a).isEmpty || !(latchesOf e.w.b).isEmpty || !(latchesOf e.w.c).isEmpty
  | _ => false

/-- The OP11 of what was decoded, if it names one. -/
def opOf (r : Except Reject Instr) : Option Nat :=
  match r with | .ok i => i.op11 | .error (.illegalField op) => some op | .error _ => none

/-- The fault of decoded instructions, in the order of R34: opcode, context, fields. `ctx` says which opcode with which field F
is out of context; each instruction comes with its field F. -/
def decodeFault (ctx : Nat → Nat → Bool) (l : List (Except Reject Instr × Nat)) : Option Nat :=
  if l.any fun r => (opOf r.1).isNone then some cIllegalOpcode
  else if l.any fun r => match opOf r.1 with | some op => ctx op r.2 | none => false then some cIllegalContext
  else if l.any fun r => match r.1 with | .error _ => true | .ok _ => false then some cIllegalField
  else none

/-- The selector of an instruction. -/
def nxOf (i : Instr) : Nx :=
  match i.form with
  | .wide _ f => f.nx
  | .fork _ => .next
  | .expr e => e.w.nx
  | .compact k c => (c.expand k).nx
  | .event => .next

/-- Whether an instruction is of the uniform class. -/
def isUniform (i : Instr) : Bool := match i.op11 with | some op => classOf op == .uniform | none => false

-- The instruction buffer (R159)

/-- The line of the buffer that holds an address. -/
def bufLine (st : Strand) (base : Word) : Option BufLine := st.ibuf.find? fun b => b.addr == base && b.win == st.cwin

/-- The line of an address. -/
def lineBase (pc : Word) : Word := BitVec.ofNat 64 (alignDown 64 pc.toNat)

/-- The start of the region that a `fork` has not yet run, while its first region runs (R88). -/
def otherRegion (st : Strand) : Option Int :=
  match st.fork.phase with
  | .aFirst => some ((st.fork.at_.toNat : Int) + 4 * st.fork.ob)
  | .bFirst => some (fallThrough st.fork.at_.toNat)
  | _ => none

/-- Whether the buffer must hold a line: that of the next instruction, or the first of the region not yet run (R159). -/
def bufNeeds (st : Strand) (b : BufLine) : Bool :=
  b.win == st.cwin && (b.addr == lineBase st.pc
    || match otherRegion st with | some a => b.addr == lineBase (wrap64 a) | none => false)

/-- Put a line in the buffer: when four are in use it replaces the least recently executed one of those that need not be held
(R159). -/
def bufAdd (st : Strand) (b : BufLine) : Strand :=
  let rest := st.ibuf.filter fun x => !(x.addr == b.addr && x.win == b.win)
  let keep :=
    if rest.length < 4 then rest
    else
      match (rest.filter fun x => !bufNeeds st x).foldl (fun (a : Option BufLine) x =>
          match a with | none => some x | some y => if x.used < y.used then some x else some y) none with
      | some old => rest.filter fun x => !(x.addr == old.addr && x.win == old.win)
      | none => rest
  { st with ibuf := keep ++ [b] }

/-- Note that a line has supplied an instruction. -/
def bufUse (st : Strand) (base : Word) : Strand :=
  let top := st.ibuf.foldl (fun m b => max m b.used) 0
  { st with ibuf := st.ibuf.map fun b => if b.addr == base && b.win == st.cwin then { b with used := top + 1 } else b }

/-- Whether an address can hold an instruction at all: aligned, off the line word, inside the window (R11). -/
def addressOk (st : Strand) : Bool := !st.wild && st.pc.toNat % 4 == 0 && st.pc.toNat % 64 != 0

/-- Put a line in a core's instruction cache, of 1,024 lines (R2): the oldest goes. -/
def icachePut (c : Core) (ga : Nat) (l : BitVec 512) : Core :=
  { c with icache := (c.icache.filter fun p => p.1 != ga).drop (c.icache.length + 1 - 1024) ++ [(ga, l)] }

/-- A line of code as a core fetches it. A line that its instruction cache holds and that has changed at its home since is fetched whole
as it was or whole as it is: which of the two is a free value (R216; log 26). -/
def codeLine (s : State) (core ga : Nat) : BitVec 512 × State :=
  let s := readNote s (some core) ga 64
  let now := BitVec.ofNat 512 (farRead s ga 64).1
  match (s.core core).icache.find? fun p => p.1 == ga with
  | none => (now, s.updCore core fun c => icachePut c ga now)
  | some p =>
    if p.2 = now then (now, s)
    else
      let d := s.draw
      if d.1.getLsbD 0 then (p.2, d.2) else (now, d.2.updCore core fun c => icachePut c ga now)

/-- The request for a line of code that lies on a page of a peer: that module translates the page by its own stage 2 (R399). -/
def fetchReq (s : State) (k : Nat) (st : Strand) (va ga : Nat) : MemReq :=
  { agent := .fetch k, acc := 0, thread := va, grid := gridKey s st, core := st.core, rank := s.dev * 1024 + st.core, home := homeBy (ga / 128) st.core
    line := ga / 128, so := false, fill := 0, cold := false, learn := none, closing := false, op := .load }

/-- Whether a strand has asked a peer for the line of code at an address, and not been answered. -/
def fetchAsked (s : State) (k va : Nat) : Bool :=
  s.peerAsked.any fun p => match p.2 with | .access r => r.agent == .fetch k && r.thread == va | _ => false

/-- Ask for a line: translated with X, read through the core's instruction cache, and sent to the strand's buffer; or asked of the peer
on whose page it lies, whose answers no instruction cache keeps (log 26). A peer that the function has no way to reach refuses it (R457). -/
def requestLine (s : State) (k : Nat) (st : Strand) (base : Word) : Xlate × State :=
  let va := st.cwin.toNat * 2 ^ 64 + base.toNat
  let r := translate s (whoOf s st) ⟨false, true, .any⟩ va
  match r with
  | (.ok ga l, s1) =>
    if isPeer ga then
      let dom := (s1.fn (whoOf s st).fn).domain
      if dom = 0 ∨ routeOk s1 (peerOf ga) = false then (.trap cPermission, s1)
      else (.ok ga l, if fetchAsked s1 k va then s1 else s1.askPeer (peerOf ga) dom (fetchReq s1 k st va ga))
    else
      let d := codeLine s1 st.core ga
      (.ok ga l, d.2.send (.instructionLineArrival k st.cwin base d.1))
  | o => o

/-- Fetch the line of the next instruction, which the buffer does not hold: the strand waits for it, or the fault of
the fetch is raised at that instruction, or the strand parks (R157, R171, R402); parked, it takes a pending PREEMPT at once (R172). -/
def fetchLine (s : State) (k : Nat) (st : Strand) : State :=
  let base := lineBase st.pc
  match requestLine s k st base with
  | (.ok _ _, s1) => s1.setStrand k { st with wait := .line, lane := if inChain st then st.lane else none }
  | (.trap c, s1) => takeFault s1 k st (inChain st) c st.pc
  | (.replay kind gpa table, s1) =>
    parkMem s1 k st (whoOf s st) (inChain st) [⟨st.cwin.toNat, base.toNat, kind, gpa, table, false, true⟩]

-- ILLEGAL TARGET (R11, R245)

/-- ILLEGAL TARGET: the next-address action of the instruction that formed the address is undone, and `tpc` names that
instruction, or the head of the chain that it was a member of (R171; log 9). The return of `tret` faults in trap mode, which kills
the block (R232). -/
def illegalTarget (s : State) (k : Nat) (st : Strand) : State :=
  let at_ := st.pc
  let src := if inChain st then st.chainHead else match st.arrival with | .target a => a | _ => st.pc
  match st.arrival with
  | .tret => if st.poisonTrap then killPoisoned s st.blk cDoubleFault 2 else killBlock s st.blk cDoubleFault
  | _ =>
    match st.undo with
    | none => enterTrap s k { st with wild := false } cIllegalTarget src at_ st.em
    | some u =>
      enterTrap s k
        { st with lr := u.lr, lc0 := u.lc0, lc1 := u.lc1, lh0 := u.lh0, lh1 := u.lh1, fork := u.fork, wild := false
                  pc := src }
        cIllegalTarget src at_ u.em

-- Issue (R158)

/-- The core of a lane: lanes are numbered 32·core + lane, and the pipe of a sill core 16,384 + its number. -/
def coreOfLane (lane : Nat) : Nat := if lane < 16384 then lane / 32 else 512 + (lane - 16384)

/-- The strands of a core, with their keys. -/
def strandsOfCore (s : State) (c : Nat) : List (Nat × Strand) := s.strands.filter fun p => p.2.core == c

/-- Whether a strand could issue, if its line is in its buffer (R157). -/
def mayIssue (st : Strand) : Bool := st.wait == .none && !st.ended && !st.asideMark

/-- Whether the line of the next instruction is not in the buffer (R157). -/
def lineMissing (st : Strand) : Bool := addressOk st && (bufLine st (lineBase st.pc)).isNone

/-- The vector and the uniform registers that an instruction reads (R20, R21, R76, R141). -/
def readsOf (i : Instr) : List Nat × List Nat :=
  let opd (use : OUse) (o : Opd) : List Nat × List Nat :=
    match use with
    | .u => ([], sRegsOf o)
    | .sReg => ([], sRegsOf o)
    | .v => (vRegsOf o, bRegsOf o)
    | .vNoLatch => (vRegsOf o, bRegsOf o)
    | .uInV => ([], bRegsOf o)
    | _ => ([], [])
  let wide (op : Nat) (f : Fields) : List Nat × List Nat :=
    match rowOf op with
    | none => ([], [])
    | some r =>
      let a := opd r.a f.a
      let b := opd r.b f.b
      let c := opd r.c f.c
      let d := f.d.toNat
      let cas := (if f.cOp = 1 then [d, d + 1] else [d])
      let high (l : List Nat) : List Nat := if f.cOp = 1 then l.map (· + 1) else []
      (a.1 ++ b.1 ++ c.1 ++ (if op = 0x30B then high b.1 ++ cas else []),
        a.2 ++ b.2 ++ c.2 ++ (if op = 0x002 ∨ op = 0x003 then [d] else if op = 0x30D then high b.2 ++ cas else []))
  match i.form with
  | .wide op f => wide op f
  | .compact k c => wide (compactOp k) (c.expand k)
  | .expr e => wide 0x12D e.w
  | .fork f => ([], [f.a.toNat, f.b.toNat])
  | .event => ([], [])

/-- Whether the next instruction reads a register that awaits the data of a memory-class instruction (R157). -/
def awaitsData (st : Strand) : Bool :=
  !st.flight.isEmpty && match bufLine st (lineBase st.pc) with
    | none => false
    | some b =>
      match instrsAt b.line (st.pc.toNat % 64) with
      | none => false
      | some r => r.1.any fun x => match x.1 with | .ok i => inFlight st (readsOf i).1 (readsOf i).2 | .error _ => false

/-- Whether a strand is ready (R157). -/
def isReady (st : Strand) : Bool := mayIssue st && !lineMissing st && !awaitsData st

/-- Ask for the line of every strand of the core that lacks only that and that no other lane holds. -/
def fetchMissing (s : State) (c lane : Nat) : State :=
  (strandsOfCore s c).foldl (fun a p =>
    if mayIssue p.2 && lineMissing p.2 && (p.2.lane.isNone || p.2.lane == some lane || inChain p.2) then fetchLine a p.1 p.2 else a) s

/-- Whether the first strand goes before the second (R158): priority, a wait count of 2,048, the wait count, the
slot. -/
def goesBefore (x y : Strand) : Bool :=
  if x.prio ≠ y.prio then decide (y.prio < x.prio)
  else
    let sx := min x.waits 2048
    let sy := min y.waits 2048
    if sx ≠ sy ∧ (sx = 2048 ∨ sy = 2048) then sx == 2048
    else if x.waits ≠ y.waits then decide (y.waits < x.waits)
    else decide (x.slot < y.slot)

/-- The strand an issue opportunity takes. -/
def pickStrand (l : List (Nat × Strand)) : Option (Nat × Strand) :=
  l.foldl (fun a p => match a with | none => some p | some q => if goesBefore p.2 q.2 then some p else some q) none

/-- The step since which the longest waiting strand of a core that has waited for a register has done so; 0 for none. -/
def oldestRegWait (s : State) (c : Nat) : Nat :=
  (strandsOfCore s c).foldl (fun m p => if p.2.regSince ≠ 0 ∧ (m = 0 ∨ p.2.regSince < m) then p.2.regSince else m) 0

/-- Let the strands of a core that wait for a register look again: at one of the pool the oldest only, which goes on first, and at
one of the block's own reservation any (R164, R166, R167). -/
def wakeRegisters (s : State) (c : Nat) : State :=
  let first := oldestRegWait s c
  (strandsOfCore s c).foldl (fun a p =>
    let b := a.block p.2.blk
    if p.2.wait == .register
        && ((p.2.regSince == first && decide (0 < freePool a c)) || decide (blockRegs a b < b.reserved))
    then a.setStrand p.1 { p.2 with wait := .none } else a) s

/-- The strands of a core that sit out an issue opportunity of a lane because they have yielded (R96, R238). -/
def sittingOut (s : State) (c lane : Nat) : List Nat :=
  ((strandsOfCore s c).filter fun p => p.2.yielded && (p.2.lane.isNone || p.2.lane == some lane)).map (·.1)

/-- The lane gives up the strand it holds, and what has yielded is ready again at the opportunity after this one (R96, R158). -/
def releaseLane (s : State) (c lane : Nat) : State :=
  (strandsOfCore s c).foldl (fun a p =>
    if p.2.lane == some lane || (p.2.yielded && p.2.lane.isNone)
    then a.setStrand p.1 { p.2 with lane := none, turn := false, yielded := false } else a) s

/-- An issue opportunity of a lane (R158): the lane gives up its strand and takes the first of the ready strands that no
other lane holds; the others count one more wait. A strand that yielded gives up this one opportunity (R96). -/
def issue (s : State) (lane : Nat) : State :=
  let c := coreOfLane lane
  let out := sittingOut s c lane
  let s1 := fetchMissing (wakeRegisters (releaseLane s c lane) c) c lane
  let cand := (strandsOfCore s1 c).filter fun p => isReady p.2 && p.2.lane.isNone && !out.contains p.1
  let pick := pickStrand cand
  cand.foldl (fun a p =>
    let taken := match pick with | some q => q.1 == p.1 | none => false
    a.setStrand p.1
      (if taken then { p.2 with lane := some lane, turn := true, waits := 0 }
       else { p.2 with waits := p.2.waits + 1 })) s1

/-- ISSUE_OPPORTUNITY (R158). -/
def execIssueOpportunity (lane : Nat) (s : State) : Out := .next (issue s lane)

/-- INSTRUCTION_LINE_ARRIVAL (R14, R159): the line enters the strand's buffer, and a strand that waits for it is ready. -/
def execInstructionLineArrival (strand : Nat) (win : BitVec 16) (addr : Word) (line : BitVec 512) (s : State) : Out :=
  .next (s.updStrand strand fun st =>
    let st1 := bufAdd st ⟨addr, win, line, 0⟩
    if st.wait == .line && win == st.cwin && lineBase st.pc == addr then { st1 with wait := .none } else st1)

-- Fetch and decode

/-- What a lane does: the step is done, or one instruction or a pair executes next, uniform member first. -/
inductive Fetched where
  | done (s : State)
  | one (s : State) (i : Instr)
  | pair (s : State) (u n : Instr)

/-- A decoded instruction that may read a latch although its fields are refused: its operands' codes (R169). -/
def rawReadsLatch (l : BitVec 512) (off : Nat) : Bool :=
  let k := (off - 4) / 12
  let x := bits (slotAt l k) (32 * ((off - 4) % 12 / 4)) 96
  let op := bits x 5 11
  x % 4 != 0 && (classOf op == .vector || [0x300, 0x301, 0x302, 0x303, 0x306, 0x307, 0x30A, 0x30B, 0x30E].contains op)
    && [bits x 24 8, bits x 33 8, bits x 42 8].any fun c => decide (0x40 ≤ c) && decide (c < 0x44)

/-- Set the strand up to execute: the sequential address, and its turn used up; ISSUE SAMPLE (R340). -/
def prepare (s : State) (k : Nat) (st : Strand) (base : Word) (off p : Nat) : State :=
  { (s.setStrand k { bufUse st base with seq := seqAfter base.toNat off p, turn := false, undo := none
                                         arrival := .sequential }).emitStrand k st 0x10 (pcBits st.pc) with act := some k }

/-- Decode at the strand's pc in a line, and deliver, trap, end a chain, or hand the instruction over. A pair that reads a latch is an
ILLEGAL CHAIN before either member's operands are looked at (R13, R169). -/
def decodeStep (s : State) (lane k : Nat) (st : Strand) (base : Word) (l : BitVec 512) : Fetched :=
  let off := st.pc.toNat % 64
  match instrsAt l off with
  | none => .done (illegalTarget s k st)
  | some (is, p) =>
    let ds : List (Except Reject Instr) := is.map Prod.fst
    let cont := match ds with
      | [.ok i] => readsLatch i
      | [.ok i, .ok j] => readsLatch i || readsLatch j
      | _ => rawReadsLatch l off
    if !cont && duePreempt st then .done (takePreempt s k (endChain st) st.pc)
    else if inChain st && !cont then .done (issue (s.setStrand k (endChain st)) lane)
    else
      match decodeFault (contextFault s st) is with
      | some c => .done (takeFault s k st (inChain st) c st.pc)
      | none =>
        match ds with
        | [.ok i] => .one (prepare s k st base off p) i
        | [.ok i, .ok j] =>
          let u := if isUniform i then i else j
          let n := if isUniform i then j else i
          if nxOf u ≠ .next then .done (takeFault s k st (inChain st) cIllegalField st.pc)
          else if cont then .done (takeFault s k st (inChain st) cIllegalChain st.pc)
          else .pair ((prepare s k st base off p).updStrand k fun x => { x with pair := .gather }) u n
        | _ => .done s

/-- Fetch at the strand's pc: address, line, target and line checks, in this order, then decoding. That the TGT bit is judged before the
line's own faults, and that a buffered line's fault is raised before a pending PREEMPT, which is delivered to an instruction that has
been decoded, are the model's: R11, R14, R172 and R245 leave these orders open (DESIGN CHOICE, log 25). -/
def fetchStep (s : State) (lane k : Nat) (st : Strand) : Fetched :=
  if !addressOk st then .done (illegalTarget s k st)
  else
    let base := lineBase st.pc
    match bufLine st base with
    | none => .done (fetchLine s k st)
    | some b =>
      let off := st.pc.toNat % 64
      let marked := b.line.getLsbD (11 + (off - 4) / 4)
      match st.arrival with
      | .target _ =>
        if !marked then .done (illegalTarget s k st)
        else
          match lineFault b.line with
          | some c => .done (takeFault s k { st with arrival := .sequential } (inChain st) c base)
          | none => decodeStep s lane k { st with arrival := .sequential, undo := none } base b.line
      | _ =>
        match lineFault b.line with
        | some c => .done (takeFault s k st (inChain st) c base)
        | none => decodeStep s lane k st base b.line

/-- The strand that a lane holds. -/
def heldBy (s : State) (lane : Nat) : Option (Nat × Strand) :=
  s.strands.find? fun p => p.2.lane == some lane && !p.2.ended

/-- What a lane does when its turn comes: it goes on with the strand it took or whose chain is in progress, or an issue
opportunity arises. A strand that waits inside a chain keeps the lane (R172). A lane that holds no strand has an issue opportunity at
each of its turns: R158 speaks of a strand that it holds only (DESIGN CHOICE, log 25). -/
def laneStep (s : State) (lane : Nat) : Fetched :=
  match heldBy s lane with
  | none => .done (issue s lane)
  | some (k, st) =>
    if st.wait ≠ .none then (if inChain st then .done s else .done (issue s lane))
    else if st.turn || inChain st then fetchStep s lane k st
    else .done (issue s lane)

/-- Fetch a line ahead, unless the buffer holds it. What the fetch meets is dropped: a prefetch never faults (R14). -/
def prefetchLine (s : State) (k : Nat) (base : Word) : State :=
  match s.strand k with
  | none => s
  | some st => if (bufLine st base).isSome then s else (requestLine s k st base).2

/-- The line after that of the next instruction, if the strand runs there and it lies in the same page: how far the sequential path is
fetched ahead R159 leaves open (DESIGN CHOICE, log 26). -/
def nextLine (st : Strand) : Option Word :=
  let b := alignDown 64 st.pc.toNat
  if st.ended || (bufLine st (lineBase st.pc)).isNone || (b + 64) % 65536 == 0 then none else some (BitVec.ofNat 64 (b + 64))

/-- After an instruction: the strand fetches ahead on the sequential path, and, while the first region of a `fork` runs, the first line
of the other (R88, R159). -/
def prefetchRegion (s : State) (k : Nat) (before : ForkPhase) : State :=
  match s.strand k with
  | none => s
  | some st =>
    let s1 := match nextLine st with | some b => prefetchLine s k b | none => s
    match before, otherRegion st with
    | .none, some a => prefetchLine s1 k (lineBase (wrap64 a))
    | _, _ => s1

-- Whose turn it is (logs 3 to 5)

/-- The clock moves by the time that the step takes (log 3). -/
def tick (s : State) : State := { s with datum := s.datum + Config.elapsed s.steps, steps := s.steps + 1, act := none }

/-- The first timer, in order of their setting, whose time has come. -/
def dueTimer (s : State) : Option (Event × State) :=
  match s.timers.find? fun p => decide (p.1 ≤ s.datum) with
  | none => none
  | some p => some (p.2, { s with timers := s.timers.erase p })

/-- The unit whose turn is next, which goes to the back of the order. -/
def nextMover (s : State) : Option (Nat × State) :=
  match s.sched with
  | [] => none
  | l :: r => some (l, { s with sched := r ++ [l] })

/-- The strand that executes, by its key. -/
def actOf (s : State) : Nat := s.act.getD 0

/-- The fork phase of the strand that executes. -/
def phaseOf (s : State) : ForkPhase :=
  match s.strand (actOf s) with | some st => st.fork.phase | none => .none

-- Placing an instruction (log 8)

/-- A line whose slot 0 begins with the given parcels and is filled up with compact `nop`, like the other slots; its
first parcel is a target, and its parities are right. -/
def wordLine (nbits w : Nat) : BitVec 512 :=
  let nop := 0x800
  let ps := w % 2 ^ nbits
  let n := bits ps 0 2 + 1
  let slot0 :=
    if n = 1 then ps % 2 ^ 32 + nop * 2 ^ 32 + nop * 2 ^ 64
    else if n = 2 then ps % 2 ^ 64 + nop * 2 ^ 64
    else ps % 2 ^ 96
  let slotN := nop + nop * 2 ^ 32 + nop * 2 ^ 64
  let high := 2 ^ 5 * 2 ^ 6
  let pn := b2n (parity 96 slotN)
  let lw := high + b2n (parity 26 (high / 64)) * 32
    + (b2n (parity 96 slot0) + pn * 2 + pn * 4 + pn * 8 + pn * 16)
  BitVec.ofNat 512
    (lw + slot0 * 2 ^ 32 + slotN * 2 ^ 128 + slotN * 2 ^ 224 + slotN * 2 ^ 320 + slotN * 2 ^ 416)

/-- The strand that runs a placed instruction: at launch state, at address 0x1_0004 of window 0, holding lane 0. -/
def placedStrand (nbits w : Nat) : Strand :=
  { Strand.init with
    lane := some 0, turn := true, pc := 0x10004#64
    ibuf := [⟨0x10000#64, 0, wordLine nbits w, 0⟩] }

/-- The machine with an instruction placed where the next step fetches it. -/
def placeWord (s : State) (nbits w : Nat) : State :=
  { s with
    strands := s.strands.put 0 (placedStrand nbits w)
    blocks := s.blocks.put 0 { Block.absent with strands := [0], launches := 1, reserved := 64 }
    grids := s.grids.put 0 Grid.absent
    sched := [0], queue := [], linkQueues := [], timers := [], later := [] }

end Sys2Proof.Machine
end

