-- ==== Sys2Proof/Machine/Bundles.lean ====
section
/-!
DEFINITION. Bundles: records and names, versions at the homes, installs and wound-wait, commit, promotion and drops, the
decision of view loads, and the implicit bundles of restartable blocks (R265 to R273, R324 to R335).
-/
namespace Sys2Proof.Machine

-- Messages (R334, R337)

/-- The die of the slice that holds a handle's record. -/
def bundleDie (h : Half) : Nat := homeDie (field h 14 6)
/-- The die of the strand under a key. -/
def keyDie (k : Nat) : Nat := coreDie (coreOfKey k)

/-- Send a message to a module: this one, or a peer (R334). -/
def sendTo (s : State) (dev : Nat) (e : Event) : State :=
  if dev = s.dev then s.send e else s.emitOut (.message dev e)

/-- The same for what changes memory at a home: here it happens in its turn, with no message on its way (log 5). -/
def postTo (s : State) (dev : Nat) (e : Event) : State :=
  if dev = s.dev then s.post e else s.emitOut (.message dev e)

/-- Answer a strand's question from a die, if it still awaits that answer; `f` is what else becomes of it. -/
def answerWith (s : State) (die : Nat) (who : Asker) (x : Nat) (f : Strand → Strand) : State :=
  (recv s (s.mail die) (keyDie who.strand)).updStrand who.strand fun st =>
    if st.ask = who.token ∧ who.token ≠ 0 then
      f { st with ask := 0, answer := some x, wait := if st.wait = .answer then .none else st.wait }
    else st

/-- Answer a strand's question. -/
def answerStrand (s : State) (die : Nat) (who : Asker) (x : Nat) : State := answerWith s die who x id

/-- Make a strand joined to a bundle (R264). -/
def joinStrand (st : Strand) (h : Half) : Strand := { st with joined := true, bnd := h }

/-- Answer a `bopen` or a `bjoin` with a handle: its strand is joined from now on (R266, R267). -/
def answerJoined (s : State) (die : Nat) (who : Asker) (h : Half) : State :=
  answerWith s die who h.toNat fun st => joinStrand st h

/-- Whether a strand of this module still awaits an answer. -/
def awaits (s : State) (who : Asker) : Bool :=
  who.dev != s.dev || match s.strand who.strand with | some st => st.ask == who.token && who.token != 0 | none => false

/-- A strand executes its instruction again, and asks again. -/
def askAgain (s : State) (who : Asker) : State :=
  s.updStrand who.strand fun st =>
    if st.ask = who.token then { st with ask := 0, wait := if st.wait = .answer then .none else st.wait } else st

/-- Ask a question: the strand waits for the answer under a fresh number. -/
def askQuestion (k : Nat) (waits : Bool) (e : State → Asker → Nat × Event) : M Unit := do
  let s ← get
  let s1 := { s with nextId := s.nextId + 1 }.updStrand k fun x => { x with ask := s.nextId }
  let q := e s1 ⟨s1.dev, k, s.nextId, waits⟩
  set (sendTo s1 q.1 q.2)

-- Records (R265, R324, R325)

/-- The number that a handle's record is kept under: DEV, SLICE and ENTRY. -/
def bundleKey (h : Half) : Nat := h.toNat / 16
/-- DEV of a handle. -/
def bundleDev (h : Half) : Nat := field h 20 12
/-- SLICE of a handle. -/
def bundleSlice (h : Half) : Nat := field h 14 6

/-- The record that a handle names. -/
def findBundle (s : State) (h : Half) : Option Bundle :=
  match s.bundles.find (bundleKey h) with | some b => if b.handle = h then some b else none | none => none

/-- Change the record that a handle names. -/
def updBundle (s : State) (h : Half) (f : Bundle → Bundle) : State := { s with bundles := s.bundles.upd (bundleKey h) f }

/-- A record of the bundle table's unit. -/
def emitBundle (s : State) (b : Bundle) (code : Nat) : State :=
  s.emit b.fn (sliceSrc (bundleSlice b.handle) 6) code b.handle.toNat

/-- Whether the first bundle is older (R324): by open stamp, then DEV, SLICE and ENTRY. -/
def olderBundle (age1 : Nat) (h1 : Half) (age2 : Nat) (h2 : Half) : Bool :=
  decide (age1 < age2) || (age1 == age2 && decide (bundleKey h1 < bundleKey h2))

/-- A free entry of a slice's table. -/
def freeEntry (s : State) (slice : Nat) : Option Nat :=
  let base := s.dev * 2 ^ 16 + slice * 1024
  (upto 1024).find? fun e => (s.bundles.find (base + e)).isNone

/-- A new record with one joiner. -/
def Bundle.fresh (h : Half) (name fn need : Nat) (block : Option Nat) (stamp : Nat) : Bundle :=
  { handle := h, name := name, fn := fn, block := block, need := need, joins := 1, closes := 0, gone := 0, st := .opened
    stamp := stamp, latest := stamp, lines := [], away := [], left := [], waits := [], asked := [], retried := false }

/-- Allocate a record (R265, R325): its handle, and the state. -/
def allocBundle (s : State) (slice entry name fn need : Nat) (block : Option Nat) (stamp : Nat) : Half × State :=
  let key := s.dev * 2 ^ 16 + slice * 1024 + entry
  let seq := s.bundleUses.getD key 0 % 15 + 1
  let h : Half := BitVec.ofNat 32 (key * 16 + seq)
  (h, { s with bundles := s.bundles.put key (.fresh h name fn need block stamp), bundleUses := s.bundleUses.put key seq })

/-- Whether a record is OPEN. -/
def isOpen (s : State) (bundle : BitVec 32) : Bool :=
  match findBundle s bundle with | some x => x.st == .opened | none => false

/-- Whether a bundle is ABORTED, or its record is gone: its stores are discarded (R268, R328). -/
def bundleDead (s : State) (h : Half) : Bool :=
  match findBundle s h with
  | some b => (match b.st with | .aborted _ => true | _ => false)
  | none => bundleDev h == s.dev

/-- Note of a bundle of another module that it is ABORTED: what is still to come of it is discarded (R270, R328). -/
def markDead (s : State) (h : Half) : State :=
  if bundleDev h = s.dev then s
  else
    let b := (findBundle s h).getD (.fresh h 0 0 0 none 0)
    { s with bundles := s.bundles.put (bundleKey h) { b with st := .aborted s.datum } }

/-- The name space of a function: its own, or its fabric domain's (R266). -/
def nameScope (s : State) (fn : Nat) : Nat := if (s.fn fn).domain = 0 then fn else 128 + (s.fn fn).domain

/-- The device that holds a name's directory slice (R324): the hash chooses among the modules of the domain, those that have a valid
route and this one (R458), the same for each of them (log 18). -/
def nameDev (s : State) (fn name : Nat) : Nat :=
  if (s.fn fn).domain = 0 then s.dev
  else
    let weight (d : Nat) : Nat × Nat := (Config.nameSlice (name + 2 ^ 32 * d), d)
    (fabricDevs s).foldl (fun a d => if (weight d).1 < (weight a).1 ∨ ((weight d).1 = (weight a).1 ∧ d < a) then d else a) s.dev

/-- The die of that slice. -/
def nameDie (name : Nat) : Nat := homeDie (Config.nameSlice name % 64)

/-- The bundle registered under a name. -/
def nameFind (s : State) (scope name : Nat) : Option Half :=
  (s.names.find? fun p => p.1 == scope && p.2.1 == name).map (·.2.2)

/-- Register a name: the strands that wait in `bjoin` for it hear of it (R267). -/
def addName (s : State) (scope name : Nat) (h : Half) : State :=
  let mine (p : Nat × Nat × Asker) : Bool := p.1 == scope && p.2.1 == name
  (s.nameWaits.filter mine).foldl
    (fun a p => sendTo a p.2.2.dev (.nameRegister (a.mail (nameDie name)) p.2.2 scope name (.found h)))
    { s with names := s.names ++ [(scope, name, h)], nameWaits := s.nameWaits.filter fun p => !mine p }

/-- A record's name is deregistered (R324). -/
def dropName (s : State) (b : Bundle) : State :=
  if b.block.isSome then s
  else
    let d := nameDev s b.fn b.name
    if d = s.dev then { s with names := s.names.filter fun p => p.2.2 != b.handle }
    else s.emitOut (.message d (.nameRegister (s.mail (bundleDie b.handle)) noAsker (nameScope s b.fn) b.name (.remove b.handle)))

/-- Tell a strand what has become of its join: the record's open stamp, or a refusal (R267). -/
def tellJoin (s : State) (who : Asker) (h : Half) (stamp : Option Nat) : State :=
  sendTo s who.dev (.joinMessage (s.mail (bundleDie h)) who h (some stamp))

/-- A record leaves OPEN: its name goes, and the strands that wait for a place look elsewhere (R267, R324). -/
def leaveOpen (s : State) (b : Bundle) : State :=
  b.asked.foldl (fun a w => tellJoin a w b.handle none) (updBundle (dropName s b) b.handle fun x => { x with asked := [] })

/-- Let installs that wait for a bundle come again, and those that wait for any version to go (R328). -/
def releaseHeld (s : State) (h : Half) : State :=
  let mine (e : Event × Half) : Bool := e.2 == h || e.2 == 0
  (s.heldInstalls.filter mine).foldl (fun (a : State) e => a.post e.1)
    { s with heldInstalls := s.heldInstalls.filter fun e => !mine e }

/-- Free a record (R325). The use count stays. -/
def freeBundle (s : State) (h : Half) : State :=
  match findBundle s h with
  | none => s
  | some _ => { s with bundles := s.bundles.del (bundleKey h) }

/-- The companion homes of a bundle: 128·device + home of each line (R331). -/
def companions (b : Bundle) : List Nat :=
  (b.lines.map fun l => 128 * l.1 + homeFor l.2).foldl addNew []

/-- Complete the jobs of this module's joiners (R269): DONE with the bundle's size, or ABORTED. -/
def endCloses (s : State) (h : Half) (status bytes : Nat) : State :=
  (s.jobs.filter fun p => match p.2.work with | .close b => b == h | _ => false).foldl
    (fun a p => endJob ((recv a (a.mail (bundleDie h)) (coreDie p.2.core)).updJob p.1 fun y => { y with moved := bytes }) p.1 status 0) s

/-- Send a message to each of some other modules. -/
def tellDevs (s : State) (devs : List Nat) (e : State → Event) : State :=
  ((devs.filter (· != s.dev)).foldl addNew []).foldl (fun a d => sendTo a d (e a)) s

/-- The milliseconds' units of the datum clock. -/
def msToDatum (n : Nat) : Nat := 16000000 * n

/-- Every joiner of a bundle has closed or left. -/
def Bundle.allGone (b : Bundle) : Bool := decide (b.joins ≤ b.closes + b.gone)

/-- Free an ABORTED record whose drops are acknowledged and whose holding time has ended (R325, R326): a `bopen.retry` has named it,
or a millisecond has passed and every joiner has closed or left. -/
def tryFree (s : State) (h : Half) : State :=
  match findBundle s h with
  | none => s
  | some b =>
    match b.st with
    | .aborted since =>
      if b.waits.isEmpty && (b.retried || (b.allGone && decide (since + msToDatum 1 ≤ s.datum))) then freeBundle s h else s
    | _ => s

/-- The drops of an ABORTED bundle are all acknowledged: the handles of its joiners complete, home 127 standing for those of other
modules, and its record may be freed (R326, R331). -/
def abortDone (s : State) (h : Half) : State :=
  match findBundle s h with
  | none => s
  | some b =>
    if !b.waits.isEmpty then s
    else tryFree (tellDevs (endCloses s h 4 0) b.away fun a => .dropNotice (a.mail (bundleDie h)) 127 h) h

/-- A record becomes ABORTED (R325): its name goes, the modules of its joiners hear of it (home 126), and every companion home is told
to drop its versions (R331). The block of an implicit bundle is killed and relaunched unless it is killed already, and its next one
keeps the open stamp (R335). -/
def abortBundle (s : State) (h : Half) : State :=
  match findBundle s h with
  | none => s
  | some b =>
    if b.st ≠ .opened then s
    else
      let cs := companions b
      let s1 := emitBundle (leaveOpen s b) b 0xA5
      let s2 := (updBundle s1 h fun x =>
        { x with st := .aborted s.datum, waits := cs, gone := if x.block.isSome then x.joins else x.gone }).after (msToDatum 1)
        (.abortedHoldExpiry h)
      let s3 := tellDevs s2 b.away fun a => .dropNotice (a.mail (bundleDie h)) 126 h
      let s4 := cs.foldl (fun a c => postTo a (c / 128) (.dropNotice (a.mail (bundleDie h)) (c % 128) h)) s3
      let s5 := match b.block with
        | some k => killBlock (s4.updBlock k fun x => { x with keepStamp := some b.stamp, bundle := 0 }) k cPoison true
        | none => s4
      abortDone s5 h

/-- Commit a bundle (R331): the stamp is later than every install and the opening; the companion homes are told. -/
def commitBundle (s : State) (h : Half) : State :=
  match findBundle s h with
  | none => s
  | some b =>
    if b.st ≠ .opened then s
    else
      let c := max s.datum (b.latest + 1)
      let cs := companions b
      let s1 := emitBundle (leaveOpen { s with datum := c } b) b 0xA1
      let s2 := updBundle s1 h fun x => { x with st := .committed c, waits := cs }
      cs.foldl (fun a d => postTo a (d / 128) (.commitNotice (a.mail (bundleDie h)) (d % 128) h c b.lines.length)) s2

/-- Every companion home has promoted: the bundle is SETTLED, its handles complete DONE, and the entry is free (R331), once every module
that is to hear of it is in the domain (R334). Home 127 stands
for the joiners of other modules; home 126 tells a companion module that held stores may now be installed (R328; log 18). -/
def settleBundle (s : State) (h : Half) : State :=
  match findBundle s h with
  | none => s
  | some b =>
    match b.st with
    | .committed c =>
      if !b.waits.isEmpty || b.away.any fun d => !routeOk s d then s
      else
        let n := b.lines.length
        let tell (home : Nat) (a : State) : Event := .commitNotice (a.mail (bundleDie h)) home h c n
        let s1 := emitBundle (endCloses s h 1 (128 * n)) b 0xA3
        let s2 := tellDevs (tellDevs s1 b.away (tell 127)) (b.lines.map (·.1)) (tell 126)
        releaseHeld (freeBundle s2 h) h
    | _ => s

-- Versions (R327 to R331)

/-- Set the versions of a line. -/
def setVersions (s : State) (line : Nat) (v : Versions) : State :=
  { s with versions := if v = ⟨0, none⟩ then s.versions.del line else s.versions.put line v }

/-- The owner of a line's parcel, for records. -/
def lineOwner (s : State) (line : Nat) : Nat := (s.platOf (homeFor line)).owner

/-- A record of a home's versions (R278, R340): promote, drop, spill. -/
def emitVersion (s : State) (line code : Nat) : State :=
  s.emit (lineOwner s line) (sliceSrc (homeFor line) 4) code (traceLine s line)

/-- Drop the second version of a line (R330, R331). -/
def dropVersion (s : State) (line : Nat) : State :=
  emitVersion (setVersions s line { versionsOf s line with second := none }) line 0xA8

/-- Promote a line's pending version (R331): as a closing request, at once. -/
def promoteLine (s : State) (line : Nat) (c : Nat) : State :=
  let v := versionsOf s line
  match v.second with
  | some (.pending data mask mark _ _ _) =>
    let home := homeFor line
    let s1 := settleLine s home line
    let old := homeLine s1 home line
    let om := linePoisoned s1 home line
    let bs := (ones 128 mask.toNat).map fun i => (i, lineByte data i)
    let s2 := homeMerge s1 home line bs mark
    let s3 := if isDevice (line * 128) then s2 else l2Drop s2 home line
    emitVersion (setVersions s3 line ⟨c, some (.previous old om v.stamp s3.datum)⟩) line 0xA2
  | _ => s

/-- The lines of a home that hold a pending version of a bundle. -/
def pendingLines (s : State) (home : Nat) (h : Half) : List Nat :=
  (s.versions.filter fun p => homeFor p.1 == home && match p.2.second with
    | some (.pending _ _ _ b _ _) => b == h
    | _ => false).map (·.1)

/-- The version descriptors that a home's slice has in use (R327). -/
def descriptors (s : State) (home : Nat) : Nat :=
  (s.versions.filter fun p => homeFor p.1 == home && p.2.second.isSome).length

/-- COMMIT_NOTICE (R331): a companion home promotes each of the bundle's lines and acknowledges. Home 127 is a module that has joined:
its handles complete, with the bundle's size. Home 126 is a companion module that hears that the bundle has settled.
`news` is the stamp and how many lines it holds. -/
def execCommitNotice (m : Mail) (home : Nat) (bundle : BitVec 32) (news : Nat × Nat) (s : State) : Out :=
  let stamp := news.1
  let lines := news.2
  let s0 := recv s m (homeDie home)
  if home = 126 then .next (releaseHeld s0 bundle)
  else if home = 127 then .next (freeBundle (endCloses s0 bundle 1 (128 * lines)) bundle)
  else
    let s1 := (pendingLines s0 home bundle).foldl (fun a l => promoteLine a l stamp) s0
    .next (sendTo (releaseHeld s1 0) m.dev (.promotionAck (s1.mail (homeDie home)) (128 * s1.dev + home) bundle))

/-- PROMOTION_ACK (R331). -/
def execPromotionAck (m : Mail) (home : Nat) (bundle : BitVec 32) (s : State) : Out :=
  .next (settleBundle (updBundle (recv s m (bundleDie bundle)) bundle fun b =>
    { b with waits := b.waits.filter (· != home) }) bundle)

/-- DROP_NOTICE (R331): a companion home frees the bundle's pending versions and acknowledges. A module that has joined learns that the
bundle is ABORTED (126), and then ends its handles (127). -/
def execDropNotice (m : Mail) (home : Nat) (bundle : BitVec 32) (s : State) : Out :=
  let s0 := markDead (recv s m (homeDie home)) bundle
  if home = 126 then .next s0
  else if home = 127 then .next (endCloses s0 bundle 4 0)
  else
    let s1 := (pendingLines s0 home bundle).foldl dropVersion s0
    .next (sendTo (releaseHeld s1 bundle) m.dev (.dropAck (s1.mail (homeDie home)) (128 * s1.dev + home) bundle))

/-- DROP_ACK (R331). -/
def execDropAck (m : Mail) (home : Nat) (bundle : BitVec 32) (s : State) : Out :=
  .next (abortDone (updBundle (recv s m (bundleDie bundle)) bundle fun b => { b with waits := b.waits.filter (· != home) }) bundle)

/-- ABORTED_HOLD_EXPIRY (R326): a millisecond after a record became ABORTED it is freed, when its joiners have left. -/
def execAbortedHoldExpiry (bundle : BitVec 32) (s : State) : Out := .next (tryFree s bundle)

-- Installs (R328, R329)

/-- Acknowledge an install with its stamp (R328). -/
def ackInstall (s : State) (m : Mail) (r : MemReq) : State :=
  sendTo s m.dev (.installAck (s.mail (homeDie r.home)) r.agent r.acc r.grid)

/-- A store's bytes over what a line's second version holds: data, mask and mark. -/
def mergedPending (bs : List (Nat × Byte)) (mark : Bool) (old : Option Version) : Line × BitVec 128 × Bool :=
  let base : Line × BitVec 128 × Bool := match old with
    | some (.pending d m k _ _ _) => (d, m, k)
    | _ => (0, 0, false)
  (mergeBytes base.1 bs, bs.foldl (fun m p => setMark m p.1 true) base.2.1, base.2.2 || mark)

/-- Install the bytes of a store into a line's pending version (R327, R328): a previous version goes, copies of the line are settled at
its home, and the home's L2 takes the line. A strand of the block that waits on a word of it reads it again (R146, R335). -/
def installInto (s : State) (r : MemReq) (h : Half) (age : Nat) (old : Option Version) : State :=
  match r.op with
  | .store bs mark =>
    let v := mergedPending bs mark old
    let s1 := match old with
      | some (.previous ..) => dropVersion s r.line
      | _ => s
    let s2 := setVersions s1 r.line
      { versionsOf s1 r.line with second := some (.pending v.1 v.2.1 v.2.2 h age s.datum) }
    let s3 := if 16384 < descriptors s2 (homeFor r.line) ∧ old.isNone then emitVersion s2 r.line 0xA9 else s2
    let s4 := settleLine (updBundle s3 h fun b => { b with latest := max b.latest s3.datum }) (homeFor r.line) r.line
    wakeWatchers (l2Fill s4 (homeFor r.line) r.line false) (homeFor r.line) r.line
  | _ => s

/-- Whether a bundle is OPEN, as far as a home here knows: of one of another module it knows what the record's home has answered
(`opens`), and that it is ABORTED. -/
def knownOpen (s : State) (opens : List (BitVec 32)) (h : Half) : Option Bool :=
  if bundleDev h = s.dev then some (isOpen s h)
  else if bundleDead s h then some false
  else if opens.contains h then some true
  else none

/-- The youngest bundle, not known to have left OPEN, that holds a descriptor in a home's slice: a line, its handle and age. -/
def youngestHolder (s : State) (home : Nat) (opens : List (BitVec 32)) : Option (Nat × Half × Nat) :=
  (s.versions.filter fun p => homeFor p.1 == home).foldl (fun (a : Option (Nat × Half × Nat)) p =>
    match p.2.second with
    | some (.pending _ _ _ h age _) =>
      if knownOpen s opens h = some false then a
      else match a with
        | none => some (p.1, h, age)
        | some (_, h2, age2) => if olderBundle age2 h2 age h then some (p.1, h, age) else a
    | _ => a) none

/-- The line whose previous version was made longest ago in a home's slice. -/
def oldestPrevious (s : State) (home : Nat) : Option Nat :=
  ((s.versions.filter fun p => homeFor p.1 == home).foldl (fun (a : Option (Nat × Nat)) p =>
    match p.2.second with
    | some (.previous _ _ _ since) =>
      (match a with | some (_, t) => if since < t then some (p.1, since) else a | none => some (p.1, since))
    | _ => a) none).map (·.1)

/-- A home on a die asks for a bundle to be aborted, at its record's home (R328, R329): here at once. -/
def woundBundle (s : State) (die : Nat) (h : Half) : State :=
  if bundleDev h = s.dev then abortBundle (recv s (s.mail die) (bundleDie h)) h
  else s.emitOut (.message (bundleDev h) (.bundleCloseArrival (s.mail die) noAsker h .wound []))

/-- A home asks what has become of a bundle; the install waits for the answer (R328, R332). -/
def askState (s : State) (line : Nat) (again : Event) (h : Half) : State :=
  postTo (holdInstall s again h) (bundleDev h) (.stateQuery (s.mail (homeDie (homeFor line))) noAsker h line 0)

/-- A home asks about a bundle that it has noted as ABORTED. -/
def askAgainOf (s : State) (line : Nat) (again : Event) (h : Half) : State :=
  askState { s with bundles := s.bundles.del (bundleKey h) } line again h

/-- Wound-wait (R328, R329): a store of a bundle S meets the pending version of another, T. While T is COMMITTED, or ABORTED with its
drop under way, the store waits. Of two OPEN bundles the younger becomes ABORTED: if it is S the store is discarded, if it is T the
store comes again. What the home does not know of either it asks for. -/
def woundWait (s : State) (m : Mail) (r : MemReq) (sb : Half) (age : Nat) (tb : Half) (tage : Nat) (opens : List (BitVec 32))
    (again : Event) : State :=
  let die := homeDie r.home
  match knownOpen s opens tb, knownOpen s opens sb with
  | some false, _ => holdInstall s again tb
  | none, _ => askState s r.line again tb
  | some true, none => askState s r.line again sb
  | some true, some _ =>
    if olderBundle tage tb age sb then ackInstall (woundBundle s die sb) m r
    else woundBundle (holdInstall s again tb) die tb

/-- A store that needs a descriptor when none is free (R328): the youngest OPEN bundle that holds one becomes ABORTED, once the home knows
that it is OPEN; else the oldest previous version is dropped; else the store waits. -/
def needDescriptor (s : State) (m : Mail) (r : MemReq) (bundle : Half) (age : Nat) (opens : List (BitVec 32)) (again : Event) : State :=
  match youngestHolder s r.home opens with
  | some (l, h, _) =>
    if knownOpen s opens h = none then
      postTo (holdInstall s again 0) (bundleDev h) (.stateQuery (s.mail (homeDie r.home)) noAsker h l 0)
    else woundBundle (holdInstall s again 0) (homeDie r.home) h
  | none =>
    match oldestPrevious s r.home with
    | some l => ackInstall (installInto (dropVersion s l) r bundle age none) m r
    | none => holdInstall s again 0

/-- A bundled store at its line's home, which has room for the line and is not busy with it (R328, R329). -/
def installHere (s : State) (m : Mail) (r : MemReq) (bundle : Half) (age : Nat) (opens : List (BitVec 32)) (again : Event) : State :=
  let v := (versionsOf s r.line).second
  match v with
  | some (.pending _ _ _ h2 age2 _) =>
    if h2 = bundle then ackInstall (installInto s r bundle age v) m r else woundWait s m r bundle age h2 age2 opens again
  | some (.previous ..) => ackInstall (installInto s r bundle age v) m r
  | none =>
    if descriptors s r.home < 65535 then ackInstall (installInto s r bundle age none) m r
    else needDescriptor s m r bundle age opens again

/-- BUNDLE_INSTALL (R328, R329): a bundled store reaches its line's home. A home whose peers are just returning first settles its
pending versions (R334). `aged` is the bundle with its age, and `opens` are the bundles that
the home has been told are OPEN. A bundle of another module that it has noted as ABORTED it asks about once more: the entry may have
been used again, with the same use count (R265). -/
def execBundleInstall (m : Mail) (r : MemReq) (aged : BitVec 32 × Nat) (opens : List (BitVec 32)) (s : State) : Out :=
  let bundle := aged.1
  let age := aged.2
  let s0 := recv s m (homeDie r.home)
  let again : Event := .bundleInstall m r bundle age opens
  if bundleDead s0 bundle && !opens.contains bundle then
    .next (if bundleDev bundle = s0.dev ∨ routeOk s0 (bundleDev bundle) = false then ackInstall s0 m r
      else askAgainOf s0 r.line again bundle)
  else if busyLine s0 r.home r.line || !s0.rejoined.isEmpty then .next (s0.post again)
  else if switchHolds s0 r.line bundle then .next (holdInstall s0 again 0)
  else
    let s1 := makeRoom s0 r.home r.line
    if hasRoom s1 r.home r.line then .next (installHere s1 m r bundle age opens again)
    else .next (releaseFor s1 r.home r.line [again])

/-- INSTALL_ACK (R269, R328): the storing strand may close; the clock is past the install stamp (R337). -/
def execInstallAck (m : Mail) (agent : Agent) (acc grid : Nat) (s : State) : Out :=
  execStoreAck agent acc grid (recv s m (match agent with | .strand k => keyDie k | _ => m.die))

/-- The lines of a list that a bundle does not hold yet. -/
def newLines (s : State) (h : Half) (lines : List (Nat × Nat)) : List (Nat × Nat) :=
  match findBundle s h with
  | some b => lines.filter fun l => !b.lines.contains l
  | none => lines

/-- Add lines to a bundle's list, if it admits them (R268): at most 4,096. -/
def admitLines (s : State) (h : Half) (lines : List (Nat × Nat)) : Option State :=
  match findBundle s h with
  | none => some s
  | some b =>
    let ls := b.lines ++ newLines s h lines
    if b.st ≠ .opened then some s
    else if 4096 < ls.length then none
    else some (updBundle s h fun x => { x with lines := ls })

/-- The device and the physical line of a line as its home names it (R324): on a peer, in the page that it has granted (R457). -/
def homeOfLine (s : State) (st : Strand) (line : Nat) : Nat × Nat :=
  if isPeer (line * 128) then
    (peerOf (line * 128), match st.peerOk.find? fun p => p.1 == line / 512 with
      | some p => 512 * p.2 + line % 512
      | none => localOf (line * 128) / 128)
  else (s.dev, line)

/-- The lines by which a strand knows what a peer's home calls `line`. -/
def namesOfLine (st : Strand) (dev line : Nat) : List Nat :=
  (st.peerOk.filter fun p => peerOf (p.1 * 65536) == dev && p.2 == line / 512).map fun p => 512 * p.1 + line % 512

/-- Send every line's bytes of a bundled store to its home, to be installed for a bundle (R268, R325). -/
def installLines (k : Nat) (st : Strand) (ps : List Part) (data : Nat → Word × Bool) (s : State) : State :=
  let age := match findBundle s st.bnd with | some b => b.stamp | none => 0
  (partLines ps).foldl (fun (a : State) l =>
    let mine := ps.filter fun p => (linesOf p.ga p.n).contains l
    let bs := mine.flatMap fun p => ((storeBytes (data p.thread).1 p).filter fun q => q.1 == l).flatMap (·.2)
    let at_ := homeOfLine a st l
    let r := { strandReq a k st a.nextId 0 at_.2 false (.store bs (mine.any fun p => (data p.thread).2)) with
               home := homeFor at_.2 }
    let a1 := countUp ({ a with nextId := a.nextId + 1 }.updStrand k fun x =>
      { x with unacked := x.unacked ++ [(⟨r.acc, l, reachOf l⟩ : Unacked)] }) r.grid r.core
    postTo a1 at_.1 (.bundleInstall (a1.mail (coreDie st.core)) r st.bnd age [])) s

/-- Perform a bundled store (R268, R273): the record admits its lines, here or on its own module, and then every line's bytes go to its
home, when earlier ones of the strand to the same lines have been installed, since its bytes end in program order. A store to an
ABORTED bundle is discarded. -/
def performBundled (k : Nat) (st : Strand) (ps : List Part) (data : Nat → Word × Bool) : M Unit := do
  let s ← get
  if st.unacked.any fun u => (partLines ps).contains u.line then mwait .acks
  let ls := (partLines ps).map (homeOfLine s st)
  let away := decide (bundleDev st.bnd ≠ s.dev) && !(newLines s st.bnd ls).isEmpty
  if bundleDead s st.bnd then pure ()
  else if away && st.answer.isNone then
    if st.ask = 0 then
      askQuestion k false fun s who =>
        (bundleDev st.bnd, .bundleCloseArrival (s.mail (coreDie st.core)) who st.bnd .admits (newLines s st.bnd ls))
    mwait .answer
  else if away && st.answer == some 2 then modify fun s => markDead s st.bnd
  else
    match (if away && st.answer == some 0 then none else admitLines s st.bnd ls) with
    | none => mtrap cBundleCapacity (st.bnd.setWidth 64)
    | some s1 => set (installLines k st ps data s1)

-- View loads (R332)

/-- Send what a home has decided to the strand that asked: the line, or a refusal. -/
def answerView (s : State) (who : Asker) (line : Nat) (x : Option (Line × Bool)) : State :=
  if who.dev = s.dev then
    (recv s (s.mail (homeDie (homeFor line))) (keyDie who.strand)).updStrand who.strand fun st =>
      if st.ask ≠ who.token then st
      else { st with viewed := st.viewed ++ [(line, x)], wait := if st.wait = .answer then .none else st.wait }
  else s.emitOut (.answer who.dev (homeFor line) (.viewed who.strand who.token line x))

/-- The answer of a view load that no pending version decides: the line, which the L2 takes as one of a bundled page (R300), the version
before it, or a refusal (R332). -/
def viewSettled (s : State) (who : Asker) (line v : Nat) : State :=
  let vs := versionsOf s line
  let home := homeFor line
  if vs.stamp ≤ v then
    answerView (l2Fill { s with versions := s.versions.put line vs } home line false) who line
      (some (coherentLine s home line, linePoisoned s home line))
  else
    match vs.second with
    | some (.previous d mk st _) => answerView s who line (if st ≤ v then some (d, mk) else none)
    | _ => answerView s who line none

/-- VIEW_LOAD_DECIDE (R332): the candidates in order. `skip` is a bundle whose pending version is known not to qualify. A home whose
peers are just returning first settles its pending versions, and a record's home that has left is asked when it returns (R334). -/
def execViewLoadDecide (m : Mail) (who : Asker) (line v : Nat) (skip : Option (BitVec 32)) (s : State) : Out :=
  let home := homeFor line
  let s0 := recv s m (homeDie home)
  let again : Event := .viewLoadDecide m who line v skip
  if switchHolds s0 line 0 then .next (holdInstall s0 again 0)
  else if busyLine s0 home line || !s0.rejoined.isEmpty then .next (s0.post again)
  else
    match (versionsOf s0 line).second with
    | some (.pending _ _ _ h _ installed) =>
      if v ≤ installed ∨ skip = some h then .next (viewSettled s0 who line v)
      else if bundleDev h ≠ s0.dev ∧ routeOk s0 (bundleDev h) = false then .next (holdInstall s0 again h)
      else .next (postTo s0 (bundleDev h) (.stateQuery (s0.mail (homeDie home)) who h line v))
    | _ => .next (viewSettled s0 who line v)

/-- What a record's home answers: OPEN, or COMMITTED with its stamp; nothing for any other (R332). -/
def stateOf (s : State) (bundle : BitVec 32) : Option (Option Nat) :=
  match findBundle s bundle with
  | some x => (match x.st with | .opened => some none | .committed c => some (some c) | .aborted _ => none)
  | none => none

/-- STATE_QUERY (R332): the record's home answers, and for an OPEN bundle first raises its clock above v. -/
def execStateQuery (m : Mail) (who : Asker) (bundle : BitVec 32) (line v : Nat) (s : State) : Out :=
  let s0 := recv s m (bundleDie bundle)
  let s1 := if isOpen s0 bundle then { s0 with datum := max s0.datum (v + 1) } else s0
  .next (postTo s1 m.dev (.stateQueryReply (s1.mail (bundleDie bundle)) who bundle line v (stateOf s0 bundle)))

/-- Whether a line's pending version is a bundle's. -/
def pendingOf (s : State) (line : Nat) (bundle : BitVec 32) : Bool :=
  match (versionsOf s line).second with
  | some (.pending _ _ _ h _ _) => h == bundle
  | _ => false

/-- A home learns of a bundle's state (R328, R331, R332): of a commit, and it promotes each of the bundle's lines that it holds; that the
bundle is OPEN, and the stores that waited to know come again with it; or that it is ABORTED, and its version goes. -/
def learnState (s : State) (bundle : BitVec 32) (line : Nat) (st : Option (Option Nat)) : State :=
  match st with
  | some (some c) => releaseHeld ((pendingLines s (homeFor line) bundle).foldl (fun a l => promoteLine a l c) s) 0
  | some none =>
    releaseHeld { s with heldInstalls := s.heldInstalls.map fun e =>
      match e.1 with
      | .bundleInstall m r b a opens => if e.2 = bundle ∨ e.2 = 0 then (.bundleInstall m r b a (opens ++ [bundle]), e.2) else e
      | _ => e } bundle
  | none =>
    let s1 := markDead s bundle
    releaseHeld (if pendingOf s1 line bundle then dropVersion s1 line else s1) bundle

/-- The line that a question about a bundle names when a module asks for its own joiners (R334). -/
def noLine : Nat := 2 ^ 73

/-- What a module learns of a bundle whose joiners here have closed, when the record's module is back: a record that is no longer there,
or is ABORTED, has not settled, since it would have waited for this module (R325, R334). -/
def learnClosed (s : State) (bundle : BitVec 32) (st : Option (Option Nat)) : State :=
  match st with | none => endCloses (markDead s bundle) bundle 4 0 | some _ => s

/-- A home of a module that some peer has returned to has settled one of its pending versions: the record's home hears when none of the
bundle's is left there (R334). -/
def settleRejoined (s : State) (bundle : BitVec 32) (line : Nat) (st : Option (Option Nat)) : State :=
  let home := homeFor line
  let s1 := { s with rejoined := s.rejoined.filter (· != (line, bundle)) }
  if !(s.rejoined.contains (line, bundle)) || !(pendingLines s1 home bundle).isEmpty then s1
  else
    let mail := s1.mail (homeDie home)
    let from_ := 128 * s1.dev + home
    sendTo s1 (bundleDev bundle) (if st.isSome then .promotionAck mail from_ bundle else .dropAck mail from_ bundle)

/-- STATE_QUERY_REPLY (R332, R334): the home learns of the bundle's state, and decides the view load, if one asked. -/
def execStateQueryReply (m : Mail) (who : Asker) (bundle : BitVec 32) (line v : Nat) (stamp : Option (Option Nat)) (s : State) :
    Out :=
  if line = noLine then .next (learnClosed (recv s m 8) bundle stamp) else
  let s1 := settleRejoined (learnState (recv s m (homeDie (homeFor line))) bundle line stamp) bundle line stamp
  if who.token = 0 then .next s1
  else .next (s1.post (.viewLoadDecide (s1.mail (homeDie (homeFor line))) who line v (some bundle)))

-- Names and joins (R266, R267, R324)

/-- The record that a `bopen` retries: ABORTED, with the same name, and still held (R266, R326). -/
def retryOf (s : State) (name : Nat) (retry : BitVec 32) : Option Bundle :=
  match findBundle s retry with
  | some b => (match b.st with | .aborted _ => if b.name = name ∧ !b.retried then some b else none | _ => none)
  | none => none

/-- A record that a `bopen` has retried is held no longer (R326). -/
def retireOld (s : State) (die : Nat) (name : Nat) (retry : BitVec 32) : State :=
  if retry = 0 then s
  else if bundleDev retry = s.dev then
    (if (retryOf s name retry).isSome then tryFree (updBundle s retry fun b => { b with retried := true }) retry else s)
  else s.emitOut (.message (bundleDev retry) (.nameRegister (s.mail die) noAsker 0 name (.retire retry)))

/-- A name has been registered, or was taken: the `bopen` has its handle, or the answer 1 and its record goes; a strand that waits no
longer has left the bundle, and the record that it was to retry stays as it is (R266, R325). -/
def openDone (s : State) (who : Asker) (name : Nat) (h retry : BitVec 32) (ok : Bool) : State :=
  if !ok then answerStrand (freeBundle s h) (bundleDie h) who 1
  else
    let s1 := match findBundle s h with | some b => emitBundle s b 0xA0 | none => s
    if awaits s1 who then answerJoined (retireOld s1 (bundleDie h) name retry) (bundleDie h) who h
    else abortBundle (updBundle s1 h fun b => { b with gone := b.gone + 1 }) h

/-- A `bopen` takes an entry of its slice's table with an open stamp, and has its name registered; a full table has the answer 2 (R266).
The entry of the record that it retries counts as free once its drops are acknowledged, and is taken in one step, with the name. -/
def openWith (s : State) (who : Asker) (scope name core need : Nat) (retry : BitVec 32) (stamp : Nat) : State :=
  let slice := core / 8
  let reuse := match retryOf s name retry with
    | some b => b.waits.isEmpty && bundleSlice b.handle == slice && nameDev s (s.platOf slice).owner name == s.dev
    | none => false
  let fn := (s.platOf slice).owner
  match freeEntry s slice, freeEntry (if reuse then freeBundle s retry else s) slice with
  | none, none => answerStrand s (coreDie core) who 2
  | none, some e =>
    if (nameFind s scope name).isSome then answerStrand s (coreDie core) who 1
    else
      let r := allocBundle (freeBundle s retry) slice e name fn need none stamp
      openDone (addName r.2 scope name r.1) who name r.1 0 true
  | some e, _ =>
    let r := allocBundle s slice e name fn need none stamp
    sendTo r.2 (nameDev s fn name) (.nameRegister (r.2.mail (coreDie core)) who scope name (.register r.1 retry))

/-- A `bopen` whose name is free here goes on with the stamp of the record that it retries, of which the record's home is asked, or with
a fresh one (R266). -/
def openHere (s : State) (who : Asker) (scope name core need : Nat) (retry : BitVec 32) : State :=
  if retry ≠ 0 ∧ bundleDev retry ≠ s.dev ∧ routeOk s (bundleDev retry) = true then
    s.emitOut (.message (bundleDev retry) (.nameRegister (s.mail (coreDie core)) who scope name (.ageOf core need retry)))
  else
    match retryOf s name retry with
    | some b => openWith s who scope name core need retry b.stamp
    | none => openWith s who scope name core need 0 s.datum

/-- The die at which a message about a name arrives: the directory slice's, the record's, or the strand's. -/
def actDie (who : Asker) (name : Nat) : NameAct → Nat
  | .openHere core _ _ => coreDie core
  | .age core _ _ _ => coreDie core
  | .ageOf _ _ retry => bundleDie retry
  | .retire retry => bundleDie retry
  | .registered h _ _ => bundleDie h
  | .found _ => keyDie who.strand
  | _ => nameDie name

/-- NAME_REGISTER (R266, R267, R324): at a name's directory slice or the home of a record that is retried, and their answers. -/
def execNameRegister (m : Mail) (who : Asker) (scope name : Nat) (act : NameAct) (s : State) : Out :=
  let die := actDie who name act
  let s0 := recv s m die
  let reply (a : NameAct) : Event := .nameRegister (s0.mail die) who scope name a
  match act with
  | .openHere core need retry =>
    if !awaits s0 who then .next s0
    else if (nameFind s0 scope name).isSome then .next (answerStrand s0 die who 1)
    else .next (openHere s0 who scope name core need retry)
  | .ageOf core need retry =>
    .next (sendTo s0 m.dev (reply (.age core need retry ((retryOf s0 name retry).map (·.stamp)))))
  | .age core need retry stamp =>
    if !awaits s0 who then .next s0
    else .next (openWith s0 who scope name core need (if stamp.isSome then retry else 0) (stamp.getD s0.datum))
  | .retire retry => .next (retireOld s0 die name retry)
  | .register h retry =>
    let ok := (nameFind s0 scope name).isNone
    .next (sendTo (if ok then addName s0 scope name h else s0) m.dev (reply (.registered h retry ok)))
  | .registered h retry ok => .next (openDone s0 who name h retry ok)
  | .lookUp =>
    match nameFind s0 scope name with
    | some h => .next (sendTo s0 m.dev (reply (.found h)))
    | none =>
      if who.waits then .next { s0 with nameWaits := s0.nameWaits ++ [(scope, name, who)] }
      else .next (sendTo s0 m.dev (reply (.found 0)))
  | .found h =>
    if !awaits s0 who then .next s0
    else if h = 0 then .next (answerStrand s0 die who 0)
    else .next (sendTo s0 (bundleDev h) (.joinMessage (s0.mail die) who h none))
  | .remove h => .next { s0 with names := s0.names.filter fun p => p.2.2 != h }

/-- Whether a record can be joined: it is OPEN with fewer than J joiners (R267). -/
def canJoin (s : State) (bundle : BitVec 32) : Bool :=
  match findBundle s bundle with | some b => b.st == .opened && decide (b.joins < b.need) | none => false

/-- A strand of a module has joined a record here (R267). -/
def countJoin (s : State) (dev : Nat) (bundle : BitVec 32) : State :=
  let a := updBundle s bundle fun b =>
    { b with joins := b.joins + 1, away := if dev = s.dev then b.away else b.away ++ [dev] }
  match findBundle a bundle with | some b => emitBundle a b 0xA6 | none => a

/-- What the joiner's module keeps of a record of another module: its open stamp, and the lines that its strands store (R334). A note
that an earlier bundle of that handle was ABORTED goes (R265). -/
def keepAway (s : State) (bundle : BitVec 32) (stamp : Nat) : State :=
  if bundleDev bundle = s.dev ∨ isOpen s bundle = true then s
  else { s with bundles := s.bundles.put (bundleKey bundle) (.fresh bundle 0 0 0 none stamp) }

/-- A strand asks to join a record here: it joins, or waits for a place of an OPEN one, or is refused (R267). -/
def serveJoin (s : State) (who : Asker) (h : Half) : State :=
  match findBundle s h with
  | none => tellJoin s who h none
  | some b =>
    if canJoin s h then tellJoin (countJoin s who.dev h) who h (some b.stamp)
    else if b.st = .opened ∧ who.waits = true then updBundle s h fun x => { x with asked := x.asked ++ [who] }
    else tellJoin s who h none

/-- A joiner that nobody took up gives its place back; the strand that has waited longest takes it (R267). -/
def unjoin (s : State) (dev : Nat) (h : Half) : State :=
  let s1 := updBundle s h fun x => { x with joins := x.joins - 1, away := x.away.erase dev }
  match findBundle s1 h with
  | some b =>
    (match b.st, b.asked with
    | .opened, w :: ws => serveJoin (updBundle s1 h fun x => { x with asked := ws }) w h
    | _, _ => tryFree s1 h)
  | none => s1

/-- JOIN_MESSAGE (R267, R334): at a record's home a join succeeds while it is OPEN with fewer than J; the joiner's module hears
the answer, and keeps what its strands add to a record of another module. A strand that waits and is refused looks the name up again. -/
def execJoinMessage (m : Mail) (who : Asker) (bundle : BitVec 32) (answer : Option (Option Nat)) (s : State) : Out :=
  match answer with
  | none => .next (serveJoin (recv s m (bundleDie bundle)) who bundle)
  | some r =>
    let die := keyDie who.strand
    let s0 := recv s m die
    match r with
    | none => .next (if who.waits then askAgain s0 who else answerStrand s0 die who 0)
    | some stamp =>
      if awaits s0 who then .next (answerJoined (keepAway s0 bundle stamp) die who bundle)
      else .next (sendTo s0 (bundleDev bundle) (.bundleCloseArrival (s0.mail die) noAsker bundle .unjoin []))

/-- A joiner of a module has closed or left (R325). -/
def departed (s : State) (dev : Nat) (closed : Bool) (h : Half) : State :=
  updBundle s h fun x =>
    { x with closes := if closed then x.closes + 1 else x.closes, gone := if closed then x.gone else x.gone + 1
             left := if dev = s.dev then x.left else x.left ++ [dev] }

/-- The close of a joiner at its record (R269): the J-th commits; one of an ABORTED bundle ends ABORTED once its drops are
acknowledged. -/
def closeHere (s : State) (dev : Nat) (b : Bundle) : State :=
  let h := b.handle
  let s1 := emitBundle (departed s dev true h) b 0xA7
  match b.st with
  | .opened => if b.need ≤ b.closes + 1 then settleBundle (commitBundle s1 h) h else s1
  | .aborted _ => abortDone s1 h
  | .committed _ => s1

/-- BUNDLE_CLOSE_ARRIVAL (R268 to R270, R325, R329): what reaches a bundle's record from a joiner, or a wound; and the answers. A record
that is gone has been ABORTED. -/
def execBundleCloseArrival (m : Mail) (who : Asker) (bundle : BitVec 32) (kind : CloseKind) (lines : List (Nat × Nat))
    (s : State) : Out :=
  let die := match kind with | .answered _ => keyDie who.strand | _ => bundleDie bundle
  let s0 := recv s m die
  let reply (a : State) (x : Nat) : State :=
    if who.token = 0 then a else sendTo a m.dev (.bundleCloseArrival (a.mail die) who bundle (.answered x) [])
  match kind, findBundle s0 bundle with
  | .answered x, _ => .next (answerStrand s0 die who x)
  | .closes, none =>
    .next (if m.dev = s0.dev then endCloses s0 bundle 4 0 else sendTo s0 m.dev (.dropNotice (s0.mail die) 127 bundle))
  | .closes, some b => .next (closeHere s0 m.dev b)
  | .wound, _ => .next (abortBundle s0 bundle)
  | .unjoin, _ => .next (unjoin s0 m.dev bundle)
  | .aborts, _ => .next (reply (tryFree (abortBundle (departed s0 m.dev false bundle) bundle) bundle) 1)
  | .admits, _ =>
    if !isOpen s0 bundle then .next (reply s0 2)
    else match admitLines s0 bundle lines with
      | some s1 => .next (reply s1 1)
      | none => .next (reply s0 0)

-- Implicit bundles (R273, R335)

/-- Open the implicit bundle of a restartable block, if its slice's table has room: every strand is joined. -/
def openImplicit (s : State) (blk : Nat) : Option State :=
  let b := s.block blk
  let slice := b.core / 8
  match freeEntry s slice with
  | none => none
  | some e =>
    let h := allocBundle s slice e 0 (s.grid b.grid).fn b.nstr (some blk) (b.keepStamp.getD s.datum)
    let r := (h.1, match findBundle h.2 h.1 with | some x => emitBundle h.2 x 0xA0 | none => h.2)
    let s1 := r.2.updBlock blk fun x => { x with bundle := r.1, keepStamp := none }
    some (b.strands.foldl (fun a k => a.updStrand k fun st => if st.ended then st else joinStrand st r.1) s1)

/-- Commit a block's implicit bundle (R273). -/
def commitImplicit (s : State) (blk : Nat) : State :=
  let h := (s.block blk).bundle
  if h = 0 then s
  else settleBundle (commitBundle (s.updBlock blk fun x => { x with bundle := 0 }) h) h

/-- Drop a block's implicit bundle (R259). -/
def dropImplicit (s : State) (blk : Nat) : State :=
  let h := (s.block blk).bundle
  if h = 0 then s else abortBundle (s.updBlock blk fun x => { x with bundle := 0 }) h

/-- Commit the bundle of a block whose strands have arrived at `commit`: every one of them receives the same handle, and a new
implicit bundle opens (R273). None when the block has 64 jobs, or the slice's table no free entry: it waits. -/
def commitBlock (s : State) (b : Nat) (arrived : List (Nat × Nat)) : Option State :=
  let blk := s.block b
  if 64 ≤ (s.jobs.filter fun p => p.2.blk == b).length then none
  else
    match arrived with
    | [] => some s
    | (k0, _) :: _ =>
      let j := s.nextId
      let h := takeHandle { s with nextId := j + 1 } b j
      let job : Job :=
        { code := 0x108, handle := h.1, blk := b, grid := blk.grid, strand := k0, core := blk.core, work := .close blk.bundle
          regions := [], edges := [], follow := none, phase := .running, cancel := false, pos := 0, sub := 0, moved := 0
          elems := [], buf := [], port := .idle, sill := [], packet := none, acks := 0 }
      let s1 := countUp { h.2 with jobs := h.2.jobs.put j job } blk.grid blk.core
      let s2 := arrived.foldl (fun a p => a.updStrand p.1 fun st =>
        { st.setH (p.2 % 16) h.1 with pending := st.pending ++ [j] }) s1
      let old := blk.bundle
      match openImplicit s2 b with
      | none => none
      | some s3 => some (settleBundle (commitBundle s3 old) old)

end Sys2Proof.Machine
end

