-- ==== Sys2Proof/Machine/MemInstr.lean ====
section
/-!
DEFINITION. The memory class (R130 to R149): loads, stores and atomics on global memory and the scratchpad, fences, the
range operations, `signal`, `wait` and `bbar`.
-/
namespace Sys2Proof.Machine

/-- Whether an access with ord is an acquire, a release (R137). -/
def isAcq (f : Fields) : Bool := f.ord % 2 == 1
/-- Release. -/
def isRel (f : Fields) : Bool := f.ord / 2 % 2 == 1

/-- What every memory instruction waits for and checks first (R102, R157): registers in flight, allocation. -/
def memStart (s : State) (st : Strand) (vec : Bool) (vs : List Opd) (dst src : List Nat) : Res Unit := do
  awaitRegs st (if vec then dst ++ vs.flatMap vRegsOf else []) ((if vec then [] else dst) ++ src)
  if vec then checkAllocated st vs else pure ()
  let _ := s

/-- The uniform registers that uniform-form operands read. -/
def memRegs (vec : Bool) (os : List Opd) : List Nat := if vec then os.flatMap bRegsOf else os.flatMap sRegsOf

-- View loads (R271, R272, R332)

/-- The retry of a refused view load: the view ends, and the strand continues at `vretry` with the view's em (R271). Outside
the running region of a `fork` that is an ILLEGAL FORK EXIT (R90). It is the load that has no effect: the uniform member of its pair
has its own (R13; DEDUCED, log 25). -/
def viewRetry (s : State) (k : Nat) (st0 : Strand) (off : Nat) : State :=
  let ws := match st0.pair with | .apply ws => ws | _ => []
  let st := { applyWrites (endChain st0).completed ws with viewOn := false, viewed := [], ask := 0, peerOk := [], peerNo := [] }
  if leavesRegion st st.vretry.toNat then enterTrap s k st cIllegalForkExit st.vretry st.pc st.em
  else
    (s.setStrand k
      { st with em := st.vem &&& st.pm, pc := st.vretry, arrival := .target st.pc, undo := some (st.saveNext st.em)
                wild := false }).emitStrand k st 0xA4 (off % 2 ^ 26)

/-- Have the homes decide every bundled line of a load (R332): none while they have not answered; otherwise whether a line was
refused, by its offset. -/
def viewLines (k : Nat) (st : Strand) (ps : List Part) : M (Option Nat) := do
  let bs := ps.filter fun p => p.bun
  let ls := partLines bs
  if ls.any fun l => !(st.viewed.any fun v => v.1 == l) then
    if st.ask = 0 then
      let s ← get
      let s1 := { s with nextId := s.nextId + 1 }.updStrand k fun x => { x with ask := s.nextId, viewed := [] }
      set (ls.foldl (fun a l =>
        let h := homeOfLine a st l
        postTo a h.1 (.viewLoadDecide (a.mail (coreDie st.core)) ⟨a.dev, k, s.nextId, false⟩ h.2 st.vstamp.toNat none)) s1)
    mwait .answer
  else
    return (bs.find? fun p => (linesOf p.ga p.n).any fun l => st.viewed.any fun v => v.1 == l && v.2.isNone).map (·.poff)

-- Global loads, stores, atomics

/-- The scope of an acquire or a release, against the cap (R314). -/
def capAccess (ordered : Bool) (fn scope : Nat) (ps : List Part) : M Unit :=
  match ordered, ps with
  | true, p :: _ => do let _ ← capScope fn scope p.off
  | _, _ => pure ()

/-- Everything a load waits for and checks before it is performed (R102, R132 to R138, R157, R307, R332): its parts, and the
offset of a bundled line that its home refused. -/
def loadChecks (f : Fields) (vec lda : Bool) (k : Nat) (st : Strand) : M (List Part × Option Nat) := do
  let os := [f.a, f.b]
  let s ← get
  let acq := lda || isAcq f
  liftRes (memStart s st vec os [f.d.toNat] (memRegs vec os))
  let o ← liftRes (memOpnds s st vec { f with c := Opd.none } .i64)
  liftRes (orderWaits st none lda)
  let w := whoOf s st
  let ps ← resolveAll st w ⟨false, false, bunCause s st true false⟩ (st.window f.m.toNat).toNat (accessSize f.ty) acq
    true o true (memThreads st vec)
  accessScope acq w.fn f.cScope ps
  let s1 ← get
  liftRes (lineWaits s1 st ps (some lda))
  if vec then liftRes (checkRoom s1 st 1)
  let r ← viewLines k st ps
  if r.isNone then capAccess acq w.fn f.cScope ps
  return (ps, r)

/-- The vector operands of a memory instruction: those of its chain (R169). -/
def memVecs (vec : Bool) (os : List Opd) : List Opd := if vec then os else []

/-- The registers whose last read a memory instruction marks, to be freed when it completes; those of a chain's member are freed at
the chain's end (R165). -/
def memFrees (st : Strand) (vs : List Opd) : List Nat := if st.chainPos = 0 then vs.flatMap lastRegOf else []

/-- `ld`, `lda`, `uld` (R135, R137, R142). -/
def globalLoad (f : Fields) (vec lda : Bool) (s : State) : Out :=
  runMem (memVecs vec [f.a, f.b]) (fun k st => do
    let r ← loadChecks f vec lda k st
    match r.2 with
    | some off => modify fun s => viewRetry s k st off
    | none =>
      performLoad k st f vec (lda || isAcq f) r.1 (memFrees st (memVecs vec [f.a, f.b]))
      finishMem k f.nx st (memMarks st (memVecs vec [f.a, f.b]) [f.d.toNat])) s

/-- `ld`. -/
def execLd (f : Fields) (s : State) : Out := globalLoad f true false s
/-- `lda`. -/
def execLda (f : Fields) (s : State) : Out := globalLoad f true true s
/-- `uld`. -/
def execUld (f : Fields) (s : State) : Out := globalLoad f false false s

/-- Everything a store waits for and checks (R132 to R138, R157, R307, R314): its parts and its data. -/
def storeChecks (f : Fields) (vec stl : Bool) (st : Strand) : M (List Part × MemOpnds) := do
  let os := [f.a, f.b, f.c]
  let s ← get
  let rel := stl || isRel f
  let scope := f.d.toNat
  liftRes (memStart s st vec os [] (memRegs vec os))
  let o ← liftRes (memOpnds s st vec f .i64)
  let w := whoOf s st
  liftRes (orderWaits st (if rel then some (min scope (s.fn w.fn).cap) else none) false)
  let ps ← resolveAll st w ⟨true, false, bunCause s st false true⟩ (st.window f.m.toNat).toNat (accessSize f.ty) rel
    false o true (memThreads st vec)
  accessScope rel w.fn scope ps
  let s1 ← get
  liftRes (lineWaits s1 st ps none)
  capAccess rel w.fn scope ps
  return (ps, o)

/-- The strand of a store that has been performed: its last reads are marked (R23). -/
def storeEnd (vec : Bool) (os : List Opd) (x : Strand) : Strand := if vec then markLastReads x os none else x

/-- `st`, `stl`, `ust` (R136, R137, R142); in a restartable block a store is bundled (R268). -/
def globalStore (f : Fields) (vec stl : Bool) (s : State) : Out :=
  runMem (memVecs vec [f.a, f.b, f.c]) (fun k st => do
    let s ← get
    let r ← storeChecks f vec stl st
    if restartableBlock s st then performBundled k st r.1 r.2.data
    else performStore k st f.hint (stl || isRel f) r.1 r.2.data
    finishMem k f.nx st (storeEnd vec [f.a, f.b, f.c])) s

/-- `st`. -/
def execSt (f : Fields) (s : State) : Out := globalStore f true false s
/-- `stl`. -/
def execStl (f : Fields) (s : State) : Out := globalStore f true true s
/-- `ust`. -/
def execUst (f : Fields) (s : State) : Out := globalStore f false false s

/-- The operand for the next register of a pair's first, a broadcast pair's too (R141). -/
def pairNext (o : Opd) : Opd :=
  match o.spec with
  | .reg n => { o with spec := .reg (n + 1) }
  | .bcast n => { o with spec := .bcast (n + 1) }
  | _ => o

/-- A register as an operand. -/
def regOpd (n : BitVec 6) : Opd := ⟨.reg n, false⟩

/-- The operands of an atomic: the address, B (a pair for a 16-byte `cas`), and D for `cas` (R139, R141). -/
def atomicOpds (f : Fields) (cas : Bool) : List Opd :=
  let pair := cas && f.cOp == 1
  f.a :: ((if pair then [f.b, pairNext f.b] else [f.b])
    ++ (if cas then (if pair then [regOpd f.d, regOpd (f.d + 1)] else [regOpd f.d]) else []))

/-- The destinations of an atomic: a pair for a 16-byte `cas` (R141). -/
def atomicDsts (f : Fields) (cas : Bool) : List Nat := if cas && f.cOp == 1 then [f.d.toNat, f.d.toNat + 1] else [f.d.toNat]

/-- The vector operands of an atomic's chain. -/
def atomicVecs (f : Fields) (vec cas : Bool) : List Opd :=
  memVecs vec (f.a :: (if cas && f.cOp == 1 then [f.b, pairNext f.b] else [f.b]))

/-- Everything an atomic waits for and checks: its parts, and what it asks of the home for each (R139 to R142). -/
def atomicChecks (f : Fields) (vec cas : Bool) (st : Strand) : M (List Part × (Part → MemOp)) := do
  let pair := cas && f.cOp == 1
  let os := atomicOpds f cas
  let s ← get
  liftRes (memStart s st vec os (if pair then [f.d.toNat, f.d.toNat + 1] else [f.d.toNat]) (memRegs vec os))
  let a ← liftRes (memOpnd s st vec .n64 f.a)
  let b ← liftRes (memOpnd s st vec f.ty f.b)
  let b2 ← liftRes (memOpnd s st vec .b (pairNext f.b))
  let d ← liftRes (memOpnd s st vec .b (regOpd f.d))
  let d2 ← liftRes (memOpnd s st vec .b (regOpd (f.d + 1)))
  let w := whoOf s st
  let threads := memThreads st vec
  let marked := threads.any fun t =>
    (b t).2 || (cas && (d t).2) || (pair && ((b2 t).2 || (d2 t).2))
  if marked then mtrapHere cPoison
  liftRes (orderWaits st (if isRel f then some (min f.cScope (s.fn w.fn).cap) else none) false)
  let size := if pair then 16 else atomSize f.ty
  let ps ← resolveAll st w ⟨true, false, bunCause s st false false⟩ (st.window f.m.toNat).toNat size true false
    ⟨a, a, b⟩ false threads
  accessScope true w.fn f.cScope ps
  let s1 ← get
  liftRes (lineWaits s1 st ps none)
  if vec then liftRes (checkRoom s1 st (if pair then 2 else 1))
  capAccess true w.fn f.cScope ps
  for p in ps do
    let _ ← findBadTag (p.ga / 128)
  return (ps, fun p =>
    let lo (x : Nat → Word × Bool) : Nat := (x p.thread).1.toNat
    if cas then
      .cas size (p.ga % 128) ((lo b + (if pair then lo b2 * 2 ^ 64 else 0)) % 2 ^ (8 * size))
        ((lo d + (if pair then lo d2 * 2 ^ 64 else 0)) % 2 ^ (8 * size))
    else .atomic f.cOp f.ty (p.ga % 128) (b p.thread).1)

/-- `atom`, `uatom`, `cas`, `ucas` (R139 to R142). -/
def globalAtomic (f : Fields) (vec cas : Bool) (s : State) : Out :=
  runMem (atomicVecs f vec cas) (fun k st => do
    let r ← atomicChecks f vec cas st
    performAtomic k st f vec (isAcq f) (cas && f.cOp == 1) r.1 (memFrees st (atomicVecs f vec cas)) r.2
    finishMem k f.nx st (memMarks st (atomicVecs f vec cas) (atomicDsts f cas))) s

/-- `atom`. -/
def execAtom (f : Fields) (s : State) : Out := globalAtomic f true false s
/-- `cas`. -/
def execCas (f : Fields) (s : State) : Out := globalAtomic f true true s
/-- `uatom`. -/
def execUatom (f : Fields) (s : State) : Out := globalAtomic f false false s
/-- `ucas`. -/
def execUcas (f : Fields) (s : State) : Out := globalAtomic f false true s

-- The scratchpad (R133, R283)

/-- The address of a thread's scratchpad access, checked: marks, bounds, alignment. -/
def scratchAddr (size : Nat) (limit : Nat) (aligned withOff : Bool) (o : MemOpnds) (t : Nat) : M Nat := do
  let b := o.base t
  let d := if withOff then o.off t else (0, false)
  if b.2 || d.2 then mtrapHere cPoison
  let off : Int := (b.1.toNat : Int) + d.1.toInt
  if off < 0 ∨ (limit : Int) < off + size then
    mtrap cScratchBounds (if 0 ≤ off ∧ off < limit then BitVec.ofNat 64 limit else wrap64 off)
  if aligned && off.toNat % size != 0 then mtrap cAlignment (wrap64 off)
  return off.toNat

/-- The scratchpad addresses of all threads, in ascending order. -/
def scratchAddrs (st : Strand) (s : State) (size : Nat) (aligned withOff : Bool) (o : MemOpnds) (ts : List Nat) :
    M (List (Nat × Nat)) :=
  ts.mapM fun t => do
    let a ← scratchAddr size (s.block st.blk).scratchSize aligned withOff o t
    return (t, a)

/-- Write D in the given threads: a vector register as a fresh one, or a uniform register (R72, R135). -/
def scratchResult (f : Fields) (vec : Bool) (rs : List (Nat × Word × Bool)) (st : Strand) : Strand :=
  if vec then
    let old := (st.vreg f.d.toNat).getD VReg.zero
    st.setV f.d.toNat (some (VReg.ofFn fun t =>
      match rs.find? fun r => r.1 == t with | some r => r.2 | none => (old.get t, old.marked t)))
  else match rs with | r :: _ => st.setS f.d.toNat r.2.1 r.2.2 | [] => st

/-- Everything a scratchpad load waits for and checks: its addresses by thread. -/
def scratchLoadChecks (f : Fields) (vec : Bool) (st : Strand) : M (List (Nat × Nat)) := do
  let os := [f.a, f.b]
  let s ← get
  liftRes (memStart s st vec os [f.d.toNat] (memRegs vec os))
  let o ← liftRes (memOpnds s st vec { f with c := Opd.none } .i64)
  liftRes (orderWaits st none false)
  let as ← scratchAddrs st s (accessSize f.ty) (isAcq f) true o (memThreads st vec)
  if vec then liftRes (checkRoom s st 1)
  return as

/-- What a scratchpad load gives each thread: the bytes, widened, and whether they are poisoned (R134, R136). -/
def scratchValues (f : Fields) (b : Block) (as : List (Nat × Nat)) : List (Nat × Word × Bool) :=
  as.map fun p => (p.1, widen f.ty (accessSize f.ty) (scratchRead b p.2 (accessSize f.ty)), scratchMarked b p.2 (accessSize f.ty))

/-- The strand of a scratchpad load that has been performed. -/
def scratchEnd (f : Fields) (vec : Bool) (os : List Opd) (rs : List (Nat × Word × Bool)) (x : Strand) : Strand :=
  endViewOn (scratchResult f vec rs (if vec then markLastReads x os (some f.d.toNat) else x)) (isAcq f)

/-- `sld`, `usld`. -/
def scratchLoad (f : Fields) (vec : Bool) (s : State) : Out :=
  runMem (memVecs vec [f.a, f.b]) (fun k st => do
    let as ← scratchLoadChecks f vec st
    let s ← get
    finishMem k f.nx st (scratchEnd f vec [f.a, f.b] (scratchValues f (s.block st.blk) as))) s

/-- `sld`. -/
def execSld (f : Fields) (s : State) : Out := scratchLoad f true s
/-- `usld`. -/
def execUsld (f : Fields) (s : State) : Out := scratchLoad f false s

/-- Everything a scratchpad store waits for and checks: its addresses by thread, and its data. -/
def scratchStoreChecks (f : Fields) (vec : Bool) (st : Strand) : M (List (Nat × Nat) × MemOpnds) := do
  let os := [f.a, f.b, f.c]
  let s ← get
  liftRes (memStart s st vec os [] (memRegs vec os))
  let o ← liftRes (memOpnds s st vec f .i64)
  liftRes (orderWaits st (if isRel f then some f.d.toNat else none) false)
  let as ← scratchAddrs st s (accessSize f.ty) (isRel f) true o (memThreads st vec)
  return (as, o)

/-- The stores of a scratchpad store, thread after thread: a higher thread's byte stays (R136). -/
def scratchPut (f : Fields) (blk : Nat) (as : List (Nat × Nat)) (data : Nat → Word × Bool) (s : State) : State :=
  as.foldl (fun (a : State) p => a.updBlock blk fun b =>
    scratchWrite b p.2 (toBytes (accessSize f.ty) (data p.1).1.toNat) (data p.1).2) s

/-- `sst`, `usst`. -/
def scratchStore (f : Fields) (vec : Bool) (s : State) : Out :=
  runMem (memVecs vec [f.a, f.b, f.c]) (fun k st => do
    let r ← scratchStoreChecks f vec st
    modify (scratchPut f st.blk r.1 r.2.data)
    finishMem k f.nx st (storeEnd vec [f.a, f.b, f.c])) s

/-- `sst`. -/
def execSst (f : Fields) (s : State) : Out := scratchStore f true s
/-- `usst`. -/
def execUsst (f : Fields) (s : State) : Out := scratchStore f false s

/-- One thread's atomic on the scratchpad (R140): not performed on a poisoned line. -/
def scratchAtomic (f : Fields) (b : Word) (a : Nat) (blk : Block) : (Word × Bool) × Block :=
  let n := atomSize f.ty
  let old := scratchRead blk a n
  if scratchMarked blk a n then ((widen f.ty n old, true), blk)
  else ((widen f.ty n old, false), scratchWrite blk a (toBytes n (atomNew f.cOp f.ty old b.toNat)) false)

/-- Everything `satom` waits for and checks. -/
def satomChecks (f : Fields) (st : Strand) : M (List (Nat × Nat) × MemOpnds) := do
  let os := [f.a, f.b]
  let s ← get
  liftRes (memStart s st true os [f.d.toNat] (memRegs true os))
  let o ← liftRes (memOpnds s st true { f with c := Opd.none } f.ty)
  if (activeList st.em).any fun t => (o.off t).2 then mtrapHere cPoison
  liftRes (orderWaits st (if isRel f then some f.cScope else none) false)
  let as ← scratchAddrs st s (atomSize f.ty) true false o (activeList st.em)
  liftRes (checkRoom s st 1)
  return (as, o)

/-- The atomics of `satom`, thread after thread: each thread's old value, and the block. -/
def satomRun (f : Fields) (as : List (Nat × Nat)) (data : Nat → Word × Bool) (b : Block) :
    List (Nat × Word × Bool) × Block :=
  as.foldl (fun (acc : List (Nat × Word × Bool) × Block) p =>
    let x := scratchAtomic f (data p.1).1 p.2 acc.2
    (acc.1 ++ [(p.1, x.1)], x.2)) ([], b)

/-- `satom` (R140). -/
def execSatom (f : Fields) (s : State) : Out :=
  runMem [f.a, f.b] (fun k st => do
    let r ← satomChecks f st
    let s ← get
    let x := satomRun f r.1 r.2.off (s.block st.blk)
    set (s.updBlock st.blk fun _ => x.2)
    finishMem k f.nx st (scratchEnd f true [f.a, f.b] x.1)) s

-- Fences and the barrier (R143, R144)

/-- What `fence` waits for, and its scope against the cap (R143, R314). -/
def fenceChecks (f : Fields) (st : Strand) : M Unit := do
  let s ← get
  let fn := (whoOf s st).fn
  scopeCheck fn f.cScope 0
  if !st.flight.isEmpty then mwait .data
  if isRel f then liftRes (orderWaits st (some (min f.cScope (s.fn fn).cap)) false)
  let _ ← capScope fn f.cScope 0

/-- `fence` (R143): it waits for what it orders, and ends an open view. -/
def execFence (f : Fields) (s : State) : Out :=
  runMem [] (fun k st => do
    fenceChecks f st
    finishMem k f.nx st fun x => { x with viewOn := false }) s

/-- Whether every strand of a block that has not ended has arrived at its barrier. -/
def allArrived (s : State) (b : Block) : Bool :=
  b.strands.all fun k => match s.strand k with
    | some st => st.ended || st.barrier != .away
    | none => true

/-- Whether every store of a block's strands, ended ones too, has been acknowledged (R273, R331). -/
def blockStored (s : State) (b : Nat) : Bool :=
  (s.block b).strands.all fun k => match s.strand k with | some st => st.unacked.isEmpty | none => true

/-- Let every arrived strand of a block go on, which ends its view (R144, R272); where some have arrived at `commit`, the implicit bundle commits first
(R273), once every store of the block is at its home. A commit that must wait tries again. -/
def releaseBarrier (s : State) (b : Nat) : State :=
  let ks := (s.block b).strands.filterMap fun k =>
    match s.strand k with
    | some st => (match st.barrier with | .arrived nx c => if st.ended then none else some (k, nx, c) | .away => none)
    | none => none
  let commits := ks.filterMap fun p => p.2.2.map fun d => (p.1, d)
  match (if commits.isEmpty then some s else if !blockStored s b then none else commitBlock s b commits) with
  | none => s.post (.blockRetire b)
  | some s1 => ks.foldl (fun a p =>
    match a.strand p.1 with
    | some st => retire a p.1 { st with barrier := .away, viewOn := false } p.2.1 0 st.em
    | none => a) s1

/-- A strand has arrived at its block's barrier; the last one lets all go on. What the uniform member of a pair writes is kept until
then (R13). -/
def barrierArrived (k : Nat) (st : Strand) (nx : Nx) (commit : Option Nat) (s : State) : State :=
  let s1 := s.setStrand k { endChain st with barrier := .arrived nx commit, wait := .barrier, lane := none }
  if allArrived s1 (s1.block st.blk) then releaseBarrier s1 st.blk else s1

/-- Arrive at a block's barrier. A `commit` waits for all of the strand's stores, wherever their homes, and has the implicit scope .ten
(R273, R314, R317). -/
def arriveBarrier (k : Nat) (st : Strand) (nx : Nx) (commit : Option Nat) : M Unit := do
  if st.trapMode then mtrapHere cIllegalContext
  if !st.flight.isEmpty then mwait .data
  if commit.isSome && !st.unacked.isEmpty then mwait .acks
  liftRes (orderWaits st (some 2) false)
  if commit.isSome then modify fun s => implicitScope s (whoOf s st).fn 7
  modify (barrierArrived k st nx commit)

/-- `bbar` (R144): a full fence at block scope, then the wait for every strand of the block that has not ended. -/
def execBbar (f : Fields) (s : State) : Out := runMem [] (fun k st => arriveBarrier k st f.nx none) s

-- Signal and wait (R145, R146)

/-- Everything `signal` waits for and checks: its part and its operand (R145). -/
def signalChecks (f : Fields) (st : Strand) : M (List Part × Word) := do
  let s ← get
  liftRes (awaitRegs st [] (memRegs false [f.a, f.b]))
  let a ← liftRes (memOpnd s st false .n64 f.a)
  let b ← liftRes (uval s st f.ty f.b)
  let w := whoOf s st
  liftRes (orderWaits st (some (min f.cScope (s.fn w.fn).cap)) false)
  let ps ← resolveAll st w ⟨true, false, bunCause s st false false⟩ (st.window f.m.toNat).toNat 8 true false
    ⟨a, a, a⟩ false [0]
  accessScope true w.fn f.cScope ps
  liftRes (lineWaits (← get) st ps none)
  capAccess true w.fn f.cScope ps
  return (ps, b)

/-- Send a signal to the home of its line: it is not acknowledged yet (R145, R323). -/
def sendSignal (f : Fields) (k : Nat) (st : Strand) (p : Part) (b : Word) (s : State) : State :=
  let l := p.ga / 128
  let r := { strandReq s k st s.nextId 0 l false (.atomic f.cOp f.ty (p.ga % 128) b) with closing := true }
  let s2 := ({ s with nextId := s.nextId + 1 }.updStrand k fun x =>
    { x with unacked := x.unacked ++ [(⟨r.acc, l, reachOf l⟩ : Unacked)] })
  let s3 := countUp s2 r.grid r.core
  if isPeer p.ga then s3.askPeer (peerOf p.ga) (s.fn (whoOf s st).fn).domain r else s3.send (.signalArrival r)

/-- `signal` (R145): a release at its scope; the update is on its way when the strand goes on. -/
def execSignal (f : Fields) (s : State) : Out :=
  runMem [] (fun k st => do
    let r ← signalChecks f st
    match r.1 with
    | p :: _ => modify (sendSignal f k st p r.2)
    | [] => pure ()
    finishMem k f.nx st id) s

/-- Everything `wait` waits for and checks first: its part and its operand (R146). -/
def waitChecks (f : Fields) (st : Strand) : M (List Part × Word) := do
  let s ← get
  liftRes (awaitRegs st [] (f.d.toNat :: memRegs false [f.a, f.b]))
  let a ← liftRes (memOpnd s st false .n64 f.a)
  let b ← liftRes (uval s st f.ty f.b)
  liftRes (orderWaits st none false)
  let ps ← resolveAll st (whoOf s st) ⟨false, false, bunCause s st false false⟩ (st.window f.m.toNat).toNat 8 true true
    ⟨a, a, a⟩ false [0]
  accessScope true (whoOf s st).fn f.cScope ps
  liftRes (lineWaits (← get) st ps none)
  match ps with
  | p :: _ => if st.unacked.any fun u => u.line == p.ga / 128 then mwait .acks
  | [] => pure ()
  return (ps, b)

/-- Whether the condition of a `wait` holds of a word (R29, R146). -/
def waitHolds (f : Fields) (x : Nat) (b : Word) : Bool :=
  let val (x : Word) : Int := if f.ty = .i64 then x.toInt else x.toNat
  condInt f.cOp (val (BitVec.ofNat 64 x)) (val b)

/-- The strand of a `wait` whose condition holds: D takes the word, and an open view ends. -/
def waitGot (f : Fields) (x : Nat) (mark : Bool) (y : Strand) : Strand :=
  { endViewOn (y.setS f.d.toNat (BitVec.ofNat 64 x) mark) true with answer := none }

/-- The home at which a strand waits on a line: where it is held, or is to be held for the strand's core. -/
def waitHome (s : State) (core line : Nat) : Nat :=
  if isHost (line * 128) && homeAt s line = hostHome then homeBy line core else homeAt s line

/-- The word of a `wait` as its home holds it, once the home has the line: the state with the line, the word, its mark. -/
def waitWord (bnd : Half) (core : Nat) (p : Part) (s : State) : State × Nat × Bool :=
  let l := p.ga / 128
  let h := waitHome s core l
  let s2 := l2Read s h l false
  (s2, field (overPending s2 bnd l (deviceView s2 h l)) (8 * (p.ga % 128)) 64, linePoisoned s2 h l)

/-- `wait` (R146): the word is read at its home; when the condition fails, the strand waits for the line to change. A
peer's word is asked for again and again. -/
def execWait (f : Fields) (s : State) : Out :=
  runMem [] (fun k st => do
    let s ← get
    let fn := (whoOf s st).fn
    let r ← waitChecks f st
    match r.1 with
    | [] => pure ()
    | p :: _ =>
      let s1 ← get
      let l := p.ga / 128
      let got (x : Nat) (mark : Bool) : M Unit := do
        let _ ← capScope fn f.cScope p.off
        finishMem k f.nx st (waitGot f x mark)
      if isPeer p.ga then
        match st.answer with
        | some line =>
          let x := bits line (8 * (p.ga % 128)) 64
          if waitHolds f x r.2 then got x (bitOf line 1024)
          else
            set ((s1.updStrand k fun y => { y with answer := none }).askPeer (peerOf p.ga) (s.fn fn).domain (strandReq s1 k st 0 0 l false .load))
            mwait .answer
        | none =>
          set (s1.askPeer (peerOf p.ga) (s.fn fn).domain (strandReq s1 k st 0 0 l false .load))
          mwait .answer
      else
        let w := waitWord (if restartableBlock s st then st.bnd else 0) st.core p s1
        if waitHolds f w.2.1 r.2 then
          set w.1
          got w.2.1 w.2.2
        else if hostBiased w.1 l then
          set ({ w.1 with free := w.1.free + 1 }.post (.waitRecheck k))
          mwait .word
        else
          set (w.1.updHome (waitHome s1 st.core l) fun y => { y with watchers := y.watchers ++ [⟨l, k⟩] })
          mwait .word) s

-- Range operations (R147 to R149)

/-- The pages of a range. -/
def rangePages (off n : Nat) : List Nat := if n = 0 then [] else rangeFrom (off / 65536) ((off + n - 1) / 65536 - off / 65536 + 1)

/-- The page at an address for a range operation: readable or not, if it is mapped and resident (R147). -/
def rangePage (w : Who) (va : Nat) : M (Option (Nat × Leaf)) := do
  let r := translate (← get) w ⟨false, false, .any⟩ va
  set r.2
  match r.1 with
  | .ok ga l => return some (ga, l)
  | _ =>
    let p := probePage r.2 w va
    set p.2
    return p.1

/-- The lines of a range that are mapped and resident, as global line numbers with their page's leaf: pages that are not are
skipped, and record no fault (R147). -/
def rangeLines (w : Who) (win off n : Nat) : M (List (Nat × Leaf)) := do
  let rs ← (rangePages off n).mapM fun pg => do
    match ← rangePage w (win * 2 ^ 64 + pg * 65536) with
    | some (ga, l) =>
      let lo := max off (pg * 65536) - pg * 65536
      let hi := min (off + n) (pg * 65536 + 65536) - pg * 65536
      return (linesOf (ga + lo) (hi - lo)).map fun x => (x, l)
    | none => return []
  return rs.flatMap id

/-- Base and length of a range operation, checked against the window (R147). An immediate or literal is formed as for `.n64`, which the
rule does not say (DESIGN CHOICE, log 44). -/
def rangeOf (s : State) (st : Strand) (f : Fields) : M (Nat × Nat) := do
  liftRes (awaitRegs st [] (memRegs false [f.a, f.b]))
  let a ← liftRes (uval s st .n64 f.a)
  let b ← liftRes (uval s st .n64 f.b)
  if b ≠ 0 ∧ 2 ^ 64 < a.toNat + b.toNat then mtrap cWindowCrossing a
  return (a.toNat, b.toNat)

/-- Whether a line of a range is on its way to its home, written back by this core's L1 (R148, R297). -/
def onItsWay (s : State) (core : Nat) (ls : List (Nat × Leaf)) : Bool := ls.any fun p => (s.core core).writebacks.contains p.1

/-- Everything a clean or a flush waits for and checks: its scope and its lines (R147, R148). The L1 writes the lines back, and the
strand waits until every one has reached its home. -/
def cleanChecks (f : Fields) (drop : Bool) (st : Strand) : M (Nat × List (Nat × Leaf)) := do
  let s ← get
  let r ← rangeOf s st f
  let w := whoOf s st
  scopeCheck w.fn f.cScope r.1
  if !st.flight.isEmpty then mwait .data
  let ls ← rangeLines w (st.window f.m.toNat).toNat r.1 r.2
  modify fun s => ls.foldl (fun a p => l1Clean a st.core p.1 drop) s
  if onItsWay (← get) st.core ls then mwait .acks
  let sc ← capScope w.fn f.cScope r.1
  return (sc, ls)

/-- Clean or flush a line out of its home where the scope reaches behind it (R148). -/
def cleanLine (sc : Nat) (drop : Bool) (line : Nat) (s : State) : State :=
  let h := homeAt s line
  let deep := (isDevice (line * 128) && decide (4 ≤ sc)) || (isHost (line * 128) && decide (8 ≤ sc))
  if !deep then s else if drop then l2Drop s h line else l2Clean s h line

/-- `cclean` and `cflush` (R148): to the homes at scope 3, to the memory slices from 4 on, to the host from 8 on. Bundled
pages keep only current versions there (R138, R300). -/
def cleanRange (f : Fields) (drop : Bool) (s : State) : Out :=
  runMem [] (fun k st => do
    let r ← cleanChecks f drop st
    modify fun s => r.2.foldl (fun a p => cleanLine r.1 drop p.1 a) s
    finishMem k f.nx st id) s

/-- `cflush`. -/
def execCflush (f : Fields) (s : State) : Out := cleanRange f true s
/-- `cclean`. -/
def execCclean (f : Fields) (s : State) : Out := cleanRange f false s

/-- Everything `cpref` waits for and checks: its lines (R147, R149). -/
def prefChecks (f : Fields) (st : Strand) : M (List (Nat × Leaf)) := do
  let s ← get
  let r ← rangeOf s st f
  rangeLines (whoOf s st) (st.window f.m.toNat).toNat r.1 r.2

/-- Prefetch a line into its home's L2, as the coldest under `.est`: of a host line the slice of the core's cluster, unless another slice
holds it; a bundled line is an extent of its own; a peer's home is asked (R149, R282, R289). -/
def prefetchHome (f : Fields) (k : Nat) (st : Strand) (p : Nat × Leaf) (s : State) : State :=
  if isPeer (p.1 * 128) then
    { s with nextId := s.nextId + 1 } |> fun a => sendReq a { strandReq s k st s.nextId 0 p.1 false .load with cold := f.hint == 6 }
  else
    let h := homeBy p.1 st.core
    let s1 := if p.2.bun then { s with versions := s.versions.put p.1 (versionsOf s p.1) } else s
    if (otherHolder s h p.1).isSome then s else l2Fill s1 h p.1 (f.hint == 6)

/-- Prefetch lines into the L1 under the hint, a peer's too, or into the home L2, as the coldest under `.est`; nothing
on a page in host bias (R149, R288, R301, R454). A line that finds no room in its home is left out. -/
def prefetchLines (f : Fields) (k : Nat) (st : Strand) (ls : List (Nat × Leaf)) (s : State) : State :=
  let reach (l : Nat) : Bool := !isPeer (l * 128) || ((s.fn (whoOf s st).fn).domain != 0 && routeOk s (peerOf (l * 128)))
  let here := ls.filter fun p => reach p.1 && !hostBiased s p.1
  if f.cOp = 1 then
    here.foldl (fun a p => prefetchHome f k st p a) s
  else
    let ps := (here.filter fun p => !p.2.bun).map fun p => (⟨0, 0, 128, p.1 * 128, p.2.kind, false, 0, 0⟩ : Part)
    (fillReqs s k st s.nextId f.hint ps).foldl sendReq { s with nextId := s.nextId + 1 }

/-- `cpref` (R149). -/
def execCpref (f : Fields) (s : State) : Out :=
  runMem [] (fun k st => do
    let ls ← prefChecks f st
    modify (prefetchLines f k st ls)
    finishMem k f.nx st id) s

end Sys2Proof.Machine
end

