-- ==== Sys2Proof/Machine/VFloat.lean ====
section
/-!
DEFINITION. The vector class, conversions and floating point (R109 to R120), with the draws of stochastic rounding in
the order R52 and R120 give.
-/
namespace Sys2Proof.Machine

/-- A thread's result: its word, its generator after its draws, its flags. -/
structure Lane where
  word : Word
  gen  : Half
  fl   : Flags
  deriving DecidableEq, Repr

/-- The mode for one rounding and the generator after it (R52). -/
def drawMode (st : Strand) (m : Nat) (gen : Half) : Rm × Half :=
  if isRsr st m then let g := srNext gen; (.rsr g, g) else (modeOf st m 0, gen)

/-- Round elements from number `k` on, `n` of them, one draw each under RSR: their codes, the generator, the flags. -/
def roundElems (st : Strand) (m : Nat) (op : Nat → Rm → Nat × Flags) : Nat → Nat → Half → List Nat × Half × Flags
  | _, 0, g => ([], g, 0)
  | k, n + 1, g =>
    let d := drawMode st m g
    let r := op k d.1
    let rest := roundElems st m op (k + 1) n d.2
    (r.1 :: rest.1, rest.2.1, r.2 ||| rest.2.2)

/-- What the active threads' results give together (R113): inactive threads do not draw (R54). -/
def lanesOut (lane : State → Strand → Nat → Lane) (s : State) (st : Strand) : VOut :=
  let rs := (upto 32).map fun t => if activeIn st.em t then lane s st t else ⟨0, st.gen t, 0⟩
  { val := fun t => ((rs.getD t ⟨0, 0, 0⟩).word, false)
    gens := Vector.ofFn fun t => (rs.getD t.val ⟨0, 0, 0⟩).gen
    fl := rs.foldl (fun a r => a ||| r.fl) 0
    mask := none }

/-- A check of its own, then that of its operands' marks (R102). -/
def withMarks (os : List Opd) (check : State → Strand → Res Unit) (s : State) (st : Strand) : Res Unit := do
  check s st
  noMarks os s st

/-- Run an instruction given by each active thread's result (R102, R113). -/
def runLanes (f : Fields) (os : List Opd) (check : State → Strand → Res Unit)
    (lane : State → Strand → Nat → Lane) (s : State) : Out :=
  runVector f os (withMarks os check) (lanesOut lane) s

/-- No further check. -/
def noCheck (_ : State) (_ : Strand) : Res Unit := .ok ()

/-- A floating-point instruction on whole elements of T (R113, R115): `op` gives the exact value and its flags, from the
element values of the operands, and is told whether an exact zero sum is negative (RDN). -/
def floatLane (f : Fields) (op : Bool → Val → Val → Val → Val × Flags) (_ : State) (st : Strand) (t : Nat) : Lane :=
  let w := wideOf f.ty
  let rd := fun (o : Opd) (k : Nat) => w.value (elemCode f.ty (vread st f.ty 0 o t).1 k)
  let r := roundElems st f.m.toNat (fun k rm =>
    let v := op (rm == .rdn) (rd f.a k) (rd f.b k) (rd f.c k)
    let c := w.round false rm v.1
    (c.1, v.2 ||| c.2)) 0 f.ty.lanes (st.gen t)
  ⟨wordOf f.ty.width r.1, r.2.1, r.2.2⟩

/-- Run one. -/
def floatOp (f : Fields) (os : List Opd) (op : Bool → Val → Val → Val → Val × Flags) (s : State) : Out :=
  runLanes f os noCheck (floatLane f op) s

/-- `vfadd`. -/
def execVfadd (f : Fields) (s : State) : Out := floatOp f [f.a, f.b] (fun dn x y _ => Val.add dn x y) s
/-- `vfsub`. -/
def execVfsub (f : Fields) (s : State) : Out := floatOp f [f.a, f.b] (fun dn x y _ => Val.add dn x y.negate) s
/-- `vfmul`. -/
def execVfmul (f : Fields) (s : State) : Out := floatOp f [f.a, f.b] (fun _ x y _ => Val.mul x y) s
/-- `vfma`. -/
def execVfma (f : Fields) (s : State) : Out := floatOp f [f.a, f.b, f.c] Val.fma s
/-- `vfdiv`. -/
def execVfdiv (f : Fields) (s : State) : Out := floatOp f [f.a, f.b] (fun _ x y _ => Val.div x y) s
/-- `vfrcp` (R115). -/
def execVfrcp (f : Fields) (s : State) : Out := floatOp f [f.a] (fun _ x _ _ => Val.rcp x) s
/-- `vfrsq` (R115). -/
def execVfrsq (f : Fields) (s : State) : Out := floatOp f [f.a] (fun _ x _ _ => Val.rsqrt x) s
/-- `vfsqrt` (R115). -/
def execVfsqrt (f : Fields) (s : State) : Out := floatOp f [f.a] (fun _ x _ _ => Val.sqrt x) s
/-- `vfexp2` (R115). -/
def execVfexp2 (f : Fields) (s : State) : Out := floatOp f [f.a] (fun _ x _ _ => Val.exp2 x) s
/-- `vflog2` (R115). -/
def execVflog2 (f : Fields) (s : State) : Out := floatOp f [f.a] (fun _ x _ _ => Val.log2 x) s

/-- `vfscl`: x × 2^n with n an element of B read as a signed integer (R116). -/
def scaleLane (f : Fields) (_ : State) (st : Strand) (t : Nat) : Lane :=
  let w := wideOf f.ty
  let x := (vread st f.ty 0 f.a t).1
  let y := (vread st f.ty 0 f.b t).1
  let r := roundElems st f.m.toNat (fun k rm =>
    let v := (w.value (elemCode f.ty x k)).scale (signed f.ty.width (elemCode f.ty y k))
    let c := w.round false rm v.1
    (c.1, v.2 ||| c.2)) 0 f.ty.lanes (st.gen t)
  ⟨wordOf f.ty.width r.1, r.2.1, r.2.2⟩

/-- `vfscl`. -/
def execVfscl (f : Fields) (s : State) : Out := runLanes f [f.a, f.b] noCheck (scaleLane f) s

/-- `vfmin` and `vfmax`: no rounding and no draw (R114). -/
def minMaxLane (f : Fields) (wantMin : Bool) (_ : State) (st : Strand) (t : Nat) : Lane :=
  let w := wideOf f.ty
  let rs := (upto f.ty.lanes).map fun k =>
    let v := Val.minmax wantMin (w.value (elemCode f.ty (vread st f.ty 0 f.a t).1 k))
      (w.value (elemCode f.ty (vread st f.ty 0 f.b t).1 k))
    ((w.round false .rne (if v.1.isNan then .nan false else v.1)).1, v.2)
  ⟨wordOf f.ty.width (rs.map (·.1)), st.gen t, rs.foldl (fun a r => a ||| r.2) 0⟩

/-- `vfmin`. -/
def execVfmin (f : Fields) (s : State) : Out := runLanes f [f.a, f.b] noCheck (minMaxLane f true) s
/-- `vfmax`. -/
def execVfmax (f : Fields) (s : State) : Out := runLanes f [f.a, f.b] noCheck (minMaxLane f false) s

/-- The value of a float element. -/
def floatElem (t : Ty) (x : Word) (k : Nat) : Val := (wideOf t).value (elemCode t x k)

/-- `vfcmp` (R106). -/
def execVfcmp (f : Fields) (s : State) : Out :=
  runCompare f (fun x y k => condVal f.m.toNat (floatElem f.ty x k) (floatElem f.ty y k))
    (fun x y => (upto f.ty.lanes).foldl (fun a k =>
      a ||| condFlags f.m.toNat (floatElem f.ty x k) (floatElem f.ty y k)) 0) s

-- Conversions (R109 to R111)

/-- The exact value of an element of a type, wide, narrow or integer (R69). -/
def elemVal (t : Ty) (fmt : Half) (x : Word) (k : Nat) : Val :=
  if t == .x then (Narrow.ofReg fmt).value (elemCode t x k)
  else if t.isFloat then (wideOf t).value (elemCode t x k)
  else Val.ofInt (elemInt t x k)

/-- The place of element k of a conversion in the source and in the result (R109). -/
def convPlaces (ns nd p k : Nat) : Nat × Nat :=
  let n := min ns nd
  if nd ≤ ns then (p * n + k, k) else (k, p * n + k)

/-- Put codes at element positions, zero elsewhere. -/
def placeCodes (t : Ty) (l : List (Nat × Nat)) : Word :=
  elements t fun k => match l.find? (fun p => p.1 == k) with | some p => p.2 | none => 0

/-- A conversion of one part (R109): `conv` rounds a value; `draws` says that it rounds and so draws. -/
def convertLane (f : Fields) (src : Ty) (draws : Bool) (fmtD fmtS : State → Strand → Half)
    (conv : Half → Rm → Val → Nat × Flags) (s : State) (st : Strand) (t : Nat) : Lane :=
  let n := min src.lanes f.ty.lanes
  let x := (vread st f.ty (fmtD s st) f.a t).1
  let op := fun (k : Nat) (rm : Rm) => conv (fmtD s st) rm
    (elemVal src (fmtS s st) x (convPlaces src.lanes f.ty.lanes f.part k).1)
  let r := if draws then roundElems st f.m.toNat op 0 n (st.gen t)
    else ((upto n).map fun k => (op k .rne).1, st.gen t,
      (upto n).foldl (fun a k => a ||| (op k .rne).2) 0)
  let places := (upto n).map fun k => (convPlaces src.lanes f.ty.lanes f.part k).2
  ⟨placeCodes f.ty (places.zip r.1), r.2.1, r.2.2⟩

/-- The exact integer of an integral value. -/
def valInt : Val → Int
  | .fin s m e => scaled s m e 0
  | _ => 0

/-- `vcvt` (R110). -/
def cvtConv (f : Fields) (src : Ty) (_ : Half) (rm : Rm) (v : Val) : Nat × Flags :=
  if f.ty.isInt then
    if src.isInt then (reduceTy f.ty (f.fBit 0) (valInt v), 0) else toIntTy f.ty rm v
  else (wideOf f.ty).round (f.fBit 0) rm v

/-- One thread of `vcvt`. -/
def cvtLane (f : Fields) : State → Strand → Nat → Lane :=
  let src := f.srcTy.getD .i8
  convertLane f src (!(src.isInt && f.ty.isInt)) (fun _ _ => 0) (fun _ _ => 0) (cvtConv f src)

/-- `vcvt`. -/
def execVcvt (f : Fields) (s : State) : Out := runLanes f [f.a] noCheck (cvtLane f) s

/-- `vfcvt` (R111): format registers are read, and checked, for the `.x` side. -/
def fcvtCheck (f : Fields) (s : State) (st : Strand) : Res Unit := do
  if f.srcTy.getD .f == .x then checkFormat s st f.srcFmt
  if f.ty == .x then checkFormat s st (f.f.toNat / 4)

/-- Its conversion of one value. -/
def fcvtConv (f : Fields) (fmt : Half) (rm : Rm) (v : Val) : Nat × Flags :=
  if f.ty == .x then (Narrow.ofReg fmt).round rm v else (wideOf f.ty).round (f.fBit 0) rm v

/-- One thread of `vfcvt`. -/
def fcvtLane (f : Fields) : State → Strand → Nat → Lane :=
  convertLane f (f.srcTy.getD .f) true (fun s st => fmtReg s st (f.f.toNat / 4)) (fun s st => fmtReg s st f.srcFmt) (fcvtConv f)

/-- `vfcvt`. -/
def execVfcvt (f : Fields) (s : State) : Out := runLanes f [f.a] (fcvtCheck f) (fcvtLane f) s

-- The function table (R117)

/-- Entry i of a bank: V[i] and G[i] (R235). -/
def tableEntry (t : FnTable) (bank i : Nat) : Nat × Nat :=
  ((t.entries.getD (512 * bank + 2 * i) 0).toNat, (t.entries.getD (512 * bank + 2 * i + 1) 0).toNat)

/-- One element of `vftbl` (R117): the code, the flags, and whether it rounded. Where u is invalid without a signalling input (0 × ∞,
∞ − ∞), IV is raised as R50 has it, though R117 names it for a signalling input only (DESIGN CHOICE, log 44). -/
def tableElem (tab : FnTable) (x sc o : Val) (rm : Rm) : Nat × Flags × Bool :=
  let u := Val.fma (rm == .rdn) x sc o
  match u.1 with
  | .nan _ => (fp32.nanCode, u.2, false)
  | .inf s =>
    let r := fp32.round false .rne (fp32.value (tableEntry tab tab.active (if s then 0 else 255)).1)
    (r.1, u.2 ||| r.2, false)
  | .fin s m e =>
    let p := floorClamp s m e
    let vg := tableEntry tab tab.active p.1
    let y := Val.fma (rm == .rdn) (fp32.value vg.2) p.2 (fp32.value vg.1)
    let r := fp32.round false rm y.1
    (r.1, u.2 ||| y.2 ||| r.2, true)

/-- The two elements of a thread of `vftbl`: one that does not round draws nothing (R52). -/
def tableLane (st : Strand) (m : Nat) (tab : FnTable) (x sc o : Nat → Val) : Nat → Nat → Half → List Nat × Half × Flags
  | _, 0, g => ([], g, 0)
  | k, n + 1, g =>
    let d := drawMode st m g
    let r := tableElem tab (x k) (sc k) (o k) d.1
    let rest := tableLane st m tab x sc o (k + 1) n (if r.2.2 then d.2 else g)
    (r.1 :: rest.1, rest.2.1, r.2.1 ||| rest.2.2)

/-- One thread of `vftbl` (R117). -/
def ftblLane (f : Fields) (s : State) (st : Strand) (t : Nat) : Lane :=
  let rd := fun (o : Opd) (k : Nat) => fp32.value (elemCode .f (vread st .f 0 o t).1 k)
  let r := tableLane st f.m.toNat (s.core st.core).table (rd f.a) (rd f.b) (rd f.c) 0 2 (st.gen t)
  ⟨wordOf 32 r.1, r.2.1, r.2.2⟩

/-- `vftbl` (R117): without the function table it is an ILLEGAL CONTEXT before all else (R34, R235). -/
def execVftbl (f : Fields) (s : State) : Out :=
  inContext 0x12D 0 ([f.a, f.b, f.c].flatMap latchesOf) (runLanes f [f.a, f.b, f.c] noCheck (ftblLane f)) s

-- The expression instruction (R118 to R120)

/-- Evaluation of a postfix program: the stack, the generator, the flags. -/
structure ExprState where
  stack : List Val
  gen   : Half
  fl    : Flags
  deriving DecidableEq, Repr

/-- Round a value and push it (R118): one draw for each rounding token (R120). -/
def pushRounded (st : Strand) (m : Nat) (w : Wide) (op : Bool → Val × Flags) (rest : List Val) (e : ExprState) :
    ExprState :=
  let d := drawMode st m e.gen
  let v := op (d.1 == .rdn)
  let r := w.round false d.1 v.1
  ⟨w.value r.1 :: rest, d.2, e.fl ||| v.2 ||| r.2⟩

/-- One token (R118). A program that R119 refuses never runs. -/
def exprToken (st : Strand) (m : Nat) (w : Wide) (a b c : Val) (tok : Nat) (e : ExprState) : ExprState :=
  match tok, e.stack with
  | 1, k => { e with stack := a :: k }
  | 2, k => { e with stack := b :: k }
  | 3, k => { e with stack := c :: k }
  | 4, y :: x :: k => pushRounded st m w (fun dn => Val.add dn x y) k e
  | 5, y :: x :: k => pushRounded st m w (fun dn => Val.add dn x y.negate) k e
  | 6, y :: x :: k => pushRounded st m w (fun _ => Val.mul x y) k e
  | 7, z :: y :: x :: k => pushRounded st m w (fun dn => Val.fma dn x y z) k e
  | 8, y :: x :: k => let v := Val.minmax true x y; { e with stack := v.1 :: k, fl := e.fl ||| v.2 }
  | 9, y :: x :: k => let v := Val.minmax false x y; { e with stack := v.1 :: k, fl := e.fl ||| v.2 }
  | 10, x :: k => { e with stack := x.negate :: k }
  | 11, x :: k => { e with stack := x.magnitude :: k }
  | 12, x :: k => { e with stack := x :: x :: k }
  | 13, y :: x :: k => { e with stack := x :: y :: k }
  | 14, k => { e with stack := .fin false 0 0 :: k }
  | _, _ => e

/-- The elements of a thread of `vexpr`, in ascending order (R120). A signalling NaN that reaches the result through tokens that do not
round raises no IV: R120 gives flags to the tokens that round, R49 to any signalling input (DESIGN CHOICE, log 44). -/
def exprLane (st : Strand) (x : ExprFields) (a b c : Nat → Val) : Nat → Nat → Half → List Nat × Half × Flags
  | _, 0, g => ([], g, 0)
  | k, n + 1, g =>
    let w := wideOf x.w.ty
    let e := x.tokens.foldl (fun e t => exprToken st x.w.m.toNat w (a k) (b k) (c k) t e) ⟨[], g, 0⟩
    let v := e.stack.headD (.fin false 0 0)
    let code := (w.round false .rne (if v.isNan then .nan false else v)).1
    let rest := exprLane st x a b c (k + 1) n e.gen
    (code :: rest.1, rest.2.1, e.fl ||| rest.2.2)

/-- One thread of `vexpr`. -/
def exprThread (x : ExprFields) (st : Strand) (t : Nat) : Lane :=
  let f := x.w
  let rd := fun (o : Opd) (k : Nat) => floatElem f.ty (vread st f.ty 0 o t).1 k
  let r := exprLane st x (rd f.a) (rd f.b) (rd f.c) 0 f.ty.lanes (st.gen t)
  ⟨wordOf f.ty.width r.1, r.2.1, r.2.2⟩

/-- `vexpr`. An operand that no token pushes is canonical (R119). -/
def execVexpr (x : ExprFields) (s : State) : Out :=
  runLanes x.w [x.w.a, x.w.b, x.w.c] noCheck (fun _ st t => exprThread x st t) s

-- Compact aliases (R35, R36)

/-- Compact `vfadd`. -/
def execVfaddC (c : CFields) (s : State) : Out := execVfadd (c.expand 13) s
/-- Compact `vfsub`. -/
def execVfsubC (c : CFields) (s : State) : Out := execVfsub (c.expand 14) s
/-- Compact `vfmul`. -/
def execVfmulC (c : CFields) (s : State) : Out := execVfmul (c.expand 15) s

end Sys2Proof.Machine
end

