-- ==== Sys2Proof/Machine/System.lean ====
section
/-!
DEFINITION. The system class (R223 to R238): the plumb network, `trap`, `brk` and `tret`, the register map, the function
table, `sleep`; and the delivery of PREEMPT (R244 to R257).
-/
namespace Sys2Proof.Machine

-- The plumb network (R225 to R229)

/-- The level of a plumb instruction, and its tag. -/
def plumbLevel (f : Fields) : Nat := f.f.toNat / 8 % 4
/-- The tag. -/
def plumbTag (f : Fields) : Nat := f.f.toNat % 8

/-- The scope of a level (R225). -/
def plumbScope : Nat → Nat | 0 => 2 | 1 => 3 | 2 => 4 | _ => 6

/-- The block numbers of a block's group at a level (R174, R225). -/
def groupBids (g : Grid) (bid lvl : Nat) : List Nat :=
  let total := g.dims.1 * g.dims.2.1 * g.dims.2.2
  match lvl with
  | 0 => [bid]
  | 1 => rangeFrom (bid / g.cgroup * g.cgroup) g.cgroup
  | 2 => rangeFrom (bid / (g.cgroup * g.sgroup) * (g.cgroup * g.sgroup)) (g.cgroup * g.sgroup)
  | _ => upto total

/-- The number under which an arrival count is kept. -/
def plumbKey (bid sid tag lvl : Nat) : Nat := ((bid * 64 + sid) * 8 + tag) * 4 + lvl

/-- The participants of a tag at a level: for each strand of the group its count and whether it has ended (R226). A block
that is neither resident nor done has strands that have not arrived since their launch. -/
def participants (s : State) (gk : Nat) (bid tag lvl : Nat) : List (Nat × Bool) :=
  let g := s.grid gk
  (groupBids g bid lvl).flatMap fun b =>
    let blk := s.blocks.find? fun p => p.2.grid == gk && p.2.bid == b
    (upto g.strands).map fun i =>
      let ended := g.doneBids.contains b || (match blk with
        | some p => (match p.2.saved[i]? with
          | some st => st.ended
          | none => p.2.endedSids.contains i || (match p.2.strands[i]? with
            | some k => (match s.strand k with | some st => st.ended && p.2.onCore | none => false)
            | none => false))
        | none => false)
      (g.arrivals.getD (plumbKey b i tag lvl) 0, ended)

/-- The key of a group's tag at a level: that of its first block. -/
def phaseKey (g : Grid) (bid tag lvl : Nat) : Nat := plumbKey ((groupBids g bid lvl).headD 0) 0 tag lvl

/-- Whether a phase is complete (R226): every participant has arrived in it or has ended, or it was complete before a participant
was relaunched (R229). -/
def phaseComplete (s : State) (gk bid tag lvl p : Nat) : Bool :=
  decide (p < (s.grid gk).phases.getD (phaseKey (s.grid gk) bid tag lvl) 0)
    || (participants s gk bid tag lvl).all fun q => q.2 || decide (p < q.1)

/-- A block is to be relaunched (R229): its strands' counts are 0 again, and the phases of its groups that are complete stay so. -/
def relaunchCounts (s : State) (gk bid : Nat) : State :=
  let g := s.grid gk
  let keys := (upto 8).flatMap fun tag => (upto 4).map fun lvl => (tag, lvl)
  let phases := keys.foldl (fun (m : Map Nat) q =>
    let live := (participants s gk bid q.1 q.2).filter fun x => !x.2
    let n := (live.map (·.1)).foldl min ((live.map (·.1)).headD 0)
    let k := phaseKey g bid q.1 q.2
    if n = 0 then m else m.put k (max n (m.getD k 0))) g.phases
  s.updGrid gk fun x => { x with phases := phases, arrivals := x.arrivals.filter fun p => p.1 / (64 * 8 * 4) != bid }

/-- Tell the strands of a grid whose phase may have completed (R228). -/
def plumbNotify (s : State) (gk : Nat) : State :=
  (s.strands.filter fun p => p.2.wait == .plumb && !p.2.ended && (s.block p.2.blk).grid == gk).foldl
    (fun a p => a.send (.plumbPhaseComplete p.1)) s

/-- PLUMB_PHASE_COMPLETE (R228): the strand looks at its phase again. -/
def execPlumbPhaseComplete (strand : Nat) (s : State) : Out :=
  .next (s.updStrand strand fun st => wakeStrand st [.plumb])

/-- The checks of R225, and the cap rule's fault (R314). -/
def plumbChecks (s : State) (st : Strand) (f : Fields) : Res Unit := do
  let g := s.grid (gridKey s st)
  need (bitOf g.plumb (plumbTag f)) cIllegalContext
  need (plumbLevel f != 3 || g.cooperative) cIllegalContext
  need (!st.trapMode) cIllegalContext
  let fn := s.fn g.fn
  if fn.cap < plumbScope (plumbLevel f) ∧ fn.capFault = true then trapTo cPermission 0 else .ok ()

/-- A strand waits on a phase. -/
def plumbWait (k : Nat) (key : Nat) (p : Half) : M Unit := do
  modify fun s => s.updStrand k fun st => { st with plumbAt := some (key, p) }
  throw (.stop (.wait .plumb))

/-- Arrive (R226): wait while 2^16 phases ahead of the slowest, then count. The phase that was arrived at, modulo 2^32; the counts
are compared without their wrap-around (DEDUCED, log 25). -/
def plumbArrive (k : Nat) (st : Strand) (f : Fields) : M Half := do
  let s ← get
  let b := s.block st.blk
  let g := s.grid b.grid
  let key := plumbKey b.bid st.sid (plumbTag f) (plumbLevel f)
  let own := g.arrivals.getD key 0
  let ps := participants s b.grid b.bid (plumbTag f) (plumbLevel f)
  if ps.any fun q => !q.2 && decide (q.1 + 2 ^ 16 ≤ own) then
    plumbWait k key (BitVec.ofNat 32 own)
  liftRes (orderWaits st (some (plumbScope (plumbLevel f))) false)
  let _ ← capScope g.fn (plumbScope (plumbLevel f)) 0
  modify fun s => plumbNotify (s.updGrid b.grid fun x => { x with arrivals := x.arrivals.put key (own + 1) }) b.grid
  return BitVec.ofNat 32 own

/-- Wait for a phase (R226, R227), which lies less than 2^32 arrivals back: one before the strand's first arrival is complete. -/
def plumbAwait (k : Nat) (st : Strand) (f : Fields) (p : Half) : M Unit := do
  let s ← get
  let b := s.block st.blk
  let key := plumbKey b.bid st.sid (plumbTag f) (plumbLevel f)
  let own := (s.grid b.grid).arrivals.getD key 0
  let back := (BitVec.ofNat 32 own - p).toNat
  if decide (back ≤ own) && !phaseComplete s b.grid b.bid (plumbTag f) (plumbLevel f) (own - back) then plumbWait k key p

/-- `parr`. -/
def execParr (f : Fields) (s : State) : Out :=
  runMem [] (fun k st => do
    let s ← get
    liftRes (awaitRegs st [] [f.d.toNat])
    liftRes (plumbChecks s st f)
    let own ← plumbArrive k st f
    finishMem k f.nx st fun x => (x.setS f.d.toNat (own.setWidth 64) false)) s

/-- The checks of `pwait`: its phase, which must be one of the strand's own arrivals (R226, R227). -/
def pwaitChecks (f : Fields) (st : Strand) : M Half := do
  let s ← get
  liftRes (awaitRegs st [] (memRegs false [f.a]))
  liftRes (plumbChecks s st f)
  let a ← liftRes (uval s st .i8 f.a)
  let p : Half := a.setWidth 32
  let b := s.block st.blk
  let own := BitVec.ofNat 32 ((s.grid b.grid).arrivals.getD (plumbKey b.bid st.sid (plumbTag f) (plumbLevel f)) 0)
  if (own - p) = 0 ∨ 2 ^ 31 < (own - p).toNat then mtrapHere cIllegalField
  return p

/-- `pwait`: a phase outside the strand's own arrivals is an ILLEGAL FIELD. -/
def execPwait (f : Fields) (s : State) : Out :=
  runMem [] (fun k st => do
    let p ← pwaitChecks f st
    plumbAwait k st f p
    let s ← get
    let _ ← capScope (s.grid (s.block st.blk).grid).fn (plumbScope (plumbLevel f)) 0
    finishMem k f.nx st fun x => { x with plumbAt := none, viewOn := false }) s

/-- The arrival of a `pbar`, which is kept under its address (R251). -/
def pbarNew (k : Nat) (st : Strand) (f : Fields) : M Half := do
  let p ← plumbArrive k st f
  modify fun s => s.updStrand k fun x => { x with pbarKept := some (st.pc, p) }
  return p

/-- The phase of a `pbar`: an arrival that is made once although the instruction executes again (R226, R251). -/
def pbarArrive (k : Nat) (st : Strand) (f : Fields) : M Half := do
  let s ← get
  liftRes (awaitRegs st [] [f.d.toNat])
  liftRes (plumbChecks s st f)
  let p ← match st.pbarKept with
    | some p => if p.1 = st.pc then pure p.2 else pbarNew k st f
    | none => pbarNew k st f
  modify fun s => s.updStrand k fun x => x.setS f.d.toNat (p.setWidth 64) false
  return p

/-- `pbar`: an arrival, which is made once although the instruction executes again, then the wait on its phase. -/
def execPbar (f : Fields) (s : State) : Out :=
  runMem [] (fun k st => do
    let p ← pbarArrive k st f
    plumbAwait k st f p
    finishMem k f.nx st fun x => { x with plumbAt := none, pbarKept := none, viewOn := false }) s

-- Traps and the return (R230 to R232, R244 to R253)

/-- `trap` (R230): `tpc` is the address after it. -/
def execTrap (f : Fields) (s : State) : Out :=
  withActor s fun k st0 =>
    let st := endChain st0
    settle s k st false do
      awaitRegs st [] (memRegs false [f.a])
      let a ← uval s st .i8 f.a
      return enterTrap s k st.unkept cSoftwareTrap st.seq (BitVec.ofNat 64 (field a 0 32)) st.em

/-- `brk` (R231): `tpc` is its own address; bits [31:16] of the code must be 0. -/
def execBrk (f : Fields) (s : State) : Out :=
  withActor s fun k st0 =>
    let st := endChain st0
    settle s k st false do
      awaitRegs st [] (memRegs false [f.a])
      let a ← uval s st .i8 f.a
      need (field a 16 16 == 0) cIllegalField
      return enterTrap s k st.unkept cBreakpoint st.pc (BitVec.ofNat 64 (field a 0 16)) st.em

/-- A line of code that `tret` reads: of a peer's page the peer is asked, and the strand waits for its answer (R399). -/
def forkLine (st : Strand) (w : Who) (ga : Nat) : M (BitVec 512) := do
  let s ← get
  if isPeer ga then
    match st.answer with
    | some x => return BitVec.ofNat 512 (bits x (8 * (ga % 128)) 512)
    | none =>
      let dom := (s.fn w.fn).domain
      if st.peerNo.contains (ga / 65536) || dom == 0 || !routeOk s (peerOf ga) then mtrapHere cPermission
      let k := s.act.getD 0
      set (s.askPeer (peerOf ga) dom (fetchReq s k st (2 ^ 80) ga))
      mwait .answer
  else
    let c := codeLine s st.core ga
    set c.2
    return c.1

/-- The `fork` at an address, re-read as an instruction fetch (R91): its offsets, or the cause of the fault. -/
def rereadFork (st : Strand) (w : Who) (at_ : Int) : M (Nat × Nat) := do
  if at_ < 0 ∨ 2 ^ 64 ≤ at_ then mtrapHere cIllegalForkExit
  let a := at_.toNat
  if a % 4 ≠ 0 ∨ a % 64 = 0 ∨ (a % 64 - 4) % 12 ≠ 0 then mtrapHere cIllegalForkExit
  let base := alignDown 64 a
  let s ← get
  let r := translate s w ⟨false, true, .any⟩ (st.cwin.toNat * 2 ^ 64 + base)
  set r.2
  match r.1 with
  | .trap c => mtrap c (BitVec.ofNat 64 a)
  | .replay kind gpa table => throw (.park [⟨st.cwin.toNat, base, kind, gpa, table, false, true⟩])
  | .ok ga _ =>
    let l ← forkLine st w ga
    match lineFault l with
    | some c => mtrap c (BitVec.ofNat 64 base)
    | none =>
      match instrsAt l (a % 64) with
      | some ([(.ok (.fork f), _)], _) => return (f.ob.toNat, f.oj.toNat)
      | _ => mtrapHere cIllegalForkExit

/-- The deferred-region register that `tfk` restores (R91, R232). -/
def restoreFork (st : Strand) (w : Who) : M Fork := do
  match ForkPhase.ofCode (field st.tfk 32 3) with
  | none => mtrapHere cIllegalForkExit
  | some .none => return Fork.empty
  | some ph =>
    let at_ : Int := (st.tpc.toNat : Int) + 4 * signed 29 (field st.tfk 35 29)
    let o ← rereadFork st w at_
    return ⟨ph, wrap64 at_, o.1, o.2, BitVec.ofNat 32 (field st.tfk 0 32)⟩

/-- Set a strand aside (R253, R257): a release at device scope, and of all that it has sent farther too, since what has not
been acknowledged is not kept; it holds no lane, and its block may leave. -/
def setAside (k : Nat) (st : Strand) : M Unit := do
  liftRes (orderWaits st (some 9) false)
  let s ← get
  let fn := (whoOf s st).fn
  let x := s.fn fn
  set (if 6 ≤ x.cap then s else s.updFn fn fun y => { y with capCount := min 0xFFFFFFFF (y.capCount + 1) })
  modify fun s => ((s.setStrand k
    { endChain st with asideMark := true, saveEntry := false, lane := none, wait := .none }).emitStrand k st 0x16
      (pcBits st.tpc)).send (.blockLeave st.blk)

/-- The checks of `tret` outside a save entry, and what it restores the deferred-region register to (R91, R232, R248). -/
def tretChecks (st : Strand) : M Fork := do
  let s ← get
  let fork ← restoreFork st (whoOf s st)
  let n := if st.suspended then st.vretry else st.tpc
  if st.suspended && fork.phase != .none && outsideRegion fork n.toNat then mtrapHere cIllegalForkExit
  return fork

/-- The return from a trap (R232, R248): the deferred-region register, em within pm, the mode, and the address, which is that of a
suspended view's retry. A view that the handler itself has opened, none being suspended, stays open. -/
def tretDone (k : Nat) (st : Strand) (fork : Fork) (s : State) : State :=
  let n := if st.suspended then st.vretry else st.tpc
  (s.setStrand k
    { endChain st with
      fork := fork, em := (if st.suspended then st.vem else st.tem) &&& st.pm, trapMode := false
      suspended := false, viewOn := st.viewOn && !st.suspended, pc := n, arrival := .tret, undo := none, wild := false
      answer := none, peerOk := [], peerNo := [] }).emitStrand k st 0x14 (pcBits n)

/-- `tret` (R232). On the save entry of a PREEMPT the strand is set aside instead (R253). -/
def execTret (f : Fields) (s : State) : Out :=
  let _ := f
  runMem [] (fun k st => do
    if !st.trapMode then mtrapHere cIllegalContext
    if st.saveEntry then setAside k st
    else
      let fork ← tretChecks st
      modify (tretDone k st fork)) s

/-- Whether a strand waits before its instruction has had any effect, so that PREEMPT reaches it at once (R251). Inside a chain that
is only the wait for a register (R172). A question that is still unanswered is asked again: its answer then finds nobody; one whose
answer has come has had its effect, which the instruction ends. -/
def waitsBefore (s : State) (k : Nat) (st : Strand) : Bool :=
  st.answer.isNone && match st.wait with
  | .none => false
  | .line => false
  | .register => true
  | .parked => true
  | .bias => false
  | .table => st.chainPos == 0 && (s.core st.core).table.writing != some k
  | .array => st.chainPos == 0
    && match st.asyncOp.bind s.arrayOps.find with | some o => o.phase == .queued | none => true
  | _ => st.chainPos == 0

/-- Take a synchronous operation that has not started out of the array queue: it is issued again (R251). -/
def dropQueued (s : State) (st : Strand) : State :=
  match st.asyncOp with
  | none => s
  | some i => dropArrayOp s i

/-- PREEMPT_DELIVERY (R251): a strand that waits before its instruction has had any effect takes PREEMPT at once; any other
takes it at its next chain boundary, and a strand in trap mode after its `tret`. A sleeping strand's `sleep` is complete:
its selector is evaluated, and may end the strand (R238). -/
def execPreemptDelivery (strand : Nat) (s : State) : Out :=
  match s.strand strand with
  | none => .next s
  | some st =>
    if st.ended || st.asideMark then .next s
    else
      let st1 := { st with preempt := true }
      if st.trapMode || !waitsBefore s strand st then .next (s.setStrand strand st1)
      else if st.wait = .sleep then
        let s1 := retire s strand st1 st.pendNx 0 st.em
        match s1.strand strand with
        | some x => if x.ended || x.trapMode then .next s1 else .next (takePreempt s1 strand x x.pc)
        | none => .next s1
      else
        let s1 := takePreempt (dropQueued s st) strand { st1 with asyncOp := none } (restartPc st)
        .next (if st.wait = .trace then holdEnd s1 st.blk else s1)

-- Registers, the function table, sleep (R233 to R238)

/-- What `rgmap` reads (R233): the allocated registers, or the counts. -/
def rgmapValue (s : State) (st : Strand) (a : Word) : Word :=
  if a = 0 then BitVec.ofNat 64 (maskOf ((upto 64).filter fun i => (st.vreg i).isSome))
  else BitVec.ofNat 64 (st.physCount + st.ceil * 2 ^ 16 + freePool s st.core * 2 ^ 32)

/-- `rgmap` (R233). -/
def execRgmap (f : Fields) (s : State) : Out :=
  runPlain f.nx (f.d.toNat :: memRegs false [f.a]) (fun s _ st => do
    let a ← uval s st .i8 f.a
    need (a == 0 || a == 1) cIllegalField
    if st.flight.any fun p => p.2.vector then waitFor .data
    return (s, st.setS f.d.toNat (rgmapValue s st a) false)) s

/-- `rgfree` (R234). -/
def execRgfree (f : Fields) (s : State) : Out :=
  runPlain f.nx (memRegs false [f.a]) (fun s _ st => do
    let a ← uval s st .i8 f.a
    if st.flight.any fun p => p.2.vector && (a.getLsbD p.2.d || (p.2.pair && a.getLsbD (p.2.d + 1))) then waitFor .data
    return (s, freeRegs st (ones 64 a.toNat))) s

/-- Whether it is a strand's turn at the function table; otherwise it takes its place in the order of issue (R236, R237). -/
def tableTurn (k core : Nat) : M Unit := do
  let s ← get
  let t := (s.core core).table
  if t.writing.isSome || (t.waiting.head?.getD k) != k then
    set (s.updCore core fun c => { c with table := { c.table with waiting := addNew c.table.waiting k } })
    mwait .table

/-- The checks of `fnld`, and its turn: the scratchpad address of the 256 entries (R236). -/
def fnldChecks (f : Fields) (k : Nat) (st : Strand) : M Nat := do
  let s ← get
  if !ownsTable s st then mtrapHere cIllegalContext
  liftRes (awaitRegs st [] (memRegs false [f.a]))
  let a ← liftRes (uval s st .i8 f.a)
  let ad := field a 0 32
  let b := s.block st.blk
  if ad % 64 ≠ 0 then mtrap cAlignment (BitVec.ofNat 64 ad)
  if b.scratchSize < ad + 2048 then
    mtrap cScratchBounds (BitVec.ofNat 64 (if ad < b.scratchSize then b.scratchSize else ad))
  if scratchMarked b ad 2048 then
    modify (leaveTable k st.core)
    mtrapHere cPoison
  tableTurn k st.core
  return ad

/-- Load the inactive bank from the scratchpad, which takes 256 cycles (R236). -/
def fnldStart (f : Fields) (k : Nat) (st : Strand) (ad : Nat) (s : State) : State :=
  let b := s.block st.blk
  let s1 := s.updCore st.core fun c =>
    let base := 512 * (1 - c.table.active)
    { c with table := { c.table with
        entries := (upto 512).foldl (fun m i =>
          m.put (base + i) (BitVec.ofNat 32 (scratchRead b (ad + 4 * i) 4))) c.table.entries
        writing := some k
        waiting := c.table.waiting.filter (· != k) } }
  (s1.setStrand k { endChain st with wait := .table, lane := none, pendNx := f.nx, pair := .none }).after
    (cyclesToDatum 256) (.functionTableWriteDone st.core k)

/-- `fnld` (R236). -/
def execFnld (f : Fields) (s : State) : Out :=
  runMem [] (fun k st => do
    let ad ← fnldChecks f k st
    modify (fnldStart f k st ad)) s

/-- FUNCTION_TABLE_WRITE_DONE (R236): the strand goes on, and the next in the order may start. -/
def execFunctionTableWriteDone (core strand : Nat) (s : State) : Out :=
  if (s.core core).table.writing ≠ some strand then .next s
  else
    let s1 := tableNext (s.updCore core fun c => { c with table := { c.table with writing := none } }) core
    match s1.strand strand with
    | some st => if st.ended then .next s1 else .next (retire s1 strand st st.pendNx 0 st.em)
    | none => .next s1

/-- The checks of `fnswap`, and its turn (R237). -/
def fnswapChecks (f : Fields) (k : Nat) (st : Strand) : M Unit := do
  let s ← get
  if !ownsTable s st then mtrapHere cIllegalContext
  liftRes (awaitRegs st [] [f.d.toNat])
  tableTurn k st.core

/-- Make the other bank of a core's function table the active one (R237). -/
def swapBanks (k core : Nat) (s : State) : State :=
  tableNext (s.updCore core fun c =>
    { c with table := { c.table with active := 1 - c.table.active, waiting := c.table.waiting.filter (· != k) } }) core

/-- `fnswap` (R237). -/
def execFnswap (f : Fields) (s : State) : Out :=
  runMem [] (fun k st => do
    fnswapChecks f k st
    let s ← get
    modify (swapBanks k st.core)
    finishMem k f.nx st fun x => x.setS f.d.toNat (BitVec.ofNat 64 (1 - (s.core st.core).table.active)) false) s

/-- Put a strand to sleep for some cycles of the 600 MHz clock (R238). -/
def sleepFor (f : Fields) (k : Nat) (st : Strand) (c : Nat) (s : State) : State :=
  ({ s with nextId := s.nextId + 1 }.setStrand k
    { st with wait := .sleep, lane := none, pendNx := f.nx, sleepId := s.nextId, pair := .none }).after
    (cyclesToDatum c) (.sleepExpiry k s.nextId)

/-- `sleep` (R238): not ready for so many cycles; 0 gives up one issue opportunity. -/
def execSleep (f : Fields) (s : State) : Out :=
  withActor s fun k st0 =>
    let st := endChain st0
    settle s k st false do
      awaitRegs st [] (memRegs false [f.a])
      let a ← uval s st .i8 f.a
      if field a 0 32 = 0 then return retire s k { st with yielded := true } f.nx 0 st.em
      else return sleepFor f k st (field a 0 32) s

/-- SLEEP_EXPIRY (R238): the strand competes for a lane again. -/
def execSleepExpiry (strand acc : Nat) (s : State) : Out :=
  match s.strand strand with
  | some st =>
    if st.wait = .sleep ∧ st.sleepId = acc ∧ st.ended = false then .next (retire s strand st st.pendNx 0 st.em)
    else .next s
  | none => .next s

end Sys2Proof.Machine
end

