-- ==== Sys2Proof/Machine/Matrix.lean ====
section
/-!
DEFINITION. The matrix class (R181 to R201): claims and releases, formats and status, the issue of array operations, and
the events of the array queue.
-/
namespace Sys2Proof.Machine

-- Claims, releases, formats, status (R189 to R192)

/-- The slots, or the accumulators, of a core that satisfy a predicate on their owner, as a mask. -/
def itemMask (s : State) (core : Nat) (acc : Bool) (p : Option Nat → Bool) : Nat :=
  maskOf ((upto (if acc then 8 else 32)).filter fun n =>
    p (if acc then (s.acc core n).owner else (s.slot core n).owner))

/-- What a block holds. -/
def heldMask (s : State) (core blk : Nat) (acc : Bool) : Nat := itemMask s core acc (· == some blk)
/-- What no block holds. -/
def freeMask (s : State) (core : Nat) (acc : Bool) : Nat := itemMask s core acc (· == none)

/-- Give items to a block: they read as R183 says. -/
def acquireItems (s : State) (core blk : Nat) (acc : Bool) (m : Nat) : State :=
  (ones 32 m).foldl (fun a n =>
    if acc then a.updAcc core n fun _ => { Acc.free with owner := some blk }
    else a.updSlot core n fun _ => { Slot.free with owner := some blk }) s

/-- Take items from a block. -/
def releaseItems (s : State) (core blk : Nat) (acc : Bool) (m : Nat) : State :=
  (ones 32 (m &&& heldMask s core blk acc)).foldl (fun a n =>
    if acc then a.updAcc core n fun _ => .free else a.updSlot core n fun _ => .free) s

/-- The grant of a claim (R189). -/
def claimGrant (mode a held free : Nat) : Nat :=
  let lowest (l : List Nat) (per : Nat) : Nat :=
    let t := l.take a
    if t.length < a then 0 else maskOf (t.flatMap fun k => rangeFrom k per)
  match mode with
  | 0 => if (ones 32 a).all fun n => bitOf held n || bitOf free n then a else 0
  | 1 => a &&& (held ||| free)
  | 2 => lowest (ones 32 free) 1
  | _ => lowest ((ones 32 free).filter fun k => k % 2 == 0 && bitOf free (k + 1)) 2

/-- The checks of a claim, and its grant (R189). -/
def claimChecks (f : Fields) (acc : Bool) (st : Strand) : M Nat := do
  let s ← get
  liftRes (awaitRegs st [] (engRegs f true))
  let a ← liftRes (uval s st .i8 f.a)
  let mode := f.m.toNat
  let n := if acc then 8 else 32
  let req := if mode < 2 then field a 0 32 else a.toNat
  if mode < 2 then
    if acc && 256 ≤ a.toNat then mtrapHere cIllegalField
  else if a.toNat = 0 ∨ (if mode = 3 then 16 else n) < a.toNat then mtrapHere cIllegalField
  return claimGrant mode req (heldMask s st.core st.blk acc) (freeMask s st.core acc)

/-- Give a block what is granted to it and not held (R189). -/
def giveItems (st : Strand) (acc : Bool) (g : Nat) (s : State) : State :=
  acquireItems s st.core st.blk acc (g - (g &&& heldMask s st.core st.blk acc))

/-- `tclaim` and `aclaim` (R189). -/
def claim (f : Fields) (acc : Bool) (s : State) : Out :=
  runMem [] (fun k st => do
    let g ← claimChecks f acc st
    modify (giveItems st acc g)
    finishMem k f.nx st fun x => { x.setS (resOf f) (BitVec.ofNat 64 g) false with uc := g != 0 }) s

/-- `tclaim`. -/
def execTclaim (f : Fields) (s : State) : Out := claim f false s
/-- `aclaim`. -/
def execAclaim (f : Fields) (s : State) : Out := claim f true s

/-- The wait of a release for every earlier operation that names a released item, and the items (R187, R190). -/
def releaseChecks (f : Fields) (acc : Bool) (st : Strand) : M Nat := do
  let s ← get
  liftRes (awaitRegs st [] (engRegs f false))
  let a ← liftRes (uval s st .i8 f.a)
  let m := field a 0 (if acc then 8 else 32) &&& heldMask s st.core st.blk acc
  let ops := s.arrayOps.any fun p => p.2.blk == st.blk && (if acc then p.2.accs else p.2.slots) &&& m != 0
  let jobs := !acc && s.jobs.any fun p => p.2.blk == st.blk && jobSlots p.2.regions p.2.work false &&& m != 0
  if ops || jobs then mwait .array
  return m

/-- `trel` and `arel` (R187, R190). -/
def release (f : Fields) (acc : Bool) (s : State) : Out :=
  runMem [] (fun k st => do
    let m ← releaseChecks f acc st
    modify fun s => releaseItems s st.core st.blk acc m
    finishMem k f.nx st id) s

/-- `trel`. -/
def execTrel (f : Fields) (s : State) : Out := release f false s
/-- `arel`. -/
def execArel (f : Fields) (s : State) : Out := release f true s

/-- The value of `fmtset`, which must be a valid format (R57, R191). -/
def fmtsetChecks (f : Fields) (st : Strand) : M Half := do
  let s ← get
  liftRes (awaitRegs st [] (engRegs f false))
  let a ← liftRes (uval s st .i8 f.a)
  if !formatValid (a.setWidth 32 : Half) then mtrapHere cBadFormat
  return a.setWidth 32

/-- `fmtset` (R191). -/
def execFmtset (f : Fields) (s : State) : Out :=
  runMem [] (fun k st => do
    let v ← fmtsetChecks f st
    modify fun s => s.updBlock st.blk fun b => { b with fmt := b.fmt.setIfInBounds (f.f.toNat % 16) v }
    finishMem k f.nx st id) s

/-- The status word of an item (R192): operations that name it, FAULT and CAUSE, flags, marks, an assist. -/
def statusWord (s : State) (st : Strand) (acc : Bool) (n : Nat) : Nat :=
  let ops := (s.arrayOps.filter fun p => p.2.core == st.core && bitOf (if acc then p.2.accs else p.2.slots) n).length
  let jobs := if acc then 0 else
    (s.jobs.filter fun p => p.2.blk == st.blk && bitOf (jobSlots p.2.regions p.2.work true) n).length
  let q := ops + jobs
  let a := s.acc st.core n
  let x := s.slot st.core n
  let marked := if acc then a.cm.toList.any (· != 0) || a.mxm != 0 || a.smm != 0 else x.marks != 0
  min q 255 * 2 ^ 24 + (if acc then a.cause else x.cause) % 256 * 2 ^ 16
    + (if acc then a.flags.toNat * 16 else 0) + 8 * b2n (if acc then a.fault else x.fault) + 4 * b2n marked
    + 2 * b2n (acc && a.assist) + b2n (q != 0)

/-- What `tstat` reads for a selector, and what it clears (R192). -/
def tstatRead (s : State) (st : Strand) (sel : Nat) (clr : Bool) : Res (Nat × State) :=
  if sel = 0 then .ok (heldMask s st.core st.blk false, s)
  else if sel = 1 then .ok (heldMask s st.core st.blk true, s)
  else if sel = 2 then .ok (freeMask s st.core false, s)
  else if sel = 3 then .ok (freeMask s st.core true, s)
  else if 0x20 ≤ sel ∧ sel < 0x28 then
    if (s.acc st.core (sel - 0x20)).owner ≠ some st.blk then trapAt cSlotNotClaimed
    else .ok (statusWord s st true (sel - 0x20),
      if clr then s.updAcc st.core (sel - 0x20) fun x => { x with flags := 0, fault := false, cause := 0 } else s)
  else if 0x40 ≤ sel ∧ sel < 0x60 then
    if (s.slot st.core (sel - 0x40)).owner ≠ some st.blk then trapAt cSlotNotClaimed
    else .ok (statusWord s st false (sel - 0x40),
      if clr then s.updSlot st.core (sel - 0x40) fun x => { x with fault := false, cause := 0 } else s)
  else trapAt cIllegalField

/-- `tstat` (R192). -/
def execTstat (f : Fields) (s : State) : Out :=
  runMem [] (fun k st => do
    let s ← get
    liftRes (awaitRegs st [] (engRegs f true))
    let a ← liftRes (uval s st .i8 f.a)
    let r ← liftRes (tstatRead s st a.toNat (f.f.getLsbD 4))
    set r.2
    finishMem k f.nx st fun x => x.setS (resOf f) (BitVec.ofNat 64 r.1) false) s

-- Issue of array operations (R186, R188)

/-- SLOT NOT CLAIMED unless the block holds every named item (R183). -/
def needItems (s : State) (st : Strand) (slots accs : Nat) : Res Unit :=
  need (slots &&& heldMask s st.core st.blk false == slots && accs &&& heldMask s st.core st.blk true == accs)
    cSlotNotClaimed

/-- Where row i starts: base + i × stride, exactly (R132, R193). -/
def Rows.place (r : Rows) (i : Nat) : Int := r.base + i * r.stride

/-- The rows of a footprint: (offset, length), first to last. -/
def Rows.ranges (r : Rows) (n : Nat) : List (Int × Nat) := (upto n).map fun i => (r.place i, r.len)

/-- The issue-time check of a global footprint against its window's bounds (R188). -/
def checkWindow (ranges : List (Int × Nat)) : Res Unit :=
  match ranges.find? fun r => decide (r.1 < 0) || decide (2 ^ 64 < r.1 + (r.2 : Int)) with
  | some r => trapTo cWindowCrossing (wrap64 r.1)
  | none => .ok ()

/-- The issue-time checks of an array operation's global footprint (R188): the window's bounds, and bundled pages, whatever else stands in
the way of the access. -/
def checkFootprint (s0 : State) (st : Strand) (win : Nat) (ranges : List (Int × Nat)) : M Unit := do
  liftRes (checkWindow ranges)
  let w := { whoOf s0 st with core := none }
  let pages := (ranges.flatMap fun r => splitPages (r.2 / 65536 + 2) r.1.toNat r.2).foldl
    (fun (l : List (Nat × Nat)) p => if l.any fun q => q.1 / 65536 == p.1 / 65536 then l else l ++ [p]) []
  for p in pages do
    let s ← get
    let r := leafBun s w (win * 2 ^ 64 + p.1)
    set r.2
    if r.1 then mtrap cPermission (BitVec.ofNat 64 p.1)

/-- SCRATCH BOUNDS for a footprint in the scratchpad (R188). -/
def checkScratchRows (b : Block) (ranges : List (Int × Nat)) : Res Unit :=
  match ranges.find? fun r => decide ((b.scratchSize : Int) < r.1 + (r.2 : Int)) with
  | some r => trapTo cScratchBounds (outsideAt b.scratchSize r.1.toNat)
  | none => .ok ()

/-- Slot n, or with a 16-bit kind the pair it begins. -/
def slotOf (n kind : Nat) : Nat := if kind ≠ 0 ∧ n % 2 = 0 then 3 * 2 ^ n else 2 ^ n

/-- The number of an item from its array-state code (R28). -/
def itemOf (o : Opd) : Nat := o.spec.code

/-- The value of C, or FARG, in 32 bits. -/
def valueC (s : State) (st : Strand) (f : Fields) (farg : Option (BitVec 32)) : Res Nat :=
  match farg with
  | some x => .ok x.toNat
  | none => do let c ← uval s st .i8 f.c; return field c 0 32

/-- `mma`'s checks (R194). Which slots are needed is asked before KINDS has been checked: the reserved kind 3 counts as a pair, and of a
block that is misaligned or out of bounds KINDS counts as 0 (DESIGN CHOICE, log 22). -/
def prepMma (s : State) (st : Strand) (f : Fields) (farg : Option (BitVec 32)) : Res Prepared := do
  let b := s.block st.blk
  let c ← valueC s st f farg
  let readable := c % 32 == 0 && decide (c + 32 ≤ b.scratchSize)
  let kinds := if readable then scratchRead b (c + 3) 1 else 0
  let ta := itemOf f.a
  let tb := itemOf f.b
  let acc := f.d.toNat - 0x20
  let slots := slotOf ta (kinds % 4) ||| slotOf tb (kinds / 4 % 4)
  needItems s st slots (2 ^ acc)
  let fb ← readFmtBlock b c
  let odd (d : Desc) (n : Nat) : Bool := d.kind != 0 && n % 2 == 1
  need (!odd fb.a ta && !odd fb.b tb && (fb.a.kind == 0) == (fb.b.kind == 0)
    && (fb.a.len == 0 || fb.b.len == 0 || fb.a.len == fb.b.len)) cBadFormat
  return ⟨slots, 2 ^ acc, .mma fb ta tb acc (f.m.toNat == 1)⟩

/-- `mmas`'s checks (R197). -/
def prepMmas (s : State) (st : Strand) (f : Fields) (farg : Option (BitVec 32)) : Res Prepared := do
  let c ← valueC s st f farg
  let tp := f.d.toNat
  let sa := itemOf f.a - 0x20
  let ob := itemOf f.b - 0x20
  let slots := slotOf tp 1
  needItems s st slots (2 ^ sa ||| 2 ^ ob)
  let good := match fp32.value c with | .fin false m _ => m != 0 | _ => false
  need (tp % 2 == 0 && good) cBadFormat
  return ⟨slots, 2 ^ sa ||| 2 ^ ob, .mmas tp sa ob (BitVec.ofNat 32 c)⟩

/-- Wait while the core's array queue is full (R186): an operation that has started keeps its entry until it is complete (DESIGN CHOICE,
log 22). -/
def arrayRoom (st : Strand) : M Unit := do
  if 16 ≤ (arrayQueue (← get) st.core).length then mwait .array

/-- Enter an array operation (R186). Its number. -/
def putArray (k : Nat) (st : Strand) (code item win : Nat) (sync : Bool) (job : Option Nat) (p : Prepared) (s : State) :
    Nat × State :=
  let id := s.nextId
  let grid := (s.block st.blk).grid
  let o : ArrayOp :=
    { code := code, item := item, core := st.core, blk := st.blk, grid := grid, strand := k, slots := p.slots
      accs := p.accs, win := win, work := p.work, sync := sync, job := job
      edges := (slotWriters s st.blk p.slots).filter fun j => job != some j
      phase := .queued, pos := 0, seen := 0, rest := none, failed := none, port := .idle, acks := 0 }
  let s1 := countUp { s with nextId := id + 1, arrayOps := s.arrayOps.put id o } grid st.core
  let s2 := if sync || job.isSome then s1 else s1.updStrand k fun x => { x with pending := x.pending ++ [id] }
  (id, arrayPump s2 st.core)

/-- The issue of an array operation ends: the strand goes on, or waits for a synchronous form. -/
def arrayIssued (k : Nat) (f : Fields) (st : Strand) (sync : Bool) (r : Nat × State) : State :=
  if sync then
    match r.2.strand k with
    | some x => r.2.setStrand k
        { endChain x with wait := .array, lane := none, pendNx := f.nx, asyncOp := some r.1, pair := .none }
    | none => r.2
  else memRetire k f.nx st id r.2

/-- Enter an array operation when the queue has room for it, and go on or wait. -/
def enterArray (k : Nat) (f : Fields) (st : Strand) (code win : Nat) (sync : Bool) (p : Prepared) : M Unit := do
  arrayRoom st
  modify fun s => arrayIssued k f st sync (putArray k st code f.d.toNat win sync none p s)

/-- Issue an array operation whose checks need no memory. -/
def issueArray (f : Fields) (code : Nat) (os : List Opd) (prep : State → Strand → Res Prepared) (s : State) : Out :=
  runMem [] (fun k st => do
    let s ← get
    liftRes (awaitRegs st [] (os.flatMap sRegsOf))
    let p ← liftRes (prep s st)
    enterArray k f st code 0 false p) s

/-- `azero`'s check (R183). -/
def prepAzero (s : State) (st : Strand) (f : Fields) : Res Prepared := do
  let n := f.d.toNat - 0x20
  needItems s st 0 (2 ^ n)
  return ⟨0, 2 ^ n, .azero n⟩

/-- `mma`. -/
def execMma (f : Fields) (s : State) : Out := issueArray f 0x05 [f.c] (fun s st => prepMma s st f none) s
/-- `mmas`. -/
def execMmas (f : Fields) (s : State) : Out := issueArray f 0x06 [f.c] (fun s st => prepMmas s st f none) s
/-- `azero`. -/
def execAzero (f : Fields) (s : State) : Out := issueArray f 0x09 [] (fun s st => prepAzero s st f) s

/-- The row length of a tile in memory, from its type and format (R193): 64, 128 or 256. -/
def tileRow (s : State) (st : Strand) (f : Fields) : Nat × Nat × Nat :=
  if f.ty = .x then
    let w := (Narrow.ofReg (fmtReg s st (f.f.toNat % 16))).w
    (0, w, if w ≤ 4 then 64 else 128)
  else (1, 16, 256)

/-- The checks of `tld` and `tst` (R193): the operation, and its rows. The stride is read as R132 reads B. A form with
`.async` is a job, whose bundled pages end it (R210). -/
def tileChecks (f : Fields) (load : Bool) (st : Strand) : M (Prepared × Rows) := do
  let s ← get
  liftRes (awaitRegs st [] ([f.a, f.b].flatMap sRegsOf))
  let a ← liftRes (uval s st .n64 f.a)
  let b ← liftRes (uval s st .i64 f.b)
  let n := f.d.toNat
  let t := tileRow s st f
  liftRes (needItems s st (slotOf n t.1) 0)
  if f.ty = .x then liftRes (checkFormat s st (f.f.toNat % 16))
  if t.1 ≠ 0 ∧ n % 2 = 1 then mtrapHere cBadFormat
  if a.toNat % 16 ≠ 0 ∨ b.toNat % 16 ≠ 0 ∨ (!load && decide (b.toInt < t.2.2)) = true then mtrap cAlignment a
  let rows : Rows := ⟨a.toNat, b.toInt, t.2.2⟩
  if f.f.getLsbD 4 then liftRes (checkWindow (rows.ranges 128))
  else checkFootprint s st (st.window f.m.toNat).toNat (rows.ranges 128)
  liftRes (orderWaits st (some 2) false)
  return (⟨slotOf n t.1, 0, .tile load t.1 t.2.1 (f.f.getLsbD 5) n rows⟩, rows)

/-- The job of a tile move with `.async` (R193): its region, its work. -/
def tileJob (f : Fields) (load : Bool) (s : State) (st : Strand) (rows : Rows) : List (Option Region) × JobWork :=
  let t := tileRow s st f
  let win := (st.window f.m.toNat).toNat
  ([some ⟨0, rows.base, rows.len, win, load, !load, 128, rows.stride⟩, none, none, none],
    .tile load t.1 t.2.1 (f.f.getLsbD 5) f.d.toNat rows win)

/-- `tld` and `tst` (R193): by the array queue, or with `.async` by a job of the copy engine. -/
def tileMove (f : Fields) (load : Bool) (s : State) : Out :=
  runMem [] (fun k st => do
    let s ← get
    let p ← tileChecks f load st
    let code := if load then 0x03 else 0x04
    if f.f.getLsbD 4 then
      let j := tileJob f load s st p.2
      let _ ← issueJob k st (f.c.spec.code % 16) code j.1 j.2
      finishMem k f.nx st id
    else enterArray k f st code (st.window f.m.toNat).toNat true p.1) s

/-- `tld`. -/
def execTld (f : Fields) (s : State) : Out := tileMove f true s
/-- `tst`. -/
def execTst (f : Fields) (s : State) : Out := tileMove f false s

/-- The checks of `ard` (R198). -/
def ardChecks (f : Fields) (st : Strand) : M Prepared := do
  let s ← get
  liftRes (awaitRegs st [] ([f.a, f.b, f.c].flatMap sRegsOf))
  let a ← liftRes (uval s st .i8 f.a)
  let b ← liftRes (uval s st .i8 f.b)
  let c ← liftRes (valueC s st f none)
  let n := f.d.toNat - 0x20
  liftRes (needItems s st 0 (2 ^ n))
  let fb ← liftRes (readFmtBlock (s.block st.blk) c)
  let len := 16 * outBits fb
  if a.toNat % 16 ≠ 0 ∨ b.toNat % 16 ≠ 0 ∨ b.toInt < len then mtrap cAlignment a
  let rows : Rows := ⟨a.toNat, b.toInt, len⟩
  let sp := f.f.getLsbD 5
  if sp then liftRes (checkScratchRows (s.block st.blk) (rows.ranges 128))
  else checkFootprint s st (st.window f.m.toNat).toNat (rows.ranges 128)
  liftRes (orderWaits st (some 2) false)
  return ⟨0, 2 ^ n, .ard n fb (f.f.getLsbD 4) sp rows⟩

/-- `ard` (R198). -/
def execArd (f : Fields) (s : State) : Out :=
  runMem [] (fun k st => do
    let p ← ardChecks f st
    enterArray k f st 0x0A (st.window f.m.toNat).toNat false p) s

/-- The checks of `asave`, `aload`, `tsave` and `tload` (R199). -/
def imageChecks (f : Fields) (load acc : Bool) (st : Strand) : M Prepared := do
  let s ← get
  liftRes (awaitRegs st [] (sRegsOf f.a))
  let a ← liftRes (uval s st .i8 f.a)
  let n := if acc then f.d.toNat - 0x20 else f.d.toNat
  let m := 2 ^ n
  liftRes (needItems s st (if acc then 0 else m) (if acc then m else 0))
  if a.toNat % (if acc then 4096 else 256) ≠ 0 then mtrap cAlignment a
  checkFootprint s st (st.window f.m.toNat).toNat [(a.toNat, if acc then 0x11000 else 0x4100)]
  liftRes (orderWaits st (some 2) false)
  return ⟨if acc then 0 else m, if acc then m else 0, .image load acc n a.toNat⟩

/-- `asave`, `aload`, `tsave` and `tload` (R199). -/
def imageMove (f : Fields) (code : Nat) (load acc : Bool) (s : State) : Out :=
  runMem [] (fun k st => do
    let p ← imageChecks f load acc st
    enterArray k f st code (st.window f.m.toNat).toNat false p) s

/-- `asave`. -/
def execAsave (f : Fields) (s : State) : Out := imageMove f 0x0B false true s
/-- `aload`. -/
def execAload (f : Fields) (s : State) : Out := imageMove f 0x0C true true s
/-- `tsave`. -/
def execTsave (f : Fields) (s : State) : Out := imageMove f 0x0D false false s
/-- `tload`. -/
def execTload (f : Fields) (s : State) : Out := imageMove f 0x0E true false s

-- Moving rows (R193)

/-- The element of the slot that element c of memory row r is: (i, j) (R193). -/
def tilePlace (tr : Bool) (r c : Nat) : Nat × Nat := if tr then (c, r) else (r, c)

/-- Element c of a row as memory holds it (R60). -/
def rowElem (kind w : Nat) (bs : Array Byte) (c : Nat) : Nat :=
  let byte (i : Nat) : Nat := (bs.getD i 0).toNat
  if kind ≠ 0 then byte (2 * c) + 256 * byte (2 * c + 1)
  else if w ≤ 4 then byte (c / 2) / (if c % 2 = 0 then 1 else 16) % 2 ^ w
  else byte c % 2 ^ w

/-- The byte of a memory row that holds the first byte of element c (R60). -/
def elemByte (kind w c : Nat) : Nat := if kind ≠ 0 then 2 * c else if w ≤ 4 then c / 2 else c

/-- The offset in its slot or pair of element (i, j) (R181). -/
def slotByte (kind i j : Nat) : Nat := if kind = 0 then 128 * i + j else 256 * i + 2 * j

/-- Load memory row r into a slot: the slot lines that have received poisoned data, as a mask (R193, R200). -/
def loadRow (g : Eng) (core kind w : Nat) (tr : Bool) (slot : Nat) (rows : Rows) (win r : Nat) : E Nat := do
  let off := (rows.place r).toNat
  -- by units of a 128-B line, so that a poisoned line marks only what it fills
  let cuts := (linesOf off rows.len).map fun l => (max off (128 * l), min (off + rows.len) (128 * l + 128) - max off (128 * l))
  let parts ← cuts.mapM fun p => do
    let d ← engRead g win p.1 p.2
    return (p.1 - off, p.2, d)
  let bs : Array Byte := (parts.flatMap fun p => p.2.2.1).toArray
  let bad (i : Nat) : Bool := parts.any fun p => p.2.2.2 && decide (p.1 ≤ i) && decide (i < p.1 + p.2.1)
  let writes := (upto 128).map fun c =>
    let ij := tilePlace tr r c
    (slotByte kind ij.1 ij.2, rowElem kind w bs c, bad (elemByte kind w c))
  modify fun s =>
    if tr then writes.foldl (fun a x => slotWrite a core slot x.1 (toBytes (if kind = 0 then 1 else 2) x.2.1) x.2.2) s
    else
      let len := if kind = 0 then 128 else 256
      let all := writes.flatMap fun x => toBytes (if kind = 0 then 1 else 2) x.2.1
      (upto (len / 128)).foldl (fun a h =>
        slotWrite a core slot (len * r + 128 * h) ((all.drop (128 * h)).take 128)
          (writes.any fun x => x.2.2 && x.1 / 128 == (len * r + 128 * h) / 128)) s
  return maskOf ((writes.filter fun x => x.2.2).map fun x => x.1 / 128)

/-- End a transposed load: every line has been filled, so a line that received no poisoned data is clean (R200). -/
def endTranspose (s : State) (core kind slot seen : Nat) : State :=
  (upto (if kind = 0 then 128 else 256)).foldl (fun a l =>
    a.updSlot core (slot + l / 128) fun x => { x with marks := setMark x.marks (l % 128) (bitOf seen l) }) s

/-- Write a row's bytes in units of 128 B (R188, R193): those before a failure stand. The units are counted from the row's first byte,
which the rule does not say (DESIGN CHOICE, log 22). -/
def storeUnits (g : Eng) (win off : Nat) (bs : List Byte) (mark : Nat → Bool) : E Unit := do
  for u in upto ((bs.length + 127) / 128) do
    engWrite g win (off + 128 * u) ((bs.drop (128 * u)).take 128) fun i => mark (128 * u + i)

/-- Store memory row r from a slot (R193). -/
def storeRow (g : Eng) (core kind w : Nat) (tr : Bool) (slot : Nat) (rows : Rows) (win r : Nat) : E Unit := do
  let s ← get
  let elems := (upto 128).map fun c =>
    let ij := tilePlace tr r c
    let o := slotByte kind ij.1 ij.2
    let x := slotRead s core slot o (if kind = 0 then 1 else 2)
    (ofBytes x.1, x.2)
  let bits := if kind ≠ 0 then 16 else if w ≤ 4 then 4 else 8
  let bs := packRow bits (elems.map fun e => if kind = 0 then e.1 % 2 ^ w else e.1)
  let marks := (elems.map (·.2)).toArray
  storeUnits g win (rows.place r).toNat bs fun i =>
    (upto 128).any fun c => marks.getD c false && decide (c * bits < 8 * (i + 1)) && decide (8 * i < (c + 1) * bits)

-- Images (R199)

/-- The bytes of an accumulator image. -/
def accImage (a : Acc) : List Byte :=
  ((upto 128).flatMap fun i => (upto 128).flatMap fun j => toBytes 4 (a.elem i j).toNat)
  ++ ((upto 128).flatMap fun i => toBytes 4 (a.mxAt i).toNat) ++ ((upto 128).flatMap fun i => toBytes 4 (a.smAt i).toNat)
  ++ ((upto 128).flatMap fun i => toBytes 16 (a.rowMarks i).toNat) ++ toBytes 16 a.mxm.toNat ++ toBytes 16 a.smm.toNat
  ++ toBytes 1 a.flags.toNat ++ List.replicate 0x3DF 0

/-- The bytes of a slot image. -/
def slotImage (x : Slot) : List Byte :=
  ((upto 128).flatMap fun i => toBytes 128 (x.line i).toNat) ++ toBytes 16 x.marks.toNat ++ List.replicate 0xF0 0

/-- A number of `n` bytes at an offset of an image. -/
def imageAt (bs : Array Byte) (o n : Nat) : Nat := ofBytes ((rangeFrom o n).map fun i => bs.getD i 0)

/-- The accumulator that an image restores: its marks are the image's, and those of the poisoned lines it was read from. -/
def accOfImage (owner : Option Nat) (bs : Array Byte) (bad : Nat → Bool) : Acc :=
  { owner := owner
    c := Vector.ofFn fun i => Vector.ofFn fun j => BitVec.ofNat 32 (imageAt bs (512 * i.val + 4 * j.val) 4)
    cm := Vector.ofFn fun i =>
      if bad (0x10400 + 16 * i.val) then BitVec.allOnes 128
      else BitVec.ofNat 128 (imageAt bs (0x10400 + 16 * i.val) 16) ||| mask128 fun j => bad (512 * i.val + 4 * j)
    mx := Vector.ofFn fun i => BitVec.ofNat 32 (imageAt bs (0x10000 + 4 * i.val) 4)
    sm := Vector.ofFn fun i => BitVec.ofNat 32 (imageAt bs (0x10200 + 4 * i.val) 4)
    mxm := if bad 0x10C00 then BitVec.allOnes 128
      else BitVec.ofNat 128 (imageAt bs 0x10C00 16) ||| mask128 fun i => bad (0x10000 + 4 * i)
    smm := if bad 0x10C10 then BitVec.allOnes 128
      else BitVec.ofNat 128 (imageAt bs 0x10C10 16) ||| mask128 fun i => bad (0x10200 + 4 * i)
    flags := BitVec.ofNat 5 (imageAt bs 0x10C20 1), fault := false, cause := 0, assist := false }

/-- The slot that an image restores. -/
def slotOfImage (owner : Option Nat) (bs : Array Byte) (bad : Nat → Bool) : Slot :=
  { owner := owner
    lines := Vector.ofFn fun i => BitVec.ofNat 1024 (imageAt bs (128 * i.val) 128)
    marks := if bad 0x4000 then BitVec.allOnes 128
      else BitVec.ofNat 128 (imageAt bs 0x4000 16) ||| mask128 fun i => bad (128 * i)
    fault := false, cause := 0 }

/-- Move an image. -/
def moveImage (g : Eng) (core win : Nat) (load acc : Bool) (n base : Nat) : E Unit := do
  let s ← get
  let size := if acc then 0x11000 else 0x4100
  if load then
    let ls ← (upto (size / 128)).mapM fun u => engRead g win (base + 128 * u) 128
    let bs : Array Byte := (ls.flatMap (·.1)).toArray
    let marks := (ls.map (·.2)).toArray
    let bad (o : Nat) : Bool := marks.getD (o / 128) false
    modify fun s =>
      if acc then s.updAcc core n fun a => accOfImage a.owner bs bad
      else s.updSlot core n fun x => slotOfImage x.owner bs bad
  else storeUnits g win base (if acc then accImage (s.acc core n) else slotImage (s.slot core n)) fun _ => false

-- The array's events

/-- Cycles that an operation occupies the array (R196). -/
def arrayCycles : ArrayWork → Nat
  | .mma fb _ _ _ _ =>
    if fb.a.kind ≠ 0 then 128
    else if (Narrow.ofReg fb.a.fmt).w ≤ 4 ∧ (Narrow.ofReg fb.b.fmt).w ≤ 4 then 32 else 64
  | .mmas .. => 48
  | .azero _ => 8
  | .ard .. => 128
  | .image _ acc _ _ => if acc then 140 else 32
  | .tile .. => 0

/-- The payload of an array operation's records (R340). -/
def ArrayOp.payload (o : ArrayOp) : Nat := o.item * 256 + o.code

/-- Emit a record of an array operation. -/
def emitArray (s : State) (o : ArrayOp) (code ucls : Nat) : State :=
  s.emit (s.grid o.grid).fn (if ucls = 7 then sliceSrc (o.core / 8) 7 else coreSrc o.core ucls) code o.payload

/-- The context of an array operation's accesses. -/
def arrayEng (s : State) (id : Nat) (o : ArrayOp) : Eng := ⟨engWho s o.grid o.core, .arrayOp id, o.port, o.grid, o.core⟩

/-- An operation has done its work: it completes when its cycles have passed (R196). -/
def arrayEnd (s : State) (id : Nat) (o : ArrayOp) (failed : Option (Nat × Nat)) : State :=
  (s.updArray id fun x => { x with failed := failed, port := .idle, phase := .finished }).after (cyclesToDatum (arrayCycles o.work))
    (.arrayOpComplete id)

/-- Take the next memory step of an operation: `last` says that it is the last one. -/
def arrayStep (s : State) (id : Nat) (o : ArrayOp) (last : Bool) (x : E Nat) : State :=
  let hold (parked : Bool) (p : Port) (s : State) : State :=
    s.updArray id fun y => { y with phase := if parked then .parked else .running, port := p }
  match engRun (arrayEng s id o) (.arrayOpStart id) hold x s with
  | (.done m, s1) =>
    let s2 := s1.updArray id fun y => { y with pos := y.pos + 1, seen := y.seen ||| m, port := .idle }
    if last then
      arrayEnd (match o.work with
        | .tile true kind _ true slot _ => endTranspose s2 o.core kind slot (o.seen ||| m)
        | _ => s2) id o none
    else s2.post (.arrayOpStart id)
  | (.fault c off, s1) => arrayEnd s1 id o (some (c, off))
  | (.later, s1) => s1

/-- Read an accumulator out, row i (R198). -/
def readRow (g : Eng) (core blk acc : Nat) (fb : FmtBlock) (norm sp : Bool) (rows : Rows) (win i : Nat) : E Nat := do
  let s ← get
  let r := readOut (s.acc core acc) fb norm i
  let off := (rows.place i).toNat
  let bits := outBits fb
  let mark (p : Nat) : Bool := (upto 128).any fun j =>
    r.2.1.getLsbD j && decide (j * bits < 8 * (p + 1)) && decide (8 * p < (j + 1) * bits)
  if sp then
    modify fun s => (linesOf off r.1.length).foldl (fun a l =>
      let lo := max off (128 * l)
      let mine := (r.1.drop (lo - off)).take (min (off + r.1.length) (128 * l + 128) - lo)
      a.updBlock blk fun b => scratchWrite b lo mine ((rangeFrom (lo - off) mine.length).any mark)) s
  else storeUnits g win off r.1 mark
  modify fun s => s.updAcc core acc fun a => { a with flags := a.flags ||| r.2.2 }
  return 0

/-- An `mma` whose step would round to a subnormal at group n (R201): the groups before n stand, and the control core has the
rest, which it computes from what the operation has read. -/
def assistBegin (s : State) (id : Nat) (o : ArrayOp) (fb : FmtBlock) (ta tb acc n : Nat) (ovr : Bool)
    (t : Vector (Vector (List (Half × Flags)) 128) 128) : State :=
  let s1 := s.updAcc o.core acc fun a => { mmaPut a t n with assist := true }
  let r := mmaTable s1 o fb ta tb acc n ovr
  let rest := mmaMarks fb r.2 (mmaPut { s1.acc o.core acc with flags := 0 } r.1 (128 / groupLen fb - n))
  holdBegin ((emitArray (s1.updArray id fun x => { x with phase := .assist n, rest := some rest }) o 0x22 1).post
    (.subnormalAssistDone id)) o.blk

/-- Do an operation's work, or its next row (R193 to R201). -/
def arrayWork (s : State) (id : Nat) (o : ArrayOp) : State :=
  let g := arrayEng s id o
  match o.work with
  | .tile load kind w tr slot rows =>
    arrayStep s id o (o.pos == 127)
      (if load then loadRow g o.core kind w tr slot rows o.win o.pos
       else do storeRow g o.core kind w tr slot rows o.win o.pos; return 0)
  | .ard acc fb norm sp rows =>
    arrayStep s id o (o.pos == 127) (readRow g o.core o.blk acc fb norm sp rows o.win o.pos)
  | .image load acc n base => arrayStep s id o true (do moveImage g o.core o.win load acc n base; return 0)
  | .azero acc =>
    arrayEnd (s.updAcc o.core acc fun a =>
      { Acc.free with owner := a.owner, fault := a.fault, cause := a.cause }) id o none
  | .mmas tp sa ob c => arrayEnd (mmasRun s o.core tp sa ob c) id o none
  | .mma fb ta tb acc ovr =>
    let t := mmaTable s o fb ta tb acc 0 ovr
    match assistGroup t.1 with
    | none =>
      arrayEnd (s.updAcc o.core acc fun a => mmaMarks fb t.2 (mmaPut a t.1 (128 / groupLen fb))) id o none
    | some n => assistBegin s id o fb ta tb acc n ovr t.1

/-- Whether an operation of a core's array queue is at work (R186). -/
def arrayBusy (s : State) (core : Nat) : Bool :=
  (arrayQueue s core).any fun p => p.2.atWork

/-- A queued operation starts (R186). -/
def arrayBegin (s : State) (op : Nat) (o : ArrayOp) : State :=
  arrayWork (emitArray (s.updArray op fun x => { x with phase := .running }) o 0x20 1) op { o with phase := .running }

/-- ARRAY_OP_START (R186): the operation that may start does; one under way goes on with its next row. -/
def execArrayOpStart (op : Nat) (s : State) : Out :=
  match s.arrayOps.find op with
  | none => .next s
  | some o =>
    match o.phase with
    | .assist _ => .next s
    | .finished => .next s
    | .settling => .next s
    | .parked => .next (arrayWork (s.updArray op fun x => { x with phase := .running }) op { o with phase := .running })
    | .running => if o.port.waiting then .next s else .next (arrayWork s op o)
    | .queued =>
      if arrayBusy s o.core || nextArray s 0 0 false (arrayQueue s o.core) != some op then .next s
      else .next (arrayBegin s op o)

/-- The groups that an assist has computed enter the accumulator, and the operation goes on to its end (R201). -/
def assistDone (s : State) (op : Nat) (o : ArrayOp) (acc : Nat) : State :=
  let s1 := s.updAcc o.core acc fun a =>
    let r := o.rest.getD a
    { a with c := r.c, cm := r.cm, mxm := r.mxm, smm := r.smm, flags := a.flags ||| r.flags, assist := false }
  let s2 := holdEnd (s1.updArray op fun x => { x with phase := .finished }) o.blk
  (emitArray s2 o 0x23 7).send (.arrayOpComplete op)

/-- SUBNORMAL_ASSIST_DONE (R201): the control core has computed the groups that were left, with full subnormals. -/
def execSubnormalAssistDone (op : Nat) (s : State) : Out :=
  match s.arrayOps.find op with
  | none => .next s
  | some o =>
    match o.phase, o.work with
    | .assist _, .mma _ _ _ acc _ => .next (assistDone s op o acc)
    | _, _ => .next s

/-- The strand of a synchronous form goes on, or takes the fault (R186, R188). -/
def endSync (s : State) (o : ArrayOp) (id : Nat) : State :=
  match s.strand o.strand with
  | none => s
  | some st =>
    if st.asyncOp ≠ some id ∨ st.ended = true then s
    else
      let st1 := { st with asyncOp := none, wait := .none }
      match o.failed with
      | some (c, off) => takeFault s o.strand st1 false c (BitVec.ofNat 64 off)
      | none => retire s o.strand st1 st1.pendNx 0 st1.em

/-- The item of an operation that failed holds FAULT and the cause, but for a synchronous form, whose strand faults (R188). -/
def itemFault (o : ArrayOp) (s : State) : State :=
  match o.failed with
  | some (c, _) =>
    if o.sync then s
    else if 0x20 ≤ o.item then s.updAcc o.core (o.item - 0x20) fun a => { a with fault := true, cause := c }
    else s.updSlot o.core o.item fun a => { a with fault := true, cause := c }
  | none => s

/-- An operation leaves the queue, and what waits for it goes on (R186, R188). -/
def arrayDone (s : State) (op : Nat) (o : ArrayOp) : State :=
  let s1 := endSync (itemFault o (emitArray { s with arrayOps := s.arrayOps.del op } o 0x21 1)) o op
  let s2 := match o.job with
    | some j => endJob s1 j 1 0
    | none => s1
  noteWork (jobPump (wakeArray (wakeBlock (countDown s2 o.grid o.core) o.blk) o.core) o.blk) o.blk

/-- ARRAY_OP_COMPLETE (R186, R188): the operation leaves the queue, once its stores have been acknowledged (R317, R323); a failure is
recorded with its item, or raised in the strand that waits. -/
def execArrayOpComplete (op : Nat) (s : State) : Out :=
  match s.arrayOps.find op with
  | none => .next s
  | some o =>
    if o.acks = 0 then .next (arrayDone s op o) else .next (s.updArray op fun x => { x with phase := .settling })

end Sys2Proof.Machine
end

