-- ==== Sys2Proof/Machine/Rows.lean ====
section
/-!
DEFINITION. Row instructions (R350 to R358): names and masks, acceptance by the BSUs, and what each BSU does.
-/
namespace Sys2Proof.Machine

-- BSUs

/-- The number of BSU k of a slice. -/
def bsuKey (slice k : Nat) : Nat := 16 * slice + k
/-- BSU k of a slice. -/
def State.bsu (s : State) (slice k : Nat) : Bsu := s.bsus.getD (bsuKey slice k) .zero
/-- Change BSU k of a slice. -/
def State.updBsu (s : State) (slice k : Nat) (f : Bsu → Bsu) : State :=
  { s with bsus := s.bsus.updD (bsuKey slice k) .zero f }

/-- Row register r of a BSU, by its lines. -/
def Bsu.row (b : Bsu) (r : Nat) : Vector Line 8 := b.rw.toArray.getD r (Vector.replicate 8 0)
/-- The marks of row register r. -/
def Bsu.rowMark (b : Bsu) (r : Nat) : BitVec 8 := b.rwm.toArray.getD r 0
/-- Write row register r. -/
def Bsu.setRow (b : Bsu) (r : Nat) (x : Vector Line 8) (m : BitVec 8) : Bsu :=
  { b with rw := b.rw.setIfInBounds r x, rwm := b.rwm.setIfInBounds r m }
/-- Line i of a row register's lines. -/
def bsuLine (x : Vector Line 8) (i : Nat) : Line := x.toArray.getD i 0
/-- Element e of a row register, of a width that divides a line. -/
def bsuElem (x : Vector Line 8) (w e : Nat) : Nat := field (bsuLine x (w * e / 1024)) (w * e % 1024) w
/-- A row register from its elements' codes. -/
def rowOfElems (w : Nat) (f : Nat → Nat) : Vector Line 8 :=
  Vector.ofFn fun i => BitVec.ofNat 1024 (packCodes w ((upto (1024 / w)).map fun j => f (i.val * (1024 / w) + j)))
/-- Line i of the vector buffer. -/
def Bsu.vbLine (b : Bsu) (i : Nat) : Line := b.vb.toArray.getD i 0
/-- Accumulator n. -/
def Bsu.accAt (b : Bsu) (n : Nat) : Half := b.ba.toArray.getD n 0

-- Fields of the selector literal (R355)

/-- RD. -/
def RowOp.rd (o : RowOp) : Nat := bits o.sel 0 3
/-- RA. -/
def RowOp.ra (o : RowOp) : Nat := bits o.sel 4 3
/-- RB. -/
def RowOp.rb (o : RowOp) : Nat := bits o.sel 8 3
/-- RC. -/
def RowOp.rc (o : RowOp) : Nat := bits o.sel 12 3
/-- ACC. -/
def RowOp.acc (o : RowOp) : Nat := bits o.sel 16 6
/-- PARAM. -/
def RowOp.param (o : RowOp) : Nat := bits o.sel 24 8

-- What a BSU computes (R356)

/-- One element of `radd`, `rmul`, `rmax` or `rfma`. -/
def bsuOp (o : RowOp) (x y z : Nat) : Nat × Flags :=
  let t := o.ty
  if t.isInt then
    let v (c : Nat) : Int := if t.isSigned then signed t.width c else c
    (reduceTy t o.f0 (match o.op with | 0x603 => v x + v y | 0x604 => v x * v y | _ => maxInt (v x) (v y)), 0)
  else
    let w := wideOf t
    let a := w.value x
    let b := w.value y
    let r := match o.op with
      | 0x603 => Val.add false a b
      | 0x604 => Val.mul a b
      | 0x605 => Val.fma false a b (w.value z)
      | _ => Val.minmax false a b
    let q := w.round false .rne (if r.1.isNan then .nan false else r.1)
    (q.1, if o.op = 0x606 then r.2 else r.2 ||| q.2)

/-- A conversion of one element (R109 to R111), RNE. -/
def bsuConv (o : RowOp) (src : Ty) (c : Nat) : Nat × Flags :=
  let t := o.ty
  let v : Val := if src.isFloat then (wideOf src).value c
    else Val.ofInt (if src.isSigned then signed src.width c else c)
  if t.isInt then (if src.isInt then (reduceTy t o.f0 (valInt v), 0) else toIntTy t .rne v)
  else (wideOf t).round o.f0 .rne v

/-- The flags of all elements together. -/
def orFlags (l : List Flags) : Flags := l.foldl (fun a f => a ||| f) 0

/-- An FP32 accumulator after the groups of 32 products of two lists (R64). -/
def rowDot (init : Half) (xs ys : List Val) : Half × Flags :=
  let one : Val := .fin false 1 0
  (upto (xs.length / 32)).foldl (fun (a : Half × Flags) g =>
    let v := groupVal (groupOf xs g 32) (groupOf ys g 32) [] one one
    let r := addGroup a.1 v
    (r.1, a.2 ||| r.2)) (init, 0)

/-- A BSU, the flags an instruction raised in it, and whether it marked anything. -/
abbrev BsuOut := Bsu × Flags × Bool

/-- `radd`, `rmul`, `rmax`, `rfma`: line i of the result is marked when line i of a source is. -/
def bsuArith (o : RowOp) (b : Bsu) : BsuOut :=
  let w := o.ty.width
  let x := b.row o.ra
  let y := b.row o.rb
  let z := b.row o.rc
  let rs := (Vector.ofFn fun (e : Fin (8192 / w)) => bsuOp o (bsuElem x w e) (bsuElem y w e) (bsuElem z w e)).toArray
  let m := b.rowMark o.ra ||| b.rowMark o.rb ||| (if o.op = 0x605 then b.rowMark o.rc else 0)
  (b.setRow o.rd (rowOfElems w fun e => (rs.getD e (0, 0)).1) m, orFlags (rs.toList.map (·.2)), m != 0)

/-- `rcvt`: as R109, with 1,024 bytes in place of eight. -/
def bsuConvert (o : RowOp) (b : Bsu) : BsuOut :=
  let src := (Ty.ofCode (o.param % 16)).getD .b
  let p := o.param / 16 % 8
  let ws := src.width
  let wd := o.ty.width
  let ns := 8192 / ws
  let nd := 8192 / wd
  let x := b.row o.ra
  let places := (upto (min ns nd)).map (convPlaces ns nd p)
  let rs := places.map fun q => (q, bsuConv o src (bsuElem x ws q.1))
  let arr := rs.foldl (fun (a : Array Nat) r => a.setIfInBounds r.1.2 r.2.1) (Array.replicate nd 0)
  let m : BitVec 8 := places.foldl (fun m q =>
    if (b.rowMark o.ra).getLsbD (q.1 * ws / 1024) then m ||| BitVec.ofNat 8 (2 ^ (q.2 * wd / 1024)) else m) 0
  (b.setRow o.rd (rowOfElems wd fun e => arr.getD e 0) m, orFlags (rs.map (·.2.2)), m != 0)

/-- Set an accumulator with its mark. -/
def Bsu.setAcc (b : Bsu) (n : Nat) (x : Half) (mark : Bool) : Bsu :=
  { b with ba := b.ba.setIfInBounds n x, bam := BitVec.ofNat 64 (putBits b.bam.toNat n 1 (b2n mark)) }

/-- A dot product into an accumulator: it begins with +0 with `.ovr`. -/
def bsuDot (o : RowOp) (n : Nat) (xs ys : List Val) (mark : Bool) (b : BsuOut) : BsuOut :=
  let r := rowDot (if o.f0 then 0 else b.1.accAt n) xs ys
  let m := mark || (!o.f0 && b.1.bam.getLsbD n)
  (b.1.setAcc n r.1 m, b.2.1 ||| r.2, b.2.2 || m)

/-- Whether a mark lies on one of the 128-B lines that bytes [a, a+n) touch. -/
def marksIn {w : Nat} (m : BitVec w) (a n : Nat) : Bool := (linesOf a n).any m.getLsbD

/-- `rgemv`: one product for each matrix row of L elements. -/
def bsuGemv (o : RowOp) (b : Bsu) : BsuOut :=
  let len := 32 * 2 ^ (o.param % 8)
  let at_ := 256 * (o.param / 8)
  let x := b.row o.ra
  let vec := (upto len).map fun j =>
    let a := at_ + 2 * j
    bf16.value (field (b.vbLine (a / 128)) (8 * (a % 128)) 16)
  let vm := marksIn b.vbm at_ (2 * len)
  (upto (512 / len)).foldl (fun (acc : BsuOut) m =>
    bsuDot o (o.acc + m) ((upto len).map fun j => bf16.value (bsuElem x 16 (m * len + j))) vec
      (vm || marksIn (b.rowMark o.ra) (2 * m * len) (2 * len)) acc) (b, 0, false)

/-- `rred`: the elements' sum. -/
def bsuReduce (o : RowOp) (b : Bsu) : BsuOut :=
  let w := o.ty.width
  let n := 8192 / w
  let x := b.row o.ra
  bsuDot o o.acc ((upto n).map fun e => (wideOf o.ty).value (bsuElem x w e)) (List.replicate n (.fin false 1 0))
    (b.rowMark o.ra != 0) (b, 0, false)

/-- Put eight lines into segment g of the vector buffer. -/
def Bsu.setSegment (b : Bsu) (g : Nat) (x : Vector Line 8) (m : BitVec 8) : Bsu :=
  { b with
    vb := (upto 8).foldl (fun v i => v.setIfInBounds (8 * g + i) (bsuLine x i)) b.vb
    vbm := BitVec.ofNat 64 (putBits b.vbm.toNat (8 * g) 8 m.toNat) }

/-- The instructions that need only the BSU's own state. -/
def bsuCompute (o : RowOp) (b : Bsu) : BsuOut :=
  match o.op with
  | 0x602 => (b.setSegment (o.param % 8) (b.row o.ra) (b.rowMark o.ra), 0, b.rowMark o.ra != 0)
  | 0x607 => bsuConvert o b
  | 0x608 => bsuGemv o b
  | 0x609 => bsuReduce o b
  | 0x60B => (b.setRow o.rd (b.row o.ra) (b.rowMark o.ra), 0, b.rowMark o.ra != 0)
  | 0x60C => (b.setRow o.rd (rowOfElems 64 fun _ => o.arg.toNat) 0, 0, false)
  | _ => bsuArith o b

/-- A 32-bit count. -/
def countTo (a b : Nat) : Nat := (a + b) % 2 ^ 32

/-- ROW OPERATION, FOREIGN ROW: the payload (R340). -/
def rowPayload (slice row : Nat) : Nat := slice % 8 * 2 ^ 29 + row

/-- The source of a BSU's records (R339). -/
def bsuSrc (slice k : Nat) : Nat := sillSrc slice 9 (slice % 8 * 16 + k)

/-- Lines of memory by their global line numbers, with the marks, as a read at the home gives them (R322, R354). -/
def readRowLines (g : Eng) (first : Nat) : E (Vector Line 8 × BitVec 8) := do
  let ls ← engLines g (rangeFrom first 8)
  return (Vector.ofFn fun i => (ls.getD i.val (0, false)).1,
    BitVec.ofNat 8 (maskOf ((upto 8).filter fun i => (ls.getD i (0, false)).2)))

/-- `ropen` at BSU k: every tag of the row is checked, and counted (R354). -/
def bsuOpen (g : Eng) (o : RowOp) (k : Nat) : E Unit := do
  let first := (o.stripe + 1024 * k) / 128
  let s ← get
  if (upto 8).any fun i => busyLine s (homeFor (first + i)) (first + i) then throw .busy
  let bad := ((upto 8).filter fun i => s.badTags.contains (first + i)).length
  let r ← readRowLines g first
  modify fun s =>
    (s.updBsu o.slice k fun b =>
      let c := b.counts
      { b.setRow o.rd r.1 r.2 with counts := (countTo c.1 1, countTo c.2.1 8, countTo c.2.2.1 bad, c.2.2.2) }).emit
      o.fn (bsuSrc o.slice k) 0x82 (rowPayload o.slice (o.stripe % 2 ^ 33 / 1024 + k))

/-- Send a store of bytes of one line to its home with the rank of the sill core (R320, R356). -/
def rowStore (id : Nat) (o : RowOp) (line off : Nat) (bs : List Byte) (mark : Bool) (s : State) : State :=
  let r : MemReq :=
    { agent := .bsu id, acc := line, thread := 0, grid := o.grid, core := o.home, rank := s.dev * 1024 + o.home
      home := homeFor line, line := line, so := false, fill := 0, cold := false, learn := none, closing := false
      op := .store (number off bs) mark }
  sendReq (s.updRow id fun x => { x with acks := x.acks + 1 }) r

/-- `rwrite` at BSU k: eight whole-line stores (R356). -/
def bsuWrite (id : Nat) (o : RowOp) (k : Nat) (s : State) : State :=
  let b := s.bsu o.slice k
  let first := (o.stripe + 1024 * k) / 128
  let s1 := (upto 8).foldl (fun a i =>
    rowStore id o (first + i) 0 (toBytes 128 (bsuLine (b.row o.ra) i).toNat) ((b.rowMark o.ra).getLsbD i) a) s
  (s1.updBsu o.slice k fun b =>
    let c := b.counts
    { b with counts := (c.1, c.2.1, c.2.2.1, countTo c.2.2.2 1) }).emit
    o.fn (bsuSrc o.slice k) 0x82 (rowPayload o.slice (o.stripe % 2 ^ 33 / 1024 + k))

/-- The global address of byte `i` of an access, by its parts. -/
def partAt : List (Nat × Nat) → Nat → Nat
  | [], i => i
  | (ga, n) :: r, i => if i < n then ga + i else partAt r (i - n)

/-- `racc` at BSU k: its accumulators to memory, then zeroed with `.clr`. -/
def bsuAcc (id : Nat) (o : RowOp) (k : Nat) (s : State) : State :=
  let b := s.bsu o.slice k
  let c := o.param
  let j := ((ones 16 o.mask).filter (· < k)).length
  let ns := rangeFrom o.acc c
  let words := (number 0 ns).map fun p => (partAt o.parts (4 * c * j + 4 * p.1), p.2)
  let lines := (words.map fun p => p.1 / 128).foldl addNew []
  let s1 := lines.foldl (fun a l =>
    let mine := words.filter fun p => p.1 / 128 == l
    rowStore id o l ((mine.map fun p => p.1 % 128).headD 0) (mine.flatMap fun p => toBytes 4 (b.accAt p.2).toNat)
      (mine.any fun p => b.bam.getLsbD p.2) a) s
  let s2 := s1.updRow id fun x => { x with marked := x.marked || ns.any b.bam.getLsbD }
  if o.f0 then s2.updBsu o.slice k fun b => ns.foldl (fun a n => a.setAcc n 0 false) b else s2

/-- The lines that `rvload` reads, once for all BSUs of the mask (R356). -/
def rowData (g : Eng) (id : Nat) (o : RowOp) : E (List (Line × Bool)) := do
  if o.data.isEmpty then
    let ls ← engLines g ((upto 8).map fun i => partAt o.parts (128 * i) / 128)
    modify fun s => s.updRow id fun x => { x with data := ls }
    return ls
  else return o.data

/-- `rvload` from memory at BSU k. -/
def bsuLoad (g : Eng) (id : Nat) (o : RowOp) (k : Nat) : E Bool := do
  let ls ← rowData g id o
  let m : BitVec 8 := BitVec.ofNat 8 (maskOf ((upto 8).filter fun i => (ls.getD i (0, false)).2))
  modify fun s => s.updBsu o.slice k fun b =>
    b.setSegment (o.param % 8) (Vector.ofFn fun i => (ls.getD i.val (0, false)).1) m
  return m != 0

/-- The row instruction at the head of a BSU's queue. -/
def bsuHead (s : State) (slice k : Nat) : Option Nat :=
  (s.rowOps.find? fun p => p.2.slice == slice && bitOf p.2.todo k).map (·.1)

/-- Let a BSU perform the next instruction of its queue. -/
def bsuPump (slice k : Nat) (s : State) : State :=
  match bsuHead s slice k with | some id => s.post (.bsuExecute id k) | none => s

/-- Note that BSUs have performed an instruction: the next ones come to the heads of their queues. -/
def bsuDone (id : Nat) (o : RowOp) (ks : List Nat) (fl : Flags) (marked : Bool) (s : State) : State :=
  let s1 := s.updRow id fun x =>
    { x with todo := ks.foldl (fun t k => putBits t k 1 0) x.todo, flags := x.flags ||| fl
             marked := x.marked || marked, port := .idle }
  let s2 := ks.foldl (fun a k => bsuPump o.slice k (a.updBsu o.slice k fun b => { b with flags := b.flags ||| fl })) s1
  wakeRows (rowDone s2 id)

/-- `rmove.rot`, at every BSU of the mask at once: what each holds before the instruction goes round (R356). -/
def bsuRotate (o : RowOp) (ks : List Nat) (s : State) : State × Bool :=
  let src (k : Nat) : Vector Line 8 × BitVec 8 :=
    let j := (k + 16 - o.param % 16) % 16
    if bitOf o.mask j then ((s.bsu o.slice j).row o.ra, (s.bsu o.slice j).rowMark o.ra)
    else (Vector.replicate 8 0, 0)
  (ks.foldl (fun a k => a.updBsu o.slice k fun b => b.setRow o.rd (src k).1 (src k).2) s, ks.any fun k => (src k).2 != 0)

/-- BSU_EXECUTE (R350, R356): a BSU performs the instruction at the head of its queue. -/
def execBsuExecute (op bsu : Nat) (s : State) : Out :=
  match s.rowOps.find op with
  | none => .next s
  | some o =>
    if bsuHead s o.slice bsu ≠ some op ∨ o.port.waiting = true then .next s
    else
      let g : Eng := ⟨⟨o.fn, 0, clusterOf o.home, none⟩, .bsu op, o.port, o.grid, o.core⟩
      let again : Event := .bsuExecute op bsu
      let hold (_ : Bool) (p : Port) (s : State) : State := s.updRow op fun x => { x with port := p }
      match o.op with
      | 0x600 =>
        let r := engRun g again hold (bsuOpen g o bsu) s
        (match r.1 with
        | .done _ => .next (bsuDone op o [bsu] 0 ((r.2.bsu o.slice bsu).rowMark o.rd != 0) r.2)
        | _ => .next r.2)
      | 0x601 => .next (bsuDone op o [bsu] 0 ((s.bsu o.slice bsu).rowMark o.ra != 0) (bsuWrite op o bsu s))
      | 0x60A => .next (bsuDone op o [bsu] 0 false (bsuAcc op o bsu s))
      | _ =>
        if o.op = 0x602 ∧ o.f0 = false then
          let r := engRun g again hold (bsuLoad g op o bsu) s
          match r.1 with
          | .done m => .next (bsuDone op o [bsu] 0 m r.2)
          | _ => .next r.2
        else if o.op = 0x60B ∧ o.f0 = true then
          let ks := ones 16 o.mask
          if ks.all fun k => bsuHead s o.slice k == some op then
            let r := bsuRotate o ks s
            .next (bsuDone op o ks 0 r.2 r.1)
          else .next s
        else
          let r := bsuCompute o (s.bsu o.slice bsu)
          .next (bsuDone op o [bsu] r.2.1 r.2.2 (s.updBsu o.slice bsu fun _ => r.1))

-- Issue and acceptance (R351 to R353)

/-- Translate bytes at an offset of a window for a row instruction, in order: a bundled page is the given cause. -/
def rowParts (st : Strand) (w : Who) (write : Bool) (win off n : Nat) (bun : Nat) (rows : List (Nat × Nat)) : M (List Part) := do
  if 2 ^ 64 < off + n then mtrap cWindowCrossing (BitVec.ofNat 64 off)
  let s ← get
  if rows.any fun p => !inRegions s st win p.1 p.2 (!write) write then mtrap cFootprint (BitVec.ofNat 64 off)
  let rs ← (splitPages (n / 65536 + 2) off n).mapM fun p =>
    resolvePart st w ⟨write, false, .plain bun⟩ win 0 p.1 (p.1 - off, p.1, p.2)
  let faults := rs.filterMap fun r => match r with | .inr p => some p | .inl _ => none
  if !faults.isEmpty then throw (.park faults)
  let parts := rs.filterMap fun r => match r with | .inl p => some p | .inr _ => none
  let peers := ((parts.filter fun p => isPeer p.ga).map fun p => p.ga / 65536).foldl addNew []
  let ask := peers.filter fun g => !st.peerOk.any (·.1 == g)
  if !ask.isEmpty then throw (.askPeer (ask.map fun g => (g, write)))
  return parts

/-- The mask operand: SWS and MASK, with its reserved bits 0 (R351). -/
def rowMask (s : State) (st : Strand) (f : Fields) : M (Nat × Nat) := do
  let b ← liftRes (uval s st f.ty f.b)
  if field b 19 45 ≠ 0 then mtrapHere cIllegalField
  return (field b 16 3, field b 0 16)

/-- The slice of a sill strand's stack that SWS names. -/
def rowSlice (st : Strand) (sws : Nat) : Nat := (st.core - 512) / 8 * 8 + sws

/-- The rows of a slice that can be mapped (R327). -/
def mappableRows (slice : Nat) : Nat := if slice % 2 = 0 then 6291456 else 6225920

/-- The first byte of the stripe that an instruction names (R352). With a mask of 0 the regions are checked as for BSU 0 (R351; DESIGN
CHOICE, log 45). -/
def rowStripe (s : State) (st : Strand) (f : Fields) (write : Bool) (slice mask : Nat) : M Nat := do
  let a ← liftRes (uval s st f.ty f.a)
  if f.fBit 5 then
    if field a 0 4 ≠ 0 ∨ field a 23 41 ≠ 0 then mtrapHere cIllegalField
    let stripe := field a 4 19
    if mappableRows slice < 16 * stripe + 16 then mtrap cPermission a
    return slice * 2 ^ 33 + 16384 * stripe
  else
    if a.toNat % 16384 ≠ 0 then mtrap cAlignment a
    let ps ← rowParts st (whoOf s st) write (st.window (f.f.toNat / 4 % 8)).toNat a.toNat 16384 cPermission
      ((ones 16 (if mask = 0 then 1 else mask)).map fun k => (a.toNat + 1024 * k, 1024))
    let ga := (ps.map (·.ga)).headD 0
    if !isDevice ga || sliceOf ga != slice then mtrapHere cIllegalField
    return ga

/-- The BSUs' check of the requester (R353): a refusal counts at each of them, and goes on record in the requester's ring. -/
def rowAllowed (fn slice mask : Nat) (stripe : Option Nat) (addr : Word) : M Unit := do
  let s ← get
  if mask ≠ 0 ∧ (s.platOf (slice / 2)).owner ≠ fn then
    let ks := ones 16 mask
    let s1 := ks.foldl (fun a k => { a with refusals := a.refusals.updD (bsuKey slice k) 0 fun n => min 0xFFFFFFFF (n + 1) }) s
    let k := ks.headD 0
    set (s1.emit fn (bsuSrc slice k) 0x83 (rowPayload slice (match stripe with | some a => a % 2 ^ 33 / 1024 + k | none => 0)))
    mtrap cForeignRow addr

/-- Whether a line holds a second version: its bundle field is not 0 (R327). -/
def bundleField (s : State) (line : Nat) : Bool :=
  match s.versions.find line with | some v => v.second.isSome | none => false

/-- A row instruction as the strand's checks leave it: its slice and mask, its argument, its stripe and its parts. -/
structure RowArgs where
  slice  : Nat
  mask   : Nat
  arg    : Word
  stripe : Nat
  parts  : List (Nat × Nat)

/-- Whether an instruction reads or writes memory at its A: `rvload` without F[0], and `racc` (R356). -/
def rowAddressed (op : Nat) (f : Fields) : Bool := (op == 0x602 && !f.fBit 0) || op == 0x60A

/-- The memory of a row instruction that reads or writes some at its A (R356). With a mask of 0, `racc` is checked as for one BSU (R351;
DESIGN CHOICE, log 45). -/
def rowMemory (op : Nat) (f : Fields) (st : Strand) (a : Word) (mask : Nat) : M (List (Nat × Nat)) := do
  if a.toNat % (if op = 0x602 then 128 else 4) ≠ 0 then mtrap cAlignment a
  let n := if op = 0x602 then 1024 else 4 * (f.selector / 2 ^ 24) * max 1 (popcount 16 mask)
  let ps ← rowParts st (whoOf (← get) st) (op == 0x60A) (st.window (f.f.toNat / 4 % 8)).toNat a.toNat n
    (if op = 0x602 then cViewRequired else cPermission) [(a.toNat, n)]
  return ps.map fun p => (p.ga, p.n)

/-- What a row instruction waits for and what its strand checks (R351, R352, R356). -/
def rowChecks (op : Nat) (f : Fields) (st : Strand) : M RowArgs := do
  let s ← get
  liftRes (awaitRegs st [] (memRegs false [f.a, f.b]))
  let a ← liftRes (uval s st f.ty f.a)
  let q ← rowMask s st f
  let slice := rowSlice st q.1
  if st.flight.any fun p => p.2.acquire then mwait .data
  let stripe ← if op = 0x600 ∨ op = 0x601 then rowStripe s st f (op == 0x601) slice q.2 else pure 0
  let parts ← if rowAddressed op f then rowMemory op f st a q.2 else pure []
  return ⟨slice, q.2, a, stripe, parts⟩

/-- Whether a BSU of the mask has no place for another instruction of the sill core (R353). -/
def rowsFull (s : State) (core slice mask : Nat) : Bool :=
  (ones 16 mask).any fun b =>
    decide (8 ≤ (s.rowOps.filter fun p => p.2.slice == slice && p.2.home == core && bitOf p.2.todo b).length)

/-- Whether a row that `rwrite` would write holds a second version (R327, R356). -/
def rowsBundled (s : State) (stripe mask : Nat) : Bool :=
  (ones 16 mask).any fun b => (upto 8).any fun i => bundleField s ((stripe + 1024 * b) / 128 + i)

/-- What the BSUs of the mask check (R353, R356). -/
def rowAccepts (op : Nat) (st : Strand) (r : RowArgs) : M Unit := do
  rowAllowed (whoOf (← get) st).fn r.slice r.mask (if op = 0x600 ∨ op = 0x601 then some r.stripe else none) r.arg
  let s ← get
  if op = 0x601 && rowsBundled s r.stripe r.mask then mtrap cPermission r.arg
  if rowsFull s st.core r.slice r.mask then mwait .rows

/-- The BSUs take an instruction into their queues; those that were idle begin (R353). -/
def rowStart (op k : Nat) (f : Fields) (st : Strand) (r : RowArgs) (s : State) : State :=
  let o : RowOp :=
    { op := op, strand := k, fn := (whoOf s st).fn, grid := st.grid
      core := (match s.jobs.find st.job with | some x => x.core | none => st.core)
      home := st.core, slice := r.slice, mask := r.mask, todo := r.mask, ty := f.ty, f0 := f.fBit 0, sel := f.selector
      arg := r.arg, stripe := r.stripe, parts := r.parts, flags := 0, marked := false, acks := 0, port := .idle, data := [] }
  let s1 := { s with nextId := s.nextId + 1, rowOps := s.rowOps.put s.nextId o }
  let s2 := if o.stores then countUp s1 o.grid o.core else s1
  ((ones 16 r.mask).filter fun b => (bsuHead s r.slice b).isNone).foldl (fun a b => bsuPump r.slice b a) s2

/-- A row instruction that goes to the BSUs of its mask (R353, R356); an empty mask does nothing. -/
def rowIssue (op : Nat) (f : Fields) (s : State) : Out :=
  runMem [] (fun k st => do
    let r ← rowChecks op f st
    if r.mask = 0 then finishMem k f.nx st id
    else
      rowAccepts op st r
      let id := (← get).nextId
      modify (rowStart op k f st r)
      finishMem k f.nx st fun x => { x with rowsOut := x.rowsOut ++ [id] }) s

/-- `ropen`. -/
def execRopen (f : Fields) (s : State) : Out := rowIssue 0x600 f s
/-- `rwrite`. -/
def execRwrite (f : Fields) (s : State) : Out := rowIssue 0x601 f s
/-- `rvload`. -/
def execRvload (f : Fields) (s : State) : Out := rowIssue 0x602 f s
/-- `radd`. -/
def execRadd (f : Fields) (s : State) : Out := rowIssue 0x603 f s
/-- `rmul`. -/
def execRmul (f : Fields) (s : State) : Out := rowIssue 0x604 f s
/-- `rfma`. -/
def execRfma (f : Fields) (s : State) : Out := rowIssue 0x605 f s
/-- `rmax`. -/
def execRmax (f : Fields) (s : State) : Out := rowIssue 0x606 f s
/-- `rcvt`. -/
def execRcvt (f : Fields) (s : State) : Out := rowIssue 0x607 f s
/-- `rgemv`. -/
def execRgemv (f : Fields) (s : State) : Out := rowIssue 0x608 f s
/-- `rred`. -/
def execRred (f : Fields) (s : State) : Out := rowIssue 0x609 f s
/-- `racc`. -/
def execRacc (f : Fields) (s : State) : Out := rowIssue 0x60A f s
/-- `rmove`. -/
def execRmove (f : Fields) (s : State) : Out := rowIssue 0x60B f s
/-- `rfill`. -/
def execRfill (f : Fields) (s : State) : Out := rowIssue 0x60C f s

/-- The flags and the mark that `rsync` reads (R357). -/
def rowWord (st : Strand) : Word := BitVec.ofNat 64 (st.rowFlags % 32 + 256 * b2n st.rowMarks)

/-- `rsync` (R357). -/
def execRsync (f : Fields) (s : State) : Out :=
  runMem [] (fun k st => do
    liftRes (awaitRegs st [] [f.d.toNat])
    if !st.rowsOut.isEmpty then mwait .rows
    finishMem k f.nx st fun x => { x.setS f.d.toNat (rowWord st) false with rowFlags := 0, rowMarks := false }) s

/-- What `rstat` reads (R358). -/
def rowStat (s : State) (slice mask q : Nat) : Nat :=
  let bs := (ones 16 mask).map fun k => (k, s.bsu slice k)
  let sum (g : Bsu → Nat) : Nat := min 0xFFFFFFFF (bs.foldl (fun a p => a + g p.2) 0)
  match q with
  | 0 => (orFlags (bs.map (·.2.flags))).toNat
  | 1 => sum (·.counts.1)
  | 2 => sum (·.counts.2.1)
  | 3 => sum (·.counts.2.2.1)
  | 4 => sum (·.counts.2.2.2)
  | _ => maskOf ((bs.filter fun p => p.2.vbm != 0 || (upto 8).any fun r => p.2.rowMark r != 0).map (·.1))

/-- What `rstat` waits for, and what is checked: its slice and its mask (R358). -/
def rstatChecks (f : Fields) (st : Strand) : M (Nat × Nat) := do
  let s ← get
  liftRes (awaitRegs st [] (f.d.toNat :: memRegs false [f.b]))
  let q ← rowMask s st f
  let slice := rowSlice st q.1
  let mine := st.rowsOut.filter fun id => match s.rowOps.find id with
    | some o => o.slice == slice && o.mask &&& q.2 != 0
    | none => false
  if !mine.isEmpty then mwait .rows
  rowAllowed (whoOf s st).fn slice q.2 none 0
  return (slice, q.2)

/-- `.clr` clears the flags that the query 0 has read (R358). -/
def rstatClear (f : Fields) (slice mask : Nat) (s : State) : State :=
  if f.fBit 0 && f.selector / 2 ^ 24 = 0 then
    (ones 16 mask).foldl (fun a b => a.updBsu slice b fun y => { y with flags := 0 }) s
  else s

/-- `rstat` (R358): after the strand's earlier row instructions to the same BSUs. -/
def execRstat (f : Fields) (s : State) : Out :=
  runMem [] (fun k st => do
    let q ← rstatChecks f st
    let x := rowStat (← get) q.1 q.2 (f.selector / 2 ^ 24)
    modify (rstatClear f q.1 q.2)
    finishMem k f.nx st fun y => y.setS f.d.toNat (BitVec.ofNat 64 x) false) s

-- Starting sill strands (R214, R347)

/-- The places of a sill core that hold a strand: one that has ended holds its place until its stores have been performed. -/
def sillTaken (s : State) (slice : Nat) : List Nat :=
  (upto 4).filter fun i => (s.strand (32768 + 4 * slice + i)).isSome

/-- A sill strand in its launch state (R162, R347). Its generators are seeded for block 0, as its `%bid` reads, with SEED 0
(R53 gives a sill strand no block number: DEDUCED, log 27); nothing that it may execute draws from them (R33). -/
def sillStrand (job : Nat) (x : Job) (slice place sid : Nat) : Strand :=
  match x.work with
  | .sill entry cwin nstr _ args wins =>
    let st := { Strand.init with
      core := 512 + slice, slot := place, blk := x.blk, sid := sid, nstr := nstr, sill := true, job := job, grid := x.grid
      pm := 1, em := 1, win := wins, cwin := cwin, pc := entry, arrival := .target entry, gens := seedAll 0 (32 * sid), gnum := 32 * sid }
    (number 0 args).foldl (fun a p => a.setS p.1 p.2 false) st
  | _ => Strand.init

/-- Start the strands of an `nbl` job when its sill core has places for them; none starts on a slice that the function no
longer owns (R214). -/
def startSill (s : State) (id : Nat) (x : Job) : Option State :=
  match x.work with
  | .sill _ _ nstr slice _ _ =>
    let fn := (s.grid x.grid).fn
    if (s.platOf (slice / 2)).owner ≠ fn then
      let bad : JobPhase := if x.packet.isSome then .ended 3 cForeignRow else .ended 5 0
      some ({ s with jobs := s.jobs.put id { x with phase := bad } }.send (.jobComplete id))
    else
      let free := (upto 4).filter fun i => !(sillTaken s slice).contains i
      if free.length < nstr then none
      else
        let keys := (free.take nstr).map fun i => 32768 + 4 * slice + i
        let s1 := (number 0 (free.take nstr)).foldl (fun (a : State) p =>
          (a.setStrand (32768 + 4 * slice + p.2) (sillStrand id x slice p.2 p.1)).emit fn
            (sillSrc slice 8 (slice % 8)) 0x80 (slice % 8 * 2 ^ 29)) s
        some { s1 with
          jobs := s1.jobs.put id { x with phase := .running, sill := keys }
          sched := if s1.sched.contains (16384 + slice) then s1.sched else s1.sched ++ [16384 + slice] }
  | _ => some s

end Sys2Proof.Machine
end

