-- ==== Sys2Proof/Machine/Jobs.lean ====
section
/-!
DEFINITION. Job cards and their checks (R203, R204), the seven card instructions, and the engines that carry the jobs out
(R208 to R216, R222).
-/
namespace Sys2Proof.Machine

-- The card (R203, R204)

/-- A card as read at issue: its 128 bytes. -/
abbrev Card := Array Byte

/-- `n` bytes of a card. -/
def cardAt (c : Card) (o n : Nat) : Nat := imageAt c o n
/-- Whether the bytes from `o` on are 0. -/
def cardZero (c : Card) (o n : Nat) : Bool := cardAt c o n == 0

/-- Region i of a card; unused when its length is 0. -/
def cardRegion (c : Card) (st : Strand) (m i : Nat) : Option Region :=
  let o := 16 * i
  let attr := cardAt c (o + 14) 1
  let space := attr / 4 % 4
  if cardAt c (o + 8) 4 = 0 then none
  else some
    { space := space, base := cardAt c o 8, len := cardAt c (o + 8) 4
      win := if space = 0 then (if bitOf attr 4 then cardAt c (o + 12) 2 else (st.window m).toNat) else 0
      rd := bitOf attr 0, wr := bitOf attr 1, rows := 1, stride := 0 }

/-- Whether a region record is well formed: reserved fields 0, an unused one all 0, a used one with R or W and within its
slot or pair (R203, R204). -/
def regionOk (c : Card) (i : Nat) : Bool :=
  let o := 16 * i
  let base := cardAt c o 8
  let len := cardAt c (o + 8) 4
  let win := cardAt c (o + 12) 2
  let attr := cardAt c (o + 14) 1
  let space := attr / 4 % 4
  cardAt c (o + 15) 1 == 0 && attr / 32 == 0
  && (if len = 0 then base == 0 && win == 0 && attr == 0
      else space != 3 && attr % 4 != 0 && (bitOf attr 4 || win == 0)
        && (space != 1 || decide (base < 2 ^ 32))
        && (space != 2 || (decide (base < 32) && decide (len ≤ if base % 2 = 0 then 32768 else 16384))))

/-- A region that is only read, or only written. -/
def onlyRead (r : Option Region) : Bool := match r with | some x => x.rd && !x.wr | none => false
/-- Only written. -/
def onlyWritten (r : Option Region) : Bool := match r with | some x => x.wr && !x.rd | none => false

/-- The work that a card describes, or none where its kind's entry forbids it (R211 to R216). `slices` is the partition's
memory slices in order (R365). -/
def cardWork (c : Card) (code : Nat) (rs : List (Option Region)) (st : Strand) (slices : List Nat) : Option JobWork :=
  let r (i : Nat) : Option Region := (rs[i]?).join
  let len (i : Nat) : Nat := match r i with | some x => x.len | none => 0
  let aligned (i : Nat) : Bool := match r i with | some x => x.space == 2 || x.base % 64 == 0 | none => true
  let glob (i : Nat) : Bool := match r i with | some x => x.space == 0 | none => true
  let unused (i : Nat) : Bool := (r i).isNone
  let only (b : Bool) (w : JobWork) : Option JobWork := if b then some w else none
  match code with
  | 0x80 | 0x81 =>
    let rows := cardAt c 0x40 4
    let run := cardAt c 0x44 4
    let meet := match r 0, r 1 with | some x, some y => regionsMeet x y | _, _ => true
    only (onlyRead (r 0) && onlyWritten (r 1) && unused 2 && unused 3 && !meet
        && decide (1 ≤ rows) && decide (rows ≤ 65536) && decide (1 ≤ run) && decide (run ≤ 16777216)
        && cardZero c 0x50 16 && cardZero c 0x6C 20
        && (if code = 0x80 then cardZero c 0x60 12 else match r 1 with | some x => x.space == 2 | none => false))
      (.copy rows run (cardAt c 0x48 4) (cardAt c 0x4C 4))
  | 0x82 | 0x83 =>
    let count := cardAt c 0x40 4
    let es := cardAt c 0x44 2
    let idx := cardAt c 0x46 1
    let table (i : Nat) : Bool := if code = 0x82 then onlyRead (r i) else onlyWritten (r i)
    let same := match r 2, r 3 with
      | some x, some y => x.space == y.space && x.win == y.win
      | _, _ => true
    only (decide (1 ≤ count) && decide (count ≤ 1048576) && decide (es ≤ 4096) && popcount 16 es == 1
        && decide (idx ≤ 1) && cardZero c 0x47 1 && cardZero c 0x50 48
        && onlyRead (r 0) && decide (count * (if idx = 0 then 4 else 8) ≤ len 0)
        && (if code = 0x82 then onlyWritten (r 1) else onlyRead (r 1)) && decide (count * es ≤ len 1)
        && table 2 && (unused 3 || table 3) && same)
      (.index (code == 0x83) count es (idx == 1) (cardAt c 0x48 8))
  | 0x84 =>
    let n := cardAt c 0x4A 1
    let slice := cardAt c 0x4C 4
    only (decide (1 ≤ n) && decide (n ≤ 4) && cardZero c 0x4B 1 && cardZero c 0x68 24
        && decide (slice < slices.length) && rs.all fun x => match x with | some y => y.space != 2 | none => true)
      (.sill (BitVec.ofNat 64 (cardAt c 0x40 8)) (BitVec.ofNat 16 (cardAt c 0x48 2)) n (slices.getD slice 0)
        [BitVec.ofNat 64 (cardAt c 0x50 8), BitVec.ofNat 64 (cardAt c 0x58 8), BitVec.ofNat 64 (cardAt c 0x60 8)] st.win)
  | 0x85 =>
    let kind := cardAt c 0x40 1
    let op := cardAt c 0x41 1
    let ty := cardAt c 0x42 1
    let count := cardAt c 0x44 4
    let np := cardAt c 0x48 2
    let rank := cardAt c 0x4A 2
    let size := match Ty.ofCode ty with | some t => t.width / 8 | none => 1
    let whole := np * count * size
    only (decide (kind ≤ 2) && decide (op ≤ 2) && (kind != 1 || op == 0) && decide (4 ≤ ty) && decide (ty ≤ 11)
        && cardZero c 0x43 1 && decide (1 ≤ count) && decide (2 ≤ np) && decide (np ≤ 256) && decide (rank < np)
        && cardZero c 0x4C 4 && cardZero c 0x58 40 && glob 0 && glob 1
        && len 0 == (if kind = 1 then count * size else whole) && len 1 == (if kind = 2 then count * size else whole))
      (.coll kind op ((Ty.ofCode ty).getD .b) count np rank (BitVec.ofNat 64 (cardAt c 0x50 8)))
  | _ =>
    only ((match r 0 with | some x => x.rd | none => false)
        && (match r 1 with | some x => x.wr && x.space == 0 | none => false)
        && (match r 2 with | some x => x.rd | none => true) && unused 3
        && aligned 0 && aligned 1 && len 0 == len 1 && len 0 % 64 == 0 && len 2 % 16 == 0
        && cardZero c 0x60 32)
      (.code ((upto 4).map fun i => BitVec.ofNat 64 (cardAt c (0x40 + 8 * i) 8)))

/-- The follow-on of a `cpym` (R212): the image must be an `mma` or `mmas` of the W-form with NEXT, K 0 and 0x5F as C. -/
def followOn (c : Card) : Option Instr :=
  let x := cardAt c 0x60 8
  if x % 4 = 1 ∧ bits x 42 9 = 0x5F ∧ bits x 23 1 = 0 ∧ bits x 2 3 = 0 then
    match decode (putBits x 42 8 0) with
    | .ok (.mma f) => some (.mma f)
    | .ok (.mmas f) => some (.mmas f)
    | _ => none
  else none

/-- The memory slices of a function's partition in their order (R365): two for each parcel, by PIDX. -/
def partitionSlices (s : State) (fn : Nat) : List Nat :=
  (sortBy (fun p => p.2.pidx) (s.plat.filter fun p => p.2.owner == fn)).flatMap fun p => [2 * p.1, 2 * p.1 + 1]

/-- Read and check the card (R204), as far as SLOT NOT CLAIMED. -/
def readCard (s : State) (st : Strand) (f : Fields) (code : Nat) : Res (Card × List (Option Region) × JobWork) := do
  let b := s.block st.blk
  let r ← uread s st .i8 f.a
  let a := field r.1 0 32
  if a % 128 ≠ 0 then trapAt cAlignment
  if b.scratchSize < a + 128 then trapAt cScratchBounds
  if r.2 || scratchMarked b a 128 then trapAt cPoison
  let c : Card := (toBytes 128 (scratchRead b a 128)).toArray
  let rs := (upto 4).map (cardRegion c st f.m.toNat)
  need ((upto 4).all (regionOk c)) cIllegalField
  match cardWork c code rs st (partitionSlices s (s.grid b.grid).fn) with
  | none => trapAt cIllegalField
  | some w =>
    need (code != 0x81 || (followOn c).isSome) cIllegalField
    let used := rs.filterMap id
    need (used.all fun x => x.space != 0 || decide (x.base + x.len ≤ 2 ^ 64)) cWindowCrossing
    need (used.all fun x => x.space != 1 || decide (x.base + x.len ≤ b.scratchSize)) cScratchBounds
    let m := jobSlots rs w false
    need (m &&& heldMask s st.core st.blk false == m) cSlotNotClaimed
    return (c, rs, w)

/-- The checks of a card instruction (R204, R212). -/
def newCard (f : Fields) (code : Nat) (st : Strand) : M CardRead := do
  let s ← get
  liftRes (awaitRegs st [] (sRegsOf f.a))
  let p ← liftRes (readCard s st f code)
  let farg : Option (BitVec 32) := some (BitVec.ofNat 32 (cardAt p.1 0x68 4))
  let fo : Option (Nat × Nat × Prepared) ← (match (if code = 0x81 then followOn p.1 else none) with
    | some (.mma g) => do let q ← liftRes (prepMma s st g farg); return some (0x05, g.d.toNat, q)
    | some (.mmas g) => do let q ← liftRes (prepMmas s st g farg); return some (0x06, g.d.toNat, q)
    | _ => return none)
  return ⟨p.2.1, p.2.2, fo⟩

/-- What a card instruction waits for once it has been checked (R204, R209): earlier accesses, the array queue, room for a job. -/
def cardWaits (code : Nat) (st : Strand) (c : CardRead) : M Unit := do
  let s ← get
  let fn := (s.grid (s.block st.blk).grid).fn
  liftRes (orderWaits st (some (if code = 0x85 then min 7 (s.fn fn).cap else 2)) false)
  if c.follow.isSome && decide (16 ≤ (arrayQueue s st.core).length) then mwait .array
  jobRoom st

/-- A card instruction up to its effect: the card is read and checked once, and kept while the instruction waits (R203, R204). -/
def cardChecks (f : Fields) (code k : Nat) (st : Strand) : M CardRead := do
  let s ← get
  let c ← (match (if st.carded then s.cards.find k else none) with
    | some c => pure c
    | none => newCard f code st)
  modify fun s => { s with cards := s.cards.put k c }.updStrand k fun y => { y with carded := true }
  cardWaits code st c
  return c

/-- Enter a card's job and its follow-on; a collective has the implicit scope .ten (R209, R212, R314). -/
def cardStart (f : Fields) (code k : Nat) (st : Strand) (c : CardRead) (s0 : State) : State :=
  let s := { s0 with cards := s0.cards.del k }
  let r := putJob k st (f.d.toNat % 16) code c.regions c.work s
  let s1 := if code = 0x85 then implicitScope r.2 (s.grid (s.block st.blk).grid).fn 7 else r.2
  match c.follow with
  | some q =>
    let o := putArray k st q.1 q.2.1 0 false (some r.1) q.2.2 s1
    o.2.updJob r.1 fun x => { x with follow := some o.1, edges := x.edges.filter (· != o.1) }
  | none => s1

/-- The card instructions (R204, R209, R212). -/
def cardJob (f : Fields) (code : Nat) (s : State) : Out :=
  runMem [] (fun k st => do
    let c ← cardChecks f code k st
    modify (cardStart f code k st c)
    finishMem k f.nx st id) s

/-- `cpy` (R211). -/
def execCpy (f : Fields) (s : State) : Out := cardJob f 0x80 s
/-- `cpym` (R212). -/
def execCpym (f : Fields) (s : State) : Out := cardJob f 0x81 s
/-- `gath` (R213). -/
def execGath (f : Fields) (s : State) : Out := cardJob f 0x82 s
/-- `scat` (R213). -/
def execScat (f : Fields) (s : State) : Out := cardJob f 0x83 s
/-- `nbl` (R214). -/
def execNbl (f : Fields) (s : State) : Out := cardJob f 0x84 s
/-- `coll` (R215). -/
def execColl (f : Fields) (s : State) : Out := cardJob f 0x85 s
/-- `cload` (R216). -/
def execCload (f : Fields) (s : State) : Out := cardJob f 0x86 s

-- The engines

/-- The context of a job's accesses. -/
def jobEng (s : State) (id : Nat) (x : Job) : Eng := ⟨engWho s x.grid x.core, .job id, x.port, x.grid, x.core⟩

/-- The first address of a region: slot regions count bytes from 0. -/
def Region.start (r : Region) : Nat := if r.space = 2 then 0 else r.base

/-- Read bytes of a region's space at an address. -/
def regionRead (g : Eng) (x : Job) (r : Region) (a n : Nat) : E (List Byte × Bool) := do
  match r.space with
  | 0 => engRead g r.win a n
  | 1 =>
    let b := (← get).block x.blk
    return (toBytes n (scratchRead b a n), scratchMarked b a n)
  | _ => return slotRead (← get) x.core r.base a n

/-- Read bytes of a region's space, each with the mark of the line it comes from (R210). -/
def regionBytes (g : Eng) (x : Job) (r : Region) (a n : Nat) : E (List (Byte × Bool)) := do
  let parts ← (linesOf a n).mapM fun l => do
    let lo := max a (128 * l)
    let d ← regionRead g x r lo (min (a + n) (128 * l + 128) - lo)
    return d.1.map fun b => (b, d.2)
  return parts.flatMap id

/-- Write bytes of a region's space at an address: a line that a marked byte reaches is marked (R210). -/
def regionWrite (g : Eng) (x : Job) (r : Region) (a : Nat) (bs : List (Byte × Bool)) : E Unit := do
  let marks := (bs.map (·.2)).toArray
  if r.space = 0 then engWrite g r.win a (bs.map (·.1)) fun i => marks.getD i false
  else modify fun s => (linesOf a bs.length).foldl (fun (s : State) l =>
    let lo := max a (128 * l)
    let mine := (bs.drop (lo - a)).take (min (a + bs.length) (128 * l + 128) - lo)
    let m := mine.any (·.2)
    if r.space = 1 then s.updBlock x.blk fun b => scratchWrite b lo (mine.map (·.1)) m
    else slotWrite s x.core r.base lo (mine.map (·.1)) m) s

/-- Whether an access of `n` bytes of global memory lies in a region of the card with R, or with W (R210). -/
def Job.allows (x : Job) (write : Bool) (win a n : Nat) : Bool :=
  x.regions.any fun q => match q with
    | some r =>
      r.space == 0 && r.win == win && (if write then r.wr else r.rd) && decide (r.base ≤ a) && decide (a + n ≤ r.base + r.len)
    | none => false

/-- How an engine's step leaves its job: it goes on, or ends with a status and cause. -/
inductive JStep where
  | more (f : Job → Job)
  | ends (status cause : Nat) (f : Job → Job)

/-- Bytes of a region from an address on (R210). -/
def roomIn (r : Region) (a : Nat) : Nat := if a < r.start then 0 else r.start + r.len - a

/-- One piece of a copy (R211): up to a 128-B aligned destination address or the row's end, and to the end of a page of the
source. -/
def copyStep (g : Eng) (x : Job) (rows run sstr dstr : Nat) : E JStep := do
  let src := x.region 0
  let dst := x.region 1
  if rows ≤ x.pos then return .ends 1 0 id
  let sa := src.start + x.pos * sstr + x.sub
  let da := dst.start + x.pos * dstr + x.sub
  let n := min (min (run - x.sub) (128 - da % 128)) (if src.space = 0 then 65536 - sa % 65536 else 128)
  let k := min n (min (roomIn src sa) (roomIn dst da))
  if k ≠ 0 then
    let d ← regionBytes g x src sa k
    regionWrite g x dst da d
  let upd (y : Job) : Job :=
    if run ≤ x.sub + n then { y with pos := y.pos + 1, sub := 0, moved := y.moved + k }
    else { y with sub := y.sub + n, moved := y.moved + k }
  if k < n then return .ends 6 0 fun y => { y with moved := y.moved + k }
  else if rows ≤ (upd x).pos then return .ends 1 0 upd
  else return .more upd

/-- One element of a gather or scatter (R213). A table in slot space may go on in region 3 as another slot, each counted from its own first
byte, which the rule does not rule out (DESIGN CHOICE, log 22). -/
def indexStep (g : Eng) (x : Job) (scatter : Bool) (count es : Nat) (wide : Bool) (tbase : Nat) : E JStep := do
  let iw := if wide then 8 else 4
  let idx := x.region 0
  let data := x.region 1
  let d ← regionRead g x idx (idx.start + x.pos * iw) iw
  if d.2 then return .ends 3 cPoison id
  let t := tbase + ofBytes d.1 * es
  let fits (r : Region) : Bool := decide (r.start ≤ t) && decide (t + es ≤ r.start + r.len)
  let r2 := x.region 2
  let r3 := x.region 3
  if !(fits r2 || (r3.len != 0 && fits r3)) then return .ends 6 0 id
  -- regions 2 and 3 lie in one space and window; slot tables count from their own first slot
  let tab := if fits r2 then r2 else r3
  let at_ := data.start + x.pos * es
  if scatter then
    let v ← regionBytes g x data at_ es
    regionWrite g x tab t v
  else
    let v ← regionBytes g x tab t es
    regionWrite g x data at_ v
  let upd (y : Job) : Job := { y with pos := y.pos + 1, moved := y.moved + es }
  if count ≤ x.pos + 1 then return .ends 1 0 upd else return .more upd

/-- A relocation record, if it is valid (R216): OFF, whether it adds the high part, SEL, ADDEND. -/
def relocOf (v len : Nat) : Option (Nat × Bool × Nat × Nat) :=
  let off := bits v 0 32
  let kind := bits v 32 8
  let sel := bits v 40 8
  if off % 4 = 0 ∧ off < len ∧ 4 ≤ off % 64 ∧ (kind = 1 ∨ kind = 2) ∧ sel < 4 ∧ bits v 48 16 = 0 then
    some (off, kind == 2, sel, bits v 64 64)
  else none

/-- Patch a line with the records of its parcels, in order, and recompute the parity of what they touch (R10, R216). -/
def patchLine (l : BitVec 512) (base : Nat) (bases : List Word) (recs : List (Nat × Bool × Nat × Nat)) : BitVec 512 :=
  let mine := recs.filter fun r => r.1 / 64 == base / 64
  let l1 := mine.foldl (fun (x : Nat) r =>
    let v := ((bases.getD r.2.2.1 0).toNat + r.2.2.2) % 2 ^ 64
    let at_ := 8 * (r.1 % 64)
    putBits x at_ 32 (bits x at_ 32 + (if r.2.1 then v / 2 ^ 32 else v % 2 ^ 32))) l.toNat
  let slots := (mine.map fun r => (r.1 % 64 - 4) / 12).foldl addNew []
  let l2 := slots.foldl (fun x k => putBits x k 1 (b2n (parity 96 (bits x (32 + 96 * k) 96)))) l1
  BitVec.ofNat 512 (if slots.isEmpty then l2 else putBits l2 5 1 (b2n (parity 26 (bits l2 6 26))))

/-- The image of a code load, patched (R216): each line with the marks of what reaches it (R210). -/
def patchImage (x : Job) (bases : List Word) (recs : List (Nat × Bool × Nat × Nat)) (marks : List Bool) :
    List (Nat × Bool) :=
  let n := (x.region 2).len / 16
  (number 0 (x.elems.drop n)).map fun p =>
    ((patchLine (BitVec.ofNat 512 p.2.1) (64 * p.1) bases recs).toNat,
      p.2.2 || ((recs.zip marks).any fun r => r.1.1 / 64 == p.1 && r.2))

/-- One step of a code load (R216): its records and its image are read piece after piece; when every record has been checked and
the image patched, it is written line after line. `sub` says that the writing has begun. The image is read before the records are
checked, so that a failure of the source comes first: the rule gives no order (DESIGN CHOICE, log 22). -/
def codeStep (g : Eng) (x : Job) (bases : List Word) : E JStep := do
  let src := x.region 0
  let dst := x.region 1
  let rel := x.region 2
  let n := rel.len / 16
  if x.sub ≠ 0 then
    let l := x.elems.getD x.pos (0, false)
    let a := dst.start + 64 * x.pos
    let at_ ← engPages g true dst.win a 64
    regionWrite g x dst a ((toBytes 64 l.1).map fun b => (b, l.2))
    let upd (y : Job) : Job :=
      { y with pos := y.pos + 1, moved := y.moved + 64, buf := y.buf ++ at_.map fun p => p.1 / 64 * 64 }
    if src.len ≤ 64 * (x.pos + 1) then return .ends 1 0 upd else return .more upd
  else if x.pos < n + src.len / 64 then
    let d ← (if x.pos < n then regionRead g x rel (rel.start + 16 * x.pos) 16
      else regionRead g x src (src.start + 64 * (x.pos - n)) 64)
    return .more fun y => { y with pos := y.pos + 1, elems := y.elems ++ [(ofBytes d.1, d.2)] }
  else
    let recs := (x.elems.take n).map fun p => relocOf p.1 src.len
    if recs.any Option.isNone then return .ends 3 cIllegalField id
    let image := patchImage x bases (recs.filterMap id) ((x.elems.take n).map (·.2))
    return .more fun y => { y with pos := 0, sub := 1, elems := image }

/-- One row of an asynchronous tile move (R193). `buf` holds the mask of slot lines that received poisoned data. -/
def tileStep (g : Eng) (x : Job) (load : Bool) (kind w : Nat) (tr : Bool) (slot : Nat) (rows : Rows) (win : Nat) : E JStep := do
  let m ← (if load then loadRow g x.core kind w tr slot rows win x.pos
    else do storeRow g x.core kind w tr slot rows win x.pos; return 0)
  let seen := x.buf.headD 0 ||| m
  let moved := if load then (if kind = 0 then 128 else 256) else rows.len
  let upd (y : Job) : Job := { y with pos := y.pos + 1, moved := y.moved + moved, buf := [seen] }
  if x.pos = 127 then
    modify fun s => if load && tr then endTranspose s x.core kind slot seen else s
    return .ends 1 0 upd
  else return .more upd

-- Collectives (R215)

/-- Combine two elements (R47, R215): RNE with canonical NaNs for floating point, wrapping for integers. -/
def collCombine (op : Nat) (t : Ty) (x y : Nat) : Nat :=
  if t.isInt then
    let v (c : Nat) : Int := if t.isSigned then signed t.width c else c
    wrapNat t.width (match op with | 0 => v x + v y | 1 => min (v x) (v y) | _ => max (v x) (v y))
  else
    let w := wideOf t
    let r := match op with
      | 0 => (Val.add false (w.value x) (w.value y)).1
      | 1 => (Val.minmax true (w.value x) (w.value y)).1
      | _ => (Val.minmax false (w.value x) (w.value y)).1
    (w.round false .rne r).1

/-- Combine two elements with their poison marks (R210, R215). -/
def collJoin (op : Nat) (t : Ty) (x y : Nat × Bool) : Nat × Bool := (collCombine op t x.1 y.1, x.2 || y.2)

/-- A gathered participant: its rank, where it lies, and its source's elements with their marks. -/
structure CollPart where
  rank  : Nat
  dev   : Nat
  place : Nat
  elems : List (Nat × Bool)

/-- The jobs that a collective has gathered here: (job number, job). -/
def collJobs (s : State) (fn : Nat) (name : Word) : List (Nat × Job) :=
  s.jobs.filter fun p => p.2.phase == .landed && (s.grid p.2.grid).fn == fn && match p.2.work with
    | .coll _ _ _ _ _ _ n => n == name
    | _ => false

/-- The card fields that every participant must agree on (R215). -/
def collKey : JobWork → Nat × Nat × Nat × Nat × Nat
  | .coll kind op ty count np _ _ => (kind, op, ty.code, count, np)
  | _ => (0, 0, 0, 0, 0)
/-- A card's rank. -/
def collRank : JobWork → Nat | .coll _ _ _ _ _ r _ => r | _ => 0

/-- Chunk c combined around the ring, from the participant that follows rank c (R215): the ring's order is that of the placement
and not of the ranks (log 10). -/
def ringChunk (ps : List CollPart) (op : Nat) (t : Ty) (count c : Nat) : List (Nat × Bool) :=
  let ring := sortBy (fun p => Config.ringOrder p.dev p.place) ps
  let at_ := (ring.findIdx? fun p => p.rank == c).getD 0
  let order := ring.drop (at_ + 1) ++ ring.take (at_ + 1)
  let chunk (p : CollPart) : List (Nat × Bool) := (p.elems.drop (c * count)).take count
  match order with
  | [] => []
  | p :: rest => rest.foldl (fun acc q => List.zipWith (collJoin op t) acc (chunk q)) (chunk p)

/-- What a participant's destination receives (R215). -/
def collResult (ps : List CollPart) (kind op : Nat) (t : Ty) (count rank : Nat) : List (Nat × Bool) :=
  let n := ps.length
  match kind with
  | 0 => (upto n).flatMap (ringChunk ps op t count)
  | 1 => (sortBy (·.rank) ps).flatMap (·.elems)
  | _ => ringChunk ps op t count rank

/-- Whether the cards of a collective agree (R215). -/
def collAgree (js : List (Nat × Job)) (x : Job) (remote : List RemoteCard) : Bool :=
  js.all (fun p => collKey p.2.work == collKey x.work)
    && remote.all fun r => (r.kind, r.op, r.ty.code, r.count, r.npart) == collKey x.work

/-- The ranks of a collective's cards (R215). -/
def collRanks (js : List (Nat × Job)) (remote : List RemoteCard) : List Nat :=
  js.map (fun p => collRank p.2.work) ++ remote.map (·.rank)

/-- The ring of a collective runs, and each participant here begins to write its destination (R215). -/
def collRun (fn : Nat) (js : List (Nat × Job)) (x : Job) (remote : List RemoteCard) (s : State) : State :=
  let key := collKey x.work
  let ps : List CollPart := js.map (fun p => ⟨collRank p.2.work, s.dev, p.2.core * 64 + p.2.strand % 64, p.2.elems⟩)
    ++ remote.map fun r => ⟨r.rank, r.dev, r.place, r.elems⟩
  let t := (Ty.ofCode key.2.2.1).getD .b
  js.foldl (fun a p =>
    ((a.updJob p.1 fun y =>
      { y with phase := .running, pos := 1, sub := 0
               elems := collResult ps key.1 key.2.1 t key.2.2.2.1 (collRank y.work) }).emit fn (hubSrc 32) 0x33
      p.2.handle.toNat).post (.jobStart p.1)) s

/-- The cards of peers that belong to a function's collective: those of its fabric domain (R215, R457). -/
def collFar (s : State) (fn : Nat) (name : Word) : List RemoteCard :=
  (s.gathered.filter fun p => p.1 == name && p.2.domain == (s.fn fn).domain && (s.fn fn).domain != 0).map (·.2)

/-- A function's collective has what it has gathered from peers no longer. -/
def dropGathered (s : State) (fn : Nat) (name : Word) : State :=
  { s with gathered := s.gathered.filter fun p => !(p.1 == name && p.2.domain == (s.fn fn).domain) }

/-- The participants of a name in a function's partition that have not completed. -/
def collHere (s : State) (fn : Nat) (name : Word) : List (Nat × Job) :=
  s.jobs.filter fun p => (s.grid p.2.grid).fn == fn && match p.2.work, p.2.phase with
    | _, .ended _ _ => false
    | .coll _ _ _ _ _ _ n, _ => n == name
    | _, _ => false

/-- Those whose ring has not run: they wait, are parked, read their source, or have landed. -/
def collOpen (s : State) (fn : Nat) (name : Word) : List (Nat × Job) :=
  (collHere s fn name).filter fun p => p.2.phase == .waiting || p.2.phase == .landed || p.2.pos == 0

/-- Look at a collective of a function (R215): cards that differ, or a repeated rank, end every participant FAULTED; when all have
come, the ring runs, and each participant writes its destination. -/
def collLook (name : Word) (s : State) (fn : Nat) : State :=
  let js := collJobs s fn name
  let far := collFar s fn name
  match js with
  | [] => s
  | (_, x) :: _ =>
    let ranks := collRanks js far
    if !collAgree js x far || (ranks.foldl addNew []).length != ranks.length then
      dropGathered ((collOpen s fn name).foldl (fun a p => endJob a p.1 3 cIllegalField) s) fn name
    else if ranks.length < (collKey x.work).2.2.2.2 then s
    else dropGathered (collRun fn js x far s) fn name

/-- Every participant of a collective ends ABORTED, because the block of one has been killed (R215). -/
def abortColl (name : Word) (s : State) (fn : Nat) : State :=
  dropGathered ((collHere s fn name).foldl (fun a p => endJob a p.1 4 0) s) fn name

/-- News of a peer's participant (log 10): its card joins the others; its kill aborts those here; it has completed, and its card is
no longer of use where nobody takes part. -/
def collNews (name : Word) (s : State) (r : RemoteCard) : State :=
  let fns := ((s.jobs.map fun p => (s.grid p.2.grid).fn).foldl addNew []).filter fun f => (s.fn f).domain == r.domain
  match r.news with
  | .joins => fns.foldl (collLook name) { s with gathered := s.gathered ++ [(name, r)] }
  | .killed => fns.foldl (abortColl name) s
  | .leaves =>
    if fns.any fun f => !(collHere s f name).isEmpty then s
    else { s with gathered := s.gathered.filter fun p => !(p.1 == name && p.2.domain == r.domain && p.2.dev == r.dev) }

/-- COLLECTIVE_START (R215): a card of a function here has been gathered, or peers' hubs bring news of theirs. -/
def execCollectiveStart (fn : Nat) (name : BitVec 64) (remote : List RemoteCard) (s : State) : Out :=
  .next (collLook name (remote.foldl (fun a r => collNews name (recv a ⟨r.dev, 8, r.stamp⟩ 8) r) s) fn)

/-- One step of a collective's card (R215): its source is read for the hub, or its destination written, within its regions
(R210). -/
def collStep (g : Eng) (x : Job) (ty : Ty) : E JStep := do
  let size := ty.width / 8
  if x.pos = 0 then
    let src := x.region 0
    let n := min 128 (src.len - x.sub)
    if !x.allows false src.win (src.base + x.sub) n then return .ends 6 0 id
    let d ← regionBytes g x src (src.base + x.sub) n
    let es := (upto (n / size)).map fun i =>
      let e := (d.drop (size * i)).take size
      (ofBytes (e.map (·.1)), e.any (·.2))
    return .more fun y => { y with elems := y.elems ++ es, sub := y.sub + n }
  else
    let dst := x.region 1
    let n := min 128 (dst.len - x.sub)
    if !x.allows true dst.win (dst.base + x.sub) n then return .ends 6 0 id
    let es := (x.elems.drop (x.sub / size)).take (n / size)
    regionWrite g x dst (dst.base + x.sub) (es.flatMap fun e => (toBytes size e.1).map fun b => (b, e.2))
    let upd (y : Job) : Job := { y with sub := y.sub + n, moved := y.moved + n }
    if dst.len ≤ x.sub + n then return .ends 1 0 upd else return .more upd

-- JOB_START (R208, R210 to R218)

/-- Whether a job stands at a point where a cancellation stops it: between pieces, elements or rows (R211, R213). -/
def atPiece (x : Job) : Bool :=
  match x.work with
  | .copy _ _ _ dstr => x.sub == 0 || ((x.region 1).start + x.pos * dstr + x.sub) % 128 == 0
  | _ => true

/-- One step of a job's engine. -/
def jobStep (g : Eng) (x : Job) : E JStep :=
  match x.work with
  | .copy rows run sstr dstr => copyStep g x rows run sstr dstr
  | .index sc count es wide tb => indexStep g x sc count es wide tb
  | .code bases => codeStep g x bases
  | .tile load kind w tr slot rows win => tileStep g x load kind w tr slot rows win
  | .coll _ _ ty _ _ _ _ => collStep g x ty
  | _ => return .more id

/-- The slot of an asynchronous tile move that failed holds FAULT and the cause (R188, R193). -/
def tileFault (s : State) (x : Job) (cause : Nat) : State :=
  match x.work with
  | .tile _ _ _ _ slot _ _ => s.updSlot x.core slot fun a => { a with fault := true, cause := cause }
  | _ => s

/-- A job's engine has finished: a `cpym` has landed, and its follow-on may enter the array (R212). -/
def finishWork (s0 : State) (id : Nat) (x : Job) (status cause : Nat) : State :=
  let s := if status = 3 then tileFault s0 x cause else s0
  match x.work, x.follow with
  | .copy .., some _ =>
    if status = 1 then arrayPump (wakeBlock (s.updJob id fun y => { y with phase := .landed }) x.blk) x.core
    else endJob s id status cause
  | _, _ => endJob s id status cause

/-- A running job takes its next step: a cancellation stops it at a point of R211 and R213, and not where a peer has performed a part of the
piece or element in progress; a collective whose source has been read joins the hub (R215). -/
def runJob (s : State) (id : Nat) (x : Job) : State :=
  if x.cancel && atPiece x && x.port.stored.isEmpty then endJob s id 2 0
  else
    let hold (parked : Bool) (p : Port) (s : State) : State :=
      s.updJob id fun y => { y with port := p, phase := if parked then .parked else .running }
    let r := engRun (jobEng s id x) (.jobStart id) hold (jobStep (jobEng s id x) x) s
    match r.1 with
    | .later => r.2
    | .fault c _ => finishWork r.2 id x 3 c
    | .done (.ends st c f) =>
      let s1 := r.2.updJob id fun y => { f y with port := .idle, phase := .running }
      (match s1.jobs.find id with | some y => finishWork s1 id y st c | none => s1)
    | .done (.more f) =>
      let s1 := r.2.updJob id fun y => { f y with port := .idle, phase := .running }
      match s1.jobs.find id with
      | none => s1
      | some y =>
        match y.work with
        | .coll _ _ _ _ _ _ name =>
          if y.pos = 0 && (y.region 0).len ≤ y.sub then
            ((tellPeers (s1.updJob id fun z => { z with phase := .landed, sub := 0 }) y .joins).send
              (.collectiveStart (s1.grid y.grid).fn name []))
          else s1.post (.jobStart id)
        | _ => s1.post (.jobStart id)

/-- The record of a job's start; a packet's job has none (R340). -/
def jobStarted (x : Job) (s : State) : State :=
  if x.packet.isSome then s else s.emit (s.grid x.grid).fn (coreSrc x.core 2) 0x31 x.handle.toNat

/-- JOB_START (R208): a job whose edges are gone starts, and an engine at work takes its next step. An `nbl` waits until its
sill core has places (R214). -/
def execJobStart (job : Nat) (s : State) : Out :=
  match s.jobs.find job with
  | none => .next s
  | some x =>
    match x.phase with
    | .waiting =>
      if !x.edges.all (opDone s) then .next s
      else
        match x.work with
        | .close _ => .next s
        | .sill .. => .next (match startSill s job x with | some s1 => jobStarted x s1 | none => s)
        | _ => .next (runJob (jobStarted x (s.updJob job fun y => { y with phase := .running })) job { x with phase := .running })
    | .running =>
      if x.port.waiting then .next s
      else (match x.work with | .sill .. => .next s | _ => .next (runJob s job x))
    | .parked => if x.port.waiting then .next s else .next (runJob s job x)
    | _ => .next s

end Sys2Proof.Machine
end

