-- ==== Sys2Proof/Machine/Port.lean ====
section
/-!
DEFINITION. The host port's side of a packet: the error log (R449), interrupts (R452), the AQIs' goings-on (R445, R446), and
the end of a packet or grid with its record (R432, R433, R450).
-/
namespace Sys2Proof.Machine

-- Error log and interrupts

/-- Write an entry of a function's error log (R449): the reason, the packet type, the AQI and HEAD before the packet. -/
def logError (s : State) (fn reason type q head : Nat) : State :=
  s.updFn fn fun f =>
    { f with
      errLog := f.errLog.put (f.errWr % 64)
        (reason + type * 2 ^ 8 + q * 2 ^ 16 + head % 2 ^ 32 * 2 ^ 32 + s.datum % 2 ^ 64 * 2 ^ 64)
      errWr := (f.errWr + 1) % 2 ^ 32 }

/-- Count a write that is ignored. -/
def countIgnored (s : State) (fn : Nat) : State := s.updFn fn fun f => { f with ignored := f.ignored + 1 }

/-- The payload of PACKET and INTERRUPT records (R340). -/
def packetPayload (q type : Nat) : Nat := q * 2 ^ 24 + type * 2 ^ 16

/-- Entry i of a function's interrupt-remapping table. -/
def intrEntry (s : State) (fn i : Nat) : IntrEntry := (s.fn fn).intr.getD i .reset

/-- Change an interrupt entry. -/
def updIntr (s : State) (fn i : Nat) (f : IntrEntry → IntrEntry) : State :=
  s.updFn fn fun x => { x with intr := x.intr.updD i .reset f }

/-- Send the write of an entry (R452). -/
def writeInterrupt (s : State) (fn i why : Nat) : State :=
  let e := intrEntry s fn i
  (s.emitOut (.interrupt fn i e.addr e.data)).emit fn (hubSrc 8) 0xB4 (why + i)

/-- An interrupt names an entry (R452): one that is not valid is dropped and logged, a masked one becomes pending. `why` is
the payload of its record, and `head` the HEAD before the packet that it follows. -/
def sendInterrupt (s : State) (fn i why : Nat) (head : Nat := 0) : State :=
  let e := intrEntry s fn i
  if !e.valid ∨ 2048 ≤ i then logError s fn 6 (bits why 16 8) (bits why 24 8) head
  else if e.mask then updIntr s fn i fun x => { x with pend := true, why := why }
  else writeInterrupt s fn i why

-- AQIs (R445, R446)

/-- The number of an AQI of a function. -/
def aqiKey (fn q : Nat) : Nat := 64 * fn + q
/-- An AQI. -/
def State.aqi (s : State) (fn q : Nat) : Aqi := s.aqis.getD (aqiKey fn q) .reset
/-- Change an AQI. -/
def State.updAqi (s : State) (fn q : Nat) (f : Aqi → Aqi) : State :=
  { s with aqis := s.aqis.updD (aqiKey fn q) .reset f }
/-- Whether AQI q of a function exists (R445). -/
def aqiExists (s : State) (fn q : Nat) : Bool := decide (q < (s.fn fn).naqi)
/-- The depth of an AQI's ring (R445). -/
def Aqi.depth (a : Aqi) : Nat := if 6 ≤ a.log2d ∧ a.log2d ≤ 16 then 2 ^ a.log2d else 64

/-- An armed AQI whose HEAD equals TAIL with nothing held sends its interrupt, once (R446). -/
def armCheck (s : State) (fn q : Nat) : State :=
  let a := s.aqi fn q
  match a.armed with
  | none => s
  | some i =>
    if a.en && a.head == a.tail && a.hold == .none then
      sendInterrupt (s.updAqi fn q fun x => { x with armed := none }) fn i (packetPayload q 0xF1) a.head
    else s

/-- Let an AQI go on to its next packet. -/
def aqiPump (s : State) (fn q : Nat) : State := (armCheck s fn q).post (.packetStart fn q)

/-- A packet's checks have been made: HEAD passes it (R445). `hold` says that it holds its AQI until it completes. -/
def startPacket (s : State) (k : Nat) (hold : Bool) : State :=
  let x := s.grid k
  if x.step ≠ 0 then s
  else
    let s1 := (s.updGrid k fun g => { g with step := 1 }).updAqi x.fn x.aqi fun a =>
      { a with head := if a.en then (a.head + 1) % 2 ^ 32 else a.head, hold := if hold then .packet k else .none }
    aqiPump s1 x.fn x.aqi

/-- The event that takes up a packet of a type; `op` is its byte 2 (R447). -/
def packetEvent (kind op k : Nat) : Event :=
  match kind with
  | 0x01 => .launch k
  | 0x02 => .copyPacket k
  | 0x03 => .signalPacket k
  | 0x04 => .waitPacket k
  | 0x05 => .nblaunch k
  | 0x06 => if op = 1 then .biasToHost k else .biasToDevice k
  | 0x07 => match op with
    | 1 => .traceDetachRing k | 2 => .traceSetShareRing k | 3 => .traceDetachShareRing k | _ => .traceSetRing k
  | 0x08 => .qfence k
  | 0x40 => if op = 1 then .partitionDestroy k else .partitionCreate k
  | 0x41 => .resize k
  | 0x42 => .migrate k
  | 0x43 => .invalidate k
  | 0x44 => .replay k
  | _ => .meter k

/-- Byte that chooses among the events of a packet's type: a PARTITION's OP is at 0x01, the others' at 0x02. -/
def packetOp (kind body : Nat) : Nat := if kind = 0x40 then bits body 8 8 else bits body 16 8

/-- Whether a packet waits its turn at the hub (R368). -/
def isPlat (kind : Nat) : Bool := kind == 0x40 || kind == 0x41 || kind == 0x42 || kind == 0x45

/-- Let the first of the hub's queue be performed (R368); number 0 is a partition restart (R467). -/
def pfPump (s : State) : State :=
  match s.pfQueue with
  | [] => s
  | 0 :: _ => s.post (.partitionRestart s.restartFn)
  | k :: _ => let x := s.grid k; s.post (packetEvent x.kind (packetOp x.kind x.body) k)

/-- Refuse a packet with a DETAIL (R419, R450): it has no effect but its record. -/
def refusePacket (s : State) (k detail : Nat) : State :=
  let x := s.grid k
  (startPacket ((s.updGrid k fun g => { g with result := some (2, detail) }).emit x.fn (hubSrc 8) 0xB1
    (packetPayload x.aqi x.kind)) k false).post (.gridComplete k)

/-- A packet's effect has come to its end: its record follows when its accesses have been acknowledged (R450). -/
def endPacket (s : State) (k status detail : Nat) : State :=
  (s.updGrid k fun g => { g with result := some (status, detail) }).post (.gridComplete k)

/-- Whether every byte of a packet outside the ranges (offset, length) is 0 (R447). -/
def Grid.zeroBut (x : Grid) (rs : List (Nat × Nat)) : Bool :=
  (upto 64).all fun i => x.at_ i 1 == 0 || rs.any fun r => decide (r.1 ≤ i) && decide (i < r.1 + r.2)

/-- The common fields' limits and the bytes that must be 0 (R447): `rs` are the ranges of the type's body. -/
def Grid.limitsOk (x : Grid) (rs : List (Nat × Nat)) : Bool :=
  if x.kind < 0x40 then
    x.zeroBut ([(0, 2), (4, 4), (0x0A, 2), (0x14, 2), (0x20, 8)] ++ rs)
      && x.at_ 1 1 / 4 == 0 && x.at_ 4 4 / 2 ^ 20 == 0 && decide (x.at_ 0x0A 2 < 2048) && x.recOff % 8 == 0
  else
    x.zeroBut ([(0, 1), (0x30, 8), (0x38, 4), (0x3C, 4)] ++ rs)
      && x.at_ 0x38 4 / 2 ^ 20 == 0 && x.at_ 0x3E 2 / 2 ^ 11 % 8 == 0

/-- The hub's accesses for a packet (R450): by its function and PASID. -/
def hubEng (s : State) (k : Nat) : Eng :=
  let x := s.grid k
  ⟨⟨x.fn, x.pasid, 256, none⟩, .hub, x.port, k, 1024⟩

/-- Note what a peer has answered a packet. -/
def holdPacket (k : Nat) (p : Port) (s : State) : State := s.updGrid k fun g => { g with port := p }

-- The end (R432, R433)

/-- The number of blocks of a grid. -/
def Grid.blocks (x : Grid) : Nat := x.dims.1 * x.dims.2.1 * x.dims.2.2

/-- How a packet ends, once it does (R432, R450). -/
def outcomeOf (s : State) (x : Grid) : Option (Nat × Nat) :=
  let f := s.fn x.fn
  if f.err then some (match x.result with | some (2, d) => (2, d) | _ => (4, f.errClass))
  else if !(x.counts.all fun p => p.2 == 0) then none
  else
    match x.result with
    | some r => some r
    | none =>
      if x.kind = 1 ∧ x.blocks ≠ 0 ∧ x.retired + x.killed = x.blocks then
        some (if x.killed = 0 then (1, 0) else (3, x.cause))
      else none

/-- Take away a packet that is over, when nothing of it is left. -/
def removeGrid (s : State) (k : Nat) : State :=
  let x := s.grid k
  if x.isOver && x.counts.all (fun p => p.2 == 0) && !(s.blocks.any fun p => p.2.grid == k) && !(s.jobs.any fun p => p.2.grid == k)
  then { s with grids := s.grids.del k }
  else s

/-- A packet's record has been dealt with: its interrupt follows, what it held goes on, and a QFENCE behind it looks again. -/
def finishPacket (s : State) (k : Nat) : State :=
  let x := s.grid k
  let s1 := s.updGrid k fun g => { g with isOver := true, port := .idle }
  let s2 := if x.noint then s1 else sendInterrupt s1 x.fn x.irq (packetPayload x.aqi x.kind) x.head
  let s3 := (startPacket s2 k false).updAqi x.fn x.aqi fun a =>
    { a with hold := match a.hold with
        | .packet j => if j = k then .none else a.hold
        | .replay (some j) => if j = k then .none else a.hold
        | h => h }
  let s4 := (s3.grids.filter fun p => p.2.kind == 8 && p.2.fn == x.fn && p.2.aqi == x.aqi && !p.2.isOver).foldl
    (fun a p => a.post (.qfence p.1)) s3
  let s5 := if s4.pfQueue.contains k then pfPump { s4 with pfQueue := s4.pfQueue.filter (· != k) } else s4
  removeGrid ((aqiPump s5 x.fn x.aqi).send (.blockBind x.fn)) k

/-- The 32-B record (R433). -/
def recordBytes (x : Grid) (r : Nat × Nat) (stamp : Nat) : List Byte :=
  let own := x.kind == 1 && r.1 != 2
  toBytes 32 (r.1 % 256 + r.2 % 256 * 2 ^ 8 + (if own then x.seqNo % 2 ^ 32 * 2 ^ 32 + x.retired % 2 ^ 32 * 2 ^ 64
    + x.killed % 2 ^ 32 * 2 ^ 96 else 0) + stamp % 2 ^ 64 * 2 ^ 128)

/-- Write a packet's record (R433): a translation that does not succeed drops it, which is logged; a peer's answer is awaited. -/
def writeRecord (s : State) (k : Nat) (x : Grid) (r : Nat × Nat) : State :=
  let drop (a : State) : State := finishPacket (logError a x.fn 7 x.kind x.aqi x.head) k
  if x.norec then finishPacket s k
  else if 2 ^ 64 < x.recOff + 32 then drop s
  else
    match (engWrite (hubEng s k) x.recWin x.recOff (recordBytes x r (x.ended.getD 0)) fun _ => false).run s with
    | (.ok _, s1) => finishPacket { s1 with snooped := [] } k
    | (.error (.fault _ _), s1) => drop s1
    | (.error (.park _), s1) => drop s1
    | (.error (.peer q), s1) =>
      (holdPacket k { x.port with waiting := true } s1).askPeer (peerOf (q.line * 128)) (s1.fn x.fn).domain q
    | (.error .busy, s1) => s1.post (.gridComplete k)

/-- GRID_COMPLETE (R432, R433, R450): a grid whose blocks are done and whose counters are 0, or a packet whose effect is
complete, ends with its outcome; the record follows when no message is on its way, then the interrupt. In the error state it
ends at once. -/
def execGridComplete (grid : Nat) (s : State) : Out :=
  match s.grids.find grid with
  | none => .next s
  | some x =>
    if x.isOver then .next (removeGrid s grid)
    else if x.port.waiting then .next s
    else
      match x.ended, outcomeOf s x with
      | some _, _ =>
        if s.queue.isEmpty then .next (writeRecord s grid x (x.result.getD (1, 0))) else .next (s.post (.gridComplete grid))
      | none, none => .next s
      | none, some r =>
        let s1 := s.updGrid grid fun g => { g with result := some r, ended := some s.datum }
        let s2 := if x.kind = 1 ∧ r.1 ≠ 2 then s1.emit x.fn (hubSrc 0) 0x96 x.seqNo else s1
        .next (s2.post (.gridComplete grid))

end Sys2Proof.Machine
end

