-- ==== Sys2Proof/Machine/Sched.lean ====
section
/-!
DEFINITION. From an accepted launch to running strands and to the end of its blocks: binding (R424 to R427), admission
(R428, R162, R166, R175), priority pre-emption (R429, R431), leaving and resumption (R254 to R258), retirement, kills and
relaunches (R222, R259, R414), and waking clusters (R434).
-/
namespace Sys2Proof.Machine

-- Room on a core

/-- What blocks take of a core, or what is left of it (R427): strand slots, registers, scratchpad bytes, the function table. -/
structure Room where
  slots   : Nat
  regs    : Nat
  scratch : Nat
  table   : Nat
  deriving DecidableEq, Repr

/-- An empty core. -/
def Room.all : Room := ⟨64, 2048, 524288, 1⟩
/-- Nothing. -/
def Room.zero : Room := ⟨0, 0, 0, 0⟩
/-- What is left when something is taken. -/
def Room.less (r x : Room) : Room := ⟨r.slots - x.slots, r.regs - x.regs, r.scratch - x.scratch, r.table - x.table⟩
/-- How often one need goes into another's room; a need of 0 always does. -/
def timesIn (r x : Nat) : Nat := if x = 0 then 64 else r / x
/-- How many blocks of a need fit. -/
def Room.holds (r x : Room) : Nat :=
  min (min (timesIn r.slots x.slots) (timesIn r.regs x.regs)) (min (timesIn r.scratch x.scratch) (timesIn r.table x.table))

/-- The registers that admission reserves (R166, R167). -/
def reservation (g : Grid) (full : Bool) : Nat :=
  if g.overcommit && !full then ceilDiv (g.vregs * g.strands) 2 else g.vregs * g.strands
/-- What a block of a grid needs. -/
def needOf (g : Grid) (full : Bool) : Room := ⟨g.strands, reservation g full, g.scratch, b2n g.fntable⟩

/-- What blocks leave of a core: `gone` names blocks that are taken to have left. -/
def roomWithout (s : State) (gone : Nat → Bool) (c : Nat) : Room :=
  (s.blocks.filter fun p => p.2.core == c && p.2.phase != .aside && !gone p.1).foldl (fun r p =>
    r.less ⟨p.2.nstr, max p.2.reserved (blockRegs s p.2), p.2.scratchSize, b2n (s.grid p.2.grid).fntable⟩) .all
/-- The room on a core. -/
def coreRoom (s : State) (c : Nat) : Room := roomWithout s (fun _ => false) c

/-- The bind records of a core (R427). -/
def bindsOf (s : State) (c : Nat) : List Bind := s.slotTables.getD c []
/-- What a bind record's block will need. -/
def Bind.need (s : State) (r : Bind) : Room :=
  needOf (s.grid r.grid) (match r.resume with | some b => (s.block b).full | none => false)
/-- The records of a core that stand before a new one of a priority. -/
def bindsBefore (s : State) (e c : Nat) : List Bind := (bindsOf s c).filter fun r => decide (e ≤ r.prio)
/-- The room when the blocks bound before have been admitted. -/
def bindRoom (s : State) (e c : Nat) : Room := (bindsBefore s e c).foldl (fun r b => r.less (b.need s)) (coreRoom s c)
/-- The room for binding ahead: a core without a record before it, once its blocks have gone. -/
def aheadRoom (s : State) (e c : Nat) : Room := if (bindsBefore s e c).isEmpty then .all else .zero

-- Launches and their next groups (R424 to R426)

/-- A launch's effective priority (R425). -/
def effPrio (g : Grid) : Nat := min 127 (g.prio + g.age)

/-- Whether a grid is an accepted launch that has not ended. -/
def Grid.live (g : Grid) : Bool := g.kind == 1 && g.blocks != 0 && g.ended.isNone && g.result.isNone && !g.isOver

/-- Whether a block has a record in a slot table. -/
def hasRecord (s : State) (key : Nat) : Bool := s.slotTables.any fun p => p.2.any fun r => r.resume == some key

/-- A block to bind: its number, its key if it was set aside or is relaunched, and whether it needs its full reservation. -/
structure Unbound where
  bid  : Nat
  key  : Option Nat
  full : Bool
  deriving DecidableEq, Repr

/-- Whether a block that stands aside has only ended strands: it waits for its last jobs, and is not admitted again (R254). -/
def Block.isSpent (b : Block) : Bool := !b.saved.isEmpty && b.saved.all (·.ended)

/-- The blocks of a launch that stand aside to be bound again, in order of number. -/
def asides (s : State) (gk : Nat) : List (Nat × Block) :=
  sortBy (fun p => p.2.bid) (s.blocks.filter fun p => p.2.grid == gk && p.2.phase == .aside && !p.2.isSpent && !hasRecord s p.1)

/-- Whether a launch has a block that is not bound. -/
def hasUnbound (s : State) (gk : Nat) : Bool :=
  match s.grids.find gk with
  | some g => g.live && (decide (g.nextBid < g.blocks) || !g.returned.isEmpty || !(asides s gk).isEmpty)
  | none => false

/-- The blocks that a launch binds next, together (R424, R426): what was set aside first, then the lowest numbers; whole
groups, and all of a cooperative launch. A group of which a block has yet to leave waits. -/
def nextBlocks (s : State) (gk : Nat) : List Unbound :=
  let g := s.grid gk
  let unit := g.cgroup * g.sgroup
  let fresh (l : List Nat) : List Unbound := l.map fun b => ⟨b, none, false⟩
  match asides s gk with
  | p :: r =>
    if p.2.saved.isEmpty then [⟨p.2.bid, some p.1, false⟩]
    else
      let mine (q : Nat × Block) : Bool := q.2.grid == gk && (g.cooperative || q.2.bid / unit == p.2.bid / unit)
      if s.blocks.any fun q => mine q && q.2.phase == .leaving then []
      else ((p :: r).filter fun q => mine q && !q.2.saved.isEmpty).map fun q => ⟨q.2.bid, some q.1, q.2.full⟩
  | [] =>
    if g.cooperative then fresh (sortBy id g.returned ++ rangeFrom g.nextBid (g.blocks - g.nextBid))
    else
      match sortBy id g.returned with
      | b :: _ => fresh (rangeFrom (b / unit * unit) unit)
      | [] => if g.nextBid < g.blocks then fresh (rangeFrom g.nextBid unit) else []

-- Placement (R175)

/-- Cores for `n` blocks, of a list of cores with the number of blocks that each can hold. -/
def takeCores : List (Nat × Nat) → Nat → Option (List Nat)
  | _, 0 => some []
  | [], _ => none
  | (c, k) :: l, n =>
    let m := min k n
    (takeCores l (n - m)).map (List.replicate m c ++ ·)

/-- Place cluster groups, each on one of the clusters: `cap` is how many blocks a core can hold. -/
def placeGroups (cap : Nat → Nat) (cls : List Nat) : List (List Unbound) → List (Nat × Unbound) → Option (List (Nat × Unbound))
  | [], acc => some acc
  | g :: gs, acc =>
    let caps (cl : Nat) : List (Nat × Nat) :=
      (rangeFrom (8 * cl) 8).map fun c => (c, cap c - (acc.filter fun p => p.1 == c).length)
    match cls.findSome? fun cl => takeCores (caps cl) g.length with
    | none => none
    | some cs => placeGroups cap cls gs (acc ++ cs.zip g)

/-- Place stack groups, each on one of the sets of clusters. -/
def placeUnits (cap : Nat → Nat) (sets : List (List Nat)) : List (List (List Unbound)) → List (Nat × Unbound) →
    Option (List (Nat × Unbound))
  | [], acc => some acc
  | u :: us, acc =>
    match sets.findSome? fun cls => placeGroups cap cls u acc with
    | none => none
    | some a => placeUnits cap sets us a

/-- Split a list into runs of equal keys. -/
def splitRuns {α : Type} (key : α → Nat) : List α → List (List α)
  | [] => []
  | x :: l =>
    match splitRuns key l with
    | [] => [[x]]
    | [] :: r => [x] :: r
    | (y :: ys) :: r => if key x = key y then (x :: y :: ys) :: r else [x] :: (y :: ys) :: r

/-- Place blocks of a grid on clusters, in groups (R175): the core of each. -/
def placeBlocks (g : Grid) (cap : Nat → Nat) (cls : List Nat) (bs : List Unbound) : Option (List (Nat × Unbound)) :=
  let units := (splitRuns (fun u => u.bid / (g.cgroup * g.sgroup)) bs).map (splitRuns fun u => u.bid / g.cgroup)
  let sets := if g.sgroup = 1 then cls.map fun c => [c]
    else ((cls.map (· / 4)).foldl addNew []).map fun k => cls.filter fun c => c / 4 == k
  placeUnits cap sets units []

/-- The clusters of a partition whose parcels are assigned, in partition order (R175, R365). -/
def partitionClusters (s : State) (fn : Nat) : List Nat :=
  (sortBy (fun p => p.2.pidx) (s.plat.filter fun p => p.2.owner == fn && p.2.state == .assigned)).map (·.1)

/-- The clusters that a launch may bind to: those from which no drain keeps it (R431). -/
def openClusters (s : State) (gk : Nat) : List Nat :=
  let g := s.grid gk
  (partitionClusters s g.fn).filter fun c => !g.drained.any fun d => d.1 == c

/-- Turn a list by a number. -/
def rotate {α : Type} (l : List α) (n : Nat) : List α := if l.isEmpty then l else l.drop (n % l.length) ++ l.take (n % l.length)

/-- The clusters in the order in which they are tried: the spec leaves it open (log 2). A relaunched block tries its old one
last (R414). -/
def clusterOrder (s : State) (gk : Nat) (bs : List Unbound) : List Nat × State :=
  let d := s.draw
  let cls := rotate (openClusters s gk) d.1.toNat
  match bs with
  | [⟨_, some k, _⟩] =>
    let old := (s.block k).core / 8
    if (s.block k).saved.isEmpty then (cls.filter (· != old) ++ cls.filter (· == old), d.2) else (cls, d.2)
  | _ => (cls, d.2)

/-- Whether blocks may be bound behind resident ones: not while a block of a lower priority stands in the partition. -/
def mayBindAhead (s : State) (gk : Nat) : Bool :=
  let g := s.grid gk
  !(s.blocks.any fun p => p.2.onCore && (s.grid p.2.grid).fn == g.fn && decide (effPrio (s.grid p.2.grid) < effPrio g))

/-- The places of a launch's blocks that find a record in the slot tables, of 16 records each (R427), whole groups at a time. -/
def tablePlaces (s : State) (gk : Nat) (ps : List (Nat × Unbound)) : List (Nat × Unbound) :=
  let g := s.grid gk
  let left (acc : List (Nat × Unbound)) (c : Nat) : Nat :=
    16 - (bindsBefore s (effPrio g) c).length - (acc.filter fun p => p.1 == c).length
  (splitRuns (fun p => p.2.bid / (g.cgroup * g.sgroup)) ps).foldl (fun acc u =>
    if u.all fun p => decide ((u.filter fun q => q.1 == p.1).length ≤ left acc p.1) then acc ++ u else acc) []

/-- Where a launch's next blocks go, if they can be bound now. Those of a cooperative launch are bound when every one of them fits
beside what is resident and bound before (R426); as many as the slot tables of 16 records take are bound now, the rest as places come
free (DEDUCED, log 35). -/
def findPlace (s : State) (gk : Nat) (bs : List Unbound) : Option (List (Nat × Unbound)) × State :=
  let g := s.grid gk
  let need := needOf g (bs.any (·.full))
  let o := clusterOrder s gk bs
  let e := effPrio g
  let room (f : Nat → Room) (c : Nat) : Nat := min (16 - (bindsBefore s e c).length) ((f c).holds need)
  if g.cooperative then
    match (placeBlocks g (fun c => (bindRoom s e c).holds need) o.1 bs).map (tablePlaces s gk) with
    | some (p :: l) => (some (p :: l), o.2)
    | _ => (none, o.2)
  else
    match placeBlocks g (room (bindRoom s e)) o.1 bs with
    | some p => (some p, o.2)
    | none => (if mayBindAhead s gk then placeBlocks g (room (aheadRoom s e)) o.1 bs else none, o.2)

-- Slot tables (R427)

/-- The order of records in a slot table: effective priority, then time of binding. -/
def Bind.rank (r : Bind) : Nat := (127 - r.prio) * 2 ^ 64 + r.order

/-- Cores look at their slot tables again (R428). -/
def lookAgain (s : State) (cs : List Nat) : State := (cs.foldl addNew []).foldl (fun a c => a.post (.blockAdmit c)) s

/-- Remove records: their blocks return to their launches unbound, whole groups at a time (R427, R431), and what stood behind them may
be admitted. -/
def removeBinds (s : State) (p : Nat → Bind → Bool) : State :=
  let hit := s.slotTables.flatMap fun t => t.2.filter (p t.1)
  let goes (r : Bind) : Bool := hit.any fun h => h.grid == r.grid && h.order == r.order
  let back := s.slotTables.flatMap fun t => t.2.filter goes
  let s1 := { s with slotTables := s.slotTables.map fun t => (t.1, t.2.filter fun r => !goes r) }
  lookAgain
    (back.foldl (fun a r => if r.resume.isSome then a else a.updGrid r.grid fun x => { x with returned := addNew x.returned r.bid }) s1)
    ((s.slotTables.filter fun t => t.2.any goes).map (·.1))

/-- Write records for placed blocks: those of one stack group, or else cluster group, have one order number. A
record that no longer has a place among a core's 16 is removed again. The blocks that were to be bound with them and have no place yet
stay with their launch. -/
def writeBinds (s : State) (gk : Nat) (bs : List Unbound) (ps : List (Nat × Unbound)) : State :=
  let g := s.grid gk
  let unit := g.cgroup * g.sgroup
  let s1 := ps.foldl (fun (a : State) p =>
    let r : Bind := ⟨gk, p.2.bid, effPrio g, s.nextId + (p.2.bid / unit), p.2.key⟩
    { a with slotTables := a.slotTables.updD p.1 [] fun l => sortBy Bind.rank (l ++ [r]) }) s
  let s1 := removeBinds s1 fun c r => !((bindsOf s1 c).take 16).contains r
  let bids := ps.map (·.2.bid)
  let fresh := (bs.filter fun u => u.key.isNone).map (·.bid)
  let s2 := { s1 with nextId := s1.nextId + g.blocks }.updGrid gk fun x =>
    { x with
      returned := (fresh.foldl addNew x.returned).filter fun b => !bids.contains b
      nextBid := fresh.foldl (fun n b => max n (b + 1)) x.nextBid
      lastBind := s.datum, age := 0, waiting := none }
  lookAgain s2 (ps.map (·.1))

/-- Drop records of launches that have ended, and of partitions in their error state. -/
def tidyTables (s : State) : State :=
  let dead (r : Bind) : Bool := match s.grids.find r.grid with | some g => !g.live || (s.fn g.fn).err | none => true
  lookAgain { s with slotTables := (s.slotTables.map fun t => (t.1, t.2.filter fun r => !dead r)).filter fun t => !t.2.isEmpty }
    ((s.slotTables.filter fun t => t.2.any dead).map (·.1))

-- BLOCK_BIND (R424, R426)

/-- Whether a launch gets back no block for the present (R429). -/
def standsBack (s : State) (g : Grid) : Bool := match g.standBack with | some l => hasUnbound s l | none => false

/-- Ends of a launch's drains and of its standing back. -/
def tidyGrid (s : State) (fn : Nat) (g : Grid) : Grid :=
  if g.fn ≠ fn then g
  else
    { g with
      standBack := if standsBack s g then g.standBack else none
      drained := g.drained.filter fun d => d.2 == 0 || hasUnbound s d.2 }

/-- The launches that have blocks to bind now, in order of acceptance. -/
def bindable (s : State) (fn : Nat) : List (Nat × Grid) :=
  s.grids.filter fun p => p.2.fn == fn && p.2.live && !standsBack s p.2 && !(nextBlocks s p.1).isEmpty

/-- Ends of drains and of standing back; AQIs without a bindable block lose their deficit (R424). -/
def tidyFn (s : State) (fn : Nat) : State :=
  let s1 := { s with grids := s.grids.map fun (p : Nat × Grid) => (p.1, tidyGrid s fn p.2) }
  let poor (n : Nat) : Bool := n / 64 == fn && !((bindable s1 fn).any fun g => g.2.aqi == n % 64)
  { s1 with aqis := s1.aqis.map fun (p : Nat × Aqi) => (p.1, if poor p.1 then { p.2 with deficit := 0 } else p.2) }

/-- The first AQI at or after a number, cyclically, among the launches given. -/
def turnFrom (l : List (Nat × Grid)) (q : Nat) : Nat :=
  ((sortBy (fun p => (p.2.aqi + 64 - q % 64) % 64) l).headD (0, .absent)).2.aqi

/-- The wait before priority pre-emption, in the clock's units (R422). -/
def trapWait (s : State) (fn : Nat) : Nat := msToDatum (max 1 (bits (s.fn fn).schpol 16 4))

/-- No room for a launch's next blocks: from now it waits, for pre-emption after TRAPWAIT (R429). -/
def noteWaiting (s : State) (gk : Nat) : State :=
  let g := s.grid gk
  if g.waiting.isSome then s
  else (s.updGrid gk fun x => { x with waiting := some s.datum }).after (trapWait s g.fn) (.priorityPreempt gk)

/-- Whether a cooperative launch has bound some of its blocks and not all: it goes on before others of its priority (R426). -/
def halfBound (s : State) (p : Nat × Grid) : Bool :=
  p.2.cooperative && ((s.slotTables.any fun t => t.2.any fun r => r.grid == p.1) || s.blocks.any fun b => b.2.grid == p.1 && b.2.onCore)

/-- The launches that can bind a block and have the highest effective priority (R424). -/
def topLevel (s : State) (fn : Nat) : List (Nat × Grid) :=
  let all := bindable s fn
  let e := all.foldl (fun m p => max m (effPrio p.2)) 0
  let top := all.filter fun p => effPrio p.2 == e
  match top.find? (halfBound s) with | some p => [p] | none => top

/-- Bind a group to its places, at the expense of its AQI's deficit (R424, R426). -/
def bindGroup (s : State) (fn q gk cost : Nat) (bs : List Unbound) (ps : List (Nat × Unbound)) : State :=
  let s1 := (writeBinds s gk bs ps).updAqi fn q fun a => { a with deficit := a.deficit - cost }
  (s1.updFn fn fun f => { f with turn := q }).post (.blockBind fn)

/-- The turn passes on to the next AQI, whose deficit grows by 64 (R424). -/
def passTurn (s : State) (fn n : Nat) : State :=
  ((s.updAqi fn n fun a => { a with deficit := a.deficit + 64 }).updFn fn fun f => { f with turn := n }).post (.blockBind fn)

/-- BLOCK_BIND (R424, R426): the highest effective priority first; between AQIs deficit round-robin; within one the order of
acceptance. One group is bound, or the turn passes on. -/
def execBlockBind (fn : Nat) (s : State) : Out :=
  let s0 := tidyFn (tidyTables s) fn
  if (s0.fn fn).err then .next s0
  else
    let level := topLevel s0 fn
    let q := turnFrom level (s0.fn fn).turn
    match level.find? fun p => p.2.aqi == q with
    | none => .next s0
    | some (gk, g) =>
      let bs := nextBlocks s0 gk
      let r := findPlace s0 gk bs
      match r.1 with
      | none => .next (noteWaiting r.2 gk)
      | some ps =>
        let cost := ps.length * g.strands
        if cost ≤ (s0.aqi fn q).deficit then .next (bindGroup r.2 fn q gk cost bs ps)
        else .next (passTurn r.2 fn (turnFrom level (q + 1)))

/-- A launch's age is its whole milliseconds since it last bound, up to AGEMAX; it is looked at again a millisecond later (R425). -/
def ageLaunch (s : State) (grid : Nat) (g : Grid) : State :=
  let n := (s.datum - g.lastBind) / msToDatum 1
  ((s.updGrid grid fun x => { x with age := min (min 16 (bits (s.fn g.fn).schpol 0 5)) n }).after
    (g.lastBind + msToDatum (n + 1) - s.datum) (.launchAgeTick grid)).send (.blockBind g.fn)

/-- LAUNCH_AGE_TICK (R425): whole milliseconds since the launch last bound, up to AGEMAX. -/
def execLaunchAgeTick (grid : Nat) (s : State) : Out :=
  match s.grids.find grid with
  | none => .next s
  | some g =>
    if g.live then .next (ageLaunch s grid g) else .next s

-- Priority pre-emption (R429)

/-- The sublists of `n` elements, in order. -/
def chooseN {α : Type} : Nat → List α → List (List α)
  | 0, _ => [[]]
  | _ + 1, [] => []
  | n + 1, x :: l => (chooseN n l).map (x :: ·) ++ chooseN (n + 1) l

/-- Whole groups of resident blocks of a function, lowest priority first, below a priority: (priority, blocks). -/
def victimGroups (s : State) (fn e : Nat) : List (Nat × List Nat) :=
  let rs := s.blocks.filter fun p => p.2.phase == .resident && (s.grid p.2.grid).fn == fn
    && decide (effPrio (s.grid p.2.grid) < e)
  let gs := rs.map fun p => (effPrio (s.grid p.2.grid), victimGroup s p.1)
  sortBy (·.1) (gs.foldl (fun (a : List (Nat × List Nat)) g => if a.contains g then a else a ++ [g]) [])

/-- Where blocks could be placed if some blocks left, with the records of their launches gone. Records that would stand behind those of
the launch take nothing (R427). -/
def placeWithout (s : State) (gk : Nat) (bs : List Unbound) (gone : List Nat) : Option (List (Nat × Unbound)) :=
  let g := s.grid gk
  let away (b : Nat) : Bool := gone.contains b || (match (s.block b).phase with | .resident => false | _ => true)
    || (s.grid (s.block b).grid).drained.any fun d => d.2 == gk && d.1 == (s.block b).core / 8
  let gs := gone.map fun b => (s.block b).grid
  let before (c : Nat) : List Bind := (bindsBefore s (effPrio g) c).filter fun r => !gs.contains r.grid
  let room (c : Nat) : Room := (before c).foldl (fun r b => r.less (b.need s)) (roomWithout s away c)
  let cap (c : Nat) : Nat := if g.cooperative then 64 else 16 - (before c).length
  placeBlocks g (fun c => min (cap c) ((room c).holds (needOf g (bs.any (·.full))))) (openClusters s gk) bs

/-- The fewest groups of the lowest priorities whose departure, after that of others, makes room for some blocks. -/
def chooseVictims (s : State) (gk : Nat) (bs : List Unbound) (gone : List Nat) (gs : List (Nat × List Nat)) :
    Option (List (Nat × List Nat) × List (Nat × Unbound)) :=
  let levels := (gs.map (·.1)).foldl addNew []
  levels.findSome? fun p =>
    let among := gs.filter fun g => g.1 ≤ p
    if (placeWithout s gk bs (gone ++ among.flatMap (·.2))).isNone then none
    else (upto (among.length + 1)).findSome? fun n =>
      (chooseN n among).findSome? fun c => (placeWithout s gk bs (gone ++ c.flatMap (·.2))).map fun pl => (c, pl)

/-- The victims for a launch's next groups, one group after another, as far as there are any: `bs` are the blocks counted on
so far. -/
def allVictims (s : State) (gk : Nat) : Nat → List Unbound → List (Nat × List Nat) → List (Nat × Unbound) →
    List (Nat × List Nat) × List (Nat × Unbound)
  | 0, _, vs, pl => (vs, pl)
  | fuel + 1, bs, vs, pl =>
    let g := s.grid gk
    let gs := (victimGroups s g.fn (effPrio g)).filter fun x => !vs.contains x
    match chooseVictims s gk bs (vs.flatMap (·.2)) ((if gs.isEmpty then [(0, [])] else gs)) with
    | none => (vs, pl)
    | some (c, p) =>
      let vs1 := vs ++ c.filter fun x => !x.2.isEmpty
      let from_ := bs.foldl (fun n b => max n (b.bid + 1)) g.nextBid
      if g.cooperative || !g.returned.isEmpty || bs.any (fun b => b.key.isSome) || g.blocks ≤ from_ then (vs1, p)
      else allVictims s gk fuel (bs ++ (rangeFrom from_ (g.cgroup * g.sgroup)).map fun b => ⟨b, none, false⟩) vs1 p

/-- Pre-empt one victim group for a launch: by trap where the gap, a handler and the policy allow it, or else by drain of its
grid on the clusters that the launch needs (R429, R431). -/
def preemptGroup (s : State) (gk : Nat) (cls : List Nat) (v : Nat × List Nat) : State :=
  let l := s.grid gk
  let vg := (s.block (v.2.headD 0)).grid
  let x := s.grid vg
  let pol := (s.fn l.fn).schpol
  if v.1 + bits pol 8 7 ≤ effPrio l ∧ x.handler ≠ 0 ∧ bitOf pol 20 = false then
    requestPreempt ((removeBinds s fun _ r => r.grid == vg).updGrid vg fun y => { y with standBack := some gk }) false v.2
  else
    (removeBinds s fun c r => r.grid == vg && cls.contains (c / 8)).updGrid vg fun y =>
      { y with drained := y.drained ++ (cls.filter fun c => !y.drained.contains (c, gk)).map fun c => (c, gk) }

/-- Preempt the victims that make room for a launch's next blocks, and look again after TRAPWAIT (R429). A launch that itself gets back no
block takes none. -/
def preemptFor (s : State) (grid : Nat) (g : Grid) : State :=
  let bs := if standsBack s g then [] else nextBlocks s grid
  let r := if bs.isEmpty then ([], []) else allVictims s grid 512 bs [] []
  let cls := (r.2.map fun p => p.1 / 8).foldl addNew []
  let s1 := r.1.foldl (fun a v => preemptGroup a grid cls v) s
  (s1.after (trapWait s g.fn) (.priorityPreempt grid)).send (.blockBind g.fn)

/-- PRIORITY_PREEMPT (R429): a launch has waited TRAPWAIT for room. It looks again while it waits. -/
def execPriorityPreempt (grid : Nat) (s : State) : Out :=
  match s.grids.find grid with
  | none => .next s
  | some g =>
    if !g.live || g.waiting.isNone || (s.fn g.fn).err then .next s
    else .next (preemptFor s grid g)

-- Strands at launch and at resumption (R162, R256)

/-- The context area of a block: address and window (R250, R421). -/
def contextOf (g : Grid) (bid : Nat) : Word × BitVec 16 :=
  if g.context = 0 then (0, 0)
  else (BitVec.ofNat 64 (g.ctxOff + bid * (ceilDiv g.context 4096 * 4096)), BitVec.ofNat 16 g.ctxWin)

/-- A strand in its launch state (R162). -/
def launchStrand (g : Grid) (key bid core slot sid prio : Nat) : Strand :=
  let gnum := (bid * g.strands + sid) * 32
  let st := { Strand.init with
    core := core, slot := slot, blk := key, sid := sid, bid := bid, nstr := g.strands, prio := prio
    ceil := g.vregs, seed := g.seed, gnum := gnum, gens := seedAll g.seed gnum
    ctxa := (contextOf g bid).1, ctxw := (contextOf g bid).2, tvec := g.handler, win := g.wins, cwin := g.cwin
    pc := g.entry, arrival := .target g.entry }
  (number 0 g.args).foldl (fun a p => a.setS p.1 p.2 false) st

/-- What is kept of a strand across a trap pre-emption (R255), of a view only a suspended one, in a strand otherwise at its initial values. -/
def keptStrand (st : Strand) : Strand :=
  { Strand.init with
    core := st.core, slot := st.slot, blk := st.blk, sid := st.sid, bid := st.bid, nstr := st.nstr
    fl := st.fl, rnd := st.rnd, seed := st.seed, batch := st.batch, batches := st.batches, pending := st.pending
    h := st.h, win := st.win, bnd := st.bnd, joined := st.joined
    suspended := st.suspended, vstamp := if st.suspended then st.vstamp else 0, vretry := if st.suspended then st.vretry else 0
    vem := if st.suspended then st.vem else 0
    pbarKept := st.pbarKept, ended := st.ended }

/-- A strand at its resume entry (R256), or ended as it was. -/
def resumeStrand (g : Grid) (kept : Strand) (key bid core slot sid prio : Nat) : Strand :=
  let st := launchStrand g key bid core slot sid prio
  { st with
    fl := kept.fl, rnd := kept.rnd, seed := kept.seed, gens := seedAll kept.seed st.gnum, batch := kept.batch
    batches := kept.batches, pending := kept.pending, h := kept.h, win := kept.win, bnd := kept.bnd, joined := kept.joined
    suspended := kept.suspended, vstamp := kept.vstamp, vretry := kept.vretry, vem := kept.vem, pbarKept := kept.pbarKept
    ended := kept.ended, trapMode := true, tcause := BitVec.ofNat 8 cPreempt, taddr := 1, tpc := 0, tem := st.pm, tfk := 0
    pc := g.handler, arrival := .target g.handler }

-- Admission (R428)

/-- The free strand slots of a core. -/
def freeSlots (s : State) (core : Nat) : List Nat := (upto 64).filter fun i => (s.strand (64 * core + i)).isNone

/-- Admit one block (R428, R175): its strands start, or resume, which is an acquire at device scope (R257); none where its implicit bundle finds no entry. -/
def admitBlock (s : State) (core : Nat) (r : Bind) : Option State :=
  let g := s.grid r.grid
  let key := r.resume.getD s.nextId
  let old := s.block key
  let resumed := r.resume.isSome && !old.saved.isEmpty
  let places := (freeSlots s core).take g.strands
  let keys := places.map (64 * core + ·)
  let b : Block :=
    if resumed then
      { old with core := core, strands := keys, phase := .resident, reserved := reservation g old.full, full := false, prio := r.prio
                 admitted := s.nextId + 1, saved := [], credit := 0, fmt := Vector.replicate 16 0 }
    else
      { Block.absent with
        grid := r.grid, bid := r.bid, core := core, nstr := g.strands, strands := keys, launches := old.launches + 1
        scratchSize := g.scratch, reserved := reservation g false, keepStamp := old.keepStamp, prio := r.prio
        admitted := s.nextId + 1 }
  let s1 := { s with
    nextId := s.nextId + 2
    blocks := s.blocks.put key b
    slotTables := s.slotTables.updD core [] fun l => l.filter (· != r)
    sched := s.sched ++ ((rangeFrom (32 * core) 32).filter fun l => !s.sched.contains l && !(s.core core).retired.contains (l % 32)) }
  let s2 := if g.fntable then s1.updCore core fun c => { c with table := ⟨[], 0, some key, none, []⟩ } else s1
  let s3 := (number 0 places).foldl (fun (a : State) p =>
    let k := 64 * core + p.2
    if resumed then
      let st := resumeStrand g (old.saved.getD p.1 .init) key r.bid core p.2 p.1 r.prio
      (if st.ended then a else implicitScope a g.fn 6).setStrand k st
    else
      let st := launchStrand g key r.bid core p.2 p.1 r.prio
      (a.setStrand k st).emitStrand k st 0x11 (pcBits st.pc)) (s2.emit g.fn (hubSrc 0) 0x91 g.seqNo)
  if g.restartable && !resumed then openImplicit s3 key else some s3

/-- Admit blocks one after another, or none. -/
def admitAll (s : State) : List (Nat × Bind) → Option State
  | [] => some s
  | (c, r) :: l => (admitBlock s c r).bind fun s1 => admitAll s1 l

/-- Ask for a cluster to be woken (R434): one after another, at least 1 µs apart. -/
def wakeCluster (s : State) (cl : Nat) : State :=
  if s.wakes.contains cl then s
  else
    let s1 := { s with wakes := s.wakes ++ [cl] }
    if s.wakes.isEmpty then s1.after (s.wakeAt - s.datum) .clusterWake else s1

/-- Whether two records of the slot tables belong to one group. -/
def sameGroup (r x : Bind) : Bool := x.grid == r.grid && x.order == r.order

/-- The members of a group in the slot tables, with their cores. -/
def groupMembers (s : State) (r : Bind) : List (Nat × Bind) :=
  s.slotTables.flatMap fun t => (t.2.filter (sameGroup r)).map fun x => (t.1, x)

/-- The cores of a group's members. -/
def groupCores (s : State) (r : Bind) : List Nat := ((groupMembers s r).map (·.1)).foldl addNew []

/-- Whether every member of a group heads its core's table, and fits (R428). -/
def groupHeads (s : State) (r : Bind) : Bool :=
  (groupCores s r).all fun c =>
    let mine := (bindsOf s c).filter (sameGroup r)
    (bindsOf s c).take mine.length == mine
      && decide (mine.length ≤ (coreRoom s c).holds (needOf (s.grid r.grid) (mine.any fun x =>
        match x.resume with | some b => (s.block b).full | none => false)))

/-- The clusters of a group that are not awake. -/
def groupAsleep (s : State) (r : Bind) : List Nat :=
  (((groupCores s r).map (· / 8)).foldl addNew []).filter fun cl => (s.cluster cl).idle

/-- BLOCK_ADMIT (R428): the first record of a core's slot table is admitted, with its group, when every member heads its
table, fits, and its cluster is awake. -/
def execBlockAdmit (core : Nat) (s : State) : Out :=
  let s0 := tidyTables s
  match bindsOf s0 core with
  | [] => .next s0
  | r :: _ =>
    if !groupHeads s0 r then .next s0
    else
      let asleep := groupAsleep s0 r
      if !asleep.isEmpty then .next (asleep.foldl wakeCluster s0)
      else
        match admitAll s0 (groupMembers s0 r) with
        | some s1 => .next ((groupCores s0 r).foldl (fun a c => a.post (.blockAdmit c)) (s1.send (.blockBind (s0.grid r.grid).fn)))
        | none => .next (s0.post (.blockAdmit core))

-- Blocks that end or leave

/-- Free what a block holds of its core (R183, R254): items, the function table, strands and their slots. Stores that have not been
acknowledged stay known to the core (R298, R318). -/
def vacate (s : State) (key : Nat) (b : Block) : State :=
  let s1 := releaseItems (releaseItems s b.core key false (2 ^ 32 - 1)) b.core key true 255
  let s2 := if (s1.core b.core).table.owner = some key
    then s1.updCore b.core fun c => { c with table := ⟨[], 0, none, none, []⟩ } else s1
  let mine (p : Nat × Strand) : Bool := b.strands.contains p.1 && p.2.blk == key && !p.2.sill
  let left := (s2.strands.filter mine).flatMap fun p => p.2.unacked
  let s3 := if left.isEmpty then s2 else s2.updCore b.core fun c => { c with orphans := c.orphans ++ left }
  { s3 with strands := s3.strands.filter fun p => !mine p, cards := s3.cards.filter fun p => !b.strands.contains p.1 }

/-- A core has fewer blocks: its lanes stop when none is left, and what waits for room looks again. A strand that still waits for a
register makes another block give way (R167). -/
def coreFreed (s : State) (core fn : Nat) : State :=
  let busy := s.blocks.any fun p => p.2.core == core && p.2.phase != .aside
  let s1 := if busy then s else { s with sched := s.sched.filter fun l => l / 32 != core }
  let s2 := wakeRegisters s1 core
  let s3 := if (strandsOfCore s2 core).any fun p => p.2.wait == .register then registerPressure s2 core else s2
  (noteQuiet s3 (core / 8)).post (.blockAdmit core) |>.send (.blockBind fn)

/-- A block is done: retired, or killed for good (R432). -/
def blockDone (s : State) (key : Nat) (b : Block) (killed : Bool) : State :=
  let g := s.grid b.grid
  let s1 := { vacate s key b with blocks := s.blocks.del key }.updGrid b.grid fun x =>
    { x with doneBids := addNew x.doneBids b.bid
             retired := if killed then x.retired else x.retired + 1, killed := if killed then x.killed + 1 else x.killed }
  let s2 := if killed then s1 else s1.emit g.fn (hubSrc 0) 0x92 g.seqNo
  (coreFreed (plumbNotify s2 b.grid) b.core g.fn).send (.gridComplete b.grid)

/-- Joined strands of a block that have ended leave their bundles, which become ABORTED (R325); those of the implicit one count
as arrived (R273). -/
def leaveBundles (s : State) (b : Block) : State :=
  b.strands.foldl (fun (a : State) k =>
    match a.strand k with
    | some st =>
      if st.ended ∧ st.joined ∧ (st.bnd ≠ b.bundle ∨ b.bundle = 0) then
        sendTo (a.setStrand k { st with joined := false }) (bundleDev st.bnd)
          (.bundleCloseArrival (a.mail (coreDie st.core)) noAsker st.bnd .aborts [])
      else a
    | none => a) s

/-- A block that is killed while it stands aside: its joined strands leave their bundles too (R259, R325). -/
def leaveSaved (s : State) (key : Nat) (b : Block) : State :=
  b.saved.foldl (fun (a : State) st =>
    if st.joined ∧ (st.bnd ≠ b.bundle ∨ b.bundle = 0) then
      sendTo a (bundleDev st.bnd) (.bundleCloseArrival (a.mail (coreDie st.core)) noAsker st.bnd .aborts [])
    else a) (s.updBlock key fun x => { x with saved := x.saved.map fun st => { st with joined := false } })

/-- Whether every strand of a block satisfies a predicate. -/
def allStrands (s : State) (b : Block) (p : Strand → Bool) : Bool :=
  b.strands.all fun k => match s.strand k with | some st => p st | none => true

/-- A resident block may have come to its end (R222): it retires when its strands have ended and its work is done; the
bundle that a restartable one still has open commits (R273) when its stores are at their homes. -/
def retireBlock (s : State) (key : Nat) (b : Block) : State :=
  let s1 := leaveBundles s b
  let s2 := plumbNotify (if allArrived s1 b && !allStrands s1 b (·.ended) then releaseBarrier s1 key else s1) b.grid
  if !allStrands s2 b (·.ended) || !(blockWork s2 key).isEmpty then s2
  else if b.bundle ≠ 0 ∧ allStrands s2 b (fun st => st.unacked.isEmpty) = false then s2.post (.blockRetire key)
  else blockDone (commitImplicit s2 key) key b false

/-- Whether an operation of a block keeps it on its core (R254): an array operation, or a job with a scratchpad or slot
region. -/
def holdsCore (s : State) (key : Nat) : Bool :=
  (s.arrayOps.any fun p => p.2.blk == key)
  || s.jobs.any fun p => p.2.blk == key && ((p.2.regions.any fun r => match r with | some x => x.space != 0 | none => false)
    || match p.2.work with | .tile .. => true | _ => false)

/-- A block that gives way leaves when every strand has been set aside or has ended and nothing holds it (R254); one whose strands have
all ended and that has no more work retires. The stores of an implicit bundle are at their homes first (R273). -/
def leaveBlock (s : State) (key : Nat) (b : Block) : State :=
  if allStrands s b (·.ended) && (blockWork s key).isEmpty then retireBlock s key b
  else
    let s1 := plumbNotify (leaveBundles s b) b.grid
    if !allStrands s1 b (fun st => st.ended || st.asideMark) || holdsCore s1 key then s1
    else if b.bundle ≠ 0 ∧ allStrands s1 b (fun st => st.unacked.isEmpty) = false then s1.post (.blockRetire key)
    else
      let g := s1.grid b.grid
      let saved := b.strands.map fun k => match s1.strand k with | some st => keptStrand st | none => { Strand.init with ended := true }
      let s2 := (vacate s1 key b).updBlock key fun x => { x with phase := .aside, strands := [], saved := saved }
      coreFreed (s2.emit g.fn (hubSrc 0) 0x94 g.seqNo) b.core g.fn

/-- A killed block loses its jobs (R222): what has not started is removed, copies stop, sill strands end, a collective ends
ABORTED for every participant (R215), a code load runs on, and what is parked is discarded (R407). -/
def killJob (s : State) (j : Nat) (x : Job) : State :=
  match x.phase, x.work with
  | .ended _ _, _ => s
  | _, .coll _ _ _ _ _ _ name => abortColl name (tellPeers s x .killed) (s.grid x.grid).fn
  | .waiting, _ => endJob s j 2 0
  | .parked, _ => endJob s j 2 0
  | _, .code _ => s
  | _, .close _ => endJob s j 4 0
  | _, .sill .. => endSill s j 2 0
  | .landed, _ => if x.follow.any fun o => match s.arrayOps.find o with | some a => a.phase == .queued | none => true
      then endJob s j 2 0 else s
  | _, _ => if x.cancel then s else (s.updJob j fun y => { y with cancel := true }).post (.jobStart j)

/-- What is left of a killed block ends (R259): its jobs, its array operations that are queued or parked (R407), its bundles; array
operations under way complete. Then it goes, or stands aside to be relaunched (R414). -/
def endKilled (s : State) (key : Nat) (b : Block) (again : Bool) : State :=
  let s1 := (s.arrayOps.filter fun p => p.2.blk == key && ((p.2.phase == .queued && p.2.job.isNone) || p.2.phase == .parked)).foldl
    (fun a p => dropArrayOp a p.1) s
  let s2 := (s1.jobs.filter fun p => p.2.blk == key).foldl (fun a p => killJob a p.1 p.2) s1
  let s3 := dropImplicit (leaveSaved (leaveBundles s2 b) key b) key
  let s4 := s3.updCore b.core fun c => { c with table := { c.table with waiting := c.table.waiting.filter fun k => !b.strands.contains k } }
  let s5 := { plumbNotify s4 b.grid with slotTables := s4.slotTables.map fun t => (t.1, t.2.filter fun r => r.resume != some key) }
  if !(blockWork s5 key).isEmpty then s5
  else if again && !(s5.fn (s5.grid b.grid).fn).err then
    let g := s5.grid b.grid
    let s6 := { vacate (relaunchCounts s5 b.grid b.bid) key b with
      blocks := s5.blocks.put key { Block.absent with
        grid := b.grid, bid := b.bid, core := b.core, nstr := b.nstr, phase := .aside, launches := b.launches
        keepStamp := (s5.block key).keepStamp } }
    coreFreed s6 b.core g.fn
  else blockDone s5 key b true

/-- A block that has left with only ended strands retires when its last jobs are done (R222, R254). -/
def retireAside (s : State) (key : Nat) (b : Block) : State :=
  if b.isSpent && (blockWork s key).isEmpty then blockDone (commitImplicit s key) key b false else s

/-- BLOCK_RETIRE (R222, R259): a strand has ended, or the block's work has become less, or it has been killed. -/
def execBlockRetire (block : Nat) (s : State) : Out :=
  match s.blocks.find block with
  | none => .next s
  | some b =>
    match b.phase with
    | .resident => .next (retireBlock s block b)
    | .leaving => .next (leaveBlock s block b)
    | .aside => .next (retireAside s block b)
    | .killed _ again => .next (endKilled s block b again)

/-- BLOCK_LEAVE (R254). -/
def execBlockLeave (block : Nat) (s : State) : Out :=
  match s.blocks.find block with
  | none => .next s
  | some b => if b.phase = .leaving then .next (leaveBlock s block b) else .next s

/-- SAVE_LIMIT_EXPIRY (R258): a block that has not left is killed; time in a subnormal assist or stalled by tracing does not
count. -/
def execSaveLimitExpiry (block core order : Nat) (s : State) : Out :=
  match s.blocks.find block with
  | none => .next s
  | some b =>
    if b.phase ≠ .leaving ∨ b.core ≠ core ∨ b.admitted ≠ order then .next s
    else
      let left := saveLimit s (s.grid b.grid).fn - saveTime s b
      if left = 0 then .next (killBlock s block cSaveLimit) else .next (s.after left (.saveLimitExpiry block core order))

-- Clusters (R434)

/-- Whether a cluster has an admitted block, or an operation of one of its cores is outstanding. -/
def clusterBusy (s : State) (cl : Nat) : Bool :=
  (s.blocks.any fun p => p.2.phase != .aside && p.2.core / 8 == cl)
  || s.grids.any fun g => g.2.counts.any fun p => p.2 != 0 && clusterOf p.1 == cl

/-- CLUSTER_IDLE (R434): after 1 ms without work a cluster's clocks stop; its caches keep their contents. -/
def execClusterIdle (cluster : Nat) (s : State) : Out :=
  let c := s.cluster cluster
  let s1 := s.updCluster cluster fun x => { x with timer := false }
  if clusterBusy s cluster || c.idle then .next s1
  else if c.quiet + msToDatum 1 ≤ s.datum then .next (s1.updCluster cluster fun x => { x with idle := true })
  else .next ((s.updCluster cluster fun x => { x with timer := true }).after (c.quiet + msToDatum 1 - s.datum)
    (.clusterIdle cluster))

/-- Wake a cluster: its blocks may be admitted; the next wakes no sooner than 1 µs later (R434). -/
def wakeNext (s : State) (cl : Nat) (r : List Nat) : State :=
  let s1 := { s with wakes := r, wakeAt := s.datum + nsToDatum 1000 }
  let s2 := noteQuiet ((s1.updCluster cl fun c => { c with idle := false }).emitNotice pf (hubSrc 33) 0xD2 false none) cl
  let s3 := (rangeFrom (8 * cl) 8).foldl (fun a c => a.post (.blockAdmit c)) s2
  if r.isEmpty then s3 else s3.after (nsToDatum 1000) .clusterWake

/-- CLUSTER_WAKE (R434): the power controller wakes the next cluster, no more than one per µs. -/
def execClusterWake (s : State) : Out :=
  match s.wakes with
  | [] => .next s
  | cl :: r => .next (wakeNext s cl r)

end Sys2Proof.Machine
end

