-- ==== Sys2Proof/Machine/Bias.lean ====
section
/-!
DEFINITION. Bias (R150, R453 to R456): flips of 4-KiB pages, asked for by `cbias` and by BIAS packets, and the host's answers.
-/
namespace Sys2Proof.Machine

/-- The lines of a 4-KiB page. -/
def pageLines (page : Nat) : List Nat := rangeFrom (32 * page) 32

/-- The home of a 4-KiB page. -/
def pageHome (page : Nat) : Nat := homeFor (32 * page)

/-- Emit BIAS START or BIAS END. -/
def emitBias (s : State) (page code : Nat) : State :=
  s.emit (s.platOf (pageHome page)).owner (sliceSrc (pageHome page) 4) code (traceLine s (32 * page))

/-- The flip of a page that is under way or next. -/
def headFlip (s : State) (page : Nat) : Option Flip := (s.flips.getD page []).head?

/-- Take the first flip of a page away; who asked for it looks again, and the next one comes (R456). -/
def endFlip (s : State) (page : Nat) : State :=
  match s.flips.getD page [] with
  | [] => s
  | f :: r =>
    let s1 := { s with flips := if r.isEmpty then s.flips.del page else s.flips.put page r }
    let s2 := match f.packet with
      | some k => s1.post (packetEvent 6 (b2n f.toHost) k)
      | none => s1
    let s3 := match f.strand with
      | some k =>
        if s2.flips.any fun p => p.2.any fun g => g.strand == some k then s2
        else (match s2.strand k with
          | some st => if st.wait = .bias ∧ st.ended = false then retire s2 k st st.pendNx 0 st.em else s2
          | none => s2)
      | none => s2
    if r.isEmpty then s3 else s3.post (.biasFlipEnd page)

/-- Begin the first flip of a page (R454, R455): every window closes; then the home is busy with all 32 lines, for the copies
to be given up or for the host's answers. While a line is busy otherwise, it is tried again. -/
def beginFlip (s : State) (page : Nat) (f : Flip) : State :=
  let h := pageHome page
  if s.hostBias.contains page == f.toHost then endFlip s page
  else
    let s1 := (pageLines page).foldl (fun a l => closeWindow a h l) s
    if (pageLines page).any fun l => busyLine s1 h l then s1.post (.biasFlipEnd page)
    else
      let s2 := { emitBias s1 page 0xB2 with
        flips := s1.flips.updD page [] fun l => match l with | g :: r => { g with waits := pageLines page } :: r | [] => [] }
      let s3 := (pageLines page).foldl (fun (a : State) l =>
        let cores := if f.toHost then (dirOf a h l).holders a else []
        let b := beginTx a h l cores .recalled []
        let n := if f.toHost then cores.length + 1 else 2
        let c := b.updHome h fun y => { y with busy := y.busy.upd l fun t => { t with need := n } }
        if f.toHost then c else c.emitOut (.snoop l)) s2
      flipReady s3 h (32 * page)

/-- Ask for flips of pages; flips of one page happen in the order of asking (R456). -/
def askFlips (s : State) (pages : List Nat) (f : Flip) : State :=
  let s1 := pages.foldl (fun (a : State) p => { a with flips := a.flips.updD p [] (· ++ [f]) }) s
  (pages.foldl addNew []).foldl (fun a p => if (s.flips.getD p []).isEmpty then beginFlip a p f else a) s1

/-- Every line of a page has answered its flip (R454). -/
def flipAnswered (s : State) (page : Nat) : Bool :=
  (pageLines page).all fun l => match (s.home (pageHome page)).busy.find l with | some t => t.need == 1 | none => false

/-- Complete a flip: the home drops its extents of the page, the bit changes, and what was held goes on (R454, R455). -/
def completeFlip (s : State) (page : Nat) (f : Flip) : State :=
  let h := pageHome page
  let gone := (s.home h).l2.extents.filter fun e => e.frame / 4 == page
  let s1 := (pageLines page).foldl (fun a l =>
    (l2Drop a h l).updHome h fun y => { y with l2 := { y.l2 with lines := y.l2.lines.del l } })
    (gone.foldl (fun a e => emitL2 a h 0x51 e.frame e.lo e.hi) s)
  let s2 := emitBias { s1 with
    hostBias := if f.toHost then addNew s1.hostBias page else s1.hostBias.filter (· != page) } page 0xB3
  (pageLines page).foldl (fun a l => ackTx a h l) (endFlip s2 page)

/-- BIAS_FLIP_END (R454, R455): every line of the page has answered. The home writes back and drops its extents, the bit
changes, and what was held goes on. A flip that could not begin is tried again. -/
def execBiasFlipEnd (page : Nat) (s : State) : Out :=
  match headFlip s page with
  | none => .next s
  | some f =>
    if f.waits.isEmpty then .next (beginFlip s page f)
    else if flipAnswered s page then .next (completeFlip s page f)
    else .next s

/-- BISNP_RESPONSE (R454, R455): the host's answer to a snoop of a line; dirty data is merged at the home. -/
def execBisnpResponse (line : Nat) (data : Option (BitVec 1024)) (s : State) : Out :=
  let h := homeFor line
  if !busyLine s h line then .next s
  else
    let s1 := match data with
      | some d => homeMerge s h line (number 0 (toBytes 128 d.toNat)) false
      | none => s
    let s2 := if (s.flips.find (line / 32)).isSome then s1 else { s1 with snooped := addNew s1.snooped line }
    .next (ackTx s2 h line)

-- Who may ask (R150)

/-- Whether a 4-KiB page at an offset qualifies: its physical page, or that it does not, or that it is skipped because it is
not mapped or not resident (R147, R150). -/
inductive Qualifies where
  | yes (page : Nat)
  | no
  | skip
  deriving DecidableEq, Repr

/-- The test of R150 for the page at an offset of a window: device memory of this module, within the HDM range, writable, and not
bundled (R138). -/
def biasPage (s : State) (w : Who) (win off : Nat) : Qualifies × State :=
  let r := translate s w ⟨true, false, .plain cPermission⟩ (win * 2 ^ 64 + off)
  match r.1 with
  | .ok ga l =>
    if l.tgt = 0 ∧ l.gpa * 65536 + off % 65536 < (s.fn w.fn).hdmSize then (.yes (ga / 4096), r.2) else (.no, r.2)
  | .trap c => (if c = cTranslation then .skip else .no, r.2)
  | .replay kind _ _ => (if kind = 1 then .skip else .no, r.2)

/-- Everything `cbias` waits for and checks: every page is tested before any changes (R150). -/
def biasChecks (f : Fields) (st : Strand) : M (List Nat) := do
  let s ← get
  let r ← rangeOf s st f
  let w := whoOf s st
  let win := (st.window f.m.toNat).toNat
  let first := r.1 / 4096
  let offs := if r.2 = 0 then [] else (rangeFrom first ((r.1 + r.2 - 1) / 4096 - first + 1)).map (· * 4096)
  let qs ← offs.mapM fun o => do
    let q := biasPage (← get) w win o
    set q.2
    match q.1 with
    | .yes p => return [p]
    | .skip => return []
    | .no => mtrap cPermission (BitVec.ofNat 64 (max o r.1))
  return qs.flatMap id

/-- Ask for the flips of pages: the strand waits until every one has ended (R150); what the uniform member of its pair writes is kept
until then (R13). -/
def biasWait (f : Fields) (k : Nat) (st : Strand) (pages : List Nat) (s : State) : State :=
  askFlips (s.setStrand k { endChain st with wait := .bias, lane := none, pendNx := f.nx }) pages
    ⟨f.cOp == 1, [], none, some k⟩

/-- `cbias` (R150). -/
def execCbias (f : Fields) (s : State) : Out :=
  runMem [] (fun k st => do
    let pages ← biasChecks f st
    if pages.isEmpty then finishMem k f.nx st id else modify (biasWait f k st pages)) s

-- BIAS packets (R450)

/-- Test every page of a BIAS packet: the pages, or that one does not qualify, or one that is not usable yet. -/
def biasPages (w : Who) (win : Nat) : List Nat → State → Option (List Nat) × Option PageFault × State
  | [], s => (some [], none, s)
  | o :: r, s =>
    let q := translate s w ⟨true, false, .any⟩ (win * 2 ^ 64 + o)
    match q.1 with
    | .replay 1 gpa table => (none, some ⟨win, o, 1, gpa, table, true, false⟩, q.2)
    | _ =>
      match biasPage q.2 w win o with
      | (.yes p, s1) =>
        (match biasPages w win r s1 with
        | (some l, e) => (some (p :: l), e)
        | (none, e) => (none, e))
      | (_, s1) => (none, none, s1)

/-- Whether the fields of a BIAS packet are in their limits (R448). -/
def biasOk (x : Grid) : Bool :=
  x.limitsOk [(2, 1), (8, 2), (0xC, 4), (0x18, 8)] && decide (x.at_ 2 1 ≤ 1) && x.at_ 0xC 4 != 0 && decide (x.at_ 0xC 4 ≤ 16)
    && x.at_ 0x18 8 % 4096 == 0

/-- A BIAS packet (R447, R450): its limits; then every page; then one flip after another. -/
def biasPacket (k : Nat) (toHost : Bool) (s : State) : State :=
  match s.grids.find k with
  | none => s
  | some x =>
    let win := x.at_ 0x08 2
    let n := x.at_ 0x0C 4
    let off := x.at_ 0x18 8
    let flip (page : Nat) (a : State) : State := askFlips a [page] ⟨toHost, [], some k, none⟩
    if x.isOver ∨ x.ended.isSome ∨ x.result.isSome then s
    else
      match x.step, x.work with
      | 0, _ =>
        if !biasOk x then refusePacket s k 1
        else
          let s1 := startPacket s k false
          if 2 ^ 64 < off + 4096 * n then endPacket s1 k 3 cWindowCrossing
          else s1.post (packetEvent 6 (b2n toHost) k)
      | 1, _ =>
        (match biasPages (hubEng s k).who win ((upto n).map fun i => off + 4096 * i) s with
        | (some ps, _, s1) => (s1.updGrid k fun g => { g with step := 2, work := ps }).post (packetEvent 6 (b2n toHost) k)
        | (none, some p, s1) => requestFault s1 (hubEng s k).who p
        | (none, none, s1) => endPacket s1 k 3 cPermission)
      | _, [] => endPacket s k 1 0
      | _, p :: r =>
        if s.flips.any fun q => q.2.any fun g => g.packet == some k then s
        else flip p (s.updGrid k fun g => { g with work := r })

/-- BIAS to host bias. -/
def execBiasToHost (packet : Nat) (s : State) : Out := .next (biasPacket packet true s)
/-- BIAS to device bias. -/
def execBiasToDevice (packet : Nat) (s : State) : Out := .next (biasPacket packet false s)

end Sys2Proof.Machine
end

