-- ==== Sys2Proof/Machine/BundleInstr.lean ====
section
/-!
DEFINITION. The bundle, view and trace instructions (R263 to R275).
-/
namespace Sys2Proof.Machine

/-- What `bopen` waits for and checks: the name, the need, the tag (R266). -/
def bopenChecks (f : Fields) (st : Strand) : M (Nat × Nat × Half) := do
  let s ← get
  liftRes (awaitRegs st [] (f.d.toNat :: memRegs false [f.a, f.b, f.c]))
  if (st.joined && st.answer.isNone) || restartableBlock s st then mtrapHere cIllegalContext
  let a ← liftRes (uval s st f.ty f.a)
  let b ← liftRes (uval s st f.ty f.b)
  let c ← liftRes (if f.fBit 0 then uval s st f.ty f.c else .ok 0)
  let name := field a 0 32
  let need := field b 0 16
  if name = 0 ∨ need = 0 ∨ 4096 < need then mtrapHere cIllegalField
  return (name, need, if f.fBit 0 then c.setWidth 32 else 0)

/-- The answer to `bopen`: 1, 2, or the handle of the bundle that the strand has joined with the answer (R266). -/
def bopenAnswer (f : Fields) (x : Nat) (y : Strand) : Strand :=
  { y.setS f.d.toNat (BitVec.ofNat 64 x) false with uc := x != 1 && x != 2 }

/-- `bopen` (R266). -/
def execBopen (f : Fields) (s : State) : Out :=
  runMem [] (fun k st => do
    let q ← bopenChecks f st
    match st.answer with
    | some x => finishMem k f.nx st (bopenAnswer f x)
    | none =>
      if st.ask = 0 then
        let fn := (whoOf s st).fn
        askQuestion k false fun s who =>
          (s.dev, .nameRegister (s.mail (coreDie st.core)) who (nameScope s fn) q.1 (.openHere st.core q.2.1 q.2.2))
      mwait .answer) s

/-- What `bjoin` waits for and checks: the name (R267). -/
def bjoinChecks (f : Fields) (st : Strand) : M Nat := do
  let s ← get
  liftRes (awaitRegs st [] (f.d.toNat :: memRegs false [f.a]))
  if (st.joined && st.answer.isNone) || restartableBlock s st then mtrapHere cIllegalContext
  let a ← liftRes (uval s st f.ty f.a)
  if field a 0 32 = 0 then mtrapHere cIllegalField
  return field a 0 32

/-- The answer to `bjoin`: the handle of the bundle that the strand has joined with it, or 0 (R267). -/
def bjoinAnswer (f : Fields) (x : Nat) (y : Strand) : Strand :=
  { y.setS f.d.toNat (BitVec.ofNat 64 x) false with uc := x != 0 }

/-- `bjoin` (R267): without `.try` the answer comes when the strand has joined. -/
def execBjoin (f : Fields) (s : State) : Out :=
  runMem [] (fun k st => do
    let name ← bjoinChecks f st
    match st.answer with
    | some x => finishMem k f.nx st (bjoinAnswer f x)
    | none =>
      if st.ask = 0 then
        let fn := (whoOf s st).fn
        askQuestion k (!f.fBit 0) fun s who =>
          (nameDev s fn name, .nameRegister (s.mail (coreDie st.core)) who (nameScope s fn) name .lookUp)
      mwait .answer) s

/-- Everything a bundled store waits for and checks: it continues no chain (R169, R264); a marked uniform source is consumed poison
(R264); every page must be bundled, but in a restartable block (R268); and it waits for earlier accesses to its lines as a store does (R304). -/
def bundledChecks (f : Fields) (vec : Bool) (st : Strand) : M (List Part × MemOpnds) := do
  let os := [f.a, f.b, f.c]
  let s ← get
  liftRes (need ((memVecs vec os).flatMap latchesOf).isEmpty cIllegalChain)
  if !st.joined then mtrapHere cIllegalContext
  liftRes (memStart s st vec os [] (memRegs vec os))
  let o ← liftRes (memOpnds s st vec f .i64)
  if !vec && (o.data 0).2 then mtrapHere cPoison
  liftRes (orderWaits st none false)
  let ps ← resolveAll st (whoOf s st) ⟨true, false, if restartableBlock s st then .any else .bundled⟩ (st.window f.m.toNat).toNat (accessSize f.ty) false
    false o true (memThreads st vec)
  liftRes (lineWaits (← get) st ps false)
  return (ps, o)

/-- `bst` and `ubst` (R268). -/
def bundledStore (f : Fields) (vec : Bool) (s : State) : Out :=
  runMem (memVecs vec [f.a, f.b, f.c]) (fun k st => do
    let r ← bundledChecks f vec st
    performBundled k st r.1 r.2.data
    finishMem k f.nx st (storeEnd vec [f.a, f.b, f.c])) s

/-- `bst`. -/
def execBst (f : Fields) (s : State) : Out := bundledStore f true s
/-- `ubst`. -/
def execUbst (f : Fields) (s : State) : Out := bundledStore f false s

/-- A strand leaves its bundle. -/
def leaveBundle (st : Strand) : Strand := { st with joined := false, bnd := 0 }

/-- What `bclose` waits for and checks: it is a release at tenant scope (R269). -/
def bcloseChecks (st : Strand) : M Unit := do
  let s ← get
  if !st.joined || restartableBlock s st then mtrapHere cIllegalContext
  liftRes (orderWaits st (some (min 7 (s.fn (whoOf s st).fn).cap)) false)
  if st.unacked.any fun u => u.reach ≠ 2 then mwait .acks
  jobRoom st

/-- The job of a close, and the close to the record's home (R269); one that has left the domain has aborted the bundle (R334). -/
def closeStart (f : Fields) (k : Nat) (st : Strand) (s : State) : State :=
  let r := putJob k st (f.d.toNat % 16) 0x104 [] (.close st.bnd) s
  let s1 := r.2.updJob r.1 fun x => { x with phase := .running }
  let s2 := implicitScope s1 (whoOf s st).fn 7
  if bundleDev st.bnd ≠ s2.dev ∧ routeOk s2 (bundleDev st.bnd) = false then endJob s2 r.1 4 0
  else sendTo s2 (bundleDev st.bnd) (.bundleCloseArrival (s2.mail (coreDie st.core)) noAsker st.bnd .closes [])

/-- `bclose` (R269): a release at tenant scope, then a handle; the close goes to the record's home. -/
def execBclose (f : Fields) (s : State) : Out :=
  runMem [] (fun k st => do
    bcloseChecks st
    modify (closeStart f k st)
    finishMem k f.nx st leaveBundle) s

/-- `babort` (R270): it waits until the record holds ABORTED, which this module may know. -/
def execBabort (f : Fields) (s : State) : Out :=
  runMem [] (fun k st => do
    let s ← get
    if !st.joined || restartableBlock s st then mtrapHere cIllegalContext
    match st.answer with
    | some _ => finishMem k f.nx st leaveBundle
    | none =>
      if st.ask = 0 ∧ bundleDead s st.bnd = true then
        modify fun s => sendTo s (bundleDev st.bnd) (.bundleCloseArrival (s.mail (coreDie st.core)) noAsker st.bnd .aborts [])
        return ← finishMem k f.nx st leaveBundle
      if st.ask = 0 then
        askQuestion k false fun s who =>
          (bundleDev st.bnd, .bundleCloseArrival (s.mail (coreDie st.core)) who st.bnd .aborts [])
      mwait .answer) s

/-- `view` (R271): an open view ends first, which an acquire still in flight would have ended (R272). -/
def execView (f : Fields) (s : State) : Out :=
  runPlain f.nx [] (fun s _ st =>
    let off := match f.a.spec with | .lit v => v | _ => 0
    .ok (s, { st with vstamp := BitVec.ofNat 64 s.datum, vretry := wrap64 (targetOf st.pc off), vem := st.em
                      viewOn := true, flight := st.flight.map fun p => (p.1, { p.2 with endsView := false }) })) s

/-- `vend` (R272). -/
def execVend (f : Fields) (s : State) : Out := runPlain f.nx [] (fun s _ st => .ok (s, { st with viewOn := false })) s

/-- `commit` (R273): a barrier of the block, after which its implicit bundle commits. -/
def execCommit (f : Fields) (s : State) : Out :=
  runMem [] (fun k st => do
    let s ← get
    if !restartableBlock s st then mtrapHere cIllegalContext
    arriveBarrier k st f.nx (some f.d.toNat)) s

/-- The source of a strand's records (R339). -/
def strandSrc (st : Strand) : Nat := if st.sill then sillSrc (st.core - 512) 8 ((st.core - 512) % 8) else coreSrc st.core 0

/-- `trace` (R274): USER MARKER k, which the filters pass or not. -/
def execTrace (f : Fields) (s : State) : Out :=
  runPlain f.nx (memRegs false [f.a]) (fun s k st => do
    let a ← uval s st f.ty f.a
    return (s.emit (whoOf s st).fn (strandSrc st) (0x70 + f.f.toNat % 16) (field a 0 32) none (some k), st)) s

/-- Whether `tctl` changes the trace control word: it sets or clears, and LOCK is 0 (R275). -/
def tctlChanges (f : Fields) (w : Nat) : Bool := (f.f.toNat % 4 == 1 || f.f.toNat % 4 == 2) && !bitOf w 19

/-- The trace control word after `tctl`: bits 17..0 of A are set or cleared (R275). -/
def tctlWord (f : Fields) (w : Nat) (a : Word) : Nat :=
  if !tctlChanges f w then w else if f.f.toNat % 4 = 1 then w ||| field a 0 18 else w - (w &&& field a 0 18)

/-- `tctl` (R275): the trace control word as it was; LOCK keeps it. -/
def execTctl (f : Fields) (s : State) : Out :=
  runPlain f.nx (f.d.toNat :: memRegs false [f.a]) (fun s _ st => do
    let a ← uval s st f.ty f.a
    let fn := (whoOf s st).fn
    let w := (s.fn fn).trcw
    return (s.updFn fn fun x => { x with trcw := tctlWord f w a },
      { st.setS f.d.toNat (BitVec.ofNat 64 w) false with uc := tctlChanges f w })) s

end Sys2Proof.Machine
end

