-- ==== Sys2Proof/Machine/Cross.lean ====
section
/-!
DEFINITION. The vector class, instructions that combine threads: `vscan`, `vred`, `vhad`, `vqnt` and its inverse
`vdqnt` (R64 to R68, R123 to R125, R127 to R129).
-/
namespace Sys2Proof.Machine

/-- The combine of R123 on element codes: the result's code and flags. -/
def combineCodes (t : Ty) (op : Nat) (rm : Rm) (p q : Nat) : Nat × Flags :=
  if t.isInt then
    let i := fun c => if t.isSigned then signed t.width c else (c : Int)
    (match op with
      | 0 => wrapNat t.width (i p + i q)
      | 1 => wrapNat t.width (minInt (i p) (i q))
      | 2 => wrapNat t.width (maxInt (i p) (i q))
      | 3 => p &&& q
      | 4 => p ||| q
      | _ => p ^^^ q, 0)
  else
    let w := wideOf t
    match op with
    | 0 =>
      let v := Val.add (rm == .rdn) (w.value p) (w.value q)
      let r := w.round false rm v.1
      (r.1, v.2 ||| r.2)
    | _ =>
      let v := Val.minmax (op == 1) (w.value p) (w.value q)
      ((w.round false .rne (if v.1.isNan then .nan false else v.1)).1, v.2)

/-- The identity of an operation (R123). -/
def identityCode (t : Ty) (op : Nat) : Nat :=
  if t.isInt then
    match op with
    | 1 => wrapNat t.width (tyHi t)
    | 2 => wrapNat t.width (tyLo t)
    | 3 => 2 ^ t.width - 1
    | _ => 0
  else
    let w := wideOf t
    match op with
    | 0 => w.signBit true
    | 1 => w.infCode
    | _ => w.signBit true + w.infCode

/-- Whether a combine rounds, and so draws under RSR (R66). -/
def combineRounds (t : Ty) (op : Nat) : Bool := t.isFloat && op == 0

/-- A NaN result is canonical (R49, R123). -/
def canonical (t : Ty) (c : Nat) : Nat :=
  if t.isFloat && ((wideOf t).value c).isNan then (wideOf t).nanCode else c

/-- Combine element by element with one draw per rounding, in ascending k, from a generator (R66). -/
def combineElems (st : Strand) (m : Nat) (t : Ty) (op : Nat) : List Nat → List Nat → Half → List Nat × Half × Flags
  | p :: ps, q :: qs, g =>
    let d := if combineRounds t op then drawMode st m g else (.rne, g)
    let r := combineCodes t op d.1 p q
    let rest := combineElems st m t op ps qs d.2
    (r.1 :: rest.1, rest.2.1, r.2 ||| rest.2.2)
  | _, _, g => ([], g, 0)

/-- What a scan or a reduction has computed so far: each thread's output, the generators, the flags. -/
structure CrossState where
  out  : Map (List Nat)
  gens : Vector Half 32
  fl   : Flags

/-- The codes of all elements of a thread's operand. -/
def threadCodes (st : Strand) (t : Ty) (o : Opd) (th : Nat) : List Nat :=
  let x := (vread st t 0 o th).1
  (upto t.lanes).map (elemCode t x)

/-- IV for a signalling NaN among the active inputs, a lone one that is passed on included (R49, R50). -/
def inputIV (f : Fields) (st : Strand) : Flags :=
  flagIf (f.ty.isFloat && (activeList st.em).any fun t =>
    (threadCodes st f.ty f.a t).any fun c => ((wideOf f.ty).value c).isSnan) flagIV

/-- `vscan`'s steps over the active threads in ascending order (R66, R124). -/
def scanSteps (st : Strand) (f : Fields) (op : Nat) : List Nat → Option (List Nat) → CrossState → CrossState
  | [], _, c => c
  | t :: ts, run, c =>
    let x := threadCodes st f.ty f.a t
    let r := match run with
      | none => (x, st.gen t, (0 : Flags))
      | some p => combineElems st f.m.toNat f.ty op p x (st.gen t)
    let before := match run with
      | none => (upto f.ty.lanes).map fun _ => identityCode f.ty op
      | some p => p
    let o := (if f.fBit 1 then before else r.1).map (canonical f.ty)
    scanSteps st f op ts (some r.1) ⟨c.out.put t o, c.gens.setIfInBounds t r.2.1, c.fl ||| r.2.2⟩

/-- What `vscan` gives (R124). -/
def scanOut (f : Fields) (st : Strand) : VOut :=
  let r := scanSteps st f f.c.spec.code (activeList st.em) none ⟨[], st.gens, 0⟩
  { val := fun t => (wordOf f.ty.width (r.out.getD t []), false), gens := r.gens, fl := r.fl ||| inputIV f st, mask := none }

/-- `vscan`. -/
def execVscan (f : Fields) (s : State) : Out := runVector f [f.a] (noMarks [f.a]) (fun _ st => scanOut f st) s

/-- A node of the reduction tree: the lowest present leaf under it and its value (R66). -/
abbrev RedNode := Option (Nat × List Nat)

/-- One level of the tree: pairs of nodes in ascending order, with the generators and the flags (R66). -/
def redLevel (st : Strand) (f : Fields) (op : Nat) :
    List RedNode → Vector Half 32 → List RedNode × Vector Half 32 × Flags
  | a :: b :: r, gens =>
    match a, b with
    | some (t, p), some (_, q) =>
      let c := combineElems st f.m.toNat f.ty op p q (gens.toArray.getD t 0)
      let rest := redLevel st f op r (gens.setIfInBounds t c.2.1)
      (some (t, c.1) :: rest.1, rest.2.1, c.2.2 ||| rest.2.2)
    | some x, none => let rest := redLevel st f op r gens; (some x :: rest.1, rest.2.1, rest.2.2)
    | none, y => let rest := redLevel st f op r gens; (y :: rest.1, rest.2.1, rest.2.2)
  | l, gens => (l, gens, 0)

/-- The levels of the tree. -/
def redTree (st : Strand) (f : Fields) (op : Nat) :
    Nat → List RedNode → Vector Half 32 → Flags → RedNode × Vector Half 32 × Flags
  | 0, l, g, fl => (l.headD none, g, fl)
  | n + 1, l, g, fl => let r := redLevel st f op l g; redTree st f op n r.1 r.2.1 (fl ||| r.2.2)

/-- What `vred` gives (R125). -/
def redOut (f : Fields) (st : Strand) : VOut :=
  let op := f.c.spec.code
  let leaves := (upto 32).map fun t =>
    if activeIn st.em t then some (t, threadCodes st f.ty f.a t) else none
  let r := redTree st f op 5 leaves st.gens 0
  let codes := match r.1 with
    | some p => p.2
    | none => (upto f.ty.lanes).map fun _ => identityCode f.ty op
  let w := wordOf f.ty.width (codes.map (canonical f.ty))
  { val := fun _ => (w, false), gens := r.2.1, fl := r.2.2 ||| inputIV f st, mask := none }

/-- `vred`. -/
def execVred (f : Fields) (s : State) : Out := runVector f [f.a] (noMarks [f.a]) (fun _ st => redOut f st) s

-- The Hadamard butterfly (R67, R127)

/-- An FP32 sum rounded to nearest even: code and flags. -/
def addFp32 (x y : Nat) : Nat × Flags :=
  let v := Val.add false (fp32.value x) (fp32.value y)
  let r := fp32.round false .rne v.1
  (r.1, v.2 ||| r.2)

/-- An FP32 product rounded to nearest even. -/
def mulFp32 (x y : Nat) : Nat × Flags :=
  let v := Val.mul (fp32.value x) (fp32.value y)
  let r := fp32.round false .rne v.1
  (r.1, v.2 ||| r.2)

/-- The negation of an FP32 code. -/
def negFp32 (x : Nat) : Nat := x ^^^ 2 ^ 31

/-- One stage of the butterfly (R67). -/
def hadStage (stride : Nat) (x : List Nat) : List Nat × Flags :=
  let rs := (upto 32).map fun t =>
    let lo := if t / stride % 2 = 0 then t else t - stride
    let a := x.getD lo 0
    let b := x.getD (lo + stride) 0
    if t = lo then addFp32 a b else addFp32 a (negFp32 b)
  (rs.map (·.1), rs.foldl (fun a r => a ||| r.2) 0)

/-- The five stages and the final scaling (R67). -/
def hadamard (raw : Bool) (x : List Nat) : List Nat × Flags :=
  let r := [1, 2, 4, 8, 16].foldl (fun a st => let n := hadStage st a.1; (n.1, a.2 ||| n.2)) (x, 0)
  if raw then r
  else
    let rs := r.1.map fun c => mulFp32 c 0x3E3504F3
    (rs.map (·.1), rs.foldl (fun a c => a ||| c.2) r.2)

/-- What `vhad` gives (R127). -/
def hadOut (f : Fields) (st : Strand) : VOut :=
  let col := fun (k : Nat) => hadamard (f.fBit 1) ((upto 32).map fun t =>
    if activeIn st.em t then elemCode .f (vread st .f 0 f.a t).1 k else 0)
  let c0 := col 0
  let c1 := col 1
  { val := fun t => (wordOf 32 [c0.1.getD t 0, c1.1.getD t 0], false)
    gens := st.gens, fl := c0.2 ||| c1.2, mask := none }

/-- `vhad`. -/
def execVhad (f : Fields) (s : State) : Out := runVector f [f.a] (noMarks [f.a]) (fun _ st => hadOut f st) s

-- Quantisation (R68, R128, R129)

/-- The greater magnitude of two values, a NaN or an infinity above all. -/
def maxMag (x y : Val) : Val :=
  if x.isNan then x else if y.isNan then y else if x.magnitude.lt y.magnitude then y.magnitude else x.magnitude

/-- The scale code for the greatest magnitude, and the scale's exponent (R68); none when every element becomes NaN. -/
def scaleFor (f : Narrow) (amax : Val) : Nat × Option Int :=
  match amax with
  | .nan _ => (0xFF, none)
  | .inf _ => (0xFF, none)
  | .fin _ m e =>
    if m = 0 then (0, some (-127))
    else
      let sc := max (-127) (min 127 ((Nat.log2 m : Int) + e - f.emax))
      ((sc + 127).toNat, some sc)

/-- `vqnt` at one element position: each active thread's code with flags, and the scale code (R68). A zero or absent
greatest magnitude leaves every element zero, whatever the divisor. -/
def quantise (f : Narrow) (xs : List (Nat × Val)) : Map Nat × Nat × Flags :=
  let amax := xs.foldl (fun a x => maxMag a x.2) (.fin false 0 0)
  let p := scaleFor f amax
  let rs := xs.map fun x =>
    match p.2 with
    | none => (x.1, f.round .rne (.nan x.2.isSnan))
    | some sc => (x.1, f.round .rne (x.2.scale (-sc)).1)
  (rs.map fun r => (r.1, r.2.1), p.1, rs.foldl (fun a r => a ||| r.2.2) 0)

/-- What `vqnt` gives (R128). -/
def quantOut (f : Fields) (s : State) (st : Strand) : VOut :=
  let src := f.srcTy.getD .f
  let fmt := fmtReg s st (f.f.toNat / 4)
  let cols := (upto src.lanes).map fun k => quantise (Narrow.ofReg fmt)
    ((activeList st.em).map fun t => (t, (wideOf src).value (elemCode src (vread st .x fmt f.a t).1 k)))
  { val := fun t => (placeCodes .n8 (number 0 (cols.map fun c => c.1.getD t 0)
        ++ number 4 (cols.map fun c => c.2.1)), false)
    gens := st.gens, fl := cols.foldl (fun a c => a ||| c.2.2) 0, mask := none }

/-- `vqnt`. -/
def execVqnt (f : Fields) (s : State) : Out :=
  runVector f [f.a] (withMarks [f.a] fun s st => checkFormat s st (f.f.toNat / 4)) (quantOut f) s

/-- One thread of `vdqnt` (R129). -/
def dequantLane (f : Fields) (s : State) (st : Strand) (t : Nat) : Lane :=
  let w := wideOf f.ty
  let x := (vread st f.ty 0 f.a t).1
  let fmt := Narrow.ofReg (fmtReg s st f.srcFmt)
  let r := roundElems st f.m.toNat (fun k rm =>
    let e := field x (8 * (4 + k)) 8
    let c := fmt.value (field x (8 * k) 8)
    let v := if e = 0xFF then (.nan false, snanIV [c]) else c.scale ((e : Int) - 127)
    let r := w.round false rm v.1
    (r.1, v.2 ||| r.2)) 0 f.ty.lanes (st.gen t)
  ⟨wordOf f.ty.width r.1, r.2.1, r.2.2⟩

/-- `vdqnt`. -/
def execVdqnt (f : Fields) (s : State) : Out :=
  runLanes f [f.a] (fun s st => checkFormat s st f.srcFmt) (dequantLane f) s

end Sys2Proof.Machine
end

