-- ==== Sys2Proof/Machine/Trace.lean ====
section
/-!
DEFINITION. The Traverse trace (R338 to R346): which records go where, the rings in memory, drops and lossless stalls, and the
TRACE packets (R447).
-/
namespace Sys2Proof.Machine

-- Where a record goes (R340, R342)

/-- The unit class of a record. -/
def TraceRec.ucls (r : TraceRec) : Nat := bits r.src 9 4
/-- Its event class. -/
def TraceRec.cls (r : TraceRec) : Nat := r.code / 16

/-- Whether a record is device-wide (R340). -/
def TraceRec.deviceWide (r : TraceRec) : Bool :=
  r.cls == 12 || r.cls == 13 || r.cls == 15 || (r.ucls == 15 && r.cls != 9 && r.cls != 11 && r.cls != 14)

/-- The functions whose rings a record is meant for: the PF's in place of the partition's, or beside it for class 14; number 0
stands for every partition (R416). -/
def TraceRec.homes (s : State) (r : TraceRec) : List Nat :=
  if r.deviceWide then [pf]
  else if r.cls = 14 ∧ r.fn = 0 then addNew (s.fns.map (·.1)) pf
  else if r.cls = 14 ∧ r.fn ≠ pf then [r.fn, pf] else [r.fn]

/-- Whether a function's control and filter words admit a record, apart from the divider (R275, R342). -/
def admits (s : State) (fn : Nat) (r : TraceRec) : Bool :=
  let f := s.fn fn
  bitOf f.trcw 16 && bitOf f.trcw r.cls && (r.cls != 7 || bitOf f.trcw 17) && bitOf f.trfilt r.ucls

/-- The eligible records of a code that an emitter has had since the divider passed one. -/
def dividerCount (s : State) (fn : Nat) (r : TraceRec) : Nat :=
  match s.divided.find? fun d => d.1 == fn && d.2.1 == r.src && d.2.2.1 == r.code with | some d => d.2.2.2 | none => 0

/-- Whether the divider passes an eligible record: every D-th; class 0 always (R342). -/
def dividerPasses (s : State) (fn : Nat) (r : TraceRec) : Bool :=
  r.cls == 0 || decide (max 1 (bits (s.fn fn).trfilt 16 15) ≤ dividerCount s fn r + 1)

/-- Count an eligible record. -/
def countEligible (s : State) (fn : Nat) (r : TraceRec) : State :=
  if bits (s.fn fn).trfilt 16 15 ≤ 1 then s
  else
    let n := if dividerPasses s fn r then 0 else dividerCount s fn r + 1
    { s with divided := (fn, r.src, r.code, n) :: s.divided.filter fun d => !(d.1 == fn && d.2.1 == r.src && d.2.2.1 == r.code) }

-- Rings (R338, R341, R343)

/-- The number of record places. -/
def Ring.places (r : Ring) : Nat := 2 ^ r.logN
/-- The records that have been accepted and are still to be written. -/
def Ring.waiting (r : Ring) : Nat := (r.todo.map List.length).foldl (· + ·) 0
/-- Places that a ring has left. -/
def Ring.room (r : Ring) : Nat := r.places - (r.wr + r.waiting - r.rd)
/-- The records that an event is written as (R338). -/
def TraceRec.size (r : TraceRec) : Nat := if r.more.isSome then 2 else 1

/-- An event's records as 128-bit numbers. -/
def recordWords (r : TraceRec) (part : Nat) (dropb stallb : Bool) : List Nat :=
  let mid := (r.src % 2 ^ 16 + r.code % 256 * 2 ^ 16 + part % 64 * 2 ^ 24 + b2n stallb * 2 ^ 30 + b2n dropb * 2 ^ 31) * 2 ^ 64
  let one := r.stamp % 2 ^ 64 + mid + r.payload * 2 ^ 96
  match r.more with
  | some m => [one, m % 2 ^ 64 + mid + bits m 64 32 * 2 ^ 96]
  | none => [one]

/-- An emitter's name in a ring: its unit, and the partition it works for. -/
def emitterKey (src part : Nat) : Nat := part * 2 ^ 17 + src

/-- Put an event into a ring, or drop it whole when it finds too little room (R338, R343), unless it is one of those that lossless mode
never drops: then it waits for its place (R344). An emitter that has lost records says so,
where class 0 is admitted and there is room, with a DROPS record before its next one (R340 does not say when; DESIGN CHOICE,
log 28). -/
def Ring.take (g : Ring) (r : TraceRec) (part : Nat) (class0 keep : Bool) : Ring :=
  let key := emitterKey r.src part
  let e := g.lost.find? (·.1 == key)
  let others := g.lost.filter (·.1 != key)
  if g.room < r.size ∧ keep = false then
    { g with drops := g.drops + r.size, lost := (key, (match e with | some x => x.2.1 | none => 0) + r.size, true) :: others }
  else
    let stallb := g.stalled.contains key
    let g1 := { g with stalled := g.stalled.filter (· != key) }
    match e with
    | none => { g1 with todo := g.todo ++ [recordWords r part false stallb] }
    | some x =>
      if class0 && decide (r.size < g.room) then
        { g1 with
          todo := g.todo ++ [recordWords { r with code := 2, payload := min x.2.1 (2 ^ 32 - 1), more := none } part x.2.2 false,
            recordWords r part false stallb]
          lost := others }
      else { g1 with todo := g.todo ++ [recordWords r part x.2.2 stallb], lost := (key, x.2.1, false) :: others }

/-- Of what has been done for a ring itself no record is emitted, but that a bucket has emptied (R340, R341, R390). -/
def unrecorded (s s1 : State) : State :=
  { s1 with records := s.records ++ (s1.records.drop s.records.length).filter (·.code == 0xC1) }

/-- A virtual address of a ring's memory as a global address, if it can be used. No record is emitted of it. -/
def ringAddr (s : State) (fn : Nat) (g : Ring) (off : Nat) (write : Bool) : Xlate × State :=
  let r := translate s ⟨fn, g.pasid, 256, none⟩ ⟨write, false, .plain cPermission⟩ (g.win * 2 ^ 64 + off)
  (r.1, unrecorded s r.2)

/-- Read a ring's RDIDX anew (R341). -/
def readIdx (s : State) (fn : Nat) (g : Ring) : Ring × State :=
  match ringAddr s fn g (g.off + 8) false with
  | (.ok ga _, s1) => if isPeer ga then (g, s1) else let s2 := readNote (chargeFar s1 fn 4 ga 8 false) none ga 8; ({ g with rd := (farRead s2 ga 8).1 }, s2)
  | (_, s1) => (g, s1)

/-- Set a function's ring; number 128 stands for the PF share ring. -/
def setRing (s : State) (fn : Nat) (g : Option Ring) : State :=
  if fn = 128 then { s with shareRing := g } else s.updFn fn fun f => { f with ring := g }
/-- A function's ring, or the PF share ring. -/
def getRing (s : State) (fn : Nat) : Option Ring := if fn = 128 then s.shareRing else (s.fn fn).ring
/-- The function through which a ring is reached. -/
def ringFn (fn : Nat) : Nat := if fn = 128 then pf else fn

/-- Take an event into a ring. A record that finds the ring full looks at RDIDX first. -/
def ringTake (s : State) (fn : Nat) (r : TraceRec) (part : Nat) (keep : Bool) : State :=
  match getRing s fn with
  | none => s
  | some g =>
    let q := if g.room < 2 then readIdx s (ringFn fn) g else (g, s)
    setRing q.2 fn (some (q.1.take r part (admits s r.fn { r with code := 2 }) keep))

/-- Accept one record: its partition's ring, the PF ring, and the PF share ring where SHARE is set (R342). `keep` says that its
partition's ring does not drop it (R344). -/
def acceptRecord (s : State) (r : TraceRec) (keep : Bool) : State :=
  (r.homes s).foldl (fun a fn =>
    if !admits a fn r then a
    else
      let ok := dividerPasses a fn r
      let a1 := countEligible a fn r
      if !ok then a1
      else
        let a2 := ringTake a1 fn r (if fn = pf then 0 else fn - 1) (keep && fn == r.fn)
        if fn ≠ pf ∧ bitOf (a1.fn fn).trfilt 31 then ringTake a2 128 r (fn - 1) false else a2) s

/-- Where the records of an event are to be written: their global addresses, or none while a page is not usable; and whether one of
them, or the header, cannot be written at all. -/
def recordPlaces (s : State) (fn : Nat) (g : Ring) (n : Nat) : Option (List Nat) × Bool × State :=
  (0 :: (upto n).map fun i => 0x80 + 16 * ((g.wr + i) % g.places)).foldl
    (fun (a : Option (List Nat) × Bool × State) o =>
      match ringAddr a.2.2 (ringFn fn) g (g.off + o) true with
      | (.ok ga _, s1) => (a.1.map (· ++ [ga]), a.2.1 || isPeer ga, s1)
      | (.trap _, s1) => (a.1, true, s1)
      | (.replay _ _ _, s1) => (none, a.2.1, s1)) (some [], false, s)

/-- Write the next event of a ring and its header, when no message is on its way (R341) and the ring has room for it. The records of
these writes are not emitted. A page that is not usable is waited for; one that traps loses the event whole (R338). -/
def flushRing (s0 : State) (fn : Nat) : State :=
  match getRing s0 fn with
  | none => s0
  | some g0 =>
    let q := if (g0.todo.headD []).length ≤ g0.places - (g0.wr - g0.rd) then (g0, s0) else readIdx s0 (ringFn fn) g0
    let g := q.1
    let s := setRing q.2 fn (some g)
    if g.places - (g.wr - g.rd) < (g.todo.headD []).length then s else
    match g.todo with
    | [] =>
      (match ringAddr s (ringFn fn) g (g.off + 0x10) true with
      | (.ok hd _, s1) =>
        unrecorded s (setRing (if isPeer hd then s1 else farWrite (chargeFar s1 (ringFn fn) 4 hd 16 true) hd 16 (g.drops % 2 ^ 64 + g.stallNs % 2 ^ 64 * 2 ^ 64)) fn
            (some { g with shown := (g.drops, g.stallNs) }))
      | (.trap _, s1) => setRing s1 fn (some { g with shown := (g.drops, g.stallNs) })
      | (.replay _ _ _, s1) => s1)
    | x :: rest =>
      match recordPlaces s fn g x.length with
      | (_, true, s1) => setRing s1 fn (some { g with todo := rest, drops := g.drops + x.length })
      | (none, false, s1) => s1
      | (some [], false, s1) => s1
      | (some (hd :: gas), false, s1) =>
        let s2 := (gas.zip x).foldl (fun a p => farWrite (chargeFar a (ringFn fn) 4 p.1 16 true) p.1 16 p.2) s1
        let s3 := farWrite (chargeFar s2 (ringFn fn) 4 hd 24 true) (hd + 0x10) 16 (g.drops % 2 ^ 64 + g.stallNs % 2 ^ 64 * 2 ^ 64)
        let s4 := farWrite s3 hd 8 ((g.wr + x.length) % 2 ^ 64)
        unrecorded s (setRing s4 fn (some { g with todo := rest, wr := g.wr + x.length, shown := (g.drops, g.stallNs) }))

/-- Whether something is to be written to a ring: records, or the counts of its header (R341, R343). -/
def Ring.stale (g : Ring) : Bool := !g.todo.isEmpty || g.shown != (g.drops, g.stallNs)

/-- The functions whose rings have something to write, and 128 for the share ring. -/
def ringsToWrite (s : State) : List Nat :=
  (s.fns.filter fun p => match p.2.ring with | some g => g.stale | none => false).map (·.1)
  ++ (match s.shareRing with | some g => if g.stale then [128] else [] | none => [])

-- Lossless mode (R344 to R346)

/-- The grids for which an event, the strand of a record or the executing strand works, for the exemption of R346. -/
def workerGrids (s : State) (e : Option Event) (r : TraceRec) : List Nat :=
  match r.strand, e with
  | some k, _ => ((s.strand k).map (gridKey s)).toList
  | none, some ev => (eventReq ev).toList.map (·.grid) ++ (eventAgents s ev).filterMap (agentGrid s)
  | none, none => (s.act.bind fun k => (s.strand k).map (gridKey s)).toList

/-- Whether an event serves a request from outside its partition: it never stalls (R344). -/
def fromOutside : Event → Bool
  | .hostMemRead .. => true
  | .hostMemWrite .. => true
  | .hostSnoop .. => true
  | .peerAccessRequest .. => true
  | .peerAccessReply .. => true
  | .homeLoadFill q => (match q.agent with | .peer _ => true | _ => false)
  | .homeStoreArrival q => (match q.agent with | .peer _ => true | _ => false)
  | .homeOwnershipRequest q => (match q.agent with | .peer _ => true | _ => false)
  | .homeFarAtomic q => (match q.agent with | .peer _ => true | _ => false)
  | .signalArrival q => (match q.agent with | .peer _ => true | _ => false)
  | _ => false

/-- The records that a ring wants room for before an emitter goes on: its own and the STALL record, or the whole ring. -/
def stallNeed (s : State) (fn : Nat) (src : Nat) (size : Nat) : Nat :=
  let n := size + b2n (admits s fn (⟨fn, src, 1, 0, none, 0, none⟩ : TraceRec))
  match (s.fn fn).ring with | some g => min n g.places | none => n

/-- Whether a record stalls its emitter when its ring is full: its partition is lossless, and the emitter is none of those that never
stall (R344, R346). -/
def mayStall (s : State) (e : Option Event) (r : TraceRec) : Bool :=
  let f := s.fn r.fn
  bitOf f.trcw 18 && !r.deviceWide && r.ucls != 15 && r.code != 0x83 && r.code != 1 && admits s r.fn r && f.ring.isSome
  && (match e with | some ev => !fromOutside ev | none => true)
  && (f.exempt == 0 || !(workerGrids s e r).any fun g => (s.grid g).fn == r.fn && (s.grid g).seqNo == f.exempt)

/-- Whether an event must wait behind a request that is set aside (R344): about the same line of the same home. -/
def heldBehind (s : State) (e : Event) : Option Nat :=
  match homeLineOf e with
  | none => none
  | some p => (s.stalls.find? fun x => match x.event with | some ev => homeLineOf ev == some p | none => false).map (·.fn)

/-- Hold an event behind a stalled one. -/
def holdBehind (s : State) (fn : Nat) (e : Event) : State :=
  { s with stalls := s.stalls ++ [⟨fn, none, 0, s.datum, some e, none⟩] }

/-- The work that a step undertook, an event or a lane's turn, comes again when its ring has room for the `need` records that it
would write; a strand holds no lane meanwhile, unless it is inside a chain, where a lane changes strands only at the boundary (R170, R344;
DEDUCED, log 42). -/
def stallStep (s0 : State) (e : Option Event) (r : TraceRec) (need : Nat) (k : Option Nat) : State :=
  let stalled (x : Stall) : State :=
    let s1 := { s0 with stalls := s0.stalls ++ [x] }
    (match x.strand with | some k => (agentBlock s0 (.strand k)).toList | none => x.blocks s0).foldl holdBegin s1
  match e with
  | some ev => stalled ⟨r.fn, some r.src, need, s0.datum, some ev, none⟩
  | none =>
    match k with
    | none => s0
    | some k =>
      (stalled ⟨r.fn, some r.src, need, s0.datum, none, some k⟩).updStrand k fun st =>
        { st with wait := .trace, lane := if inChain st then st.lane else none, turn := false }

/-- Release the stalled emitters of a partition, oldest first, while the ring has room: each writes STALL with the length, and
its next record carries STALLB (R344). -/
def releaseStalls (fn : Nat) : List Stall → State → State
  | [], s => s
  | x :: rest, s =>
    let keep : State := releaseStalls fn rest { s with stalls := s.stalls ++ [x] }
    if x.fn ≠ fn then keep
    else
      match (s.fn fn).ring with
      | none => releaseStalls fn rest (go rest s x)
      | some g =>
        let behind := match x.event with | some e => (heldBehind s e).isSome | none => false
        if behind then keep
        else
          match x.src with
          | none => releaseStalls fn rest (go rest s x)
          | some src =>
            if g.room < stallNeed s fn src x.need then keep
            else
              let ns := (s.datum - x.since) / 16
              let s1 := acceptRecord s (⟨fn, src, 1, min ns (2 ^ 32 - 1), none, s.datum, none⟩ : TraceRec) false
              let part := if fn = pf then 0 else fn - 1
              let mark (g : Ring) : Ring := { g with stalled := addNew g.stalled (emitterKey src part) }
              let s2 := s1.updFn fn fun f => { f with ring := f.ring.map fun g => mark { g with stallNs := g.stallNs + ns } }
              let s3 := if fn ≠ pf ∧ bitOf (s2.fn fn).trfilt 31 then { s2 with shareRing := s2.shareRing.map mark } else s2
              releaseStalls fn rest (go rest s3 x)
where
  go (rest : List Stall) (s : State) (x : Stall) : State :=
    let bs := x.blocks s
    let s1 := match x.event with | some e => s.send e | none => s
    let s2 := match x.strand with
      | some k => s1.updStrand k fun st => wakeStrand st [.trace]
      | none => s1
    bs.foldl (fun a b => { holdEnd { a with stalls := a.stalls ++ rest } b with stalls := a.stalls }) s2

/-- TRACE_STALL_RELEASE (R344): the ring has room again, or tracing no longer waits for it. -/
def execTraceStallRelease (fn : Nat) (s : State) : Out :=
  let s1 := match (s.fn fn).ring with
    | some g => let q := readIdx s fn g; setRing q.2 fn (some q.1)
    | none => s
  .next (releaseStalls fn s1.stalls { s1 with stalls := [] })

/-- The partitions whose oldest stalled emitter may go on. -/
def releasable (s : State) : List Nat :=
  ((s.stalls.map (·.fn)).foldl addNew []).filter fun fn =>
    match (s.fn fn).ring, s.stalls.find? fun x => x.fn == fn && x.src.isSome with
    | some g, some x => decide (stallNeed s fn (x.src.getD 0) x.need ≤ (readIdx s fn g).1.room) || !bitOf (s.fn fn).trcw 18
    | _, _ => true

/-- Take records, each with whether its partition's ring keeps it. -/
def takeAll (s : State) (rs : List (TraceRec × Bool)) : State := rs.foldl (fun a p => acceptRecord a p.1 p.2) s

/-- The places that the records of a step take in a partition's lossless ring, up to the last that may stall its emitter. -/
def placesFor (s : State) (fn : Nat) (rs : List (TraceRec × Bool)) : Nat :=
  let waiting (a : State) : Nat := match (a.fn fn).ring with | some g => g.waiting | none => 0
  waiting (takeAll s (rs.reverse.dropWhile fun p => !(p.2 && p.1.fn == fn)).reverse) - waiting s

/-- Whether a ring has too little room for a step's records, and will have more: a ring that is as good as empty takes any step. -/
def ringShort (s : State) (fn need : Nat) : Bool :=
  match (s.fn fn).ring with
  | some g => let r := (readIdx s fn g).1.room; decide (r < need) && decide (r + 1 < g.places)
  | none => false

/-- The first record of a step that stalls its emitter, and the places that it waits for. -/
def firstStall (s : State) (rs : List (TraceRec × Bool)) : Option (TraceRec × Nat) :=
  (rs.find? fun p => p.2 && ringShort s p.1.fn (placesFor s p.1.fn rs)).map fun p => (p.1, placesFor s p.1.fn rs)

/-- The records that a step has emitted are taken. -/
def takeRecords (s : State) (rs : List (TraceRec × Bool)) : State :=
  if rs.isEmpty then s else takeAll { s with records := [] } rs

/-- Take the records that stand for no emitter's step: none of them stalls. -/
def takePlain (s : State) : State := takeRecords s (s.records.map fun r => (r, false))

/-- The end of a step: a step whose records find too little room in a lossless ring is undone, and its emitter stalls; otherwise the
records are taken, and rings are written when no message is on its way. -/
def endStep (s0 : State) (e : Option Event) (s1 : State) : State :=
  let rs := s1.records.map fun r => (r, mayStall s0 e r)
  match firstStall s0 rs with
  | some r => stallStep s0 e r.1 r.2 (r.1.strand.orElse fun _ => s1.act)
  | none =>
    let s2 := takeRecords s1 rs
    let s3 := if s2.queue.isEmpty then (ringsToWrite s2).foldl flushRing s2 else s2
    if s3.stalls.isEmpty then s3 else (releasable s3).foldl (fun a fn => a.send (.traceStallRelease fn)) s3

-- TRACE packets (R341, R447)

/-- The limits of a TRACE packet. -/
def traceOk (x : Grid) : Bool :=
  let op := x.at_ 2 1
  x.limitsOk [(2, 1), (8, 2), (0xC, 1), (0x10, 4), (0x18, 8), (0x28, 4)]
  && decide (op ≤ 3)
  && (decide (op < 2) || (x.fn == pf && x.at_ 0x10 4 == 0 && x.at_ 0x28 4 == 0))
  && (op % 2 == 1 || (decide (8 ≤ x.at_ 0xC 1) && decide (x.at_ 0xC 1 ≤ 26) && x.at_ 0x18 8 % 4096 == 0))

/-- How many records have been accepted for a ring. -/
def acceptedFor (s : State) (fn : Nat) : Nat := match getRing s fn with | some g => g.wr + g.waiting | none => 0

/-- Whether the first `n` records accepted for a ring have been written. -/
def writtenUpTo (s : State) (fn n : Nat) : Bool := match getRing s fn with | some g => g.todo.isEmpty || decide (n ≤ g.wr) | none => true

/-- Begin a TRACE packet: it notes how many records have been accepted; a detach stops tracing (R341). -/
def traceBegin (k : Nat) (share : Bool) (x : Grid) (again : Event) (s : State) : State :=
  let s1 := (startPacket s k false).updGrid k fun g =>
    { g with step := 2, work := [acceptedFor s (if share then 128 else x.fn)] }
  let s2 := if x.at_ 2 1 = 1 then s1.updFn x.fn fun f => { f with trcw := putBits f.trcw 16 1 0 } else s1
  s2.post again

/-- A TRACE packet that sets a ring (OP 0, 2) or detaches it (OP 1, 3): records accepted before are written to the ring as it
was; a ring that is set has its header zeroed first. -/
def tracePacket (k : Nat) (share : Bool) (again : Event) (s : State) : State :=
  match s.grids.find k with
  | none => s
  | some x =>
    let fn := if share then 128 else x.fn
    let op := x.at_ 2 1
    if x.isOver ∨ x.ended.isSome ∨ x.result.isSome then s
    else if x.step = 0 then
      if !traceOk x then refusePacket s k 1
      else traceBegin k share x again s
    else if x.port.waiting then s
    else if !writtenUpTo s fn (x.work.headD 0) then s.post again
    else if op % 2 = 1 then endPacket (setRing s fn none) k 1 0
    else
      let win := x.at_ 8 2
      let off := x.at_ 0x18 8
      let ring : Ring := ⟨win, x.pasid, off, x.at_ 0xC 1, 0, 0, 0, 0, [], [], [], (0, 0)⟩
      match (engWrite (hubEng s k) win off (List.replicate 128 0) fun _ => false).run s with
      | (.ok _, s1) =>
        let s2 := setRing { s1 with snooped := [] } fn (some ring)
        endPacket (if share then s2
          else s2.updFn x.fn fun f => { f with trcw := x.at_ 0x28 4 % 2 ^ 20, exempt := x.at_ 0x10 4 }) k 1 0
      | (.error (.fault c _), s1) => endPacket s1 k 3 c
      | (.error (.park ps), s1) => ps.foldl (fun a p => requestFault a (hubEng s k).who p) s1
      | (.error (.peer q), s1) =>
        (holdPacket k { x.port with waiting := true } s1).askPeer (peerOf (q.line * 128)) (s1.fn x.fn).domain q
      | (.error .busy, s1) => s1.post again

/-- TRACE OP 0 (R341, R447). -/
def execTraceSetRing (packet : Nat) (s : State) : Out := .next (tracePacket packet false (.traceSetRing packet) s)
/-- TRACE OP 1: tracing stops, and the ring is detached once it has been written. -/
def execTraceDetachRing (packet : Nat) (s : State) : Out := .next (tracePacket packet false (.traceDetachRing packet) s)
/-- TRACE OP 2: the PF share ring. -/
def execTraceSetShareRing (packet : Nat) (s : State) : Out := .next (tracePacket packet true (.traceSetShareRing packet) s)
/-- TRACE OP 3. -/
def execTraceDetachShareRing (packet : Nat) (s : State) : Out := .next (tracePacket packet true (.traceDetachShareRing packet) s)

end Sys2Proof.Machine
end

