-- ==== Sys2Proof/Machine/Packets.lean ====
section
/-!
DEFINITION. Request packets: reading them from the rings and the checks that every packet meets (R445 to R448), the LAUNCH
(R419 to R421), COPY, SIGNAL, WAIT, NBLAUNCH and QFENCE (R418, R447, R450), and the notify pages (R446).
-/
namespace Sys2Proof.Machine

-- Reading a ring (R423, R445, R448)

/-- The packet meter's capacity in its units: one packet is 16,000,000 (R390, R423). -/
def meterCap (f : Fn) : Int := 16000000 * max 1 (bits f.pktmtr 16 16)

/-- Fill a function's packet bucket up to now. -/
def fillBucket (s : State) (fn : Nat) : State :=
  s.updFn fn fun f =>
    { f with bucket := min (meterCap f) (f.bucket + bits f.pktmtr 0 16 * (s.datum - f.filled)), filled := s.datum }

/-- Whether a packet of a function may pass the hub now. -/
def meterOpen (f : Fn) : Bool := bits f.pktmtr 0 16 == 0 || decide (0 < f.bucket)

/-- A packet passes the hub. -/
def takeToken (s : State) (fn : Nat) : State :=
  s.updFn fn fun f => if bits f.pktmtr 0 16 = 0 then f else { f with bucket := f.bucket - 16000000 }

/-- Whether a function may send a packet of a type (R447). -/
def typeAllowed (fn type : Nat) : Bool :=
  (decide (1 ≤ type) && decide (type ≤ 8)) || (fn == pf && decide (0x40 ≤ type) && decide (type ≤ 0x45))

/-- The PASID of a packet of a type (R447). -/
def bodyPasid (type body : Nat) : Nat := bits body (if type < 0x40 then 32 else 0x1C0) 20

/-- The checks of R448 in their order: the reason of the first that fails. -/
def packetFails (s : State) (fn q body : Nat) : Option Nat :=
  let a := s.aqi fn q
  let type := body % 256
  if !typeAllowed fn type then some 1
  else if !a.valid ∨ bodyPasid type body ≠ a.pasid then some 2
  else if a.revoked then some 3
  else if (s.fn fn).err then some 4
  else none

/-- A packet before anything of its own type has been done (R447). -/
def newPacket (fn q head body : Nat) : Grid :=
  let type := body % 256
  let x : Grid := { Grid.absent with
    fn := fn, dims := (0, 0, 0), pasid := bodyPasid type body, kind := type, aqi := q, head := head, body := body }
  if type < 0x40 then
    { x with noint := bitOf body 8, norec := bitOf body 9, irq := x.at_ 0x0A 2, recWin := x.at_ 0x14 2, recOff := x.at_ 0x20 8 }
  else
    { x with noint := bitOf (x.at_ 0x3E 2) 15, norec := bitOf (x.at_ 0x3E 2) 14, irq := x.at_ 0x3E 2 % 2048
             recWin := x.at_ 0x3C 2, recOff := x.at_ 0x30 8 }

/-- A packet has been read from its ring (R448): one that fails a check is logged and HEAD passes it; any other is taken up, the
plat's packets one after another at the hub; a forced destroy overtakes the RESIZE or MIGRATE of its function (R368). -/
def takePacket (s : State) (fn q body : Nat) : State :=
  let a := s.aqi fn q
  let type := body % 256
  match packetFails s fn q body with
  | some why =>
    aqiPump ((logError s fn why type q a.head).updAqi fn q fun x => { x with head := (x.head + 1) % 2 ^ 32 }) fn q
  | none =>
    let k := s.nextId
    let x := newPacket fn q a.head body
    let s1 := ({ s with nextId := k + 1, grids := s.grids.put k x }.updAqi fn q fun y => { y with hold := .packet k }).emit
      fn (hubSrc 8) 0xB0 (packetPayload q type)
    if isPlat type then
      let s2 := { s1 with pfQueue := s1.pfQueue ++ [k] }
      let forced := match s.move with
        | some m => type == 0x40 && bits body 8 16 == 0x0101 && bits body 24 8 == m.fn
        | none => false
      if s1.pfQueue.isEmpty then pfPump s2 else if forced then s2.post (.partitionDestroy k) else s2
    else s1.post (packetEvent type (packetOp type body) k)

/-- The packet that an AQI has read and not yet started, if any. -/
def unstarted (s : State) (fn q : Nat) : Option Nat :=
  match (s.aqi fn q).hold with
  | .packet k => if (s.grid k).step = 0 then some k else none
  | .replay (some k) => if (s.grid k).step = 0 then some k else none
  | _ => none

/-- Clear EN (R445): HEAD and TAIL become 0; packets that have been started go on, and one that has not is dropped. -/
def disableAqi (s : State) (fn q : Nat) : State :=
  let k := unstarted s fn q
  let s1 := s.updAqi fn q fun x =>
    { x with en := false, head := 0, tail := 0
             hold := match x.hold with | .packet j => if k.isSome then .none else .packet j | _ => .none }
  match k with
  | none => s1
  | some j =>
    let s2 := { s1 with grids := s1.grids.del j, pfQueue := s1.pfQueue.filter (· != j) }
    if s.pfQueue.head? = some j then pfPump s2 else s2

/-- PACKET_START (R423, R445, R448): an AQI that may go on reads its next packet, when the meter lets it. A page that ATS does not
permit holds the AQI until a REPLAY; a poisoned line stops it (log 17). -/
def execPacketStart (fn q : Nat) (s : State) : Out :=
  let a := s.aqi fn q
  if !aqiExists s fn q || !a.en || a.paused || a.head == a.tail || a.hold != .none then .next s
  else
    let s1 := fillBucket s fn
    let f := s1.fn fn
    if !meterOpen f then .next (s1.after ((-f.bucket).toNat / max 1 (bits f.pktmtr 0 16) + 1) (.packetStart fn q))
    else
      let addr := a.rbase + 64 * (a.head % a.depth)
      let ans := Config.atsAnswer a.pasid (addr / 65536) s1.free
      let s2 := chargeFar { s1 with free := s1.free + 1 } fn 4 hostBase 64 false
      if !bitOf ans 0 then
        .next (requestFault (s2.updAqi fn q fun x => { x with hold := .replay none }) ⟨fn, a.pasid, 256, none⟩
          ⟨0, 0, 3, addr / 65536 * 65536, false, false, false⟩)
      else
        let r := farRead s2 (hostBase + ans / 4 * 65536 + addr % 65536) 64
        if r.2 then
          .next (logError (disableAqi s2 fn q) fn 8 0 q a.head)
        else .next (takePacket (takeToken s2 fn) fn q r.1)

-- LAUNCH (R419 to R421)

/-- Step 1 of R419: the packet's fields. -/
def launchFields (x : Grid) : Bool :=
  x.limitsOk [(2, 1), (8, 2), (0xC, 4), (0x10, 2), (0x12, 2), (0x18, 8), (0x28, 24)]
  && decide (x.at_ 2 1 ≤ 127) && x.at_ 0x18 8 % 128 == 0

/-- Steps 3 and 4 of R419: a descriptor against R43 and R44, and whether it is native. The refusal, if any. -/
def descriptorFails (d : Nat) : Option Nat :=
  let v (o n : Nat) : Nat := bits d (8 * o) (8 * n)
  let flags := v 4 2
  let within (x lo hi : Nat) : Bool := decide (lo ≤ x) && decide (x ≤ hi)
  let ok := v 0 4 == 1 && flags / 128 == 0 && flags / 16 % 4 != 3 && within (v 6 1) 1 64 && within (v 7 1) 1 64
    && v 8 4 % 256 == 0 && decide (v 8 4 ≤ 524288) && within (v 0xC 1) 1 8 && within (v 0xD 1) 1 4 && v 0xF 1 == 0
    && v 0x22 2 == 0 && v 0x24 4 % 256 == 0 && v 0x28 4 != 0 && v 0x2C 4 != 0 && v 0x30 4 != 0 && v 0x38 8 == 0
    && v 0x50 48 == 0
  if !ok then some 3 else if flags / 16 % 4 ≠ 0 ∨ bitOf flags 6 then some 4 else none

/-- A launch's grid from its packet and descriptor (R44, R161). -/
def launchGrid (x : Grid) (d : Nat) : Grid :=
  let v (o n : Nat) : Nat := bits d (8 * o) (8 * n)
  let dim (p o : Nat) : Nat := if p = 0 then v o 4 else p
  { x with
    dims := (dim (x.at_ 0xC 4) 0x28, dim (x.at_ 0x10 2) 0x2C, dim (x.at_ 0x12 2) 0x30)
    strands := v 6 1, cgroup := v 0xC 1, sgroup := v 0xD 1, plumb := v 0xE 1
    restartable := bitOf (v 4 2) 0, cooperative := bitOf (v 4 2) 1, overcommit := bitOf (v 4 2) 2, fntable := bitOf (v 4 2) 3
    vregs := v 7 1, scratch := v 8 4, entry := BitVec.ofNat 64 (v 0x10 8), handler := BitVec.ofNat 64 (v 0x18 8)
    cwin := BitVec.ofNat 16 (v 0x20 2), context := v 0x24 4, seed := BitVec.ofNat 32 (v 0x34 4)
    wins := Vector.ofFn fun i => BitVec.ofNat 16 (v (0x40 + 2 * i.val) 2)
    args := [BitVec.ofNat 64 (x.at_ 0x28 8), BitVec.ofNat 64 (x.at_ 0x30 8), BitVec.ofNat 64 (x.at_ 0x38 8)]
    prio := x.at_ 2 1 }

/-- Whether a grid's groups can be placed on the partition's clusters when they are idle (R175, R419): the next group, or with
`.cooperative` every block. -/
def placeable (s : State) (g : Grid) : Bool :=
  let n := if g.cooperative then g.blocks else g.cgroup * g.sgroup
  decide (n ≤ 32768)
  && (placeBlocks g (fun _ => Room.all.holds (needOf g false)) (partitionClusters s g.fn)
      ((upto n).map fun b => ⟨b, none, false⟩)).isSome

/-- The bytes of the context pool that a grid reserves (R421). -/
def contextTotal (g : Grid) : Nat := ceilDiv g.context 4096 * 4096 * g.blocks

/-- The reservations of a function's pool: (offset, length). -/
def reservations (s : State) (fn : Nat) : List (Nat × Nat) :=
  ((s.grids.filter fun p => p.2.fn == fn && p.2.kind == 1 && p.2.blocks != 0 && p.2.ended.isNone).map fun p =>
    (p.2.ctxOff, contextTotal p.2)).filter fun r => r.2 != 0

/-- The lowest place for a reservation, if the pool has one (R421). -/
def findContext (s : State) (fn n : Nat) : Option Nat :=
  let f := s.fn fn
  if n = 0 then some f.ctxOff
  else
    let rs := reservations s fn
    let free (o : Nat) : Bool := decide (o + n ≤ f.ctxOff + 65536 * f.ctxLen)
      && rs.all fun r => decide (o + n ≤ r.1) || decide (r.1 + r.2 ≤ o)
    ((sortBy id (f.ctxOff :: rs.map fun r => r.1 + r.2)).filter fun o => decide (f.ctxOff ≤ o)).find? free

/-- Steps 5 to 8 of R419: the refusal, if any. -/
def gridFails (s : State) (g : Grid) : Option Nat :=
  if 2 ^ 32 ≤ g.blocks ∨ g.blocks % (g.cgroup * g.sgroup) ≠ 0 then some 5
  else if 2048 < g.vregs * g.strands then some 6
  else if g.overcommit ∧ g.handler = 0 then some 7
  else if !placeable s g then some 8
  else none

/-- Accept a launch (R420, R421, R425). -/
def acceptLaunch (s : State) (k : Nat) (g : Grid) (ctx : Nat) : State :=
  let f := s.fn g.fn
  let seq := (f.seq + 1) % 2 ^ 32
  let s1 := (s.updFn g.fn fun f => { f with seq := seq }).updGrid k fun _ =>
    { g with seqNo := seq, ctxOff := ctx, ctxWin := f.ctxWin, lastBind := s.datum, port := .idle }
  let s2 := startPacket (s1.emit g.fn (hubSrc 0) 0x90 seq) k false
  (s2.after (msToDatum 1) (.launchAgeTick k)).send (.blockBind g.fn)

/-- Steps 3 to 9 of R419 for the descriptor that has been read. -/
def checkLaunch (s : State) (k : Nat) (x : Grid) (d : Nat) : State :=
  match descriptorFails d with
  | some e => refusePacket s k e
  | none =>
    let g := launchGrid x d
    match gridFails s g with
    | some e => refusePacket s k e
    | none =>
      match findContext s g.fn (contextTotal g) with
      | none => refusePacket s k 9
      | some c => acceptLaunch s k g c

/-- Hold a packet's AQI on a page until a REPLAY (R419), or note what it awaits of a peer. -/
def holdAqi (k : Nat) (parked : Bool) (p : Port) (s : State) : State :=
  let x := s.grid k
  let s1 := holdPacket k p s
  if parked then s1.updAqi x.fn x.aqi fun a => { a with hold := .replay (some k) } else s1

/-- LAUNCH (R419): its checks in order; the descriptor is read as an access of the function. -/
def execLaunch (packet : Nat) (s : State) : Out :=
  match s.grids.find packet with
  | none => .next s
  | some x =>
    if x.isOver ∨ x.ended.isSome ∨ x.result.isSome ∨ x.step ≠ 0 ∨ x.port.waiting then .next s
    else if !launchFields x then .next (refusePacket s packet 1)
    else
      let r := engRun (hubEng s packet) (.launch packet) (holdAqi packet)
        (engRead (hubEng s packet) (x.at_ 8 2) (x.at_ 0x18 8) 128) s
      match r.1 with
      | .later => .next r.2
      | .fault _ _ => .next (refusePacket r.2 packet 2)
      | .done d => .next (if d.2 then refusePacket r.2 packet 2 else checkLaunch r.2 packet x (ofBytes d.1))

-- COPY, SIGNAL, WAIT, NBLAUNCH, QFENCE (R447, R450)

/-- A job of a packet, counted at the hub. -/
def packetJob (s : State) (k code : Nat) (regions : List (Option Region)) (work : JobWork) : State :=
  let j := s.nextId
  let job : Job :=
    { code := code, handle := 0, blk := k, grid := k, strand := 0, core := 1024, work := work, regions := regions, edges := []
      follow := none, phase := .waiting, cancel := false, pos := 0, sub := 0, moved := 0, elems := [], buf := [], port := .idle, sill := []
      packet := some k, acks := 0 }
  (countUp { s with nextId := j + 1, jobs := s.jobs.put j job } k 1024).post (.jobStart j)

/-- A region of a packet's copy. -/
def packetRegion (win base len : Nat) (rd : Bool) : Region := ⟨0, base, len, win, rd, !rd, 1, 0⟩

/-- Whether the fields of a COPY packet are in their limits, and its ranges do not overlap (R448). -/
def copyOk (x : Grid) : Bool :=
  let n := x.at_ 0xC 4
  x.limitsOk [(8, 2), (0x16, 2), (0xC, 4), (0x18, 8), (0x28, 8)] && n != 0
    && !(x.at_ 8 2 == x.at_ 0x16 2 && decide (x.at_ 0x18 8 < x.at_ 0x28 8 + n) && decide (x.at_ 0x28 8 < x.at_ 0x18 8 + n))

/-- The job of a COPY packet (R450). -/
def copyBegin (s : State) (packet : Nat) (x : Grid) : State :=
  let n := x.at_ 0xC 4
  packetJob (startPacket s packet false) packet 0x80
    [some (packetRegion (x.at_ 8 2) (x.at_ 0x18 8) n true), some (packetRegion (x.at_ 0x16 2) (x.at_ 0x28 8) n false)]
    (.copy 1 n 0 0)

/-- COPY (R447, R450): one row by a copy engine at the hub. Ranges in different windows are taken not to overlap. -/
def execCopyPacket (packet : Nat) (s : State) : Out :=
  match s.grids.find packet with
  | none => .next s
  | some x =>
    if x.isOver ∨ x.ended.isSome ∨ x.result.isSome ∨ x.step ≠ 0 then .next s
    else
      let n := x.at_ 0xC 4
      if !copyOk x then .next (refusePacket s packet 1)
      else if 2 ^ 64 < x.at_ 0x18 8 + n ∨ 2 ^ 64 < x.at_ 0x28 8 + n then
        .next (endPacket (startPacket s packet false) packet 3 cWindowCrossing)
      else .next (copyBegin s packet x)

/-- Whether the fields of an NBLAUNCH packet are in their limits (R448). -/
def nblaunchOk (s : State) (x : Grid) : Bool :=
  x.limitsOk [(2, 1), (8, 2), (0x16, 2), (0xC, 2), (0xE, 2), (0x18, 8), (0x28, 24)] && x.at_ 2 1 != 0
    && decide (x.at_ 2 1 ≤ 4) && decide (x.at_ 0xE 2 < (partitionSlices s x.fn).length)

/-- The job of an NBLAUNCH packet (R450). -/
def nblaunchBegin (s : State) (packet : Nat) (x : Grid) : State :=
  let args := [BitVec.ofNat 64 (x.at_ 0x28 8), BitVec.ofNat 64 (x.at_ 0x30 8), BitVec.ofNat 64 (x.at_ 0x38 8)]
  let wins : Vector (BitVec 16) 8 := Vector.ofFn fun i =>
    if i.val = 0 then BitVec.ofNat 16 (x.at_ 8 2) else if i.val = 1 then BitVec.ofNat 16 (x.at_ 0x16 2) else 0
  packetJob (startPacket s packet false) packet 0x84 [none, none, none, none]
    (.sill (BitVec.ofNat 64 (x.at_ 0x18 8)) (BitVec.ofNat 16 (x.at_ 0xC 2)) (x.at_ 2 1)
      ((partitionSlices s x.fn).getD (x.at_ 0xE 2) 0) args wins)

/-- NBLAUNCH (R447, R450): sill strands without regions on a slice of the partition. -/
def execNblaunch (packet : Nat) (s : State) : Out :=
  match s.grids.find packet with
  | none => .next s
  | some x =>
    if x.isOver ∨ x.ended.isSome ∨ x.result.isSome ∨ x.step ≠ 0 then .next s
    else
      if nblaunchOk s x then .next (nblaunchBegin s packet x) else .next (refusePacket s packet 1)

/-- Whether the fields of a SIGNAL packet are in their limits (R448). -/
def signalOk (x : Grid) : Bool :=
  x.limitsOk [(2, 1), (8, 2), (0x18, 8), (0x28, 8)] && (x.at_ 2 1 == 0 || x.at_ 2 1 == 4 || x.at_ 2 1 == 6)
    && x.at_ 0x18 8 % 8 == 0

/-- Send the signal of a packet to the home of its word; the packet's outcome will be DONE (R145, R450). -/
def hubSignal (s : State) (packet : Nat) (x : Grid) (ga : Nat) : State :=
  let o := x.at_ 2 1
  let op : MemOp := .atomic o (if o = 0 then .n64 else .b) (ga % 128) (BitVec.ofNat 64 (x.at_ 0x28 8))
  let q : MemReq := { engReq s (hubEng s packet) (ga / 128) op with closing := true }
  let s2 := countUp (s.updGrid packet fun y => { y with result := some (1, 0) }) packet 1024
  if isPeer ga then s2.askPeer (peerOf ga) (s2.fn x.fn).domain q else s2.send (.signalArrival q)

/-- SIGNAL (R145, R450): a `signal` at host scope; DONE once its home has acknowledged it. -/
def execSignalPacket (packet : Nat) (s : State) : Out :=
  match s.grids.find packet with
  | none => .next s
  | some x =>
    if x.isOver ∨ x.ended.isSome ∨ x.result.isSome then .next s
    else
      if x.step = 0 ∧ signalOk x = false then .next (refusePacket s packet 1)
      else
        let s1 := startPacket s packet false
        let g := hubEng s1 packet
        let r := engRun g (.signalPacket packet) (fun _ => holdPacket packet) (engPages g true (x.at_ 8 2) (x.at_ 0x18 8) 8) s1
        match r.1 with
        | .later => .next r.2
        | .fault c _ => .next (endPacket r.2 packet 3 c)
        | .done ps => .next (hubSignal r.2 packet x (ps.headD (0, 0, 0)).1)

/-- Whether the fields of a WAIT packet are in their limits (R448). -/
def waitOk (x : Grid) : Bool :=
  x.limitsOk [(2, 1), (8, 2), (0x18, 8), (0x28, 8)] && decide (x.at_ 2 1 % 8 ≤ 5) && decide (x.at_ 2 1 < 16)
    && x.at_ 0x18 8 % 8 == 0

/-- Whether the condition of a WAIT packet holds for a word (R146). -/
def waitMet (x : Grid) (word : Nat) : Bool :=
  let c := x.at_ 2 1
  let v (n : Nat) : Int := if bitOf c 3 then signed 64 n else n
  condInt (c % 8) (v word) (v (x.at_ 0x28 8))

/-- WAIT (R146, R418, R450): it holds its AQI, and reads its word again until the condition holds. -/
def execWaitPacket (packet : Nat) (s : State) : Out :=
  match s.grids.find packet with
  | none => .next s
  | some x =>
    if x.isOver ∨ x.ended.isSome ∨ x.result.isSome ∨ x.port.waiting then .next s
    else
      if x.step = 0 ∧ waitOk x = false then .next (refusePacket s packet 1)
      else
        let s1 := startPacket s packet true
        let g := hubEng s1 packet
        let r := engRun g (.waitPacket packet) (fun _ => holdPacket packet) (engRead g (x.at_ 8 2) (x.at_ 0x18 8) 8) s1
        match r.1 with
        | .later => .next r.2
        | .fault k _ => .next (endPacket r.2 packet 3 k)
        | .done d =>
          if waitMet x (ofBytes d.1) then .next (endPacket r.2 packet 1 0)
          else .next ((holdPacket packet .idle r.2).post (.waitPacket packet))

/-- Whether an earlier packet of the AQI has not completed (R418). -/
def earlierOpen (s : State) (packet : Nat) (x : Grid) : Bool :=
  s.grids.any fun p => p.1 < packet && p.2.fn == x.fn && p.2.aqi == x.aqi && !p.2.isOver

/-- QFENCE (R418): it holds its AQI until every earlier packet of the AQI has completed. -/
def execQfence (packet : Nat) (s : State) : Out :=
  match s.grids.find packet with
  | none => .next s
  | some x =>
    if x.isOver ∨ x.ended.isSome ∨ x.result.isSome then .next s
    else if !x.limitsOk [] then .next (refusePacket s packet 1)
    else
      let s1 := startPacket s packet true
      if earlierOpen s1 packet x then .next s1
      else .next (endPacket s1 packet 1 0)

-- Notify pages (R446)

/-- Whether a notify page is there to be written; a write to it otherwise is logged. -/
def notifyOk (s : State) (fn q : Nat) : Bool := aqiExists s fn q && (s.aqi fn q).en

/-- A write to a notify page that is ignored and logged (R446, R449). -/
def notifyIgnored (s : State) (fn q : Nat) : State := logError s fn 6 0 q (s.aqi fn q).head

/-- Whether a tail may take a value: not beyond the ring, not behind the tail (R446). -/
def tailOk (a : Aqi) (value : Nat) : Bool :=
  let ahead (v : Nat) : Nat := (v + 2 ^ 32 - a.head % 2 ^ 32) % 2 ^ 32
  decide (ahead value ≤ a.depth) && decide (ahead a.tail ≤ ahead value)

/-- TAIL_WRITE (R446): offset 0x000 of AQI q's notify page. -/
def execTailWrite (fn q value : Nat) (s : State) : Out :=
  if !notifyOk s fn q then .next (notifyIgnored s fn q)
  else
    let a := s.aqi fn q
    if tailOk a value then .next (aqiPump (s.updAqi fn q fun x => { x with tail := value % 2 ^ 32 }) fn q)
    else .next (logError s fn 5 0 q a.head)

/-- AQI_ARM (R446): offset 0x008. -/
def execAqiArm (fn q value : Nat) (s : State) : Out :=
  if !notifyOk s fn q then .next (notifyIgnored s fn q)
  else .next (armCheck (s.updAqi fn q fun x => { x with armed := some (value % 2048) }) fn q)

/-- AQI_PAUSE (R446): offset 0x010 with [0] = 1. -/
def execAqiPause (fn q : Nat) (s : State) : Out :=
  if !notifyOk s fn q then .next (notifyIgnored s fn q) else .next (s.updAqi fn q fun x => { x with paused := true })

/-- AQI_RESUME (R446): offset 0x010 with [0] = 0. -/
def execAqiResume (fn q : Nat) (s : State) : Out :=
  if !notifyOk s fn q then .next (notifyIgnored s fn q)
  else .next (aqiPump (s.updAqi fn q fun x => { x with paused := false }) fn q)

/-- Count a write that an AQI ignores (R445, R446): ERRCNT, saturating. -/
def aqiIgnored (s : State) (fn q : Nat) : State := s.updAqi fn q fun x => { x with errcnt := min 0xFFFF (x.errcnt + 1) }

/-- A write to any other offset of a notify page (R446). -/
def notifyOther (s : State) (fn q : Nat) : State := if notifyOk s fn q then aqiIgnored s fn q else notifyIgnored s fn q

/-- AQI_ENABLE (R445): EN is set, if the AQI exists and is bound. -/
def execAqiEnable (fn q : Nat) (s : State) : Out :=
  let a := s.aqi fn q
  if a.en || !a.valid || !aqiExists s fn q then .next s
  else .next (aqiPump (s.updAqi fn q fun x => { x with en := true }) fn q)

/-- AQI_DISABLE (R445). -/
def execAqiDisable (fn q : Nat) (s : State) : Out :=
  if (s.aqi fn q).en then .next (disableAqi s fn q) else .next s

/-- The queue state word, read at a notify page (R446). -/
def queueState (s : State) (fn q : Nat) : Nat :=
  let a := s.aqi fn q
  a.head + a.errcnt * 2 ^ 32 + b2n a.en * 2 ^ 48 + b2n a.paused * 2 ^ 49 + b2n a.armed.isSome * 2 ^ 50
    + b2n (match a.hold with
      | .none => false
      | .replay _ => true
      | .packet k => let t := (s.grid k).kind; t == 4 || t == 8) * 2 ^ 51

end Sys2Proof.Machine
end

