-- ==== Sys2Proof/Machine/Faults.lean ====
section
/-!
DEFINITION. The fault rings (R408, R409), REPLAY (R410), the removal of translations (R405, R406), and errors: poison, shared
logic, and the recovery of a cluster (R413 to R417).
-/
namespace Sys2Proof.Machine

-- Fault rings (R408, R409)

/-- Whether a function's fault ring may take a record: enabled, and not full. -/
def faultRingOpen (s : State) (fn : Nat) : Bool :=
  let f := s.fn fn
  let base := hostBase + f.frBase
  f.frEn && decide ((farRead s base 8).1 < (farRead s (base + 8) 8).1 + 4096)

/-- Send a function's fault interrupt, if it is armed and a record has been written since the last (R409). -/
def faultInterrupt (s : State) (fn : Nat) : State :=
  let f := s.fn fn
  if f.frArm && f.frSince then
    sendInterrupt (s.updFn fn fun x => { x with frArm := false, frSince := false }) pf f.frIrq (packetPayload 0 0xF0)
  else s

/-- The PIDX of a fault record (R409): all ones in a PEER record; of a request of the hub, which no parcel makes, a free value
(log 2). -/
def faultPidx (s : State) (cluster : Nat) (e : FaultEntry) : Nat × State :=
  if bitOf e.flags 5 then (0xFFFF, s) else if cluster < 64 then (e.pidx, s) else let d := s.draw; (d.1.toNat % 65536, d.2)

/-- The 32 bytes of a fault record (R409). -/
def faultRecord (e : FaultEntry) (pidx : Nat) (dropped : Bool) : Nat :=
  e.offset + e.win * 2 ^ 64 + e.count * 2 ^ 80 + (e.flags + 16 * b2n dropped) * 2 ^ 96 + e.kind * 2 ^ 104 + pidx * 2 ^ 112
    + e.gpa % 2 ^ 64 * 2 ^ 128 + e.pasid * 2 ^ 192

/-- A staging buffer is empty: the functions of which it has written records are interrupted (R409). -/
def bufferEmpty (s : State) (cluster : Nat) : State :=
  (s.cluster cluster).wrote.foldl faultInterrupt (s.updCluster cluster fun c => { c with wrote := [] })

/-- Write a staged entry to its ring; the first record since the last interrupt starts its timer (R408, R409). -/
def writeFault (s : State) (cluster : Nat) (e : FaultEntry) : State :=
  let c := s.cluster cluster
  let base := hostBase + (s.fn e.fn).frBase
  let wr := (farRead s base 8).1
  let q := faultPidx s cluster e
  let s1 := farWrite (farWrite (chargeFar q.2 e.fn 4 base 40 true) (base + 0x80 + 32 * (wr % 4096)) 32 (faultRecord e q.1 c.dropped)) base 8 (wr + 1)
  let rest := c.staged.erase e
  let s2 := s1.updCluster cluster fun x => { x with staged := rest, dropped := x.dropped && !rest.isEmpty, wrote := addNew x.wrote e.fn }
  let s3 := if (s2.fn e.fn).frSince then s2
    else
      let n := (s2.fn e.fn).frTimer + 1
      (s2.updFn e.fn fun f => { f with frSince := true, frTimer := n }).after (nsToDatum 1000) (.faultInterruptTimer e.fn n)
  if rest.isEmpty then bufferEmpty s3 cluster else writeNext s3 cluster nextWriteNs

/-- FAULT_RECORD_WRITE (R408, R409): the first staged entry whose ring is open is written. Entries whose ring is not enabled or is
full wait; a full ring is looked at again. -/
def execFaultRecordWrite (cluster : Nat) (s : State) : Out :=
  let c := s.cluster cluster
  match c.staged.find? fun e => faultRingOpen s e.fn with
  | none => .next (if c.staged.any fun e => (s.fn e.fn).frEn then writeNext s cluster nextWriteNs else s)
  | some e => .next (writeFault s cluster e)

/-- FAULT_INTERRUPT_TIMER (R409): 1 µs after the first record since the last interrupt. -/
def execFaultInterruptTimer (fn number : Nat) (s : State) : Out :=
  if (s.fn fn).frTimer = number then .next (faultInterrupt s fn) else .next s

/-- The clusters whose buffers hold an entry of a function. -/
def stagedAt (s : State) (fn : Nat) : List Nat := (s.clusters.filter fun p => p.2.staged.any fun e => e.fn == fn).map (·.1)

/-- FRCTL_WRITE (R409): EN lets waiting records be written, and setting ARM after a record sends the interrupt at once. -/
def execFrctlWrite (fn : Nat) (value : BitVec 32) (s : State) : Out :=
  let v := value.toNat
  let s1 := s.updFn fn fun f => { f with frEn := bitOf v 31, frArm := bitOf v 30, frIrq := v % 2048 }
  .next (faultInterrupt ((stagedAt s fn).foldl (fun a c => writeNext a c nextWriteNs) s1) fn)

/-- DHCTL_OVF_CLEAR (R412). -/
def execDhctlOvfClear (fn : Nat) (s : State) : Out := .next (s.updFn fn fun f => { f with dhOvf := false })

/-- ERRSTAT_SHARED_CLEAR (R415). -/
def execErrstatSharedClear (fn : Nat) (s : State) : Out := .next (s.updFn fn fun f => { f with shared := false })

-- REPLAY (R410)

/-- Do an engine's event again, unless it is waiting for its turn already. -/
def postOnce (s : State) (e : Event) : State := if s.later.contains e then s else s.post e

/-- The record of a re-executed access (R340). -/
def emitReplay (s : State) (fn cl off : Nat) : State := emitFault s ⟨fn, 0, cl, none⟩ 0x63 off

/-- Let a function's parked strands execute again. -/
def replayStrands (s : State) (fn : Nat) : State :=
  s.strands.foldl (fun (a : State) p =>
    if p.2.wait = .parked ∧ (s.grid (gridKey s p.2)).fn = fn then
      emitReplay (a.updStrand p.1 fun st => wakeStrand st [.parked]) fn (clusterOf p.2.core) p.2.parkOff
    else a) s

/-- Let a function's parked jobs and array operations try their step again. -/
def replayEngines (s : State) (fn : Nat) : State :=
  let s1 := (s.jobs.filter fun p => p.2.phase == .parked && (s.grid p.2.grid).fn == fn).foldl (fun a p =>
    postOnce (emitReplay a fn (clusterOf p.2.core) p.2.port.off) (.jobStart p.1)) s
  (s1.arrayOps.filter fun p => p.2.phase == .parked && (s.grid p.2.grid).fn == fn).foldl (fun a p =>
    postOnce (emitReplay a fn (clusterOf p.2.core) p.2.port.off) (.arrayOpStart p.1)) s1

/-- Let a function's AQIs and packets go on that a page holds (R419, R448, R450). -/
def replayPackets (s : State) (fn : Nat) : State :=
  let s1 := (s.aqis.filter fun p => p.1 / 64 == fn).foldl (fun (a : State) p =>
    match p.2.hold with
    | .replay none => (a.updAqi fn (p.1 % 64) fun x => { x with hold := .none }).post (.packetStart fn (p.1 % 64))
    | .replay (some k) => (a.updAqi fn (p.1 % 64) fun x => { x with hold := .packet k }).post (.launch k)
    | _ => a) s
  (s1.grids.filter fun p => p.2.fn == fn && !p.2.isOver && p.2.ended.isNone && p.2.result.isNone && p.2.step != 0
      && (p.2.kind == 3 || p.2.kind == 4 || p.2.kind == 6 || p.2.kind == 7)).foldl
    (fun a p => postOnce a (packetEvent p.2.kind (packetOp p.2.kind p.2.body) p.1)) s1

/-- Let the requests of peers that a function's pages hold be tried again (R470). -/
def replayPeers (s : State) (fn : Nat) : State :=
  let mine (p : Nat × Nat × PeerAsk) : Bool := p.2.1 == (s.fn fn).domain
  (s.peerHeld.filter mine).foldl (fun a p => a.send (.peerAccessRequest ⟨p.1, 8, 0⟩ p.2.1 p.2.2))
    { s with peerHeld := s.peerHeld.filter fun p => !mine p }

/-- Whether the fields of a REPLAY packet are in their limits (R448). -/
def replayOk (x : Grid) : Bool :=
  x.limitsOk [(2, 1), (3, 1)] && x.at_ 2 1 == 1 && (x.at_ 3 1 == pf || (decide (1 ≤ x.at_ 3 1) && decide (x.at_ 3 1 ≤ 64)))

/-- Every parked access of a function executes again (R410). -/
def replayAll (s : State) (fn : Nat) : State :=
  replayPeers (replayPackets (replayEngines (replayStrands s fn) fn) fn) fn

/-- REPLAY (R410, R447): every access of a function that is parked now executes again. -/
def execReplay (packet : Nat) (s : State) : Out :=
  match s.grids.find packet with
  | none => .next s
  | some x =>
    if x.isOver ∨ x.ended.isSome ∨ x.result.isSome then .next s
    else
      if replayOk x then .next (endPacket (replayAll (startPacket s packet false) (x.at_ 3 1)) packet 1 0)
      else .next (refusePacket s packet 1)

-- Removing translations (R405, R406)

/-- Remove the TLB entries of which a predicate holds, everywhere. -/
def dropTlb (s : State) (p : TlbEntry → Bool) : State :=
  { s with
    cores := s.cores.map fun c => (c.1, { c.2 with tlb := c.2.tlb.filter fun e => !p e })
    clusters := s.clusters.map fun c => (c.1, { c.2 with tlb := c.2.tlb.filter fun e => !p e }) }

/-- Requests that have not been performed: on their way, waiting at a busy line or for a switch, or asked of a peer. -/
def openReqs (s : State) : List MemReq :=
  (s.onWay ++ s.heldInstalls.map (·.1) ++ s.homes.flatMap fun h => h.2.busy.flatMap fun b => b.2.waiters).filterMap eventReq
    ++ s.peerAsked.filterMap fun p => match p.2 with | .access r => some r | .page .. => none

/-- The function for which a request that is still to be performed is made: a peer's or the host's, the owner of the home (R405, R453,
R457). -/
def openFn (s : State) (agent : Agent) (home grid : Nat) : Nat :=
  match agent with
  | .peer _ => (s.platOf home).owner
  | .host => (s.platOf home).owner
  | _ => (s.grid grid).fn

/-- Whether a request was made before the name `n` was given: one of an engine, whose name is its line, counts always. -/
def issuedBefore (agent : Agent) (acc n : Nat) : Bool :=
  match agent with
  | .strand _ | .peer _ => decide (acc < n)
  | _ => true

/-- Whether no access that was issued before the name `n` was given is still to be performed, of the functions of which a
predicate holds: of strands, of those that have ended, of row instructions, and the stores of jobs and array operations. -/
def performedBefore (s : State) (fns : Nat → Bool) (n : Nat) : Bool :=
  let mine (grid : Nat) : Bool := fns (s.grid grid).fn
  !(s.strands.any fun p => fns (s.grid (gridKey s p.2)).fn
      && (p.2.flight.any (fun q => decide (q.1 < n)) || p.2.unacked.any fun u => decide (u.acc < n)))
  && !(s.rowOps.any fun p => fns p.2.fn && decide (p.1 < n))
  && !(s.jobs.any fun p => mine p.2.grid && p.2.acks != 0)
  && !(s.arrayOps.any fun p => mine p.2.grid && p.2.acks != 0)
  && !((openReqs s).any fun r => fns (openFn s r.agent r.home r.grid) && issuedBefore r.agent r.acc n)
  && !(s.homes.any fun h => h.2.windows.any fun w => w.2.stores.any fun x => fns (openFn s x.agent h.1 x.grid) && issuedBefore x.agent x.acc n)

/-- Whether the fields of an INVALIDATE packet are in their limits (R448). -/
def invalidateOk (x : Grid) : Bool :=
  x.limitsOk [(2, 1), (3, 1), (8, 8), (0x10, 4), (0x14, 4)] && decide (x.at_ 2 1 ≤ 1)
    && (x.at_ 3 1 == pf || (decide (1 ≤ x.at_ 3 1) && decide (x.at_ 3 1 ≤ 64))) && x.at_ 8 8 % 65536 == 0
    && x.at_ 0x10 4 != 0 && decide (x.at_ 0x10 4 ≤ 2 ^ 24) && !(x.at_ 2 1 == 1 && decide (2 ^ 20 ≤ x.at_ 0x14 4))

/-- The translations that a packet names are removed; the accesses that may have used one are those made so far (R405). -/
def beginInvalidate (s : State) (packet : Nat) (x : Grid) : State :=
  (dropTlb ((startPacket s packet false).updGrid packet fun g => { g with work := [s.nextId] }) (invalidates x)).post
    (.invalidate packet)

/-- INVALIDATE (R405, R447): complete when no access that used a translation named is still to be performed. -/
def execInvalidate (packet : Nat) (s : State) : Out :=
  match s.grids.find packet with
  | none => .next s
  | some x =>
    if x.isOver ∨ x.ended.isSome ∨ x.result.isSome then .next s
    else
      if x.step = 0 then
        if invalidateOk x then .next (beginInvalidate s packet x) else .next (refusePacket s packet 1)
      else if performedBefore s (· == x.at_ 3 1) (x.work.headD 0) then .next (endPacket s packet 1 0)
      else .next (s.post (.invalidate packet))

/-- Begin a stage-1 invalidation by the register (R405). -/
def s1Invalidate (fn : Nat) (value : Word) (p : TlbEntry → Bool) (s : State) : State :=
  if !(s.fn fn).s1done then countIgnored s fn
  else
    let v := putBits (putBits value.toNat 0 1 0) 2 1 0
    (dropTlb (s.updFn fn fun f => { f with s1inv := v, s1done := false, s1mark := s.nextId })
      fun e => e.fn == fn && p e).post (.s1InvalidateDone fn)

/-- S1_INVALIDATE_PAGE (R405): a write with DO = 1 and ALL = 0. -/
def execS1InvalidatePage (fn : Nat) (value : BitVec 64) (s : State) : Out :=
  let v := value.toNat
  let win := if bitOf v 3 then 0 else bits v 4 12 * 16
  .next (s1Invalidate fn value (fun e => e.page == win * 2 ^ 48 + bits v 16 48) s)

/-- S1_INVALIDATE_ALL (R405): a write with DO = 1 and ALL = 1. -/
def execS1InvalidateAll (fn : Nat) (value : BitVec 64) (s : State) : Out := .next (s1Invalidate fn value (fun _ => true) s)

/-- S1_INVALIDATE_DONE (R405): DONE reads 1 once every access that used a translation removed has been performed. -/
def execS1InvalidateDone (fn : Nat) (s : State) : Out :=
  let f := s.fn fn
  if f.s1done then .next s
  else if performedBefore s (· == fn) f.s1mark then .next (s.updFn fn fun x => { x with s1done := true })
  else .next (s.post (.s1InvalidateDone fn))

/-- ATS_INVALIDATE_REQUEST (R406): the ATS completions of a range are removed, and the answer follows once every access that used
one has been performed. -/
def execAtsInvalidateRequest (pasid page pages : Nat) (s : State) : Out :=
  match s.atsPending.find? fun p => p.1 == pasid && p.2.1 == page && p.2.2.1 == pages with
  | none =>
    .next ({ dropTlb s (atsNames pasid page pages) with atsPending := s.atsPending ++ [(pasid, page, pages, s.nextId)] }.post
      (.atsInvalidateRequest pasid page pages))
  | some p =>
    if performedBefore s (fun _ => true) p.2.2.2 then
      .next ({ s with atsPending := s.atsPending.erase p }.emitOut (.atsDone pasid page pages))
    else .next (postOnce s (.atsInvalidateRequest pasid page pages))

-- Errors (R387, R413 to R416)

/-- The partition that an error concerns: the PF's ring alone has it where nobody owns what is affected (R340, R416). -/
def concerned (owner : Nat) : Nat := if owner = 0 then pf else owner

/-- The owner of a line of device memory; nobody owns the host's here. -/
def ownerOfLine (s : State) (line : Nat) : Nat := if isDevice (line * 128) then (s.platOf (parcelOf (line * 128))).owner else 0

/-- Poison a line where it is held (R413): POISON CREATED goes to its owner's ring. -/
def poisonLine (s : State) (line : Nat) : State :=
  let h := homeAt s line
  let pa := line * 128
  let s1 := if homeHas s h line then updDir s h line fun d => { d with mark := true }
    else { s with poisoned := addNew s.poisoned line }
  (noteMoved s1 line).emitNotice (concerned (ownerOfLine s line)) (sillSrc (sliceOf pa) 9 (sliceOf pa % 8 * 16)) 0xE1 true (some pa)

/-- A strand's unit has created poison. -/
def poisonStrand (s : State) (k : Nat) (f : Strand → Strand) : State :=
  match s.strand k with
  | none => s
  | some st => (s.setStrand k (f st)).emitNotice (concerned (s.grid (gridKey s st)).fn) (coreSrc st.core 0) 0xE1 true none

/-- A core's unit has created poison. -/
def poisonCore (s : State) (core : Nat) (f : State → State) : State :=
  (f s).emitNotice (concerned (fnOfCore s core)) (coreSrc core 2) 0xE1 true none

/-- A BSU has created poison. -/
def poisonBsu (s : State) (slice bsu : Nat) (f : Bsu → Bsu) : State :=
  { s with bsus := s.bsus.updD (16 * slice + bsu) .zero f }.emitNotice (concerned (s.platOf (slice / 2)).owner)
    (sillSrc slice 9 (slice % 8 * 16 + bsu)) 0xE1 true none

/-- Poison what an uncorrectable error affects (R413): a line in memory, a slot line, an accumulator's element, a line that a BSU holds,
an element of a register carry a mark. -/
def poisonSpot (s : State) : Spot → State
  | .line l => poisonLine s l
  | .slotLine core n i => poisonCore s core fun a => a.updSlot core n fun x => { x with marks := setMark x.marks i true }
  | .accElement core n row col => poisonCore s core fun a => a.updAcc core n fun x =>
      { x with cm := x.cm.setIfInBounds row (setMark (x.cm.toArray.getD row 0) col true) }
  | .rowLine slice k n i => poisonBsu s slice k fun b =>
      { b with rwm := b.rwm.setIfInBounds n (BitVec.ofNat 8 (putBits (b.rwm.toArray.getD n 0).toNat i 1 1)) }
  | .bufferLine slice k i => poisonBsu s slice k fun b => { b with vbm := BitVec.ofNat 64 (putBits b.vbm.toNat i 1 1) }
  | .vElement k n th => poisonStrand s k fun st =>
      match st.vreg n with
      | some v => st.setV n (some { v with mark := BitVec.ofNat 32 (putBits v.mark.toNat th 1 1) })
      | none => st
  | .sRegister k n => poisonStrand s k fun st => { st with sm := BitVec.ofNat 64 (putBits st.sm.toNat n 1 1) }

/-- The lines of memory among what an error affects. -/
def spotLines (spots : List Spot) : List Nat := spots.filterMap fun x => match x with | .line l => some l | _ => none

/-- The slices in which an error has affected something (R387, R413): a core's units lie in none. -/
def spotSlices (spots : List Spot) : List Nat :=
  (spots.filterMap fun x => match x with
    | .line l => if isDevice (l * 128) then some (sliceOf (l * 128)) else none
    | .rowLine slice _ _ _ => some slice
    | .bufferLine slice _ _ => some slice
    | _ => none).foldl addNew []

/-- The cluster whose core or strand an error has affected. -/
def spotCluster (s : State) : Spot → Option Nat
  | .slotLine core _ _ => some (clusterOf core)
  | .accElement core _ _ _ => some (clusterOf core)
  | .vElement k _ _ => (s.strand k).map fun st => clusterOf st.core
  | .sRegister k _ => (s.strand k).map fun st => clusterOf st.core
  | _ => none

/-- Count an error of a slice (R387, R413). -/
def countSlice (s : State) (slice : Nat) : State := { s with sliceErrors := s.sliceErrors.updD slice 0 (· + 1) }

/-- Note an uncorrectable error of a partition's parcel in ERRSTAT: CLASS 5, unless the partition is in its error state already
(R414, R415). -/
def noteClass (s : State) (fn : Nat) : State :=
  s.updFn fn fun f => if f.err then f else { f with errClass := 5, errCause := 0 }

/-- The parcels of an uncorrectable error: those of what it affects, and one that is named (R413). -/
def errorParcels (s : State) (spots : List Spot) (parcel : Option Nat) : List Nat :=
  let ps := ((spotSlices spots).map (· / 2) ++ spots.filterMap (spotCluster s)).foldl addNew []
  match parcel with | some p => addNew ps p | none => ps

/-- An error inside a parcel goes on record for its owner, and for nobody else but the PF (R413, R416). -/
def errorNotice (lines : List Nat) (s : State) (p : Nat) : State :=
  let owner := (s.platOf p).owner
  (if owner = 0 then s else noteClass s owner).emitNotice (concerned owner) (sliceSrc p 7) 0xE0 true
    ((lines.find? fun l => sliceOf (l * 128) / 2 == p).map (· * 128))

/-- UNCORRECTABLE_ERROR (R387, R413): what it affects is poisoned. An error inside a parcel goes on record for its owner, and
counts at its slices. -/
def execUncorrectableError (spots : List Spot) (parcel : Option Nat) (s : State) : Out :=
  let s1 := (spotSlices spots).foldl countSlice (spots.foldl poisonSpot s)
  .next ((errorParcels s spots parcel).foldl (errorNotice (spotLines spots)) s1)

/-- An error of shared logic (R416): SHARED is set for every function, and it goes on record in every ring. -/
def sharedError (s : State) (lines : List Nat) : State :=
  let s1 := lines.foldl poisonLine s
  let fns := (addNew (s1.fns.map (·.1)) pf) ++ rangeFrom 1 64
  (fns.foldl (fun a fn => a.updFn fn fun f => { f with shared := true }) s1).emitNotice 0 (hubSrc 8) 0xE0 false
    ((lines.head?).map (· * 128))

/-- SHARED_LOGIC_ERROR (R416). -/
def execSharedLogicError (lines : List Nat) (s : State) : Out := .next (sharedError s lines)

/-- CORRECTABLE_ERROR (R413): it is corrected, and counted. -/
def execCorrectableError (slice : Nat) (s : State) : Out := .next (countSlice s slice)

/-- TIMING_REPLAY (R262): the stage replays its cycle, which changes no state and no order. A disagreement that persists is an
uncorrectable error of the unit, which goes on record. -/
def execTimingReplay (core : Nat) (persists : Bool) (s : State) : Out :=
  if persists then
    let s1 := s.emitNotice pf (coreSrc core 0) 0xD1 true none
    .next ((noteClass s1 (fnOfCore s core)).emitNotice (fnOfCore s core) (coreSrc core 0) 0xE0 true none)
  else .next s

/-- Retire a lane: nothing runs on it from now on, and a strand that it holds is free to go to another (R261). -/
def retireLane (s : State) (core lane : Nat) : State :=
  let s1 := s.updCore core fun c => { c with retired := addNew c.retired (lane % 32) }
  { s1 with
    sched := s1.sched.filter (· != 32 * core + lane % 32)
    plat := s1.plat.updD (core / 8) .reset fun e => { e with degraded := true }
    degraded := true, capGen := s1.capGen + 2
    strands := s1.strands.map fun (p : Nat × Strand) =>
      if p.2.lane = some (32 * core + lane % 32) then (p.1, { p.2 with lane := none, turn := false }) else p }

/-- LANE_RETIRED (R261): the lane takes no strand from now on; one that it holds moves to the neighbouring lane. -/
def execLaneRetired (core lane : Nat) (s : State) : Out :=
  .next ((retireLane s core lane).emitNotice pf (coreSrc core 0) 0xD0 true none)

-- Recovering a cluster (R417)

/-- Whether an L1 holds words of a line that differ from the home's copy. -/
def holdsDirty (s : State) (core line : Nat) : Bool := !(dirtyWords (s.core core).l1 line).isEmpty

/-- Reset an L1: lines of which it held dirty words are poisoned at their homes, a peer's by a poisoned writeback, and it holds
nothing. -/
def resetL1 (s : State) (core : Nat) : State :=
  let ls := (s.core core).l1.lines.map (·.1)
  let s1 := ls.foldl (fun (a : State) l =>
    let h := homeBy l core
    let b := if !holdsDirty s core l then a
      else if isPeer (l * 128) then
        toHome a l (writebackMsg (a.mail (coreDie core)) h (homeCore a l core) l (dirtyWords (s.core core).l1 l) false true true)
      else poisonLine a l
    if isPeer (l * 128) then b else updDir b h l fun d => d.dropCore core) s
  s1.updCore core fun c => { c with l1 := .empty, scribe := [], tlb := [] }

/-- Whether a request was made by the cores of a cluster: it carries an incarnation that is older from now on. -/
def fromCluster (cluster : Nat) (r : MemReq) : Bool :=
  decide (r.core < 512) && decide (r.core / 8 = cluster)
    || match r.agent with | .job _ => decide (r.rank % 1024 / 8 = cluster) | .arrayOp _ => decide (r.rank % 1024 / 8 = cluster) | _ => false

/-- A home refuses a request that carries an older incarnation, and returns nothing (R417): a store of it counts no more. -/
def refuseOld (s : State) (r : MemReq) : State :=
  match r.op with
  | .store .. => if r.so then s else s.send (.storeAck r.agent r.acc r.grid)
  | .atomic .. => if r.closing then s.send (.storeAck r.agent r.acc r.grid) else s
  | _ => s

/-- The homes refuse every request of a cluster's older incarnation that is on its way or that they hold, and grant it nothing (R417); a
peer's answer to it finds nobody. -/
def refuseCluster (s : State) (cluster : Nat) : State :=
  let old (e : Event) : Bool := match eventReq e with | some r => fromCluster cluster r | none => false
  let held := s.homes.flatMap fun h => h.2.busy.flatMap fun b => b.2.waiters.filter old
  let asked (p : Nat × PeerAsk) : Bool := match p.2 with | .access r => fromCluster cluster r | .page k _ _ => decide (k / 512 = cluster)
  let gone := (held ++ (s.onWay ++ s.later ++ s.heldInstalls.map (·.1)).filter old).filterMap eventReq
    ++ s.peerAsked.filterMap fun p => match p.2 with | .access r => if asked p then some r else none | _ => none
  let done (d : HomeDone) : HomeDone := match d with
    | .grant r => if fromCluster cluster r then .recalled else d
    | .forward r => if fromCluster cluster r then .recalled else d
    | _ => d
  gone.foldl refuseOld { s with
    homes := s.homes.map fun h => (h.1, { h.2 with busy := h.2.busy.map fun b => (b.1, { b.2 with waiters := b.2.waiters.filter fun e => !old e, done := done b.2.done }) })
    queue := s.queue.filter fun e => !old e.2
    linkQueues := s.linkQueues.filter fun w => match w.cargo with | .event e => !old e | .output _ => true
    later := s.later.filter fun e => !old e
    heldInstalls := s.heldInstalls.filter fun e => !old e.1
    peerAsked := s.peerAsked.filter fun p => !asked p }

/-- Recover a cluster: its blocks are killed, what its L2 slice can give is written back, and its caches are emptied (R417). -/
def recoverCluster (s : State) (cluster : Nat) (lost : List Nat) (ok : Bool) : State :=
  let mine := s.blocks.filter fun p => p.2.core / 8 == cluster && p.2.phase != .aside
  let s1 := mine.foldl (fun (a : State) p =>
    killBlock a p.1 cPoison ((a.grid p.2.grid).restartable && decide (p.2.launches ≤ 2))) s
  let s2 := refuseCluster ((rangeFrom (8 * cluster) 8).foldl resetL1 s1) cluster
  let held := ((s2.home cluster).l2.lines.map (·.1)) ++ (s2.home cluster).windows.map (·.1)
  let s3 := (held.filter fun l => !lost.contains l).foldl (fun a l => l2Clean (settleLine a cluster l) cluster l) s2
  let s4 := lost.foldl (fun (a : State) l =>
    let b := ((dirOf a cluster l).holders a).foldl (fun c k => sendInvalidation c cluster l k) a
    b.updHome cluster fun y => { y with l2 := let r := removeWords y.l2 (lineWords l); { r with lines := r.lines.del l } }) s3
  let s5 := lost.foldl poisonLine (s4.updHome cluster fun y => { y with l2 := .empty, windows := [], busy := [] })
  let s6 := s5.updCluster cluster fun c => { c with tlb := [], incarn := (c.incarn + 1) % 256 }
  let owner := (s6.platOf cluster).owner
  let s7 := (fun a => if owner = 0 then a else noteClass a owner) (countSlice s6 (2 * cluster))
  let s8 := s7.emitNotice (concerned owner) (sliceSrc cluster 7) 0xE0 true ((lost.head?).map (· * 128))
  if ok then
    (fabricDevs s8).foldl (fun a d => a.emitOut (.message d (.peerReady (s8.mail 8) cluster (s8.cluster cluster).incarn))) s8
  else
    { s8 with plat := s8.plat.updD cluster .reset (fun e => { e with state := .faulty, degraded := true, bad := true })
              degraded := true, capGen := s8.capGen + 2 }

/-- The lines of a cluster's slice that it can still read and of which cores elsewhere hold copies, with those. -/
def copiesElsewhere (s : State) (cluster : Nat) (lost : List Nat) : List (Nat × List Nat) :=
  ((s.home cluster).l2.lines.filter fun l => !lost.contains l.1).filterMap fun l =>
    match (l.2.holders s).filter fun c => c / 8 != cluster with | [] => none | cs => some (l.1, cs)

/-- CLUSTER_RECOVERY (R417): the copies that others hold of its slice's lines are recalled, as its directory is lost. Then the cluster's blocks are killed, the restartable ones to be relaunched; its L2 slice writes back what
it can read, and the lines `lost` are poisoned in memory; its incarnation rises, and its L1s, L2 slice and TLBs are empty. One
that becomes ready says so to the peers (R459); one that does not leaves its parcel FAULTY. -/
def execClusterRecovery (cluster : Nat) (lost : List Nat) (ok : Bool) (s : State) : Out :=
  if (s.home cluster).busy.isEmpty = false ∨ s.queue.isEmpty = false then .next (s.post (.clusterRecovery cluster lost ok))
  else
    match copiesElsewhere s cluster lost with
    | [] => .next (recoverCluster s cluster lost ok)
    | ls => .next ((ls.foldl (fun a l => beginTx a cluster l.1 l.2 .recalled []) s).post (.clusterRecovery cluster lost ok))

end Sys2Proof.Machine
end

