-- ==== Sys2Proof/Machine/Peers.lean ====
section
/-!
DEFINITION. The outside: the host's access to device memory (R453 to R455), its snoops of host lines (R301), and peers: their
requests and answers (R457, R470), their leaving and rejoining (R458, R459).
-/
namespace Sys2Proof.Machine

-- Host accesses to device memory (R453)

/-- The function whose HDM decoder range holds an address, and the GPA. -/
def hdmOf (s : State) (addr : Nat) : Option (Nat × Nat) :=
  (s.fns.find? fun p => decide (p.2.hdmBase ≤ addr) && decide (addr < p.2.hdmBase + p.2.hdmSize)).map fun p =>
    (p.1, addr - p.2.hdmBase)

/-- Where a host access goes, by stage 2: none when it is refused, which is logged (R449, R453). -/
def hdmXlate (s : State) (addr : Nat) (write : Bool) : Option Nat × State :=
  match hdmOf s addr with
  | none => (none, s)
  | some (fn, gpa) =>
    match viaStage2 s ⟨fn, 0, 256, none⟩ gpa write false false with
    | (.ok ga _, s1) =>
      if bundleField s1 (ga / 128) then (none, logError s1 fn 6 0 0 0) else (some ga, s1)
    | (_, s1) => (none, logError s1 fn 6 0 0 0)

/-- `n` free bytes (log 2). -/
def freeBytes : Nat → State → Nat × State
  | 0, s => (0, s)
  | n + 1, s =>
    let d := s.draw
    let r := freeBytes n d.2
    (d.1.toNat % 256 + 256 * r.1, r.2)

/-- HOST_MEM_READ (R453): 64 bytes. A refused one returns poisoned data, whose bytes are open. In device bias the owners are recalled
first; in host bias nothing of the device is asked. -/
def execHostMemRead (addr tag : Nat) (s : State) : Out :=
  let a := addr / 64 * 64
  match hdmXlate s a false with
  | (none, s1) => let d := freeBytes 64 s1; .next (d.2.emitOut (.hostData hostHome tag (BitVec.ofNat 512 d.1) true))
  | (some ga, s1) =>
    let line := ga / 128
    let h := homeFor line
    if busyLine s1 h line then .next (holdReq s1 h line (.hostMemRead addr tag))
    else
      match (dirOf s1 h line).owner with
      | some o => .next (beginTx s1 h line [o] .recalled [.hostMemRead addr tag])
      | none =>
        let t := (checkTag s1 line).2
        let x := field (homeLine t h line) (8 * (ga % 128)) 512
        .next (t.emitOut (.hostData h tag (BitVec.ofNat 512 x) (linePoisoned t h line)))

/-- One line's bytes of a host write (R453): a closing request in device bias; in host bias they go to memory. -/
def hostWriteLine (s : State) (line : Nat) (bs : List (Nat × Byte)) (again : Event) : State :=
  let h := homeFor line
  if busyLine s h line then holdReq s h line again
  else if hostBiased s line then dropHost (homeMerge s h line bs false) h line
  else
    s.send (.homeStoreArrival
      { agent := .host, acc := 0, thread := 0, grid := 0, core := 1023, rank := s.dev * 1024 + 1023, home := h, line := line
        so := false, fill := 0, cold := false, learn := none, closing := true, op := .store bs false })

/-- HOST_MEM_WRITE (R453): bytes by their offsets from an address; a refused write is dropped. -/
def execHostMemWrite (addr : Nat) (bytes : List (Nat × BitVec 8)) (s : State) : Out :=
  let ls := (bytes.map fun p => (addr + p.1) / 128).foldl addNew []
  .next (ls.foldl (fun (a : State) l =>
    let mine := bytes.filter fun p => (addr + p.1) / 128 == l
    let r := hdmXlate a (128 * l) true
    match r.1 with
    | none => r.2
    | some ga =>
      hostWriteLine r.2 (ga / 128) (mine.map fun p => ((addr + p.1) % 128, p.2)) (.hostMemWrite addr mine)) s)

/-- HOST_SNOOP (R301): the device-side agent answers for a host line, with its data if it differed from the host's. A snoop that
invalidates takes every copy away; another leaves shared ones. -/
def execHostSnoop (line : Nat) (invalidate : Bool) (s : State) : Out :=
  let h := homeAt s line
  if busyLine s h line then .next (holdReq s h line (.hostSnoop line invalidate))
  else
    let owner := (dirOf s h line).owner
    let dirty := !(dirtyWords (s.home h).l2 line).isEmpty
      || match owner with | some o => holdsDirty s o line | none => false
    let s1 := match invalidate, owner with
      | false, some o =>
        (updDir (l1Clean s o line false) h line fun d => { d with owner := none, sharers := addNew d.sharers o }).updCore o fun k =>
          { k with l1 := { k.l1 with lines := k.l1.lines.upd line fun x => { x with st := .s } } }
      | true, _ => settleLine s h line
      | _, _ => s
    let data := homeLine s1 h line
    .next ((if invalidate then l2Drop s1 h line else l2Clean s1 h line).emitOut (.snoopData line (if dirty then some data else none)))

-- What peers ask (R457, R470)

/-- The function that serves a fabric domain. -/
def fnOfDomain (s : State) (domain : Nat) : Option Nat :=
  if domain = 0 then none else (s.fns.find? fun p => p.2.domain == domain).map (·.1)

/-- The request of a peer as this module's homes take it: its line here, and a token for the answer. -/
def localReq (s : State) (dev line : Nat) (r : MemReq) : MemReq :=
  { r with agent := .peer dev, acc := s.nextId, core := remoteCore dev (r.core % 1024), home := homeFor line, line := line, learn := none }

/-- A peer's page or access by the stage 2 of the function of its domain: where it lies, or a refusal, or it is held and reported
as a fault of that function (R470). -/
def peerXlate (s : State) (dev domain gpa : Nat) (write fetch : Bool) (ask : PeerAsk) : Option (Option Nat) × State :=
  match fnOfDomain s domain with
  | none => (some none, s)
  | some fn =>
    match viaStage2 s ⟨fn, 0, 256, none⟩ gpa write fetch false with
    | (.ok ga _, s1) => (some (some ga), s1)
    | (.trap _, s1) => (some none, s1)
    | (.replay kind g _, s1) =>
      (none, { requestFault s1 ⟨fn, 0, 257, none⟩ ⟨0, 0, kind, g / 65536 * 65536, false, write, fetch⟩ with
        peerHeld := s1.peerHeld ++ [(dev, domain, ask)] })

/-- Whether an incarnation is older than another, both modulo 256 (R417, R459): less than half the circle behind it (log 18). -/
def olderIncarn (a b : Nat) : Bool := a % 256 != b % 256 && decide ((b + 256 - a % 256) % 256 < 128)

/-- PEER_ACCESS_REQUEST (R457, R470): a peer asks whether a page may be used, and is told which one it is, or for an access. One that
carries an older incarnation of its cluster is refused, and nothing is returned (R417, R459). -/
def execPeerAccessRequest (m : Mail) (domain : Nat) (ask : PeerAsk) (s : State) : Out :=
  let dev := m.dev
  let s := recv s m 8
  match ask with
  | .page strand page write =>
    (match peerXlate s dev domain (localOf (page * 65536)) write false ask with
    | (none, s1) => .next s1
    | (some x, s1) => .next (s1.emitOut (.answer dev hostHome (.page strand page (x.map (· / 65536))))))
  | .access r =>
    let write := match r.op with | .load => false | _ => true
    let fetch := match r.agent with | .fetch _ => true | _ => false
    if clusterOf r.core < 64 ∧ olderIncarn r.incarn (s.peerIncarn.getD (64 * dev + clusterOf r.core) 0) = true then .next s
    else match peerXlate s dev domain (localOf (r.line * 128)) write fetch ask with
    | (none, s1) => .next s1
    | (some none, s1) => .next (s1.emitOut (.answer dev hostHome (.refused r)))
    | (some (some ga), s1) =>
      let line := ga / 128
      let q := localReq s1 dev line r
      let s2 := (if r.op = .load then (checkTag s1 line).2 else s1)
      .next ({ s2 with nextId := s2.nextId + 1, peerReqs := s2.peerReqs.put q.acc (dev, q.home, r) }.send (reqEvent q (nearHere s2 q)))

-- What peers answer

/-- Let what a packet waits for go on: its record, or its effect. -/
def resumePacket (s : State) (k : Nat) : State :=
  let x := s.grid k
  s.post (if x.ended.isSome then .gridComplete k else packetEvent x.kind (packetOp x.kind x.body) k)

/-- Note a peer's answer in an engine's port, and let the engine go on. -/
def answerEngine (s : State) (r : MemReq) (f : Port → Port) : State :=
  let g (p : Port) : Port := { f p with waiting := false }
  match r.agent with
  | .job k => (s.updJob k fun x => { x with port := g x.port }).post (.jobStart k)
  | .arrayOp k => (s.updArray k fun x => { x with port := g x.port }).post (.arrayOpStart k)
  | .bsu k =>
    let s1 := s.updRow k fun x => { x with port := g x.port }
    (match s1.rowOps.find k with
    | some o => (ones 16 o.todo).foldl (fun a b => a.post (.bsuExecute k b)) s1
    | none => s1)
  | .hub => resumePacket (s.updGrid r.grid fun x => { x with port := g x.port }) r.grid
  | _ => s

/-- A peer refuses the fetch of a line (R399, R402, order 7): the fault is raised at the instruction that the strand waits for; what was
only fetched ahead raises none (R14). A `tret` looks again. -/
def refuseFetch (s : State) (k : Nat) (r : MemReq) : State :=
  match s.strand k with
  | none => s
  | some st =>
    if r.thread = 2 ^ 80 then s.setStrand k { wakeStrand st [.answer] with peerNo := addNew st.peerNo (r.line / 512) }
    else if st.wait = .line ∧ st.cwin.toNat * 2 ^ 64 + (lineBase st.pc).toNat = r.thread then
      takeFault s k { st with wait := .none } (inChain st) cPermission st.pc
    else s

/-- A line of code has come from a peer: it goes on to the strand's buffer (R159), or to the `tret` that reads it. -/
def peerFetched (s : State) (k : Nat) (r : Reply) : State :=
  if r.req.thread = 2 ^ 80 then s.updStrand k fun st => { wakeStrand st [.answer] with answer := some r.data.toNat }
  else s.send (.instructionLineArrival k (BitVec.ofNat 16 (r.req.thread / 2 ^ 64)) (BitVec.ofNat 64 r.req.thread)
    (BitVec.ofNat 512 (field r.data (8 * (r.req.thread % 128)) 512)))

/-- A peer's refusal of an access after it had granted the page (log 19): a load's or atomic's bytes are free values with poison
marks, a store is dropped; a `wait`, a job or a packet fails. -/
def refuseAccess (s : State) (r : MemReq) : State :=
  match r.agent, r.op with
  | .fetch k, _ => refuseFetch s k r
  | .strand k, .load =>
    if r.acc = 0 then s.updStrand k fun st => { wakeStrand st [.answer] with peerNo := addNew st.peerNo (r.line / 512), peerOk := [] }
    else let d := freeBytes 128 s; d.2.send (.memoryAccessComplete ⟨r, BitVec.ofNat 1024 d.1, true, 0, none⟩)
  | .strand _, .store _ _ => if r.so then s.send (.memoryAccessComplete ⟨r, 0, true, 0, some 0⟩) else s.send (.storeAck r.agent r.acc r.grid)
  | .strand _, _ =>
    if r.closing then s.send (.storeAck r.agent r.acc r.grid)
    else let d := freeBytes 16 s; d.2.send (.memoryAccessComplete ⟨r, 0, true, 0, some d.1⟩)
  | .bsu _, .store _ _ => s.send (.storeAck r.agent r.acc r.grid)
  | .bsu _, .load =>
    let d := freeBytes 128 s
    answerEngine d.2 r fun p => { p with reads := p.reads ++ [(r.line, BitVec.ofNat 1024 d.1, true)] }
  | .hub, .atomic .. =>
    countDown (s.updGrid r.grid fun g => { g with result := some (3, cPermission) }) r.grid 1024
  | _, _ => answerEngine s r fun p => { p with refused := true }

/-- What an answer of a peer does, when its question is still outstanding. -/
def takeAnswer (s : State) (dev : Nat) (a : PeerAnswer) : State :=
  match a with
  | .page strand page at_ =>
    let s1 : State := match at_ with | some x => { s with peerPages := s.peerPages.put page x } | none => s
    s1.updStrand strand fun st =>
      if st.wait = .peer then
        { st with wait := .none, peerOk := match at_ with | some x => st.peerOk ++ [(page, x)] | none => st.peerOk
                  peerNo := if at_.isNone then addNew st.peerNo page else st.peerNo }
      else st
  | .reply r =>
    (match r.req.agent with
    | .fetch k => peerFetched s k r
    | .strand k =>
      if r.req.acc = 0 then
        s.updStrand k fun st => { wakeStrand st [.answer] with answer := some (r.data.toNat + b2n r.mark * 2 ^ 1024) }
      else s.send (.memoryAccessComplete r)
    | _ => answerEngine s r.req fun p => { p with reads := p.reads ++ [(r.req.line, r.data, r.mark)] })
  | .ack r =>
    (match r.agent, r.op with
    | .strand _, _ => s.send (.storeAck r.agent r.acc r.grid)
    | .hub, .atomic .. => s.send (.storeAck .hub 0 r.grid)
    | .bsu _, .store _ _ => s.send (.storeAck r.agent r.acc r.grid)
    | _, _ => answerEngine s r fun p => { p with stored := p.stored ++ [r.line] })
  | .refused r => refuseAccess s r
  | .viewed strand token line data =>
    s.updStrand strand fun st =>
      if st.ask ≠ token then st
      else { wakeStrand st [.answer] with viewed := st.viewed ++ (namesOfLine st dev line).map fun l => (l, data) }
  | .kept core line => s.send (.storeAck (.l1 core) line 0)

/-- The question that an answer is about. -/
def answersAsk (a : PeerAnswer) (q : PeerAsk) : Bool :=
  match a, q with
  | .page k p _, .page k2 p2 _ => k == k2 && p == p2
  | .reply r, .access q => r.req == q
  | .ack r, .access q => r == q
  | .refused r, .access q => r == q
  | _, _ => false

/-- PEER_ACCESS_REPLY (R457, R470): an answer whose question is no longer outstanding is discarded. What a peer's home has decided of
a view load names the line as that home does. -/
def execPeerAccessReply (m : Mail) (a : PeerAnswer) (s : State) : Out :=
  let dev := m.dev
  let s := recv s m 8
  match a with
  | .viewed .. => .next (takeAnswer s dev a)
  | .kept .. => .next (takeAnswer s dev a)
  | _ =>
    match s.peerAsked.find? fun p => p.1 == dev && answersAsk a p.2 with
    | none => .next s
    | some p => .next (takeAnswer { s with peerAsked := s.peerAsked.erase p } dev a)

-- Peers that leave and return (R458, R459)

/-- What was asked of a peer ends as refused (R458); installs there are given up. -/
def refuseAll (s : State) (dev : Nat) : State :=
  let mine := s.peerAsked.filter (·.1 == dev)
  let s1 := mine.foldl (fun (a : State) p =>
    match p.2 with
    | .page strand page _ => takeAnswer a dev (.page strand page none)
    | .access r => refuseAccess a r) { s with peerAsked := s.peerAsked.filter (·.1 != dev) }
  let asked (acc : Nat) : Bool := mine.any fun p => match p.2 with | .access r => r.acc == acc | _ => false
  let s2 := s1.strands.foldl (fun (a : State) p =>
    (p.2.unacked.filter fun u => isPeer (u.line * 128) && peerOf (u.line * 128) == dev && !asked u.acc).foldl
      (fun b u => b.send (.storeAck (.strand p.1) u.acc (gridKey s p.2))) a) s1
  { s2 with strands := s2.strands.map fun (p : Nat × Strand) =>
      if p.2.wait = .answer ∧ p.2.ask ≠ 0 then (p.1, { p.2 with wait := .none, ask := 0, viewed := [] }) else p }

/-- A home forgets a peer's copies of a line (R458): a line that it owned is poisoned, and acknowledgements that it owed are taken as
given. -/
def forgetPeer (s : State) (dev home line : Nat) (d : DirLine) : State :=
  let rs := d.remotes.filter (·.dev == dev)
  let s1 := if rs.any fun r => d.owner == some (remoteCore r.dev r.core) then poisonLine s line else s
  let owed (r : Remote) : Bool :=
    s.peerIncarn.getD (64 * r.dev + r.cluster) 0 == r.incarn
    && match (s.home home).busy.find line with
      | some t => (match t.done with | .grant q => q.core != remoteCore r.dev r.core | _ => true)
      | none => false
  rs.foldl (fun (a : State) r =>
    if owed r then a.send (.invalidationAck (a.mail (homeDie home)) home (remoteCore r.dev r.core) r.name)
    else updDir a home line fun e => e.dropCore (remoteCore r.dev r.core)) s1

/-- The bundles that a peer's leaving ends (R334): every OPEN one that has its record, a joiner or a line there becomes ABORTED; its
joiners count as gone, and what that frees is freed (R326). Names of bundles of the peer go too. A bundle whose record is there is known
to be OPEN while a strand here is joined; one whose joiners here have all closed may be COMMITTED, and they wait for its return. -/
def bundlesLeave (s : State) (dev : Nat) : State :=
  let touched (b : Bundle) : Bool := bundleDev b.handle == dev || b.away.contains dev || b.lines.any (·.1 == dev)
  let s1 := { s with
    names := s.names.filter fun p => bundleDev p.2.2 != dev
    nameWaits := s.nameWaits.filter fun p => p.2.2.dev != dev
    bundles := s.bundles.map fun (p : Nat × Bundle) => (p.1, { p.2 with
      gone := p.2.gone + (p.2.away.count dev - p.2.left.count dev)
      left := p.2.left ++ List.replicate (p.2.away.count dev - p.2.left.count dev) dev
      asked := p.2.asked.filter (·.dev != dev) }) }
  let joined (h : Half) : Bool := s1.strands.any fun p => p.2.joined && p.2.bnd == h
  (s1.bundles.filter fun p => touched p.2).foldl (fun (a : State) p =>
    let h := p.2.handle
    if p.2.st != .opened then tryFree a h
    else if bundleDev h = dev then (if joined h then a.send (.dropNotice (a.mail 8) 127 h) else a)
    else woundBundle a 8 h) s1

/-- A peer leaves the domain (R334, R458). -/
def peerLeaves (s : State) (dev : Nat) : State :=
  let s1 := refuseAll { s with peerHeld := s.peerHeld.filter (·.1 != dev) } dev
  let lines := s1.homes.flatMap fun h => (h.2.l2.lines.filter fun p => p.2.remotes.any (·.dev == dev)).map fun p => (h.1, p.1, p.2)
  bundlesLeave (lines.foldl (fun a x => forgetPeer a dev x.1 x.2.1 x.2.2) s1) dev

/-- FABRIC_LINK_FAILURE (R458): the peers that are reached through the port leave. -/
def execFabricLinkFailure (port : Nat) (s : State) : Out :=
  let devs := (s.routes.filter fun p => bitOf p.2 7 && p.2 % 8 == port % 8).map (·.1)
  let s1 := devs.foldl (fun (a : State) d => { a with routes := a.routes.upd d fun b => putBits b 7 1 0 }) s
  .next (devs.foldl peerLeaves s1)

/-- ROUTE_TABLE_WRITE (R442, R457, R458): a word of four entries; a peer whose entry is made invalid leaves. -/
def execRouteTableWrite (word : Nat) (value : BitVec 32) (s : State) : Out :=
  let ds := rangeFrom (4 * word) 4
  let s1 := ds.foldl (fun (a : State) d =>
    let b := field value (8 * (d % 4)) 8
    { a with routes := if putBits b 3 4 0 = 0 then a.routes.del d else a.routes.put d (putBits b 3 4 0) }) s
  .next ((ds.filter fun d => routeOk s d && !routeOk s1 d).foldl peerLeaves s1)

/-- The pending versions here of bundles of another module: line and bundle. -/
def foreignPending (s : State) (dev : Nat) : List (Nat × Half) :=
  s.versions.filterMap fun p => match p.2.second with
    | some (.pending _ _ _ h _ _) => if bundleDev h = dev then some (p.1, h) else none
    | _ => none

/-- A peer is back (R334): its module is asked about every pending version here of its bundles, and no bundled line is served before the
answers; what waited for one of its bundles comes again. -/
def askReturned (s : State) (dev : Nat) : State :=
  let fresh := (foreignPending s dev).filter fun p => !s.rejoined.contains p
  let s1 := fresh.foldl (fun (a : State) p =>
    sendTo a dev (.stateQuery (a.mail (homeDie (homeFor p.1))) noAsker p.2 p.1 0)) { s with rejoined := s.rejoined ++ fresh }
  ((s1.heldInstalls.filter fun e => bundleDev e.2 == dev).map (·.2)).foldl releaseHeld s1

/-- A peer is back (R334): bundles of this module that have waited for it settle, and it is asked about those of its own that joiners here
have closed. -/
def settleReturned (s : State) (dev : Nat) : State :=
  let s1 := ((s.bundles.filter fun p => p.2.away.contains dev).map (·.2.handle)).foldl settleBundle s
  let hs := s1.jobs.filterMap fun p => match p.2.work with | .close h => if bundleDev h = dev then some h else none | _ => none
  if dev = s.dev then s1 else hs.foldl (fun a h => sendTo a dev (.stateQuery (a.mail 8) noAsker h noLine 0)) s1

/-- The directory entries of a cluster's older incarnation are removed (R295, R459). -/
def dropStale (s : State) (dev cluster : Nat) : State :=
  let stale (r : Remote) : Bool := r.core != 1023 && r.dev == dev && r.cluster == cluster && !r.live s
  let lines := s.homes.flatMap fun h => (h.2.l2.lines.filter fun p => p.2.remotes.any stale).map fun p => (h.1, p.1, p.2.remotes.filter stale)
  lines.foldl (fun (a : State) x => x.2.2.foldl (fun b r => updDir b x.1 x.2.1 fun d => d.dropCore (remoteCore r.dev r.core)) a) s

/-- PEER_READY (R334, R459): records of a cluster's older incarnation count as absent from now on. -/
def execPeerReady (m : Mail) (cluster incarn : Nat) (s : State) : Out :=
  let dev := m.dev
  let s := recv s m 8
  .next (settleReturned (askReturned (dropStale { s with peerIncarn := s.peerIncarn.put (64 * dev + cluster) incarn } dev cluster) dev) dev)

end Sys2Proof.Machine
end

