-- ==== Sys2Proof/Machine/Parcels.lean ====
section
/-!
DEFINITION. Parcels: the plat, the release of a parcel with its new keys and its scrub (R363 to R367, R376), the PARTITION and
METER packets (R368 to R371, R389), the teardown of a partition (R415, R460, R467), and RESIZE and MIGRATE (R377 to R381).
-/
namespace Sys2Proof.Machine

-- The plat (R364, R365)

/-- The number of a parcel's state (R364). -/
def ParcelState.code : ParcelState → Nat
  | .free => 0
  | .erasing => 1
  | .assigned => 2
  | .adding => 3
  | .leaving => 4
  | .migrating => 5
  | .faulty => 6

/-- A plat entry as the PF reads it (R364). -/
def platWord (e : PlatEntry) : Nat :=
  e.kgen * 2 ^ 24 + e.pidx * 2 ^ 18 + b2n e.lock * 2 ^ 15 + b2n e.degraded * 2 ^ 14 + e.state.code * 2 ^ 11 + e.owner

/-- The image of a function's scope policy register (R313). -/
def scopePolicy (f : Fn) : Nat := f.cap + b2n f.capFault * 16

/-- Change a plat entry. -/
def updPlat (s : State) (p : Nat) (f : PlatEntry → PlatEntry) : State := { s with plat := s.plat.updD p .reset f }

/-- The parcels of a function, in the order of their PIDX. -/
def parcelsOf (s : State) (fn : Nat) : List Nat :=
  (sortBy (fun p => p.2.pidx) (s.plat.filter fun p => p.2.owner == fn)).map (·.1)

/-- Whether a number names a function that may have a partition: a VF, or the PF. -/
def fnOk (fn : Nat) : Bool := fn == pf || (decide (1 ≤ fn) && decide (fn ≤ 64))

/-- Whether a function is locked (R385): CONFIG_LOCKED or RUN. -/
def isLocked (s : State) (fn : Nat) : Bool := (s.fn fn).tdisp == .locked || (s.fn fn).tdisp == .run

/-- The capability table has been rewritten (R391): GEN is even again. -/
def noteChange (s : State) : State := { s with capGen := s.capGen + 2 }

/-- A record of a change of the plat (R340), and the capability table is rewritten. -/
def noteplat (s : State) (part : Bool) : State := noteChange (s.emitNotice pf (hubSrc 8) 0xC0 part none)

/-- Take a parcel out of its partition's numbers (R365): the parcel with the highest PIDX takes its PIDX. -/
def dropPidx (s : State) (p : Nat) : State :=
  let e := s.platOf p
  match (parcelsOf s e.owner).getLast? with
  | none => s
  | some q => if q = p then s else updPlat s q fun x => { x with pidx := e.pidx }

/-- Set LOCK in every plat entry of a function, or clear it (R385). -/
def setLock (s : State) (fn : Nat) (b : Bool) : State :=
  noteChange ((parcelsOf s fn).foldl (fun a p => updPlat a p fun e => { e with lock := b }) s)

-- Requests that a released parcel refuses (R367, R376)

/-- The line of this module that a message to or from a home is about. -/
def eventLine (e : Event) : Option Nat :=
  match e with
  | .l1Invalidation _ _ _ line => some line
  | .invalidationAck _ _ _ line => some line
  | .writebackArrival _ _ _ line _ _ _ _ _ => some line
  | .combineWindowClose _ line _ => some line
  | .viewLoadDecide _ _ line _ _ => some line
  | .stateQueryReply _ _ _ line _ _ => some line
  | _ => (eventReq e).map (·.line)

/-- Whether an event is a message about a line of one of some parcels. -/
def atParcel (ps : List Nat) (e : Event) : Bool :=
  match eventLine e with
  | some l => isDevice (l * 128) && ps.contains (homeFor l)
  | none => false

/-- Answer a peer's request with a refusal; other agents of a partition that has ended await nothing. -/
def answerRefused (s : State) (r : MemReq) : State :=
  match r.agent with
  | .peer dev =>
    (match s.peerReqs.find r.acc with
    | some (_, home, q) => { s with peerReqs := s.peerReqs.del r.acc }.emitOut (.answer dev home (.refused q))
    | none => s)
  | _ => s

/-- Take back an event that a home held: a request is refused, any other comes again. -/
def withdraw (s : State) (e : Event) : State :=
  match eventReq e with
  | some r => answerRefused s r
  | none => if (eventLine e).isSome then s else s.send e

/-- Take away every message about lines of some parcels. -/
def purgeParcels (s : State) (ps : List Nat) : State :=
  let at_ (x : Stall) : Bool := match x.event with | some e => atParcel ps e | none => false
  let gone := (s.onWay ++ s.later ++ s.heldInstalls.map (·.1) ++ s.timers.map (·.2) ++ s.stalls.filterMap (·.event)).filter (atParcel ps)
  gone.foldl withdraw
    { s with
      queue := s.queue.filter fun e => !atParcel ps e.2
      linkQueues := s.linkQueues.filter fun w => match w.cargo with | .event e => !atParcel ps e | .output _ => true
      later := s.later.filter fun e => !atParcel ps e
      heldInstalls := s.heldInstalls.filter fun e => !atParcel ps e.1
      rejoined := s.rejoined.filter fun e => !(isDevice (e.1 * 128) && ps.contains (homeFor e.1))
      timers := s.timers.filter fun t => !atParcel ps t.2
      stalls := s.stalls.filter fun x => !at_ x }

/-- The request that a home finishes when its acknowledgements have come. -/
def HomeDone.req : HomeDone → Option MemReq
  | .grant r => some r
  | .far r => some r
  | .signal r => some r
  | .forward r => some r
  | _ => none

/-- A home forgets everything without writing it back (R376): its L2 slice, windows, and what it was busy with; copies on peers
are invalidated. -/
def forgetHome (s : State) (p : Nat) : State :=
  let h := s.home p
  let s1 := s.updHome p fun x => { Home.empty with nextWin := x.nextWin }
  let s2 := (h.l2.lines.flatMap fun l => l.2.remotes).foldl
    (fun a r => a.emitOut (.message r.dev (.l1Invalidation (a.mail (homeDie p)) p r.core r.name))) s1
  let s3 := (h.windows.flatMap fun w => w.2.stores).foldl (fun (a : State) x => a.send (.storeAck x.agent x.acc x.grid)) s2
  let s4 := (h.busy.filterMap fun b => b.2.done.req).foldl answerRefused s3
  (h.busy.flatMap fun b => b.2.waiters).foldl withdraw s4

/-- A core's L1 forgets the lines of a parcel without writing them back, and its instruction cache too. -/
def forgetL1 (p : Nat) (c0 : Core) : Core :=
  let c := { c0 with icache := c0.icache.filter fun l => !(isDevice l.1 && homeFor (l.1 / 128) == p) }
  let ls := (c.l1.lines.map (·.1)).filter fun l => isDevice (l * 128) && homeFor l == p
  if ls.isEmpty then c
  else { c with l1 := let r := removeWords c.l1 (ls.flatMap lineWords); { r with lines := r.lines.filter fun x => !ls.contains x.1 } }

/-- What a home has accepted runs to completion under the old entry of the plat (R366): the copies that it waits for are taken back at
once, and what follows is done. -/
def completeHome (s : State) (p : Nat) : State :=
  (s.home p).busy.foldl (fun a b => finishTx (settleLine a p b.1) p b.1 b.2) s

/-- Steps 1 and 2 of R376: the parcel leaves its owner, and nothing of it is kept anywhere. Its keys are to be replaced next. -/
def releaseParcel (s0 : State) (p : Nat) : State :=
  let s := completeHome s0 p
  let mine (b : Nat × Bundle) : Bool := bundleDev b.2.handle == s.dev && bundleSlice b.2.handle == p
  let names := (s.bundles.filter mine).map fun b => b.2.handle
  let s1 := updPlat (dropPidx s p) p fun e =>
    { e with owner := 0, pidx := 0, lock := false, state := .erasing }
  let s2 := forgetHome (purgeParcels s1 [p]) p
  let s3 := { s2 with
    cores := s2.cores.map fun c => (c.1, forgetL1 p { c.2 with orphans := c.2.orphans.filter fun u => homeFor u.line != p })
    versions := s2.versions.filter fun v => !(isDevice (v.1 * 128) && homeFor v.1 == p)
    bundles := s2.bundles.filter fun b => !mine b
    names := s2.names.filter fun n => !names.contains n.2.2
    bsus := s2.bsus.filter fun b => b.1 / 32 != p
    hostBias := s2.hostBias.filter fun g => homeFor (32 * g) != p
    flips := s2.flips.filter fun g => homeFor (32 * g.1) != p
    rekey := addNew s2.rekey p }
  (noteplat s3 true).post (.keysReplaced p)

/-- TDSTAT and what waits for new keys (R371, R460, R468, R376). -/
def keysDone (s : State) : State :=
  let free (ps : List Nat) : Bool := ps.all fun p => !s.rekey.contains p
  let s1 := if s.tdBusy && free s.tdParcels then { s with tdKeys := true } else s
  let s2 := if !s1.restartDone && !s1.pfQueue.contains 0 && free s1.tdParcels then { s1 with restartDone := true } else s1
  (s2.grids.filter fun p => p.2.kind == 0x40 && p.2.step == 2 && p.2.result.isNone && free p.2.work).foldl
    (fun a p => endPacket a p.1 1 0) s2

/-- Datum-clock units of a scrub: 12 GiB at 32 × 38.4 GB/s is about 10.5 ms (R376). -/
def scrubUnits : Nat := 168000000

/-- Draw a fresh key set for a slice (R372): the generator is reseeded when it has given 2^16, and the set overwrites the old one. -/
def drawKeys (s : State) (slice : Nat) : State :=
  let s1 := if s.drbg.sets < 2 ^ 16 then s else { s with drbg := s.drbg.seed (Config.entropy s.free), free := s.free + 1 }
  let r := s1.drbg.keySet
  { s1 with drbg := r.2, keySets := s1.keySets.put slice r.1 }

/-- Fresh key sets for both slices of a parcel. -/
def drawParcel (s : State) (p : Nat) : State := drawKeys (drawKeys s (2 * p)) (2 * p + 1)

/-- New key sets replace the old ones: what DRAM holds can no longer be read; KGEN rises, and the scrub begins (R376). -/
def newKeys (s : State) (parcel : Nat) : State :=
  let s0 := drawParcel { s with mem := clearCells s.mem (parcel * 2 ^ 34) (2 ^ 34) } parcel
  let s1 := updPlat { s0 with rekey := s0.rekey.filter (· != parcel) } parcel fun e => { e with kgen := (e.kgen + 1) % 256 }
  keysDone ((noteplat s1 false).after scrubUnits (.parcelScrubDone parcel true))

/-- KEYS_REPLACED (step 3 of R376): KGEN rises, and the scrub begins. -/
def execKeysReplaced (parcel : Nat) (s : State) : Out :=
  if s.rekey.contains parcel then .next (newKeys s parcel) else .next s

/-- After step 7 of R465 the capability table is published and READY is set. -/
def finishBoot (s : State) : State :=
  if s.ready || s.bootErr != 0 || s.stage != 6 || (upto 64).any fun p => (s.platOf p).state == .erasing then s
  else noteChange { s with stage := 9, ready := true }

/-- A RESIZE completes when the last parcel that it released is FREE (R380). -/
def finishMove (s : State) : State :=
  match s.move with
  | none => s
  | some m =>
    if m.phase = .erase ∧ (m.remove.all fun p => (s.platOf p).state != .erasing) = true then
      endPacket { s with move := none } m.packet 1 0
    else s

/-- A scrubbed parcel reads as zero, and is FREE, or FAULTY if a unit failed; which of the 32 BSUs that scrub it has failed then, the spec
does not say (log 2). A destroy whose last parcel it is goes on (R376). -/
def scrubbed (s : State) (parcel : Nat) (bad : Bool) : State :=
  let mine (l : Nat) : Bool := parcelOf (l * 128) == parcel
  let d := s.draw
  let failed := bad && !(s.platOf parcel).bad
  let s1 := updPlat (if failed then d.2 else s) parcel fun x =>
    { x with state := if bad then .faulty else .free, degraded := x.degraded || bad, bad := x.bad || bad
             badBsus := if failed then 2 ^ (d.1.toNat % 32) else x.badBsus }
  let s2 := noteplat { s1 with
    mem := clearCells s1.mem (parcel * 2 ^ 34) (2 ^ 34)
    poisoned := s1.poisoned.filter fun l => !mine l
    badTags := s1.badTags.filter fun l => !mine l
    degraded := s1.degraded || bad
    tdParcels := s1.tdParcels.filter (· != parcel) } false
  let s3 := if s2.tdBusy && s2.tdParcels.isEmpty then { s2 with tdScrub := true, tdBusy := false } else s2
  finishBoot (finishMove s3)

/-- PARCEL_SCRUB_DONE (steps 4 and 5 of R376): both slices read as zero, and the parcel is FREE, or FAULTY and DEGRADED if a unit
failed. -/
def execParcelScrubDone (parcel : Nat) (ok : Bool) (s : State) : Out :=
  let e := s.platOf parcel
  if e.owner ≠ 0 ∨ s.rekey.contains parcel = true ∨ e.state ≠ .erasing then .next s
  else .next (scrubbed s parcel (!ok || e.bad))

-- Ending what a function runs (R415, R460, R467)

/-- A strand that has stopped. -/
def stoppedStrand (st : Strand) : Strand :=
  { st with ended := true, wait := .none, flight := [], lane := none, fork := .empty, pair := .none, preempt := false }

/-- Take a block of a partition that ends away: its strands stop, joined bundles hear of it, and what it held is free. -/
def dropBlock (s : State) (key : Nat) (b : Block) : State :=
  let s1 := leaveBundles (b.strands.foldl (fun a k => a.updStrand k stoppedStrand) s) b
  let s2 := { vacate s1 key b with blocks := s1.blocks.del key }
  let busy := s2.blocks.any fun p => p.2.core == b.core && p.2.phase != .aside
  noteQuiet (if busy then s2 else { s2 with sched := s2.sched.filter fun l => l / 32 != b.core }) (b.core / 8)

/-- End everything of a function without a record or an interrupt: blocks, jobs, sill strands, array operations, bundles, grids
and packets; its AQIs stop (R432, R460, R467). Each launch that has not ended emits GRID COMPLETE. `plats` keeps packets of the PF that
wait in the hub's order. -/
def stopAll (s : State) (fn : Nat) (plats : Bool) : State :=
  let mine (k : Nat) : Bool :=
    match s.grids.find k with
    | some g => g.fn == fn && !(plats && isPlat g.kind)
    | none => false
  let dead (st : Strand) : Bool := mine (gridKey s st)
  let gone := (s.strands.filter fun p => dead p.2).map (·.1)
  let s0 := (s.grids.filter fun p => mine p.1 && p.2.live).foldl (fun a p => a.emit fn (hubSrc 0) 0x96 p.2.seqNo) s
  let s1 := (s0.blocks.filter fun p => mine p.2.grid).foldl (fun a p => dropBlock a p.1 p.2) s0
  let s2 := { s1 with
    strands := s1.strands.filter fun p => !gone.contains p.1
    jobs := s1.jobs.filter fun p => !mine p.2.grid
    arrayOps := s1.arrayOps.filter fun p => !mine p.2.grid
    stalls := s1.stalls.filter fun x => match x.strand with | some k => !gone.contains k | none => true
    flips := s1.flips.map fun (p : Nat × List Flip) => (p.1, p.2.map fun (f : Flip) =>
      { f with strand := match f.strand with | some k => if gone.contains k then none else some k | none => none }) }
  let s3 := (s2.bundles.filter fun p => p.2.fn == fn && p.2.st == .opened).foldl (fun a p => abortBundle a p.2.handle) s2
  let s4 := { s3 with
    grids := s3.grids.filter fun p => !mine p.1
    pfQueue := s3.pfQueue.filter fun k => !mine k
    aqis := s3.aqis.map fun (p : Nat × Aqi) => if p.1 / 64 = fn
      then (p.1, { p.2 with
        en := false, head := 0, tail := 0, deficit := 0
        hold := match p.2.hold with | .packet k => if mine k then .none else .packet k | _ => .none })
      else p }
  tidyTables s4

/-- A RESIZE or MIGRATE of a function that is torn down ends ABORTED (R368). -/
def abortMove (s : State) (fn : Nat) : State :=
  match s.move with
  | none => s
  | some m => if m.fn = fn then endPacket { s with move := none } m.packet 2 6 else s

/-- A restart that the teardown of its function overtakes is no longer to be performed: it is complete once the keys have been
replaced (R468). -/
def overtakeRestart (s : State) (fn : Nat) : State :=
  if s.restartFn = fn ∧ s.pfQueue.contains 0 = true then
    let s1 := { s with pfQueue := s.pfQueue.filter (· != 0) }
    if s.pfQueue.head? = some 0 then pfPump s1 else s1
  else s

/-- A locked interface goes to ERROR (R385). -/
def failInterface (s : State) (fn : Nat) : State :=
  if isLocked s fn then setLock (s.updFn fn fun f => { f with tdisp := .error }) fn false else s

/-- The teardown of a partition (R460): everything that it runs ends, and every parcel is released. -/
def teardownOne (plats : Bool) (s : State) (fn : Nat) : State :=
  let ps := parcelsOf s fn
  let s1 := overtakeRestart (abortMove (stopAll (failInterface s fn) fn plats) fn) fn
  let s2 := dropTlb { s1 with
    rowOps := s1.rowOps.filter fun p => p.2.fn != fn
    clusters := s1.clusters.map fun c => (c.1, let rest := c.2.staged.filter fun e => e.fn != fn
      { c.2 with staged := rest, dropped := c.2.dropped && !rest.isEmpty }) } fun e => e.fn == fn
  ps.foldl releaseParcel (purgeParcels s2 ps)

/-- The teardown of several partitions, with TDSTAT (R460). -/
def teardown (s : State) (fns : List Nat) (plats : Bool) : State :=
  let ps := fns.flatMap (parcelsOf s)
  let s1 := fns.foldl (teardownOne plats) s
  let all := ps.foldl addNew s1.tdParcels
  keysDone { s1 with tdParcels := all, tdBusy := !all.isEmpty, tdKeys := all.isEmpty, tdScrub := all.isEmpty }

-- PARTITION (R369 to R371)

/-- The common part of the plat's packets (R368): a packet that is the first in the hub's order and has not been started. -/
def platPacket (packet : Nat) (s : State) (f : Grid → State) : Out :=
  match s.grids.find packet with
  | none => .next s
  | some x =>
    if x.isOver ∨ x.ended.isSome ∨ x.result.isSome ∨ x.step ≠ 0 ∨ s.pfQueue.head? ≠ some packet then .next s else .next (f x)

/-- Why a create is refused, if it is (R368 to R370). -/
def createFails (s : State) (x : Grid) : Option Nat :=
  let fn := x.at_ 3 1
  let root := x.at_ 0x10 8
  if !x.limitsOk [(1, 1), (2, 1), (3, 1), (8, 8), (0x10, 8)] ∨ x.at_ 1 1 ≠ 0 ∨ x.at_ 2 1 ≠ 0 ∨ fnOk fn = false ∨ x.at_ 8 8 = 0
      ∨ bits root 1 14 ≠ 0 ∨ bits root 52 12 ≠ 0 ∨ (parcelsOf s fn).isEmpty = false then some 5
  else if isLocked s fn then some 4
  else if (ones 64 (x.at_ 8 8)).any fun p => (s.platOf p).state != .free then some 2
  else none

/-- Give parcels to a function: each takes the next PIDX and a state, ADDING or ASSIGNED (R370, R379). -/
def giveParcels (s : State) (fn : Nat) (ps : List Nat) (st : ParcelState) : State :=
  let n := (parcelsOf s fn).length
  let l := isLocked s fn
  noteplat ((number n ps).foldl (fun (a : State) q =>
    updPlat a q.2 fun e => { e with owner := fn, pidx := q.1, state := st, lock := l }) s) true

/-- Steps 1 and 2 of a create (R370): fresh key sets, and the parcels are ADDING for the new partition. -/
def createPartition (packet : Nat) (x : Grid) (s : State) : State :=
  let ps := ones 64 (x.at_ 8 8)
  ((giveParcels (ps.foldl drawParcel (startPacket s packet false)) (x.at_ 3 1) ps .adding).updGrid packet fun g => { g with step := 3 }).post
    (.partitionCreate packet)

/-- Step 3 of a create (R370): its root, its launches numbered from 1 (R420), its parcels ASSIGNED, and its launches may bind. A teardown
that has overtaken it leaves it ABORTED (R368). -/
def finishCreate (packet : Nat) (x : Grid) (s : State) : State :=
  let fn := x.at_ 3 1
  let ps := ones 64 (x.at_ 8 8)
  if !(ps.all fun p => (s.platOf p).state == .adding && (s.platOf p).owner == fn) then endPacket s packet 2 6
  else
    let s1 := noteplat (ps.foldl (fun a p => updPlat a p fun e => { e with state := .assigned }) s) true
    endPacket ((s1.updFn fn fun f => { f with s2root := x.at_ 0x10 8, seq := 0 }).send (.blockBind fn)) packet 1 0

/-- Take a partition's parcels: with FORCE it is torn down; the packet is complete when the keys have been replaced (R371). -/
def destroyPartition (packet : Nat) (x : Grid) (s : State) : State :=
  let fn := x.at_ 3 1
  let ps := parcelsOf s fn
  let s1 := (startPacket s packet false).updGrid packet fun g => { g with step := 2, work := ps }
  keysDone (if x.at_ 2 1 = 1 then teardown s1 [fn] (fn == pf) else ps.foldl releaseParcel s1)

/-- PARTITION_CREATE (R370). -/
def execPartitionCreate (packet : Nat) (s : State) : Out :=
  match s.grids.find packet with
  | none => .next s
  | some x =>
    if x.step = 3 ∧ x.result = none ∧ x.isOver = false then .next (finishCreate packet x s)
    else platPacket packet s fun x =>
      match createFails s x with
      | some e => refusePacket s packet e
      | none => createPartition packet x s

/-- The work that forbids a destroy without FORCE (R371); of a sill strand that has ended, its row instructions (R350, R366). -/
def hasWork (s : State) (fn : Nat) : Bool :=
  (s.grids.any fun p => p.2.fn == fn && p.2.kind == 1 && !p.2.isOver && p.2.step != 0)
  || (s.jobs.any fun p => (s.grid p.2.grid).fn == fn)
  || (s.strands.any fun p => p.2.sill && (s.grid (gridKey s p.2)).fn == fn) || (s.rowOps.any fun p => p.2.fn == fn)
  || (s.bundles.any fun p => p.2.fn == fn && p.2.st == .opened)
  || (upto (s.fn fn).naqi).any fun q => (s.aqi fn q).en && !(s.aqi fn q).paused

/-- Why a destroy is refused, if it is (R368, R369, R371). -/
def destroyFails (s : State) (x : Grid) : Option Nat :=
  let fn := x.at_ 3 1
  if !x.limitsOk [(1, 1), (2, 1), (3, 1)] ∨ x.at_ 1 1 ≠ 1 ∨ 2 ≤ x.at_ 2 1 ∨ fnOk fn = false then some 5
  else if x.at_ 2 1 = 1 then none
  else if isLocked s fn then some 4
  else if hasWork s fn then some 1
  else none

/-- Whether a destroy with FORCE overtakes the RESIZE or MIGRATE under way of its function (R368). -/
def overtakes (s : State) (x : Grid) : Bool :=
  match s.move with | some m => x.at_ 2 1 == 1 && x.at_ 3 1 == m.fn | none => false

/-- PARTITION_DESTROY (R371): with FORCE the partition is torn down; its parcels are released, and the packet is complete when
their keys have been replaced. -/
def execPartitionDestroy (packet : Nat) (s : State) : Out :=
  match s.grids.find packet with
  | none => .next s
  | some x =>
    if x.isOver ∨ x.ended.isSome ∨ x.result.isSome ∨ x.step ≠ 0 ∨ (s.pfQueue.head? ≠ some packet ∧ overtakes s x = false) then .next s
    else
      match destroyFails s x with
      | some e => .next (refusePacket s packet e)
      | none => .next (destroyPartition packet x s)

/-- Whether the fields of a METER packet are in their limits (R389, R448). -/
def meterOk (x : Grid) : Bool :=
  x.limitsOk [(3, 1), (4, 1), (8, 4)] && fnOk (x.at_ 3 1) && decide (x.at_ 4 1 ≤ 17) && decide (x.at_ 8 4 % 512 ≤ 256)
    && bits (x.at_ 8 4) 9 7 == 0

/-- METER (R389): a meter word of a function, whose buckets start full (R390). -/
def execMeter (packet : Nat) (s : State) : Out :=
  platPacket packet s fun x =>
    if meterOk x then
      endPacket (noteChange (setMeter (startPacket s packet false) (x.at_ 3 1) (x.at_ 4 1) (x.at_ 8 4))) packet 1 0
    else refusePacket s packet 5

-- RESIZE and MIGRATE: the checks (R377, R378, R386)

/-- The entries of a table that are present: their indices, addresses and values. -/
def tableEntries (s : State) (table : Nat) : List (Nat × Nat × Nat) :=
  ((upto 4096).map fun i => (i, table + 8 * i, (farRead s (table + 8 * i) 8).1)).filter fun e => bitOf e.2.2 0

/-- The address of a function's top table of stage 2 (R401). -/
def s2Top (s : State) (fn : Nat) : Nat :=
  let root := (s.fn fn).s2root
  (if bitOf root 0 then hostBase else 0) + bits root 15 37 * 2 ^ 15

/-- The present leaf entries of a function's stage 2: address, value, and GPA over 65,536 (R401). -/
def s2Leaves (s : State) (fn : Nat) : List (Nat × Nat × Nat) :=
  let base := if bitOf (s.fn fn).s2root 0 then hostBase else 0
  let next (v : Nat) : List (Nat × Nat × Nat) := tableEntries s (base + bits v 15 37 * 2 ^ 15)
  (tableEntries s (s2Top s fn)).flatMap fun a => (next a.2.2).flatMap fun b => (next b.2.2).map fun c =>
    (c.2.1, c.2.2, (a.1 * 4096 + b.1) * 4096 + c.1)

/-- What the hub's reading of a function's tables of stage 2 does beside giving their entries: the tags are checked (R374). -/
def noteTables (s : State) (fn : Nat) : State :=
  let base := if bitOf (s.fn fn).s2root 0 then hostBase else 0
  let next (t : Nat) : List Nat := (tableEntries s t).map fun e => base + bits e.2.2 15 37 * 2 ^ 15
  let mid := next (s2Top s fn)
  (s2Top s fn :: mid ++ mid.flatMap next).foldl (fun a t => readNote (chargeFar a pf 4 t 32768 false) none t 32768) s

/-- The list of remap entries, as the hub reads it for the PF (R377): leaf offsets and new pages; and whether it is poisoned. -/
def remapList (s : State) (x : Grid) : List (Nat × Nat) × Bool :=
  let rs := (upto (x.at_ 0x20 4)).map fun i => farRead s (hostBase + x.at_ 0x18 8 + 16 * i) 16
  (rs.map fun r => (r.1 % 2 ^ 64, r.1 / 2 ^ 64), rs.any (·.2))

/-- The pages to move, where every entry names a leaf that maps a page of the function, and a new page in a parcel that it
keeps (R378). -/
def resolvePages (s : State) (fn add remove : Nat) (list : List (Nat × Nat)) : Option (List Remap) :=
  let leaves := s2Leaves s fn
  list.mapM fun e =>
    match leaves.find? fun l => l.1 == s2Top s fn + e.1 with
    | none => none
    | some l =>
      let old := bits l.2.1 16 36
      let q := parcelOf e.2
      let keeps := (owns s fn e.2 && !bitOf remove q) || bitOf add q
      if owns s fn (old * 65536) && keeps && mappable e.2 then some ⟨l.1, l.2.2, old, e.2 / 65536⟩ else none

/-- The SHA-256 of a remap list as it stands in memory (R378, R386). -/
def listHash (list : List (Nat × Nat)) : BitVec 256 := sha256 (list.flatMap fun e => lowFirst 8 e.1 ++ lowFirst 8 e.2)

/-- Whether an amendment is the one for a packet and the list that it reads (R386). -/
def amendAllows (a : Amendment) (x : Grid) (list : List (Nat × Nat)) : Bool :=
  a.fn == x.at_ 3 1 && a.kind == x.kind && a.add == x.at_ 8 8 && a.remove == x.at_ 0x10 8 && a.aseq == x.at_ 0x24 4 && a.hash == listHash list

/-- The checks of a RESIZE or MIGRATE (R368, R377, R378, R386): its refusal, or the pages to move. -/
def moveCheck (s : State) (x : Grid) (list : List (Nat × Nat)) : Except Nat (List Remap) :=
  let fn := x.at_ 3 1
  let add := x.at_ 8 8
  let remove := x.at_ 0x10 8
  let mine := parcelsOf s fn
  if !x.limitsOk [(3, 1), (8, 8), (0x10, 8), (0x18, 8), (0x20, 4), (0x24, 4)] ∨ fnOk fn = false ∨ x.at_ 0x18 8 % 16 ≠ 0
      ∨ 2 ^ 24 < x.at_ 0x20 4 ∨ (x.kind = 0x42 ∧ (add ≠ 0 ∨ remove ≠ 0)) ∨ (mine.all fun p => bitOf remove p) = true
      ∨ (isLocked s fn = false ∧ x.at_ 0x24 4 ≠ 0) ∨ (list.any fun e => e.1 % 8 != 0 || e.2 % 65536 != 0) = true then .error 5
  else if isLocked s fn && !(match (s.fn fn).amend with | some a => amendAllows a x list | none => false) then .error 4
  else if (ones 64 add).any fun p => (s.platOf p).state != .free then .error 2
  else if (ones 64 remove).any fun p => !mine.contains p then .error 3
  else
    match resolvePages s fn add remove list with
    | none => .error 3
    | some ps =>
      let repeats := (ps.map (·.new)).eraseDups.length != ps.length
      let left := (s2Leaves s fn).any fun l => bitOf remove (parcelOf (bits l.2.1 16 36 * 65536)) && !(ps.any fun q => q.leaf == l.1)
      if repeats || left then .error 3 else .ok ps

/-- The rows of the pages to move. -/
def Move.rows (m : Move) : List Nat := (m.pages.map (·.old)).foldl addNew [] |>.flatMap fun p => rangeFrom (64 * p) 64

/-- Begin a RESIZE or MIGRATE that has passed its checks (R379, R380): parcels are added, those to be removed take no more
blocks, and a RESIZE drains them before the copying. -/
def beginMove (s : State) (packet : Nat) (x : Grid) (ps : List Remap) : State :=
  let fn := x.at_ 3 1
  let rem := ones 64 (x.at_ 0x10 8)
  let s1 := if isLocked s fn then s.updFn fn fun f => { f with amend := none, amendments := f.amendments + 1 } else s
  let s2 := giveParcels (startPacket s1 packet false) fn (ones 64 (x.at_ 8 8)) .assigned
  let s3 := noteplat (rem.foldl (fun a p => updPlat a p fun e => { e with state := .leaving }) s2) true
  let s4 := removeBinds s3 fun c _ => rem.contains (c / 8)
  let m : Move := ⟨packet, fn, rem, ps, [], .drain⟩
  ({ s4 with move := some m }.send (.blockBind fn)).post (.migrationDrainDone packet)

/-- A RESIZE or MIGRATE packet (R377 to R380). -/
def movePacket (packet : Nat) (s : State) : Out :=
  platPacket packet s fun x =>
    let l := remapList s x
    let s := chargeFar s pf 4 hostBase (16 * x.at_ 0x20 4) false
    if l.2 then endPacket (startPacket s packet false) packet 3 cPoison
    else
      match moveCheck s x l.1 with
      | .error e => refusePacket (noteTables s (x.at_ 3 1)) packet e
      | .ok ps => beginMove (noteTables s (x.at_ 3 1)) packet x ps

/-- RESIZE (R379). -/
def execResize (packet : Nat) (s : State) : Out := movePacket packet s
/-- MIGRATE (R380). -/
def execMigrate (packet : Nat) (s : State) : Out := movePacket packet s

-- Drain, copy, switch (R380)

/-- Whether parcels are drained: no block, no sill strand, no row instruction, no record in their bundle tables, and nothing of
their cores outstanding. -/
def drainedParcels (s : State) (ps : List Nat) : Bool :=
  !(s.blocks.any fun p => ps.contains (p.2.core / 8) && p.2.phase != .aside)
  && !(s.strands.any fun p => p.2.sill && !p.2.ended && ps.contains (clusterOf p.2.core))
  && !(s.rowOps.any fun p => ps.contains (p.2.slice / 2))
  && !(s.bundles.any fun p => bundleDev p.2.handle == s.dev && ps.contains (bundleSlice p.2.handle))
  && !(s.grids.any fun g => g.2.counts.any fun c => c.2 != 0 && ps.contains (clusterOf c.1))

/-- MIGRATION_DRAIN_DONE (R380, step 1): the parcels are drained, and copying starts; until then it is tried again. -/
def execMigrationDrainDone (packet : Nat) (s : State) : Out :=
  match s.move with
  | none => .next s
  | some m =>
    if m.packet ≠ packet ∨ m.phase ≠ .drain then .next s
    else if drainedParcels s m.remove then
      .next ({ s with move := some { m with phase := .copy 1 m.rows, dirty := [] } }.post (.migrationCopyRoundDone packet))
    else .next (postOnce s (.migrationDrainDone packet))

/-- Where a line goes. -/
def Move.newLine (m : Move) (line : Nat) : Nat :=
  match m.pages.find? fun p => p.old == line / 512 with
  | some p => 512 * p.new + line % 512
  | none => line

/-- Copy a line to its new place in memory, with its poison (R380): the new home keeps nothing of what was there. -/
def copyLine (s : State) (line to_ : Nat) : State :=
  let h := homeFor line
  let t := (checkTag s line).2
  let data := homeLine t h line
  let mark := linePoisoned t h line
  let u := settleLine t (homeFor to_) to_
  let v := u.updHome (homeFor to_) fun y =>
    { y with l2 := let r := removeWords y.l2 (lineWords to_); { r with lines := r.lines.del to_ } }
  { v with
    mem := writeCells v.mem (128 * to_) (toBytes 128 data.toNat)
    poisoned := if mark then addNew v.poisoned to_ else v.poisoned.filter (· != to_)
    badTags := v.badTags.filter (· != to_) }

/-- Copy a row: eight lines. -/
def copyRow (m : Move) (s : State) (row : Nat) : State :=
  (rangeFrom (8 * row) 8).foldl (fun a l => copyLine a l (m.newLine l)) s

/-- Whether a message on its way is about an L1's copy of a line that moves. -/
def Move.told (m : Move) : Event → Bool
  | .memoryAccessComplete r => m.covers r.req.line
  | .l1Invalidation _ _ _ line => m.covers line
  | .invalidationAck _ _ _ line => m.covers line
  | .writebackArrival _ _ _ line .. => m.covers line
  | .forwardedRequest _ r .. => m.covers r.line
  | _ => false

/-- Whether something is still under way at the old pages, whose homes hold every new request: a line that its home is busy with, a
flip, a pending version, a message about a copy. -/
def moveBusy (s : State) (m : Move) : Bool :=
  (s.homes.any fun h => h.2.busy.any fun b => m.covers b.1)
  || (s.flips.any fun f => m.covers (32 * f.1))
  || (s.versions.any fun v => m.covers v.1 && match v.2.second with | some (.pending ..) => true | _ => false)
  || s.onWay.any m.told

/-- The lines of the old pages that homes hold, or have windows for. -/
def movedLines (s : State) (m : Move) : List Nat :=
  (s.homes.flatMap fun h => h.2.l2.lines.map (·.1) ++ h.2.windows.map (·.1)).foldl (fun l x => if m.covers x then addNew l x else l) []

/-- A request with its line replaced. -/
def reqMapLine (f : Nat → Nat) (r : MemReq) : MemReq :=
  { r with line := f r.line, home := if f r.line = r.line then r.home else homeFor (f r.line) }

/-- An access in flight with its lines replaced. -/
def Access.mapLine (f : Nat → Nat) (a : Access) : Access :=
  { a with
    pieces := a.pieces.map fun p => { p with bytes := p.bytes.map fun b => 128 * f (b / 128) + b % 128 }
    todo := a.todo.map (reqMapLine f)
    wanting := a.wanting.map f }

/-- A strand with the lines of its accesses replaced. -/
def Strand.mapLine (f : Nat → Nat) (st : Strand) : Strand :=
  { st with
    flight := st.flight.map fun a => (a.1, a.2.mapLine f)
    unacked := st.unacked.map fun u => { u with line := f u.line }
    viewed := st.viewed.map fun v => (f v.1, v.2) }

/-- An event with its line replaced. -/
def eventMapLine (f : Nat → Nat) (e : Event) : Event :=
  let g := reqMapLine f
  match e with
  | .homeLoadFill r => .homeLoadFill (g r)
  | .homeOwnershipRequest r => .homeOwnershipRequest (g r)
  | .homeStoreArrival r => .homeStoreArrival (g r)
  | .homeFarAtomic r => .homeFarAtomic (g r)
  | .signalArrival r => .signalArrival (g r)
  | .bundleInstall m r b a o => .bundleInstall m (g r) b a o
  | .viewLoadDecide m w line v k => .viewLoadDecide m w (f line) v k
  | .stateQueryReply m w b line v x => .stateQueryReply m w b (f line) v x
  | e => e

/-- The requests that the homes of the old pages have held go back to their requesters, which translate them again and issue them again:
the leaf has changed in its page alone, so that each now names the new line. So do those still on their way, the accesses that they
belong to, row instructions, versions, lists of bundles, and bias (R380, R381). -/
def renameLines (s : State) (m : Move) : State :=
  let f := m.newLine
  let old (p : Nat) : Bool := m.covers (32 * p)
  let s1 := (movedLines s m).foldl (fun a l => wakeWatchers a (homeFor l) l) s
  let watched := (s1.homes.flatMap fun h => h.2.watchers.map fun w => (h.1, w.line)).filter fun w => m.covers w.2
  let s2 := watched.foldl (fun (a : State) w => wakeWatchers a w.1 w.2) s1
  let moved := s2.versions.filter fun v => m.covers v.1
  { s2 with
    versions := moved.foldl (fun (l : Map Versions) v => l.put (f v.1) v.2) (s2.versions.filter fun v => !m.covers v.1)
    heldInstalls := s2.heldInstalls.map fun e => (eventMapLine f e.1, e.2)
    strands := s2.strands.map fun p => (p.1, p.2.mapLine f)
    cores := s2.cores.map fun c => (c.1, { c.2 with orphans := c.2.orphans.map fun u => { u with line := f u.line } })
    rowOps := s2.rowOps.map fun o => (o.1, { o.2 with parts := o.2.parts.map fun q => (128 * f (q.1 / 128) + q.1 % 128, q.2) })
    rejoined := s2.rejoined.map fun e => (f e.1, e.2)
    later := s2.later.map (eventMapLine f)
    queue := s2.queue.map fun e => (e.1, eventMapLine f e.2)
    linkQueues := s2.linkQueues.map fun w =>
      { w with cargo := match w.cargo with | .event e => .event (eventMapLine f e) | .output o => .output o }
    timers := s2.timers.map fun t => (t.1, eventMapLine f t.2)
    stalls := s2.stalls.map fun x => { x with event := x.event.map (eventMapLine f) }
    bundles := s2.bundles.map fun b => (b.1, { b.2 with lines := b.2.lines.map fun l => if l.1 = s2.dev then (l.1, f l.2) else l })
    hostBias := s2.hostBias.map fun p => if old p then f (32 * p) / 32 else p }

/-- Write a leaf with its new page, keeping all its other bits (R380). -/
def rewriteLeaf (s : State) (p : Remap) : State :=
  let s := readNote (chargeFar (chargeFar s pf 4 p.leaf 8 false) pf 4 p.leaf 8 true) none p.leaf 8
  farWrite s p.leaf 8 (putBits (farRead s p.leaf 8).1 16 36 p.new)

/-- The switch (R380, step 3): dirty lines are written back and the last rows copied; the leaves are written, the TLB entries go,
and the parcels to be removed are released. -/
def switchPages (s : State) (m : Move) : State :=
  let s1 := (movedLines s m).foldl (fun (a : State) l =>
    let h := homeFor l
    (l2Drop (settleLine a h l) h l).updHome h fun y => { y with l2 := { y.l2 with lines := y.l2.lines.del l } }) s
  let dirty := match s1.move with | some x => x.dirty | none => []
  let s2 := dirty.foldl (copyRow m) s1
  let s3 := dropTlb (m.pages.foldl rewriteLeaf s2) fun e => e.fn == m.fn && m.pages.any fun p => e.via.contains p.gpa
  let s4 := releaseHeld (renameLines s3 m) 0
  if m.remove.isEmpty then endPacket { s4 with move := none } m.packet 1 0
  else finishMove (m.remove.foldl releaseParcel { s4 with move := some { m with dirty := [], phase := .erase } })

/-- A round copies its rows; another follows while more than 256 rows are dirty, at most eight (R380). -/
def copyRound (s : State) (packet : Nat) (m : Move) (n : Nat) (todo : List Nat) : State :=
  let s1 := todo.foldl (copyRow m) s
  let m1 : Move := if m.dirty.length ≤ 256 ∨ 8 ≤ n then { m with phase := .switch }
    else { m with phase := .copy (n + 1) m.dirty, dirty := [] }
  { s1 with move := some m1 }.post (.migrationCopyRoundDone packet)

/-- The lines of the old pages of which a peer holds a copy. -/
def remoteMoved (s : State) (m : Move) : List Nat :=
  (movedLines s m).filter fun l => !(dirOf s (homeFor l) l).remotes.isEmpty

/-- MIGRATION_COPY_ROUND_DONE (R380, steps 2 and 3): the round's rows are copied; another round follows while more than 256 rows
are dirty, at most eight, and then the switch, once the old pages are at rest. -/
def execMigrationCopyRoundDone (packet : Nat) (s : State) : Out :=
  match s.move with
  | none => .next s
  | some m =>
    if m.packet ≠ packet then .next s
    else
      match m.phase with
      | .copy n todo => .next (copyRound s packet m n todo)
      | .switch =>
        let far := remoteMoved s m
        if moveBusy s m then .next (postOnce s (.migrationCopyRoundDone packet))
        else if far.isEmpty then .next (switchPages s m)
        else .next ((far.foldl (fun a l => recallThen a (homeFor l) l none .recalled []) s).post (.migrationCopyRoundDone packet))
      | _ => .next s

end Sys2Proof.Machine
end

