-- ==== Sys2Proof/Machine/Secure.lean ====
section
/-!
DEFINITION. Identity and locking (R382 to R386): the SPDM responder, with the amendments, and the TDISP interfaces. The contents of
answers are free values (log 12).
-/
namespace Sys2Proof.Machine

/-- The algorithms that the 9600 negotiates (R382). -/
inductive Algorithm where
  | sha256 | slhDsaSha2_128s | ecdheSecp384r1 | aes256Gcm
  deriving DecidableEq, Repr

/-- An algorithm in the model's answers: hash, extended asymmetric signature, key exchange, AEAD (log 12). -/
def Algorithm.code : Algorithm → Nat
  | .sha256 => 1
  | .slhDsaSha2_128s => 2
  | .ecdheSecp384r1 => 3
  | .aes256Gcm => 4

/-- What NEGOTIATE_ALGORITHMS answers. -/
def algorithms : List Nat := [Algorithm.sha256, .slhDsaSha2_128s, .ecdheSecp384r1, .aes256Gcm].map Algorithm.code

/-- The bytes of a signature (R382). -/
def signatureBytes : Nat := 7856

/-- Whether a function is a TDISP interface: each VF is one (R385). -/
def isInterface (fn : Nat) : Bool := decide (1 ≤ fn) && decide (fn ≤ 64)

/-- Send an SPDM answer: the request's code, what the spec puts into it, and the rest, which it leaves to SPDM (log 12). -/
def secureAnswer (s : State) (fn code : Nat) (known : List Nat := []) : State :=
  { s with free := s.free + 1 }.emitOut (.secure fn code known (Config.secureAnswer code known s.free))

-- Identity and measurements (R383, R384)

/-- The alias key pair of this boot. -/
def aliasPair (s : State) : Nat × Nat := s.aliasKey.getD (0, 0)

/-- The certificate chain of slot 0 (R383): to Cyundia's root, with the identity key's certificate of the alias key after it. -/
def certChain (s : State) : List Nat :=
  Config.identityChain ++ Config.certificate (Config.keyPair Config.identitySeed 0).1 (aliasPair s).2

/-- A signing answer: what it says, with its signature of 7,856 bytes under the alias key (R382, R383). -/
def signedAnswer (s : State) (fn code : Nat) (known : List Nat) : State :=
  secureAnswer s fn code (known ++ [Config.signature (aliasPair s).1 (known ++ [s.free]) % 2 ^ (8 * signatureBytes)])

/-- Measurement 0x10 (R384): the function's plat entries, stage-2 root, scope policy, trace filter word and meter words, its packet meter
among them (R422), each lowest byte first (log 12). -/
def ownDigest (s : State) (fn : Nat) : BitVec 256 :=
  let f := s.fn fn
  sha256 ((parcelsOf s fn).flatMap (fun p => lowFirst 4 (platWord (s.platOf p))) ++ lowFirst 8 f.s2root ++ lowFirst 4 (scopePolicy f)
    ++ lowFirst 4 f.trfilt ++ ((upto 18).flatMap fun m => lowFirst 4 (f.meters.getD m 0)) ++ lowFirst 4 f.pktmtr)

/-- The measurements that a function can ask for: their indices and digests (R384). -/
def measurements (s : State) (fn : Nat) : List (Nat × Nat) :=
  s.digests.map (fun d => (d.1, d.2.toNat)) ++ [(0x10, (ownDigest s fn).toNat)]

/-- The answer to a request that comes out of its turn: an SPDM error (log 12). -/
def secureError (s : State) (fn : Nat) : State := secureAnswer s fn 0x7F

/-- Answer a request once the connection has come far enough (log 12). -/
def afterAlgorithms (fn : Nat) (s : State) (answer : State → State) : Out :=
  match (s.fn fn).spdm with
  | .algorithms => .next (answer s)
  | .handshake => .next (answer s)
  | _ => .next (secureError s fn)

/-- Set how far a function's SPDM connection is. -/
def setSpdm (fn : Nat) (x : Spdm) (s : State) : State := s.updFn fn fun f => { f with spdm := x }

/-- GET_VERSION (R382): the connection begins anew, and a session ends. -/
def execGetVersion (fn : Nat) (s : State) : Out :=
  .next (secureAnswer (s.updFn fn fun f => { f with spdm := .version, session := 0 }) fn 0x84)

/-- GET_CAPABILITIES (R382). -/
def execGetCapabilities (fn _request : Nat) (s : State) : Out :=
  if (s.fn fn).spdm = .version then .next (secureAnswer (setSpdm fn .capabilities s) fn 0xE1) else .next (secureError s fn)

/-- NEGOTIATE_ALGORITHMS (R382): SHA-256, SLH-DSA-SHA2-128s, ECDHE on secp384r1, AES-256-GCM. -/
def execNegotiateAlgorithms (fn _request : Nat) (s : State) : Out :=
  if (s.fn fn).spdm = .capabilities then .next (secureAnswer (setSpdm fn .algorithms s) fn 0xE3 algorithms) else .next (secureError s fn)

/-- GET_DIGESTS (R382): the SHA-256 of the chain in slot 0. -/
def execGetDigests (fn : Nat) (s : State) : Out :=
  afterAlgorithms fn s fun a => secureAnswer a fn 0x81 [(sha256 (certChain a)).toNat]
/-- GET_CERTIFICATE (R382, R383): the chain in slot 0. -/
def execGetCertificate (fn _request : Nat) (s : State) : Out := afterAlgorithms fn s fun a => secureAnswer a fn 0x82 (certChain a)
/-- CHALLENGE (R382, R383): with the digest of the chain, signed with the alias key. -/
def execChallenge (fn request : Nat) (s : State) : Out :=
  afterAlgorithms fn s fun a => signedAnswer a fn 0x83 [(sha256 (certChain a)).toNat, request]

/-- GET_MEASUREMENTS (R384): by its index; 0 asks for their number, 0xFF for all; signed where bit 8 of the request asks for it (log 12:
SPDM's). -/
def execGetMeasurements (fn request : Nat) (s : State) : Out :=
  afterAlgorithms fn s fun a =>
    let i := request % 256
    let ms := measurements a fn
    let found := if i = 0xFF then ms else ms.filter fun m => m.1 == i
    if i ≠ 0 ∧ found.isEmpty = true then secureError a fn
    else
      let known := if i = 0 then [ms.length] else found.flatMap fun m => [m.1, m.2]
      if bitOf request 8 then signedAnswer a fn 0xE0 known else secureAnswer a fn 0xE0 known

/-- KEY_EXCHANGE (R382): a session is being set up; the answer holds the responder's public value, and is signed. -/
def execKeyExchange (fn request : Nat) (s : State) : Out :=
  afterAlgorithms fn s fun a => signedAnswer (setSpdm fn .handshake a) fn 0xE4 [request, (Config.exchangeKey a.free).toNat]

/-- FINISH (R382): the session is set up, under a number of its own. -/
def execFinish (fn : Nat) (s : State) : Out :=
  if (s.fn fn).spdm = .handshake then
    .next (secureAnswer (s.updFn fn fun f => { f with spdm := .algorithms, session := f.sessions + 1, sessions := f.sessions + 1 }) fn 0xE5)
  else .next (secureError s fn)

/-- END_SESSION (R382). -/
def execEndSession (fn : Nat) (s : State) : Out :=
  if (s.fn fn).session ≠ 0 then .next (secureAnswer (s.updFn fn fun f => { f with session := 0 }) fn 0xEC)
  else .next (secureError s fn)

/-- Whether an AMEND comes from the TSM that locked the interface: within the session in which it did, whose AEAD tag binds it (R386; of an
interface that was locked outside a session, log 12). -/
def boundSession (f : Fn) : Bool := f.session != 0 && (f.lockedBy == 0 || f.session == f.lockedBy)

/-- AMEND (R386): within the session of the TSM, and with ASEQ one above the count; it replaces an amendment that is held. -/
def execAmend (fn : Nat) (a : Amendment) (s : State) : Out :=
  if boundSession (s.fn fn) = true ∧ a.aseq = (s.fn fn).amendments + 1 then
    .next (secureAnswer (s.updFn fn fun f => { f with amend := some a }) fn 0xFE)
  else .next (secureError s fn)

-- TDISP (R385)

/-- The number of an interface's state in GET_DEVICE_INTERFACE_STATE (log 12: TDISP 1.0's). -/
def Tdisp.code : Tdisp → Nat
  | .unlocked => 0
  | .locked => 1
  | .run => 2
  | .error => 3

/-- Answer a TDISP request: its code stands above 0x100. -/
def tdispAnswer (s : State) (fn code : Nat) : State := secureAnswer s fn (0x100 + code)

/-- GET_TDISP_VERSION (R385): 1.0. -/
def execGetTdispVersion (fn : Nat) (s : State) : Out :=
  .next (if isInterface fn then secureAnswer s fn 0x181 [0x10] else tdispAnswer s fn 0x7F)
/-- GET_TDISP_CAPABILITIES (R385). -/
def execGetTdispCapabilities (fn : Nat) (s : State) : Out := .next (tdispAnswer s fn (if isInterface fn then 0x82 else 0x7F))

/-- LOCK_INTERFACE_REQUEST (R385): LOCK is set in every plat entry of the function, which is a VF. -/
def execLockInterfaceRequest (fn : Nat) (s : State) : Out :=
  if isInterface fn = true ∧ (s.fn fn).tdisp = .unlocked then
    .next (tdispAnswer (setLock (s.updFn fn fun f => { f with tdisp := .locked, lockedBy := f.session }) fn true) fn 0x83)
  else .next (tdispAnswer s fn 0x7F)

/-- GET_DEVICE_INTERFACE_REPORT (R385): the function's parcels with their KGEN, its slices and its meter words. -/
def execGetDeviceInterfaceReport (fn : Nat) (s : State) : Out :=
  if !isInterface fn then .next (tdispAnswer s fn 0x7F) else
  .next (s.emitOut (.report fn ((parcelsOf s fn).map fun p => (p, (s.platOf p).kgen)) (partitionSlices s fn)
    ((upto 18).map fun m => (m, (s.fn fn).meters.getD m 0))))

/-- GET_DEVICE_INTERFACE_STATE (R385). -/
def execGetDeviceInterfaceState (fn : Nat) (s : State) : Out :=
  if isInterface fn then .next (s.emitOut (.secure fn 0x185 [(s.fn fn).tdisp.code] 0)) else .next (tdispAnswer s fn 0x7F)

/-- START_INTERFACE_REQUEST (R385). -/
def execStartInterfaceRequest (fn : Nat) (s : State) : Out :=
  if isInterface fn = true ∧ (s.fn fn).tdisp = .locked then .next (tdispAnswer (s.updFn fn fun f => { f with tdisp := .run }) fn 0x86)
  else .next (tdispAnswer s fn 0x7F)

/-- STOP_INTERFACE_REQUEST (R385): the interface is unlocked. -/
def execStopInterfaceRequest (fn : Nat) (s : State) : Out :=
  if isInterface fn then .next (tdispAnswer (setLock (s.updFn fn fun f => { f with tdisp := .unlocked, lockedBy := 0 }) fn false) fn 0x87)
  else .next (tdispAnswer s fn 0x7F)

/-- VF_CONFIG_WRITE (R385): a write to a function's configuration space, which may set its HDM decoder's base and size (R441, R453;
log 20). That of a locked VF sends its interface to ERROR. -/
def execVfConfigWrite (write : Nat × Option (Nat × Nat)) (s : State) : Out :=
  .next (failInterface (match write.2 with
    | some d => s.updFn write.1 fun f => { f with hdmBase := d.1, hdmSize := d.2 }
    | none => s) write.1)

end Sys2Proof.Machine
end

