-- ==== Sys2Proof/Machine/Module.lean ====
section
/-!
DEFINITION. The module: power and temperature (R461), the datum clock's inputs (R336), bring-up (R465), resets and the partition
restart (R460, R466 to R468).
-/
namespace Sys2Proof.Machine

-- Power and clocks

/-- POWER_STEP (R461): the power controller changes the throttle level; no result changes. -/
def execPowerStep (level : Nat) (s : State) : Out := .next ({ s with throttle := level }.emitNotice pf (hubSrc 33) 0xD2 false none)

/-- THERMAL_TRIP (R461): reported to every partition as an error of shared logic, and a cold reset follows. -/
def execThermalTrip (_die : Nat) (s : State) : Out :=
  let s1 := sharedError s []
  .next { s1 with queue := [(0, .coldReset s1.dev 0 [] [])], linkQueues := [], later := [], timers := [], sched := [] }

/-- CLOCK_ADJUST (R336): before the first lock the clock may be set forward, which is the first lock; afterwards it is only slewed,
which the free lengths of steps allow for (log 3). It never goes back. -/
def execClockAdjust (ahead : Bool) (units : Nat) (s : State) : Out :=
  if s.everLocked then .next (s.emitNotice pf (hubSrc 34) 0xF0 false (some units))
  else if ahead then
    .next ({ s with datum := s.datum + units, locked := true, everLocked := true }.emitNotice pf (hubSrc 34) 0xF0 false (some units))
  else .next s

/-- CLOCK_LOCK (R336): the loss of lock is recorded, and the clock runs free. -/
def execClockLock (locked : Bool) (s : State) : Out :=
  let s1 := { s with locked := locked, everLocked := s.everLocked || locked }
  .next (if locked then s1 else s1.emitNotice pf (hubSrc 34) 0xF1 false (some 0))

-- Bring-up (R465)

/-- The last step of R465 that is completed before a failing one. -/
def bootStage (err : Nat) : Nat :=
  match err with | 1 => 1 | 2 => 2 | 3 => 0 | _ => 6

/-- A parcel at step 4: FAULTY where its stack does not train. -/
def bootPlat (bad lanes : List Nat) (p : Nat) : PlatEntry :=
  let retired := lanes.any fun l => l / 256 == p
  let faulty := bad.contains (p / 4)
  { PlatEntry.reset with state := if faulty then .faulty else .erasing, degraded := retired || faulty }

/-- The machine with everything lost, at the last step of R465 that is completed; what the model itself counts goes on. -/
def blankReset (dev err : Nat) (s : State) : State :=
  { State.reset with
    dev := dev, datum := s.datum, out := s.out, free := s.free, steps := s.steps, nextId := s.nextId
    stage := bootStage err, bootErr := err, queue := [] }

/-- Steps 4 to 6 of R465: what has failed its check is noted, and the clusters wake. -/
def bootUnits (bad lanes : List Nat) (s : State) : State :=
  (upto 64).foldl wakeCluster { s with
    plat := (upto 64).map fun p => (p, bootPlat bad lanes p)
    cores := ((lanes.map (· / 32)).foldl addNew []).foldl (fun (m : Map Core) c =>
      m.put c { Core.idle with retired := (lanes.filter fun l => l / 32 == c).map (· % 32) }) []
    degraded := !bad.isEmpty || !lanes.isEmpty }

/-- Steps 2 and 3 of R465: measurements 1 to `n`, and with the last of them the alias key pair, from the identity seed and the SHA-256 of measurements 1 to 5
(R383, R384). -/
def measure (s : State) (n : Nat) : State :=
  let d (i : Nat) : BitVec 256 := sha256 (Config.bootImage i)
  let five := (rangeFrom 1 5).flatMap fun i => highFirst 32 (d i).toNat
  { s with
    digests := (rangeFrom 1 n).map fun i => (i, d i)
    aliasKey := if n = 6 then some (Config.keyPair Config.identitySeed (sha256 five)) else none }

/-- Step 7 of R465: the key generator is seeded, and the parcels whose stacks have trained get new keys. -/
def bootKeys (bad : List Nat) (s : State) : State :=
  ((upto 64).filter fun p => !bad.contains (p / 4)).foldl
    (fun (a : State) p => { a with rekey := a.rekey ++ [p] }.post (.keysReplaced p))
    { s with drbg := Drbg.zero.seed (Config.entropy s.free), free := s.free + 1 }

/-- COLD_RESET (R465, R466): all state is lost, and the boot sequence runs. `err` is the BOOTERR of the step that fails, or 0; `bad`
are stacks that do not train, `lanes` lanes (32·core + lane) whose self-check fails. The parcels' new keys and scrubs, steps 7 to 9,
follow as KEYS_REPLACED and PARCEL_SCRUB_DONE. What the model itself counts goes on. -/
def execColdReset (dev err : Nat) (bad lanes : List Nat) (s : State) : Out :=
  let s1 := blankReset dev err s
  if err = 3 ∨ err = 1 then .next s1
  else if err = 2 then .next (measure s1 2)
  else if err = 4 then .next (bootUnits bad lanes (measure s1 6))
  else .next (finishBoot (bootKeys bad (bootUnits bad lanes (measure s1 6))))

-- Resets (R460, R466)

/-- A VF's registers after its FLR (log 20): its own return to reset, those that the PF writes stay. -/
def flrFn (f : Fn) : Fn :=
  { Fn.reset false with
    capFault := f.capFault, cap := f.cap, capCount := f.capCount, domain := f.domain, trfilt := f.trfilt, naqi := f.naqi
    schpol := f.schpol, pktmtr := f.pktmtr, bucket := f.bucket, filled := f.filled, frBase := f.frBase, frEn := f.frEn
    frArm := f.frArm, frIrq := f.frIrq, frTimer := f.frTimer, dhBase := f.dhBase, dhEn := f.dhEn, dhOvf := f.dhOvf
    hdmBase := f.hdmBase, hdmSize := f.hdmSize, meters := f.meters, amendments := f.amendments, tdisp := f.tdisp
    shared := f.shared }

/-- An AQI after its function's FLR: the binding, which the PF writes, stays. -/
def flrAqi (a : Aqi) : Aqi := { Aqi.reset with valid := a.valid, revoked := a.revoked, pasid := a.pasid }

/-- VFs are torn down, and their own registers reset (R460, R466). -/
def resetVfs (s : State) (fns : List Nat) : State :=
  let s1 := teardown s fns true
  { s1 with
    fns := s1.fns.map fun (p : Nat × Fn) => if fns.contains p.1 then (p.1, flrFn p.2) else p
    aqis := s1.aqis.map fun (p : Nat × Aqi) => if fns.contains (p.1 / 64) then (p.1, flrAqi p.2) else p }

/-- VF_FLR (R466): one VF. -/
def execVfFlr (fn : Nat) (s : State) : Out := if 1 ≤ fn ∧ fn ≤ 64 then .next (resetVfs s [fn]) else .next s

/-- VF_ENABLE_CLEAR (R460): every VF partition. -/
def execVfEnableClear (s : State) : Out := .next (resetVfs s (rangeFrom 1 64))

/-- The PF's registers and queues as after step 9 of R465 (R466). -/
def pfRegisters (s : State) : State :=
  { s with
    fns := s.fns.filterMap fun (p : Nat × Fn) =>
      if p.1 = pf then none
      else some (p.1, { Fn.reset false with tdisp := p.2.tdisp, hdmBase := p.2.hdmBase, hdmSize := p.2.hdmSize })
    buckets := [], aqis := [], pfQueue := [], move := none, shareRing := none, refusals := [], pwrCap := 6000
    restartFn := 0, restartDone := true }

/-- PF_FLR (R466): every partition is torn down, the PF's own included, and the PF returns to the state after step 9 of R465: its
registers, with the blocks in them that control the functions, and its queues are as they were then. -/
def execPfFlr (s : State) : Out :=
  let s1 := teardown s (rangeFrom 1 64 ++ [pf]) false
  .next (pfRegisters ((s1.routes.map (·.1)).foldl peerLeaves { s1 with routes := [] }))

-- Partition restart (R467)

/-- Place a restart of a function in the hub's order (R467): at the write of PRESTART with DO, unless one is under way. -/
def placeRestart (s : State) (fn : Nat) : State :=
  if !s.restartDone then s
  else
    let s1 := { s with restartFn := fn, restartDone := false, pfQueue := s.pfQueue ++ [0] }
    if s.pfQueue.isEmpty then pfPump s1 else s1

/-- Stop a partition for its restart (R467): its blocks are killed, its jobs cancelled, its bundles aborted, nothing more is bound, no
record is written, and its AQIs start nothing. -/
def quiesce (s : State) (fn : Nat) : State :=
  let s1 := stopPartition ((s.blocks.filter fun p => (s.grid p.2.grid).fn == fn).foldl (fun a p => killBlock a p.1 0) s) fn
  { s1 with
    grids := s1.grids.map fun (p : Nat × Grid) => if p.2.fn = fn ∧ isPlat p.2.kind = false
      then (p.1, { p.2 with nextBid := p.2.blocks, returned := [], norec := true, noint := true }) else p
    aqis := s1.aqis.map fun (p : Nat × Aqi) => if p.1 / 64 = fn then (p.1, { p.2 with en := false, head := 0, tail := 0 }) else p }

/-- Whether an array operation of a function is under way: it runs to completion (R186). -/
def opsUnderWay (s : State) (fn : Nat) : Bool :=
  s.arrayOps.any fun p => (s.grid p.2.grid).fn == fn && p.2.phase != .queued && p.2.phase != .parked

/-- Restart a partition (R467): it stops, its grids end, its AQIs are disabled, and it leaves its error state. A locked one is torn
down instead. -/
def restartPartition (s : State) (fn : Nat) : State :=
  if isLocked s fn then
    let s1 := if fn = pf then teardown s [fn] true else resetVfs s [fn]
    keysDone s1
  else
    { (stopAll s fn true).updFn fn fun f => { f with err := false, errClass := 0, errCause := 0, shared := false } with restartDone := true }

/-- PARTITION_RESTART (R467, R468): when its turn has come in the hub's order it is performed, once the array operations under way have
completed (R186); otherwise it is the PF's write that asks for it. -/
def execPartitionRestart (fn : Nat) (s : State) : Out :=
  if s.pfQueue.head? = some 0 then
    let s1 := quiesce s s.restartFn
    if !isLocked s s.restartFn && opsUnderWay s1 s.restartFn then .next (s1.post (.partitionRestart s.restartFn))
    else .next (pfPump (restartPartition { s with pfQueue := s.pfQueue.drop 1 } s.restartFn))
  else .next (placeRestart s fn)

end Sys2Proof.Machine
end

