-- ==== Sys2Proof/Machine/Registers.lean ====
section
/-!
DEFINITION. The registers in the functions' BAR 0 (R442 to R445, R452, R463): writes by their offsets, and what reads return.
-/
namespace Sys2Proof.Machine

-- Writes with a row of their own

/-- INTR_ENTRY_UNMASK (R452): MASK is cleared, and a pending interrupt is sent. -/
def execIntrEntryUnmask (fn index : Nat) (s : State) : Out :=
  let e := intrEntry s fn index
  let s1 := updIntr s fn index fun x => { x with mask := false, pend := false }
  .next (if e.mask && e.pend then sendInterrupt s1 fn index e.why else s1)

/-- SCOPEPOL_WRITE (R313, R444): ignored and counted while the function is locked, ignored where CAP is not 2 to 9; otherwise it clears
COUNT. -/
def execScopepolWrite (fn : Nat) (value : BitVec 32) (s : State) : Out :=
  let v := value.toNat
  if isLocked s fn then .next (countIgnored s fn)
  else if v % 16 < 2 ∨ 9 < v % 16 then .next s
  else .next (s.updFn fn fun f => { f with cap := v % 16, capFault := bitOf v 4, capCount := 0 })

/-- CSCOUNT_CLEAR (R313, R444). -/
def execCscountClear (fn : Nat) (s : State) : Out := .next (s.updFn fn fun f => { f with capCount := 0 })

/-- AQIBIND_WRITE (R444, R451): the binding of AQI q. -/
def execAqibindWrite (fn q : Nat) (value : BitVec 32) (s : State) : Out :=
  let v := value.toNat
  if 64 ≤ q then .next s
  else .next (aqiPump (s.updAqi fn q fun a => { a with valid := bitOf v 31, revoked := bitOf v 30, pasid := v % 2 ^ 20 }) fn q)

/-- NAQI_WRITE (R444): 0 to 64, and no more than 1,024 over all functions. -/
def execNaqiWrite (fn : Nat) (value : BitVec 32) (s : State) : Out :=
  let n := value.toNat % 128
  let others := (s.fns.filter fun p => p.1 != fn).foldl (fun t p => t + p.2.naqi) 0
  if 64 < n ∨ 1024 < others + n then .next s
  else .next ((upto n).foldl (fun a q => aqiPump a fn q) (s.updFn fn fun f => { f with naqi := n }))

/-- REFUSAL_COUNTER_CLEAR (R394). -/
def execRefusalCounterClear (slice bsu : Nat) (s : State) : Out := .next { s with refusals := s.refusals.del (16 * slice + bsu) }

-- The other registers (REGISTER_WRITE)

/-- A write to a function's context pool (R421): ignored and counted while a grid of it has a reservation. -/
def poolWrite (s : State) (fn : Nat) (f : Fn → Fn) : State :=
  if (reservations s fn).isEmpty then s.updFn fn f else countIgnored s fn

/-- LOG2D as it is read (R445): other values than 6 to 16 are read as 6. -/
def log2Depth (v : Nat) : Nat := if 6 ≤ v % 32 ∧ v % 32 ≤ 16 then v % 32 else 6

/-- A write to the configuration of AQI q (R445): RBASE and LOG2D are ignored and counted while EN is 1. -/
def aqiConfig (s : State) (fn q off : Nat) (v : Nat) : State :=
  let a := s.aqi fn q
  if !aqiExists s fn q then s
  else if off = 0 then
    if a.en then aqiIgnored s fn q else s.updAqi fn q fun x => { x with rbase := v / 4096 * 4096 }
  else
    let s1 := if !a.en then s.updAqi fn q fun x => { x with log2d := log2Depth v }
      else if log2Depth v = a.log2d then s else aqiIgnored s fn q
    if bitOf v 31 then
      if a.valid && !a.en then aqiPump (s1.updAqi fn q fun x => { x with en := true }) fn q else s1
    else if a.en then disableAqi s1 fn q else s1

/-- A write to interrupt-remapping entry i (R452). -/
def intrWrite (s : State) (fn i off : Nat) (v : Nat) : Out :=
  if off = 0 then .next (updIntr s fn i fun e => { e with addr := v / 4 * 4 })
  else if off = 8 then .next (updIntr s fn i fun e => { e with data := v })
  else
    let s1 := updIntr s fn i fun e => { e with valid := bitOf v 0 }
    if bitOf v 1 then .next (updIntr s1 fn i fun e => { e with mask := true }) else execIntrEntryUnmask fn i s1

/-- A write by a function to its own registers (R443). -/
def ownWrite (fn off width : Nat) (value : Word) (s : State) : Out :=
  let v := value.toNat
  if off = 0 ∧ width = 8 then .next (s.updFn fn fun f => { f with s1root := bits v 16 36 * 65536 })
  else if off = 0x100 ∧ width = 8 then
    if bitOf v 0 then (if bitOf v 1 then execS1InvalidateAll fn value s else execS1InvalidatePage fn value s)
    else .next (s.updFn fn fun f => { f with s1inv := putBits v 2 1 0 })
  else if off = 0x200 ∧ width = 8 then .next (poolWrite s fn fun f => { f with ctxOff := v / 4096 * 4096 })
  else if off = 0x208 ∧ width = 4 then .next (poolWrite s fn fun f => { f with ctxWin := v % 65536 })
  else if off = 0x20C ∧ width = 4 then .next (poolWrite s fn fun f => { f with ctxLen := v })
  else if 0x4000 ≤ off ∧ off < 0x5000 then
    if (off % 64 = 0 ∧ width = 8) ∨ (off % 64 = 8 ∧ width = 4) then .next (aqiConfig s fn (off / 64 % 64) (off % 64) v) else .next s
  else if 0x10000 ≤ off ∧ off < 0x18000 then
    if (off % 16 = 0 ∧ width = 8) ∨ (off % 16 = 8 ∧ width = 4) ∨ (off % 16 = 12 ∧ width = 4)
    then intrWrite s fn (off / 16 % 2048) (off % 16) v else .next s
  else .next s

/-- A write of the PF to a function's fault block (R409, R412, R415). -/
def faultBlockWrite (fn off width : Nat) (v : Nat) (s : State) : Out :=
  if off = 0 ∧ width = 8 then .next (s.updFn fn fun f => { f with frBase := v / 4096 * 4096 })
  else if off = 8 ∧ width = 4 then execFrctlWrite fn (BitVec.ofNat 32 v) s
  else if off = 0x10 ∧ width = 8 then .next (s.updFn fn fun f => { f with dhBase := v / 4096 * 4096 })
  else if off = 0x18 ∧ width = 4 then
    .next (s.updFn fn fun f => { f with dhEn := bitOf v 31, dhOvf := f.dhOvf && !bitOf v 30 })
  else if off = 0x20 ∧ width = 4 then if bitOf v 8 then execErrstatSharedClear fn s else .next s
  else .next s

/-- A write of the PF to a function's scheduling block (R422): SCHPOL is ignored and counted while the function is locked. -/
def schedBlockWrite (fn off : Nat) (v : Nat) (s : State) : Out :=
  if off = 0 then
    if isLocked s fn then .next (countIgnored s fn) else .next (s.updFn fn fun f => { f with schpol := v &&& 0xFF1F7F1F })
  else if off = 4 then
    let s1 := s.updFn fn fun f => let g := { f with pktmtr := v }; { g with bucket := meterCap g, filled := s.datum }
    .next ((upto (s.fn fn).naqi).foldl (fun a q => aqiPump a fn q) s1)
  else .next s

/-- A write of the PF to a function's control block (R444): DOMAIN and TRFILT are ignored and counted while it is locked. -/
def controlBlockWrite (fn off : Nat) (v : Nat) (s : State) : Out :=
  if off = 0 then execScopepolWrite fn (BitVec.ofNat 32 v) s
  else if off = 4 then
    if isLocked s fn then .next (countIgnored s fn) else .next (s.updFn fn fun f => { f with domain := v % 65536 })
  else if off = 8 then execNaqiWrite fn (BitVec.ofNat 32 v) s
  else if off = 0xC then
    if isLocked s fn then .next (countIgnored s fn) else .next (s.updFn fn fun f => { f with trfilt := v })
  else if off = 0x10 then execCscountClear fn s
  else if 0x100 ≤ off ∧ off < 0x200 then execAqibindWrite fn ((off - 0x100) / 4) (BitVec.ofNat 32 v) s
  else .next s

/-- A write of the PF to its own blocks (R394, R409, R422, R444, R457, R463). -/
def pfWrite (off width : Nat) (v : Nat) (s : State) : Out :=
  let fn (base size : Nat) : Nat := (off - base) / size
  if 0x40000 ≤ off ∧ off < 0x42000 then
    if fnOk (fn 0x40000 64) then faultBlockWrite (fn 0x40000 64) (off % 64) width v s else .next s
  else if width ≠ 4 then .next s
  else if off = 0x64 then .next { s with pwrCap := min 6000 (max 1500 (v % 65536)) }
  else if off = 0x68 then
    if !s.restartDone then .next s
    else if bitOf v 7 then .next (placeRestart s (v % 128)) else .next { s with restartFn := v % 128 }
  else if 0x20000 ≤ off ∧ off < 0x22000 then
    if v = 0 then execRefusalCounterClear ((off - 0x20000) / 64) ((off - 0x20000) / 4 % 16) s else .next s
  else if 0x50000 ≤ off ∧ off < 0x52000 then
    if fnOk (fn 0x50000 64) then schedBlockWrite (fn 0x50000 64) (off % 64) v s else .next s
  else if 0x60000 ≤ off ∧ off < 0x70000 then
    if fnOk (fn 0x60000 512) then controlBlockWrite (fn 0x60000 512) (off % 512) v s else .next s
  else if 0x70000 ≤ off ∧ off < 0x71000 then execRouteTableWrite ((off - 0x70000) / 4) (BitVec.ofNat 32 v) s
  else .next s

/-- A write at an offset of AQI q's notify page (R446). -/
def notifyWrite (fn q off width : Nat) (v : Nat) (s : State) : Out :=
  if width ≠ 4 then .next (notifyOther s fn q)
  else if off = 0 then execTailWrite fn q v s
  else if off = 8 then execAqiArm fn q v s
  else if off = 0x10 then if bitOf v 0 then execAqiPause fn q s else execAqiResume fn q s
  else .next (notifyOther s fn q)

/-- REGISTER_WRITE (R442, R443, R465): a write of 4 or 8 bytes to BAR 0 of a function: naturally aligned, to a register of that
width; any other is ignored, and so is every write before READY. Offsets from 0x10_0000 up stand for BAR 2, with the notify pages
(R446). -/
def execRegisterWrite (fn offset width : Nat) (value : BitVec 64) (s : State) : Out :=
  let v : Word := if width = 4 then BitVec.ofNat 64 (value.toNat % 2 ^ 32) else value
  if s.ready = false ∨ ¬(width = 4 ∨ width = 8) ∨ offset % width ≠ 0 then .next s
  else if 0x100000 ≤ offset then notifyWrite fn ((offset - 0x100000) / 4096) (offset % 4096) width v.toNat s
  else if fn = pf ∧ ¬(offset < 0x20 ∨ (0x100 ≤ offset ∧ offset < 0x8000) ∨ (0x10000 ≤ offset ∧ offset < 0x18000)) then
    pfWrite offset width v.toNat s
  else ownWrite fn offset width v s

-- Reads

/-- MODSTAT (R463). -/
def modstat (s : State) : Nat :=
  b2n s.ready * 2 ^ 31 + b2n s.degraded * 2 ^ 30 + b2n (s.throttle != 0) * 2 ^ 29 + s.bootErr * 2 ^ 16 + s.stage * 2 ^ 8

/-- TDSTAT (R460). -/
def tdstat (s : State) : Nat := b2n s.tdBusy * 4 + b2n s.tdScrub * 2 + b2n s.tdKeys

/-- PRESTART (R463). -/
def prestart (s : State) : Nat := b2n s.restartDone * 2 ^ 31 + s.restartFn

/-- ERRSTAT (R415). -/
def errstat (f : Fn) : Nat := f.errCause * 2 ^ 16 + b2n f.shared * 2 ^ 8 + f.errClass * 2 ^ 4 + b2n f.err

/-- FRCTL (R409). -/
def frctl (f : Fn) : Nat := b2n f.frEn * 2 ^ 31 + b2n f.frArm * 2 ^ 30 + f.frIrq

/-- The stage-1 invalidation register (R405). -/
def s1invWord (f : Fn) : Nat := f.s1inv + b2n f.s1done * 4

/-- The control word of an interrupt entry (R452). -/
def intrControl (e : IntrEntry) : Nat := b2n e.pend * 4 + b2n e.mask * 2 + b2n e.valid

/-- A record of the capability table (R392): TYPE, DEGRADED, INDEX, and the values of its body in the order of the table of
R392. -/
structure CapRecord where
  type     : Nat
  degraded : Bool
  index    : Nat
  body     : List Nat
  deriving DecidableEq, Repr

/-- The pages of 64 KiB of a parcel that can be mapped (R327, R363, R392). -/
def parcelPages : Nat := 2 * 98304 - 1024

/-- The BSUs of slice `i` of a parcel that have not failed, as a mask (R392). -/
def healthyBsus (e : PlatEntry) (i : Nat) : Nat := maskOf ((upto 16).filter fun k => !bitOf e.badBsus (16 * i + k))

/-- The mappable rows of slice `i` of a parcel: row n lies in BSU n mod 16 (R327, R351), so that one that has failed takes a sixteenth of
them away. -/
def healthyRows (e : PlatEntry) (i : Nat) : Nat := mappableRows i / 16 * (ones 16 (healthyBsus e i)).length

/-- The mappable pages of a parcel: a page has rows in every BSU of its slice, so that a slice of which one has failed gives none
(DEDUCED, log 23). -/
def mappablePages (e : PlatEntry) : Nat :=
  if e.badBsus = 0 then parcelPages
  else (if healthyBsus e 0 = 0xFFFF then 98304 else 0) + if healthyBsus e 1 = 0xFFFF then 98304 - 1024 else 0

/-- The cores of a cluster that have a lane left, as a mask (R392). -/
def healthyCores (s : State) (p : Nat) : Nat := maskOf ((upto 8).filter fun c => decide ((s.core (8 * p + c)).retired.length < 32))

/-- The records of some parcels (R392); `view` is a VF's own view, with partition numbers (R393). No event of the spec fails a sill core. -/
def parcelCaps (s : State) (view : Bool) (p : Nat) : List CapRecord :=
  let e := s.platOf p
  let n := if view then e.pidx else p
  let slice (i : Nat) : CapRecord :=
    ⟨3, e.degraded, 2 * n + i, [p / 4, (2 * p + i) % 8, healthyBsus e i, 1, healthyRows e i]⟩
  let lanes := (upto 8).flatMap fun c => (s.core (8 * p + c)).retired.map fun l => 32 * (8 * n + c) + l
  [⟨2, e.degraded, n, [platWord e, mappablePages e]⟩, slice 0, slice 1, ⟨4, e.degraded, n, [n, healthyCores s p] ++ lanes⟩]

/-- The values that are accepted for W, E, M and SPC (R57, R392), and the scale formats none, E8M0 and UE5M3 (R61), as masks of bits by
value (log 23). -/
def formatCaps : List Nat := [maskOf (rangeFrom 2 7), maskOf (upto 8), maskOf (upto 8), 7, 7]

/-- The capability table (R391 to R393): MODULE with GEN, DEV and the count, the records of the parcels, those of the 18 meters
(R388), one of each other type, and END. -/
def capabilities (s : State) (fn : Nat) : List CapRecord :=
  let rs := (if fn = pf then upto 64 else parcelsOf s fn).flatMap (parcelCaps s (fn != pf))
    ++ (upto 18).map (fun m => ⟨5, false, m, [m, Config.linkRate m, 65535]⟩)
    ++ [⟨6, false, 0, [2 ^ 26, 0xFFFF]⟩, ⟨7, false, 0, [1024, 65535, 2 ^ 21, 2 ^ 26]⟩, ⟨8, false, 0, [(s.fn fn).naqi, 2 ^ 6, 2 ^ 16]⟩,
        ⟨9, false, 0, [128, 8, 10, (s.fn fn).cap]⟩, ⟨10, false, 0, formatCaps⟩,
        ⟨11, false, 0, [Config.firmwareVersion, Config.manifestVersion]⟩]
  ⟨1, s.degraded, 0, [s.capGen, s.dev, rs.length + 2]⟩ :: rs ++ [⟨0xFF, false, 0, []⟩]

/-- A capability record as its 16 bytes (R392). Only the bodies of MODULE and END have places that the spec gives (log 23). -/
def CapRecord.image (r : CapRecord) : Nat :=
  let body := match r.type, r.body with
    | 1, [gen, dev, count] =>
      gen % 2 ^ 32 + dev % 2 ^ 12 * 2 ^ 32 + Config.vendorId % 2 ^ 16 * 2 ^ 48 + count % 2 ^ 32 * 2 ^ 64
    | 0xFF, _ => 0
    | t, l => Config.capBody t l % 2 ^ 96
  r.type + b2n r.degraded * 2 ^ 8 + r.index * 2 ^ 16 + body * 2 ^ 32

/-- A read of the capability table, at an offset from its start; past its end the registers read 0. -/
def capRead (s : State) (fn off width : Nat) : Nat :=
  match (capabilities s fn).drop (off / 16) with
  | r :: _ => bits r.image (off % 16 * 8) (8 * width)
  | [] => 0

/-- What a read of a function's own registers returns (R443). -/
def ownRead (s : State) (fn off width : Nat) : Nat :=
  let f := s.fn fn
  let q := off / 64 % 64
  let e := intrEntry s fn (off / 16 % 2048)
  match off, width with
  | 0, 8 => f.s1root
  | 0x10, 4 => scopePolicy f
  | 0x14, 4 => f.capCount
  | 0x100, 8 => s1invWord f
  | 0x180, 4 => errstat f
  | 0x200, 8 => f.ctxOff
  | 0x208, 4 => f.ctxWin
  | 0x20C, 4 => f.ctxLen
  | 0x800, 4 => f.errWr
  | _, _ =>
    if 0x400 ≤ off ∧ off < 0x800 then bits (f.errLog.getD (off / 16 % 64) 0) (off % 16 * 8) (8 * width)
    else if 0x1000 ≤ off ∧ off < 0x4000 then capRead s fn (off - 0x1000) width
    else if 0x4000 ≤ off ∧ off < 0x5000 ∧ aqiExists s fn q = true then
      if off % 64 = 0 ∧ width = 8 then (s.aqi fn q).rbase
      else if off % 64 = 8 ∧ width = 4 then b2n (s.aqi fn q).en * 2 ^ 31 + (s.aqi fn q).log2d else 0
    else if 0x10000 ≤ off ∧ off < 0x18000 then
      match off % 16, width with
      | 0, 8 => e.addr
      | 8, 4 => e.data
      | 12, 4 => intrControl e
      | _, _ => 0
    else 0

/-- SCHPOL as it is read (R422): SAVELIM 0 reads as 10, TRAPWAIT 0 as 1, and AGEMAX above 16 as 16. -/
def schpolRead (v : Nat) : Nat :=
  let save := v / 2 ^ 24 % 256
  let wait := v / 2 ^ 16 % 16
  let age := v % 32
  v + (if save = 0 then 10 * 2 ^ 24 else 0) + (if wait = 0 then 2 ^ 16 else 0) - (age - 16)

/-- What a read of the PF's blocks returns (R364, R389, R394, R409, R422, R444, R457, R460, R463). -/
def pfRead (s : State) (off width : Nat) : Nat :=
  let block (base size : Nat) : Fn := s.fn ((off - base) / size)
  match off, width with
  | 0x40, 4 => tdstat s
  | 0x60, 4 => modstat s
  | 0x64, 4 => s.pwrCap
  | 0x68, 4 => prestart s
  | _, _ =>
    if 0x8000 ≤ off ∧ off < 0x8100 ∧ width = 4 then platWord (s.platOf ((off - 0x8000) / 4))
    else if 0x20000 ≤ off ∧ off < 0x22000 ∧ width = 4 then s.refusals.getD ((off - 0x20000) / 4) 0
    else if 0x30000 ≤ off ∧ off < 0x34000 ∧ width = 4 then (block 0x30000 128).meters.getD (off / 4 % 32) 0
    else if 0x40000 ≤ off ∧ off < 0x42000 then
      let f := block 0x40000 64
      match off % 64, width with
      | 0, 8 => f.frBase
      | 8, 4 => frctl f
      | 0x10, 8 => f.dhBase
      | 0x18, 4 => b2n f.dhEn * 2 ^ 31 + b2n f.dhOvf * 2 ^ 30
      | 0x20, 4 => errstat f
      | _, _ => 0
    else if 0x50000 ≤ off ∧ off < 0x52000 ∧ width = 4 then
      match off % 64 with | 0 => schpolRead (block 0x50000 64).schpol | 4 => (block 0x50000 64).pktmtr | _ => 0
    else if 0x60000 ≤ off ∧ off < 0x70000 ∧ width = 4 then
      let f := block 0x60000 512
      let a := s.aqi ((off - 0x60000) / 512) ((off % 512 - 0x100) / 4)
      match off % 512 with
      | 0 => f.cap + b2n f.capFault * 16
      | 4 => f.domain
      | 8 => f.naqi
      | 0xC => f.trfilt
      | 0x10 => f.capCount
      | o => if 0x100 ≤ o then b2n a.valid * 2 ^ 31 + b2n a.revoked * 2 ^ 30 + a.pasid else 0
    else if 0x70000 ≤ off ∧ off < 0x71000 ∧ width = 4 then
      ((upto 4).map fun i => s.routes.getD (off - 0x70000 + i) 0 * 2 ^ (8 * i)).foldl (· + ·) 0
    else 0

/-- A read of BAR 0 (R442, R465): before READY only MODSTAT answers. Offsets from 0x10_0000 up stand for BAR 2: a notify page gives its
queue's state (R446). -/
def registerRead (s : State) (fn off width : Nat) : Nat :=
  if ¬(width = 4 ∨ width = 8) ∨ off % width ≠ 0 then 0
  else if !s.ready then (if fn = pf ∧ off = 0x60 ∧ width = 4 then modstat s else 0)
  else if 0x100000 ≤ off then
    let q := (off - 0x100000) / 4096
    if width = 8 ∧ aqiExists s fn q = true then queueState s fn q else 0
  else if fn = pf ∧ ¬(off < 0x20 ∨ (0x100 ≤ off ∧ off < 0x8000) ∨ (0x10000 ≤ off ∧ off < 0x18000)) then pfRead s off width
  else ownRead s fn off width

end Sys2Proof.Machine
end

