-- ==== Sys2Proof/Machine/Dispatch.lean ====
section
/-!
DEFINITION. The dispatch: one arm for each constructor of Instr, each a direct call of that instruction's meaning.
-/
namespace Sys2Proof.Machine

/-- The meaning of an instruction or event. -/
def exec (i : Instr) (s : State) : Host.Outcome State Fault Refusal :=
  match i with
  | .nop f => Sys2Proof.Machine.execNop f s
  | .nopC c => Sys2Proof.Machine.execNopC c s
  | .mov f => Sys2Proof.Machine.execMov f s
  | .movC c => Sys2Proof.Machine.execMovC c s
  | .movl f => Sys2Proof.Machine.execMovl f s
  | .movh f => Sys2Proof.Machine.execMovh f s
  | .add f => Sys2Proof.Machine.execAdd f s
  | .addC c => Sys2Proof.Machine.execAddC c s
  | .sub f => Sys2Proof.Machine.execSub f s
  | .subC c => Sys2Proof.Machine.execSubC c s
  | .mul f => Sys2Proof.Machine.execMul f s
  | .mulC c => Sys2Proof.Machine.execMulC c s
  | .mulh f => Sys2Proof.Machine.execMulh f s
  | .mulhC c => Sys2Proof.Machine.execMulhC c s
  | .div f => Sys2Proof.Machine.execDiv f s
  | .rem f => Sys2Proof.Machine.execRem f s
  | .and f => Sys2Proof.Machine.execAnd f s
  | .andC c => Sys2Proof.Machine.execAndC c s
  | .or f => Sys2Proof.Machine.execOr f s
  | .orC c => Sys2Proof.Machine.execOrC c s
  | .xor f => Sys2Proof.Machine.execXor f s
  | .xorC c => Sys2Proof.Machine.execXorC c s
  | .andn f => Sys2Proof.Machine.execAndn f s
  | .andnC c => Sys2Proof.Machine.execAndnC c s
  | .shl f => Sys2Proof.Machine.execShl f s
  | .shlC c => Sys2Proof.Machine.execShlC c s
  | .shr f => Sys2Proof.Machine.execShr f s
  | .shrC c => Sys2Proof.Machine.execShrC c s
  | .sar f => Sys2Proof.Machine.execSar f s
  | .sarC c => Sys2Proof.Machine.execSarC c s
  | .rot f => Sys2Proof.Machine.execRot f s
  | .rotC c => Sys2Proof.Machine.execRotC c s
  | .clz f => Sys2Proof.Machine.execClz f s
  | .ctz f => Sys2Proof.Machine.execCtz f s
  | .popc f => Sys2Proof.Machine.execPopc f s
  | .min f => Sys2Proof.Machine.execMin f s
  | .minC c => Sys2Proof.Machine.execMinC c s
  | .max f => Sys2Proof.Machine.execMax f s
  | .maxC c => Sys2Proof.Machine.execMaxC c s
  | .sel f => Sys2Proof.Machine.execSel f s
  | .bfx f => Sys2Proof.Machine.execBfx f s
  | .bfi f => Sys2Proof.Machine.execBfi f s
  | .cmp f => Sys2Proof.Machine.execCmp f s
  | .emget f => Sys2Proof.Machine.execEmget f s
  | .emset f => Sys2Proof.Machine.execEmset f s
  | .emand f => Sys2Proof.Machine.execEmand f s
  | .emandn f => Sys2Proof.Machine.execEmandn f s
  | .emor f => Sys2Proof.Machine.execEmor f s
  | .ffs f => Sys2Proof.Machine.execFfs f s
  | .fork f => Sys2Proof.Machine.execFork f s
  | .loop f => Sys2Proof.Machine.execLoop f s
  | .getid f => Sys2Proof.Machine.execGetid f s
  | .time f => Sys2Proof.Machine.execTime f s
  | .cget f => Sys2Proof.Machine.execCget f s
  | .cset f => Sys2Proof.Machine.execCset f s
  | .yield f => Sys2Proof.Machine.execYield f s
  | .vmov f => Sys2Proof.Machine.execVmov f s
  | .vmovC c => Sys2Proof.Machine.execVmovC c s
  | .vadd f => Sys2Proof.Machine.execVadd f s
  | .vaddC c => Sys2Proof.Machine.execVaddC c s
  | .vsub f => Sys2Proof.Machine.execVsub f s
  | .vsubC c => Sys2Proof.Machine.execVsubC c s
  | .vmul f => Sys2Proof.Machine.execVmul f s
  | .vmulC c => Sys2Proof.Machine.execVmulC c s
  | .vmulh f => Sys2Proof.Machine.execVmulh f s
  | .vmad f => Sys2Proof.Machine.execVmad f s
  | .vdiv f => Sys2Proof.Machine.execVdiv f s
  | .vrem f => Sys2Proof.Machine.execVrem f s
  | .vabs f => Sys2Proof.Machine.execVabs f s
  | .vneg f => Sys2Proof.Machine.execVneg f s
  | .vmin f => Sys2Proof.Machine.execVmin f s
  | .vminC c => Sys2Proof.Machine.execVminC c s
  | .vmax f => Sys2Proof.Machine.execVmax f s
  | .vmaxC c => Sys2Proof.Machine.execVmaxC c s
  | .vavg f => Sys2Proof.Machine.execVavg f s
  | .vand f => Sys2Proof.Machine.execVand f s
  | .vandC c => Sys2Proof.Machine.execVandC c s
  | .vor f => Sys2Proof.Machine.execVor f s
  | .vorC c => Sys2Proof.Machine.execVorC c s
  | .vxor f => Sys2Proof.Machine.execVxor f s
  | .vxorC c => Sys2Proof.Machine.execVxorC c s
  | .vandn f => Sys2Proof.Machine.execVandn f s
  | .vshl f => Sys2Proof.Machine.execVshl f s
  | .vshlC c => Sys2Proof.Machine.execVshlC c s
  | .vshr f => Sys2Proof.Machine.execVshr f s
  | .vshrC c => Sys2Proof.Machine.execVshrC c s
  | .vsar f => Sys2Proof.Machine.execVsar f s
  | .vsarC c => Sys2Proof.Machine.execVsarC c s
  | .vrot f => Sys2Proof.Machine.execVrot f s
  | .vclz f => Sys2Proof.Machine.execVclz f s
  | .vpopc f => Sys2Proof.Machine.execVpopc f s
  | .vbfx f => Sys2Proof.Machine.execVbfx f s
  | .vbfi f => Sys2Proof.Machine.execVbfi f s
  | .vcmp f => Sys2Proof.Machine.execVcmp f s
  | .vsel f => Sys2Proof.Machine.execVsel f s
  | .vcvt f => Sys2Proof.Machine.execVcvt f s
  | .vpack f => Sys2Proof.Machine.execVpack f s
  | .vunpack f => Sys2Proof.Machine.execVunpack f s
  | .vfadd f => Sys2Proof.Machine.execVfadd f s
  | .vfaddC c => Sys2Proof.Machine.execVfaddC c s
  | .vfsub f => Sys2Proof.Machine.execVfsub f s
  | .vfsubC c => Sys2Proof.Machine.execVfsubC c s
  | .vfmul f => Sys2Proof.Machine.execVfmul f s
  | .vfmulC c => Sys2Proof.Machine.execVfmulC c s
  | .vfma f => Sys2Proof.Machine.execVfma f s
  | .vfmin f => Sys2Proof.Machine.execVfmin f s
  | .vfmax f => Sys2Proof.Machine.execVfmax f s
  | .vfcmp f => Sys2Proof.Machine.execVfcmp f s
  | .vfcvt f => Sys2Proof.Machine.execVfcvt f s
  | .vfrcp f => Sys2Proof.Machine.execVfrcp f s
  | .vfrsq f => Sys2Proof.Machine.execVfrsq f s
  | .vfsqrt f => Sys2Proof.Machine.execVfsqrt f s
  | .vfdiv f => Sys2Proof.Machine.execVfdiv f s
  | .vfexp2 f => Sys2Proof.Machine.execVfexp2 f s
  | .vflog2 f => Sys2Proof.Machine.execVflog2 f s
  | .vfscl f => Sys2Proof.Machine.execVfscl f s
  | .vftbl f => Sys2Proof.Machine.execVftbl f s
  | .vexpr f => Sys2Proof.Machine.execVexpr f s
  | .vperm f => Sys2Proof.Machine.execVperm f s
  | .vshuf f => Sys2Proof.Machine.execVshuf f s
  | .vbcast f => Sys2Proof.Machine.execVbcast f s
  | .vrott f => Sys2Proof.Machine.execVrott f s
  | .vslide f => Sys2Proof.Machine.execVslide f s
  | .vscan f => Sys2Proof.Machine.execVscan f s
  | .vred f => Sys2Proof.Machine.execVred f s
  | .vballot f => Sys2Proof.Machine.execVballot f s
  | .vhad f => Sys2Proof.Machine.execVhad f s
  | .vqnt f => Sys2Proof.Machine.execVqnt f s
  | .vdqnt f => Sys2Proof.Machine.execVdqnt f s
  | .ld f => Sys2Proof.Machine.execLd f s
  | .st f => Sys2Proof.Machine.execSt f s
  | .lda f => Sys2Proof.Machine.execLda f s
  | .stl f => Sys2Proof.Machine.execStl f s
  | .uld f => Sys2Proof.Machine.execUld f s
  | .ust f => Sys2Proof.Machine.execUst f s
  | .sld f => Sys2Proof.Machine.execSld f s
  | .sst f => Sys2Proof.Machine.execSst f s
  | .usld f => Sys2Proof.Machine.execUsld f s
  | .usst f => Sys2Proof.Machine.execUsst f s
  | .atom f => Sys2Proof.Machine.execAtom f s
  | .cas f => Sys2Proof.Machine.execCas f s
  | .uatom f => Sys2Proof.Machine.execUatom f s
  | .ucas f => Sys2Proof.Machine.execUcas f s
  | .satom f => Sys2Proof.Machine.execSatom f s
  | .fence f => Sys2Proof.Machine.execFence f s
  | .cflush f => Sys2Proof.Machine.execCflush f s
  | .cclean f => Sys2Proof.Machine.execCclean f s
  | .cpref f => Sys2Proof.Machine.execCpref f s
  | .cbias f => Sys2Proof.Machine.execCbias f s
  | .signal f => Sys2Proof.Machine.execSignal f s
  | .wait f => Sys2Proof.Machine.execWait f s
  | .bbar f => Sys2Proof.Machine.execBbar f s
  | .fmtset f => Sys2Proof.Machine.execFmtset f s
  | .tclaim f => Sys2Proof.Machine.execTclaim f s
  | .trel f => Sys2Proof.Machine.execTrel f s
  | .tld f => Sys2Proof.Machine.execTld f s
  | .tst f => Sys2Proof.Machine.execTst f s
  | .mma f => Sys2Proof.Machine.execMma f s
  | .mmas f => Sys2Proof.Machine.execMmas f s
  | .aclaim f => Sys2Proof.Machine.execAclaim f s
  | .arel f => Sys2Proof.Machine.execArel f s
  | .azero f => Sys2Proof.Machine.execAzero f s
  | .ard f => Sys2Proof.Machine.execArd f s
  | .asave f => Sys2Proof.Machine.execAsave f s
  | .aload f => Sys2Proof.Machine.execAload f s
  | .tsave f => Sys2Proof.Machine.execTsave f s
  | .tload f => Sys2Proof.Machine.execTload f s
  | .tstat f => Sys2Proof.Machine.execTstat f s
  | .cpy f => Sys2Proof.Machine.execCpy f s
  | .cpym f => Sys2Proof.Machine.execCpym f s
  | .gath f => Sys2Proof.Machine.execGath f s
  | .scat f => Sys2Proof.Machine.execScat f s
  | .nbl f => Sys2Proof.Machine.execNbl f s
  | .coll f => Sys2Proof.Machine.execColl f s
  | .cload f => Sys2Proof.Machine.execCload f s
  | .aclose f => Sys2Proof.Machine.execAclose f s
  | .await f => Sys2Proof.Machine.execAwait f s
  | .hwait f => Sys2Proof.Machine.execHwait f s
  | .htest f => Sys2Proof.Machine.execHtest f s
  | .hcancel f => Sys2Proof.Machine.execHcancel f s
  | .hmov f => Sys2Proof.Machine.execHmov f s
  | .bopen f => Sys2Proof.Machine.execBopen f s
  | .bjoin f => Sys2Proof.Machine.execBjoin f s
  | .bst f => Sys2Proof.Machine.execBst f s
  | .ubst f => Sys2Proof.Machine.execUbst f s
  | .bclose f => Sys2Proof.Machine.execBclose f s
  | .babort f => Sys2Proof.Machine.execBabort f s
  | .view f => Sys2Proof.Machine.execView f s
  | .vend f => Sys2Proof.Machine.execVend f s
  | .commit f => Sys2Proof.Machine.execCommit f s
  | .trace f => Sys2Proof.Machine.execTrace f s
  | .tctl f => Sys2Proof.Machine.execTctl f s
  | .parr f => Sys2Proof.Machine.execParr f s
  | .pwait f => Sys2Proof.Machine.execPwait f s
  | .pbar f => Sys2Proof.Machine.execPbar f s
  | .trap f => Sys2Proof.Machine.execTrap f s
  | .tret f => Sys2Proof.Machine.execTret f s
  | .rgmap f => Sys2Proof.Machine.execRgmap f s
  | .rgfree f => Sys2Proof.Machine.execRgfree f s
  | .fnld f => Sys2Proof.Machine.execFnld f s
  | .fnswap f => Sys2Proof.Machine.execFnswap f s
  | .sleep f => Sys2Proof.Machine.execSleep f s
  | .brk f => Sys2Proof.Machine.execBrk f s
  | .ropen f => Sys2Proof.Machine.execRopen f s
  | .rwrite f => Sys2Proof.Machine.execRwrite f s
  | .rvload f => Sys2Proof.Machine.execRvload f s
  | .radd f => Sys2Proof.Machine.execRadd f s
  | .rmul f => Sys2Proof.Machine.execRmul f s
  | .rfma f => Sys2Proof.Machine.execRfma f s
  | .rmax f => Sys2Proof.Machine.execRmax f s
  | .rcvt f => Sys2Proof.Machine.execRcvt f s
  | .rgemv f => Sys2Proof.Machine.execRgemv f s
  | .rred f => Sys2Proof.Machine.execRred f s
  | .racc f => Sys2Proof.Machine.execRacc f s
  | .rmove f => Sys2Proof.Machine.execRmove f s
  | .rfill f => Sys2Proof.Machine.execRfill f s
  | .rsync f => Sys2Proof.Machine.execRsync f s
  | .rstat f => Sys2Proof.Machine.execRstat f s
  | .issueOpportunity lane => Sys2Proof.Machine.execIssueOpportunity lane s
  | .instructionLineArrival strand win addr line => Sys2Proof.Machine.execInstructionLineArrival strand win addr line s
  | .memoryAccessComplete r => Sys2Proof.Machine.execMemoryAccessComplete r s
  | .storeAck agent acc grid => Sys2Proof.Machine.execStoreAck agent acc grid s
  | .preemptDelivery strand => Sys2Proof.Machine.execPreemptDelivery strand s
  | .sleepExpiry strand acc => Sys2Proof.Machine.execSleepExpiry strand acc s
  | .plumbPhaseComplete strand => Sys2Proof.Machine.execPlumbPhaseComplete strand s
  | .waitRecheck strand => Sys2Proof.Machine.execWaitRecheck strand s
  | .signalArrival r => Sys2Proof.Machine.execSignalArrival r s
  | .arrayOpStart op => Sys2Proof.Machine.execArrayOpStart op s
  | .arrayOpComplete op => Sys2Proof.Machine.execArrayOpComplete op s
  | .subnormalAssistDone op => Sys2Proof.Machine.execSubnormalAssistDone op s
  | .jobStart job => Sys2Proof.Machine.execJobStart job s
  | .jobComplete job => Sys2Proof.Machine.execJobComplete job s
  | .collectiveStart fn name remote => Sys2Proof.Machine.execCollectiveStart fn name remote s
  | .bsuExecute op bsu => Sys2Proof.Machine.execBsuExecute op bsu s
  | .homeLoadFill r => Sys2Proof.Machine.execHomeLoadFill r s
  | .forwardedRequest m r owner found => Sys2Proof.Machine.execForwardedRequest m r owner found s
  | .homeOwnershipRequest r => Sys2Proof.Machine.execHomeOwnershipRequest r s
  | .homeStoreArrival r => Sys2Proof.Machine.execHomeStoreArrival r s
  | .combineWindowClose home line number => Sys2Proof.Machine.execCombineWindowClose home line number s
  | .homeFarAtomic r => Sys2Proof.Machine.execHomeFarAtomic r s
  | .l1Invalidation m home copy => Sys2Proof.Machine.execL1Invalidation m home copy s
  | .writebackArrival m home copy mask data ack gone mark => Sys2Proof.Machine.execWritebackArrival m home copy mask data ack gone mark s
  | .bundleInstall m r bundle opens => Sys2Proof.Machine.execBundleInstall m r bundle opens s
  | .installAck m agent acc grid => Sys2Proof.Machine.execInstallAck m agent acc grid s
  | .viewLoadDecide m who line v skip => Sys2Proof.Machine.execViewLoadDecide m who line v skip s
  | .nameRegister m who scope name act => Sys2Proof.Machine.execNameRegister m who scope name act s
  | .joinMessage m who bundle answer => Sys2Proof.Machine.execJoinMessage m who bundle answer s
  | .bundleCloseArrival m who bundle kind lines => Sys2Proof.Machine.execBundleCloseArrival m who bundle kind lines s
  | .commitNotice m home bundle news => Sys2Proof.Machine.execCommitNotice m home bundle news s
  | .promotionAck m home bundle => Sys2Proof.Machine.execPromotionAck m home bundle s
  | .dropNotice m home bundle => Sys2Proof.Machine.execDropNotice m home bundle s
  | .dropAck m home bundle => Sys2Proof.Machine.execDropAck m home bundle s
  | .stateQuery m who bundle line v => Sys2Proof.Machine.execStateQuery m who bundle line v s
  | .stateQueryReply m who bundle line v stamp => Sys2Proof.Machine.execStateQueryReply m who bundle line v stamp s
  | .abortedHoldExpiry bundle => Sys2Proof.Machine.execAbortedHoldExpiry bundle s
  | .faultRecordWrite cluster => Sys2Proof.Machine.execFaultRecordWrite cluster s
  | .faultInterruptTimer fn number => Sys2Proof.Machine.execFaultInterruptTimer fn number s
  | .traceStallRelease fn => Sys2Proof.Machine.execTraceStallRelease fn s
  | .blockBind fn => Sys2Proof.Machine.execBlockBind fn s
  | .launchAgeTick grid => Sys2Proof.Machine.execLaunchAgeTick grid s
  | .priorityPreempt grid => Sys2Proof.Machine.execPriorityPreempt grid s
  | .blockAdmit core => Sys2Proof.Machine.execBlockAdmit core s
  | .blockLeave block => Sys2Proof.Machine.execBlockLeave block s
  | .saveLimitExpiry block core order => Sys2Proof.Machine.execSaveLimitExpiry block core order s
  | .blockRetire block => Sys2Proof.Machine.execBlockRetire block s
  | .gridComplete grid => Sys2Proof.Machine.execGridComplete grid s
  | .clusterIdle cluster => Sys2Proof.Machine.execClusterIdle cluster s
  | .clusterWake => Sys2Proof.Machine.execClusterWake s
  | .powerStep level => Sys2Proof.Machine.execPowerStep level s
  | .thermalTrip die => Sys2Proof.Machine.execThermalTrip die s
  | .clockAdjust ahead units => Sys2Proof.Machine.execClockAdjust ahead units s
  | .clockLock locked => Sys2Proof.Machine.execClockLock locked s
  | .laneRetired core lane => Sys2Proof.Machine.execLaneRetired core lane s
  | .timingReplay core persists => Sys2Proof.Machine.execTimingReplay core persists s
  | .uncorrectableError lines parcel => Sys2Proof.Machine.execUncorrectableError lines parcel s
  | .sharedLogicError lines => Sys2Proof.Machine.execSharedLogicError lines s
  | .clusterRecovery cluster lost ok => Sys2Proof.Machine.execClusterRecovery cluster lost ok s
  | .coldReset dev err bad lanes => Sys2Proof.Machine.execColdReset dev err bad lanes s
  | .pfFlr => Sys2Proof.Machine.execPfFlr s
  | .vfFlr fn => Sys2Proof.Machine.execVfFlr fn s
  | .vfEnableClear => Sys2Proof.Machine.execVfEnableClear s
  | .partitionRestart fn => Sys2Proof.Machine.execPartitionRestart fn s
  | .parcelScrubDone parcel ok => Sys2Proof.Machine.execParcelScrubDone parcel ok s
  | .migrationDrainDone packet => Sys2Proof.Machine.execMigrationDrainDone packet s
  | .migrationCopyRoundDone packet => Sys2Proof.Machine.execMigrationCopyRoundDone packet s
  | .hostMemRead addr tag => Sys2Proof.Machine.execHostMemRead addr tag s
  | .hostMemWrite addr bytes => Sys2Proof.Machine.execHostMemWrite addr bytes s
  | .hostSnoop line invalidate => Sys2Proof.Machine.execHostSnoop line invalidate s
  | .atsInvalidateRequest pasid page pages => Sys2Proof.Machine.execAtsInvalidateRequest pasid page pages s
  | .bisnpResponse line data => Sys2Proof.Machine.execBisnpResponse line data s
  | .biasFlipEnd page => Sys2Proof.Machine.execBiasFlipEnd page s
  | .peerAccessRequest m domain ask => Sys2Proof.Machine.execPeerAccessRequest m domain ask s
  | .peerAccessReply m a => Sys2Proof.Machine.execPeerAccessReply m a s
  | .fabricLinkFailure port => Sys2Proof.Machine.execFabricLinkFailure port s
  | .peerReady dev cluster incarn => Sys2Proof.Machine.execPeerReady dev cluster incarn s
  | .getVersion fn => Sys2Proof.Machine.execGetVersion fn s
  | .getCapabilities fn request => Sys2Proof.Machine.execGetCapabilities fn request s
  | .negotiateAlgorithms fn request => Sys2Proof.Machine.execNegotiateAlgorithms fn request s
  | .getDigests fn => Sys2Proof.Machine.execGetDigests fn s
  | .getCertificate fn request => Sys2Proof.Machine.execGetCertificate fn request s
  | .challenge fn request => Sys2Proof.Machine.execChallenge fn request s
  | .getMeasurements fn request => Sys2Proof.Machine.execGetMeasurements fn request s
  | .keyExchange fn request => Sys2Proof.Machine.execKeyExchange fn request s
  | .finish fn => Sys2Proof.Machine.execFinish fn s
  | .endSession fn => Sys2Proof.Machine.execEndSession fn s
  | .amend fn a => Sys2Proof.Machine.execAmend fn a s
  | .getTdispVersion fn => Sys2Proof.Machine.execGetTdispVersion fn s
  | .getTdispCapabilities fn => Sys2Proof.Machine.execGetTdispCapabilities fn s
  | .lockInterfaceRequest fn => Sys2Proof.Machine.execLockInterfaceRequest fn s
  | .getDeviceInterfaceReport fn => Sys2Proof.Machine.execGetDeviceInterfaceReport fn s
  | .getDeviceInterfaceState fn => Sys2Proof.Machine.execGetDeviceInterfaceState fn s
  | .startInterfaceRequest fn => Sys2Proof.Machine.execStartInterfaceRequest fn s
  | .stopInterfaceRequest fn => Sys2Proof.Machine.execStopInterfaceRequest fn s
  | .vfConfigWrite write => Sys2Proof.Machine.execVfConfigWrite write s
  | .tailWrite fn q value => Sys2Proof.Machine.execTailWrite fn q value s
  | .aqiArm fn q value => Sys2Proof.Machine.execAqiArm fn q value s
  | .aqiPause fn q => Sys2Proof.Machine.execAqiPause fn q s
  | .aqiResume fn q => Sys2Proof.Machine.execAqiResume fn q s
  | .aqiEnable fn q => Sys2Proof.Machine.execAqiEnable fn q s
  | .aqiDisable fn q => Sys2Proof.Machine.execAqiDisable fn q s
  | .packetStart fn q => Sys2Proof.Machine.execPacketStart fn q s
  | .launch packet => Sys2Proof.Machine.execLaunch packet s
  | .copyPacket packet => Sys2Proof.Machine.execCopyPacket packet s
  | .signalPacket packet => Sys2Proof.Machine.execSignalPacket packet s
  | .waitPacket packet => Sys2Proof.Machine.execWaitPacket packet s
  | .nblaunch packet => Sys2Proof.Machine.execNblaunch packet s
  | .biasToHost packet => Sys2Proof.Machine.execBiasToHost packet s
  | .biasToDevice packet => Sys2Proof.Machine.execBiasToDevice packet s
  | .traceSetRing packet => Sys2Proof.Machine.execTraceSetRing packet s
  | .traceDetachRing packet => Sys2Proof.Machine.execTraceDetachRing packet s
  | .traceSetShareRing packet => Sys2Proof.Machine.execTraceSetShareRing packet s
  | .traceDetachShareRing packet => Sys2Proof.Machine.execTraceDetachShareRing packet s
  | .qfence packet => Sys2Proof.Machine.execQfence packet s
  | .partitionCreate packet => Sys2Proof.Machine.execPartitionCreate packet s
  | .partitionDestroy packet => Sys2Proof.Machine.execPartitionDestroy packet s
  | .resize packet => Sys2Proof.Machine.execResize packet s
  | .migrate packet => Sys2Proof.Machine.execMigrate packet s
  | .meter packet => Sys2Proof.Machine.execMeter packet s
  | .invalidate packet => Sys2Proof.Machine.execInvalidate packet s
  | .replay packet => Sys2Proof.Machine.execReplay packet s
  | .s1InvalidatePage fn value => Sys2Proof.Machine.execS1InvalidatePage fn value s
  | .s1InvalidateAll fn value => Sys2Proof.Machine.execS1InvalidateAll fn value s
  | .s1InvalidateDone fn => Sys2Proof.Machine.execS1InvalidateDone fn s
  | .intrEntryUnmask fn index => Sys2Proof.Machine.execIntrEntryUnmask fn index s
  | .scopepolWrite fn value => Sys2Proof.Machine.execScopepolWrite fn value s
  | .cscountClear fn => Sys2Proof.Machine.execCscountClear fn s
  | .aqibindWrite fn q value => Sys2Proof.Machine.execAqibindWrite fn q value s
  | .naqiWrite fn value => Sys2Proof.Machine.execNaqiWrite fn value s
  | .frctlWrite fn value => Sys2Proof.Machine.execFrctlWrite fn value s
  | .dhctlOvfClear fn => Sys2Proof.Machine.execDhctlOvfClear fn s
  | .errstatSharedClear fn => Sys2Proof.Machine.execErrstatSharedClear fn s
  | .refusalCounterClear slice bsu => Sys2Proof.Machine.execRefusalCounterClear slice bsu s
  | .routeTableWrite word value => Sys2Proof.Machine.execRouteTableWrite word value s
  | .registerWrite fn offset width value => Sys2Proof.Machine.execRegisterWrite fn offset width value s
  | .invalidationAck m home copy => Sys2Proof.Machine.execInvalidationAck m home copy s
  | .keysReplaced parcel => Sys2Proof.Machine.execKeysReplaced parcel s
  | .correctableError slice => Sys2Proof.Machine.execCorrectableError slice s
  | .functionTableWriteDone core strand => Sys2Proof.Machine.execFunctionTableWriteDone core strand s

end Sys2Proof.Machine
end

