-- ==== Sys2Proof/Machine/Perform.lean ====
section
/-!
DEFINITION. What happens when an event of the queue or of the timers comes due: the meaning of its row. Laws/Events.lean
proves that this is `exec` of that row's constructor.
-/
namespace Sys2Proof.Machine

/-- Perform an event. -/
def perform (e : Event) (s : State) : Out :=
  match e with
  | .issueOpportunity lane => execIssueOpportunity lane s
  | .instructionLineArrival strand win addr line => execInstructionLineArrival strand win addr line s
  | .memoryAccessComplete r => execMemoryAccessComplete r s
  | .storeAck agent acc grid => execStoreAck agent acc grid s
  | .preemptDelivery strand => execPreemptDelivery strand s
  | .sleepExpiry strand acc => execSleepExpiry strand acc s
  | .plumbPhaseComplete strand => execPlumbPhaseComplete strand s
  | .waitRecheck strand => execWaitRecheck strand s
  | .signalArrival r => execSignalArrival r s
  | .arrayOpStart op => execArrayOpStart op s
  | .arrayOpComplete op => execArrayOpComplete op s
  | .subnormalAssistDone op => execSubnormalAssistDone op s
  | .jobStart job => execJobStart job s
  | .jobComplete job => execJobComplete job s
  | .collectiveStart fn name remote => execCollectiveStart fn name remote s
  | .bsuExecute op bsu => execBsuExecute op bsu s
  | .homeLoadFill r => execHomeLoadFill r s
  | .forwardedRequest m r owner data mark => execForwardedRequest m r owner (data, mark) s
  | .homeOwnershipRequest r => execHomeOwnershipRequest r s
  | .homeStoreArrival r => execHomeStoreArrival r s
  | .combineWindowClose home line number => execCombineWindowClose home line number s
  | .homeFarAtomic r => execHomeFarAtomic r s
  | .l1Invalidation m home core line => execL1Invalidation m home ⟨core, line⟩ s
  | .writebackArrival m home core line mask data ack gone mark => execWritebackArrival m home ⟨core, line⟩ mask data ack gone mark s
  | .bundleInstall m r bundle age opens => execBundleInstall m r (bundle, age) opens s
  | .installAck m agent acc grid => execInstallAck m agent acc grid s
  | .viewLoadDecide m who line v skip => execViewLoadDecide m who line v skip s
  | .nameRegister m who scope name act => execNameRegister m who scope name act s
  | .joinMessage m who bundle answer => execJoinMessage m who bundle answer s
  | .bundleCloseArrival m who bundle kind lines => execBundleCloseArrival m who bundle kind lines s
  | .commitNotice m home bundle stamp lines => execCommitNotice m home bundle (stamp, lines) s
  | .promotionAck m home bundle => execPromotionAck m home bundle s
  | .dropNotice m home bundle => execDropNotice m home bundle s
  | .dropAck m home bundle => execDropAck m home bundle s
  | .stateQuery m who bundle line v => execStateQuery m who bundle line v s
  | .stateQueryReply m who bundle line v stamp => execStateQueryReply m who bundle line v stamp s
  | .abortedHoldExpiry bundle => execAbortedHoldExpiry bundle s
  | .faultRecordWrite cluster => execFaultRecordWrite cluster s
  | .faultInterruptTimer fn number => execFaultInterruptTimer fn number s
  | .traceStallRelease fn => execTraceStallRelease fn s
  | .blockBind fn => execBlockBind fn s
  | .launchAgeTick grid => execLaunchAgeTick grid s
  | .priorityPreempt grid => execPriorityPreempt grid s
  | .blockAdmit core => execBlockAdmit core s
  | .blockLeave block => execBlockLeave block s
  | .saveLimitExpiry block core order => execSaveLimitExpiry block core order s
  | .blockRetire block => execBlockRetire block s
  | .gridComplete grid => execGridComplete grid s
  | .clusterIdle cluster => execClusterIdle cluster s
  | .clusterWake => execClusterWake s
  | .powerStep level => execPowerStep level s
  | .thermalTrip die => execThermalTrip die s
  | .clockAdjust ahead units => execClockAdjust ahead units s
  | .clockLock locked => execClockLock locked s
  | .laneRetired core lane => execLaneRetired core lane s
  | .timingReplay core persists => execTimingReplay core persists s
  | .uncorrectableError lines parcel => execUncorrectableError lines parcel s
  | .sharedLogicError lines => execSharedLogicError lines s
  | .clusterRecovery cluster lost ok => execClusterRecovery cluster lost ok s
  | .coldReset dev err bad lanes => execColdReset dev err bad lanes s
  | .pfFlr => execPfFlr s
  | .vfFlr fn => execVfFlr fn s
  | .vfEnableClear => execVfEnableClear s
  | .partitionRestart fn => execPartitionRestart fn s
  | .parcelScrubDone parcel ok => execParcelScrubDone parcel ok s
  | .migrationDrainDone packet => execMigrationDrainDone packet s
  | .migrationCopyRoundDone packet => execMigrationCopyRoundDone packet s
  | .hostMemRead addr tag => execHostMemRead addr tag s
  | .hostMemWrite addr bytes => execHostMemWrite addr bytes s
  | .hostSnoop line invalidate => execHostSnoop line invalidate s
  | .atsInvalidateRequest pasid page pages => execAtsInvalidateRequest pasid page pages s
  | .bisnpResponse line data => execBisnpResponse line data s
  | .biasFlipEnd page => execBiasFlipEnd page s
  | .peerAccessRequest m domain ask => execPeerAccessRequest m domain ask s
  | .peerAccessReply m a => execPeerAccessReply m a s
  | .fabricLinkFailure port => execFabricLinkFailure port s
  | .peerReady dev cluster incarn => execPeerReady dev cluster incarn s
  | .getVersion fn => execGetVersion fn s
  | .getCapabilities fn request => execGetCapabilities fn request s
  | .negotiateAlgorithms fn request => execNegotiateAlgorithms fn request s
  | .getDigests fn => execGetDigests fn s
  | .getCertificate fn request => execGetCertificate fn request s
  | .challenge fn request => execChallenge fn request s
  | .getMeasurements fn request => execGetMeasurements fn request s
  | .keyExchange fn request => execKeyExchange fn request s
  | .finish fn => execFinish fn s
  | .endSession fn => execEndSession fn s
  | .amend fn a => execAmend fn a s
  | .getTdispVersion fn => execGetTdispVersion fn s
  | .getTdispCapabilities fn => execGetTdispCapabilities fn s
  | .lockInterfaceRequest fn => execLockInterfaceRequest fn s
  | .getDeviceInterfaceReport fn => execGetDeviceInterfaceReport fn s
  | .getDeviceInterfaceState fn => execGetDeviceInterfaceState fn s
  | .startInterfaceRequest fn => execStartInterfaceRequest fn s
  | .stopInterfaceRequest fn => execStopInterfaceRequest fn s
  | .vfConfigWrite fn decoder => execVfConfigWrite (fn, decoder) s
  | .tailWrite fn q value => execTailWrite fn q value s
  | .aqiArm fn q value => execAqiArm fn q value s
  | .aqiPause fn q => execAqiPause fn q s
  | .aqiResume fn q => execAqiResume fn q s
  | .aqiEnable fn q => execAqiEnable fn q s
  | .aqiDisable fn q => execAqiDisable fn q s
  | .packetStart fn q => execPacketStart fn q s
  | .launch packet => execLaunch packet s
  | .copyPacket packet => execCopyPacket packet s
  | .signalPacket packet => execSignalPacket packet s
  | .waitPacket packet => execWaitPacket packet s
  | .nblaunch packet => execNblaunch packet s
  | .biasToHost packet => execBiasToHost packet s
  | .biasToDevice packet => execBiasToDevice packet s
  | .traceSetRing packet => execTraceSetRing packet s
  | .traceDetachRing packet => execTraceDetachRing packet s
  | .traceSetShareRing packet => execTraceSetShareRing packet s
  | .traceDetachShareRing packet => execTraceDetachShareRing packet s
  | .qfence packet => execQfence packet s
  | .partitionCreate packet => execPartitionCreate packet s
  | .partitionDestroy packet => execPartitionDestroy packet s
  | .resize packet => execResize packet s
  | .migrate packet => execMigrate packet s
  | .meter packet => execMeter packet s
  | .invalidate packet => execInvalidate packet s
  | .replay packet => execReplay packet s
  | .s1InvalidatePage fn value => execS1InvalidatePage fn value s
  | .s1InvalidateAll fn value => execS1InvalidateAll fn value s
  | .s1InvalidateDone fn => execS1InvalidateDone fn s
  | .intrEntryUnmask fn index => execIntrEntryUnmask fn index s
  | .scopepolWrite fn value => execScopepolWrite fn value s
  | .cscountClear fn => execCscountClear fn s
  | .aqibindWrite fn q value => execAqibindWrite fn q value s
  | .naqiWrite fn value => execNaqiWrite fn value s
  | .frctlWrite fn value => execFrctlWrite fn value s
  | .dhctlOvfClear fn => execDhctlOvfClear fn s
  | .errstatSharedClear fn => execErrstatSharedClear fn s
  | .refusalCounterClear slice bsu => execRefusalCounterClear slice bsu s
  | .routeTableWrite word value => execRouteTableWrite word value s
  | .registerWrite fn offset width value => execRegisterWrite fn offset width value s
  | .invalidationAck m home core line => execInvalidationAck m home ⟨core, line⟩ s
  | .keysReplaced parcel => execKeysReplaced parcel s
  | .correctableError slice => execCorrectableError slice s
  | .functionTableWriteDone core strand => execFunctionTableWriteDone core strand s

end Sys2Proof.Machine
end

