-- ==== Sys2Proof/Machine/Step.lean ====
section
/-!
DEFINITION. One step of the machine: the clock moves, then a due timer happens, or else the oldest message of the queue,
or else the next unit that takes its turn issues one instruction or one co-issue pair (logs 3 to 5). And the placing of
an instruction where the next step fetches it.
-/
namespace Sys2Proof.Machine

/-- Run the instruction that a lane has handed over, then the prefetches (R159). -/
def runOne (k : Nat) (before : ForkPhase) (i : Instr) (s : State) : Out :=
  match exec i s with
  | .next s1 => .next (prefetchRegion s1 k before)
  | o => o

/-- Run a co-issue pair: the uniform member gathers its writes, then the other member executes and performs them. The
pair ends with the uniform member if that faults or waits: where both members would fault at their operands, the spec gives no order,
and the uniform member's fault decides (R13; DESIGN CHOICE, log 25). -/
def runPair (k : Nat) (before : ForkPhase) (u n : Instr) (s : State) : Out :=
  match exec u s with
  | .next s1 =>
    match s1.strand k with
    | some st => (match st.pair with | .apply _ => runOne k before n { s1 with act := some k } | _ => .next s1)
    | none => .next s1
  | o => o

/-- A unit takes its turn. -/
def takeTurn (s : State) (lane : Nat) : Out :=
  match laneStep s lane with
  | .done s1 => .next s1
  | .one s1 i => runOne (actOf s1) (phaseOf s1) i s1
  | .pair s1 u n => runPair (actOf s1) (phaseOf s1) u n s1

/-- The next step of an engine, when it is its turn: every other step while lanes also want theirs (log 5). -/
def dueEngine (s : State) (other : Bool) : Option (Event × State) :=
  match s.later with
  | [] => none
  | e :: q => if other && s.steps % 2 == 0 then none else some (e, { s with later := q })

/-- End a step that began in a state: its records are taken, or it is undone and its emitter stalls (R338, R344), and what it sends to
the outside goes over its links, whose METER LIMIT records are device-wide and stall nothing (R340, R390). -/
def closeStep (s0 : State) (e : Option Event) (o : Out) : Out :=
  match o with
  | .next s1 => .next (takePlain (meterOutputs s0 (endStep s0 e s1)))
  | o => o

/-- Perform an event, unless it waits behind a request that a home has set aside (R344). -/
def runEvent (e : Event) (s : State) : Out :=
  match heldBehind s e with
  | some fn => .next (holdBehind s fn e)
  | none => closeStep s (some e) (perform e s)

/-- A message of the queue: over links on which its function is limited it goes first, waiting there if it must (R390); otherwise it
arrives and is handled. One that was sent at time 0 is already where it is handled. -/
def runMessage (t : Nat) (e : Event) (s : State) : Out :=
  let p := eventHops s e
  let hops := if t = 0 then [] else metered s p
  if hops.isEmpty then runEvent e (arrive s t e)
  else closeStep s none (.next (enterLinks s ⟨p.1, hops, t, .event e⟩))

/-- What every step begins with: the clock moves, and what waits for tokens goes on over its links (R390). -/
def beginStep (s : State) : State := takePlain (pumpLinks (tick s))

/-- One step. -/
def step (s : State) : Host.Outcome State Fault Refusal :=
  let s0 := beginStep s
  match dueTimer s0 with
  | some (e, s1) => runEvent e s1
  | none =>
    match s0.queue with
    | (t, e) :: q => runMessage t e { s0 with queue := q }
    | [] =>
      match nextMover s0 with
      | none =>
        (match dueEngine s0 false with
        | some (e, s1) => runEvent e s1
        | none => .next s0)
      | some (lane, s1) =>
        match dueEngine s0 true with
        | some (e, s2) => runEvent e s2
        | none => closeStep s0 none (takeTurn s1 lane)

/-- Store an instruction where the next step fetches it (log 8): a resident block whose one strand holds lane 0 of core 0
with its turn, and whose buffer holds a line with that instruction in slot 0 and `nop` in every other parcel. -/
def State.withFetchWord (s : State) (nbits w : Nat) : State := placeWord s nbits w

end Sys2Proof.Machine
end

