-- ==== Sys2Proof/Safety.lean ====
section
/-!
DEFINITION. What the statements are said in: which strand executes, what a state keeps, memory read byte by byte, and the
invariants of a run. No run stops: a machine is safe when every step answers a next state.
-/
namespace Sys2Proof.Machine

/-- Strand k executes, in state st. -/
def Acts (s : State) (k : Nat) (st : Strand) : Prop := s.act = some k ∧ s.strand k = some st

/-- The byte of memory at a global address. -/
def State.byteAt (s : State) (a : Nat) : Byte := readCell s.mem a

/-- Every byte of memory reads as before. -/
def SameMemory (s t : State) : Prop := ∀ a, t.byteAt a = s.byteAt a

/-- Every other strand stands as before. -/
def OthersKept (s t : State) (k : Nat) : Prop := ∀ j, j ≠ k → t.strand j = s.strand j

/-- An outcome is a next state. -/
def Completes (o : Out) : Prop := ∃ t, o = .next t

/-- The invariant of memory: its canonical form (log 1). -/
def State.memoryOk (s : State) : Prop := Memory.wf s.mem = true

/-- No trace record waits from one step to the next (R338, R344). -/
def State.recordsTaken (s : State) : Prop := s.records = []

end Sys2Proof.Machine
end

