-- ==== Sys2Proof/Certificates/Slice0/Obligations.lean ====
section
/-!
DEFINITION. The statements: what an instruction or the machine does by the numbered rules of the spec. The host proves them.
-/
open Sys2Proof Sys2Proof.Machine


/-- R463 and R460 give MODSTAT, PWRCAP, PRESTART and TDSTAT after reset; memory reads zero (log 1: the model's choice), and both
invariants of a run hold. -/
def Obligations.ResetValues : Prop :=
  modstat State.reset = 0 ∧ State.reset.pwrCap = 6000 ∧ prestart State.reset = 2 ^ 31 ∧ tdstat State.reset = 0
  ∧ State.reset.strands = [] ∧ (∀ a, State.reset.byteAt a = 0) ∧ State.reset.memoryOk ∧ State.reset.recordsTaken

/-- R9, R13, R34, R158: a lane whose strand has its turn hands over the instruction that the line in its buffer holds at its
address, or the pair that it holds there, uniform member first, where the line's checks, the target's and those of decoding pass and
no PREEMPT is to be delivered first; and where no timer is due and no message waits, the step that gives the lane its turn is the
execution of that instruction, or of the pair, with what a step adds around it: the clock and the links before it, the lines that are
fetched ahead, the taking of records and the links that what is sent outside goes over. -/
def Obligations.StepRunsInstruction : Prop :=
  ∀ (s : State) (k lane : Nat) (st : Strand) (b : BufLine) (q : Nat × Nat) (i : Instr),
    let off := st.pc.toNat % 64
    let n := (off - 4) / 12
    let t := prepare s k st (lineBase st.pc) off (q.1 + q.2)
    heldBy s lane = some (k, st) → st.wait = .none → st.turn = true → addressOk st = true →
    bufLine st (lineBase st.pc) = some b →
    (st.arrival = .sequential ∨ st.arrival = .tret
      ∨ ((∃ a, st.arrival = .target a) ∧ b.line.getLsbD (11 + (off - 4) / 4) = true)) →
    lineFault b.line = none →
    let part (q : Nat × Nat) : Except Reject Instr := decode (bits (slotAt b.line n) (32 * q.1) (32 * q.2))
    let code (i : Instr) (q : Nat × Nat) : Except Reject Instr × Nat := (.ok i, bits (slotAt b.line n) (32 * q.1 + 58) 6)
    let turns (f : State → Out) : Prop := ∀ s0, dueTimer (beginStep s0) = none → (beginStep s0).queue = [] →
      nextMover (beginStep s0) = some (lane, s) → dueEngine (beginStep s0) true = none →
      step s0 = closeStep (beginStep s0) none (f s)
    (pairBit b.line n = false → (startsOf b.line n).1.find? (fun x => x.1 == (off - 4) % 12 / 4) = some q → part q = .ok i →
      (inChain st = true → readsLatch i = true) → (duePreempt st = true → readsLatch i = true) →
      decodeFault (contextFault s st) [code i q] = none →
      laneStep s lane = .one t i
      ∧ turns fun _ => match exec i t with
        | .next u => .next (prefetchRegion u k st.fork.phase)
        | o => o)
    ∧ ∀ (q2 : Nat × Nat) (j : Instr), pairBit b.line n = true → (off - 4) % 12 = 0 → (startsOf b.line n).1 = [q, q2] →
      part q = .ok i → part q2 = .ok j → readsLatch i = false → readsLatch j = false → inChain st = false → duePreempt st = false →
      decodeFault (contextFault s st) [code i q, code j q2] = none →
      let u := if isUniform i then i else j
      let w := if isUniform i then j else i
      let t2 := (prepare s k st (lineBase st.pc) off 3).updStrand k fun x => { x with pair := .gather }
      nxOf u = .next →
      laneStep s lane = .pair t2 u w ∧ turns fun _ => runPair k st.fork.phase u w t2

/-- R15 to R18, R35, R36: words written out by the spec decode to the instructions that they stand for. -/
def Obligations.DecodeWords : Prop :=
  decodeTableWord 32 0x00000800 = some (.nopC ⟨0, 0, 0, 0, 0, false, false⟩)
  ∧ decodeTableWord 32 0x0000080C = some (.nopC ⟨0, 3, 0, 0, 0, false, false⟩)
  ∧ decodeTableWord 32 0x440C5140 = some (.vaddC ⟨4, 0, 5, 3, 4, true, false⟩)
  ∧ decodeTableWord 96 0x000003E8002144BF02872062 = some (.vmul
      { nx := .next, nw := false, d := 7, a := ⟨.reg 2, true⟩, b := ⟨.lit 1000, false⟩, c := ⟨.special 1, false⟩, ty := .i32
        m := 0, f := 0 })
  ∧ decodeTableWord 64 0x21440602010081 = some (.add
      { nx := .next, nw := false, d := 1, a := ⟨.reg 2, false⟩, b := ⟨.reg 3, false⟩, c := ⟨.special 1, false⟩, ty := .i32
        m := 0, f := 0 })
  ∧ decodeTableWord 32 0 = none

/-- R15 to R20, R25, R32, R35, R36: decoding the bits of a well-formed instruction gives the instruction back, with every operand at
every value that the encoding admits. -/
def Obligations.DecodeEncode : Prop :=
  ∀ i : Instr, i.wf = true → i.form ≠ .event → decode (encode i) = .ok i

/-- R338, R344: every step takes the trace records that were emitted in it, or is undone: none waits for the next step. -/
def Obligations.StepTakesRecords : Prop :=
  ∀ s t : State, s.recordsTaken → step s = .next t → t.recordsTaken

/-- No step stops: from every state, whatever a lane holds or an event brings, a step of the machine answers a next state. -/
def Obligations.StepCompletes : Prop := ∀ s : State, Completes (step s)

/-- R245 to R249: trap entry writes `tpc`, `tcause`, `taddr` and `tem`, moves the deferred-region register to `tfk`, suspends an open
view but for one that an acquire in flight ends, sets em to pm and enters trap mode at `tvec`; everything else stands. In trap mode a trap is a DOUBLE FAULT, and without a
handler the block is killed with the cause. -/
def Obligations.TrapEntry : Prop :=
  ∀ (s : State) (k : Nat) (st : Strand) (cause : Nat) (tpc taddr : Word) (tem : Half), st.sill = false → cause ≠ cPoison →
    let t := enterTrap s k st cause tpc taddr tem
    (st.trapMode = false → st.tvec ≠ 0 → SameMemory s t ∧ OthersKept s t k ∧ ∃ y, t.strand k = some y
      ∧ y.tpc = tpc ∧ y.tcause.toNat = cause % 256 ∧ y.taddr = taddr ∧ y.tem = tem
      ∧ y.tfk = forkImage st.fork tpc ∧ y.fork = .empty ∧ y.viewOn = false
      ∧ (st.viewOn = true → (st.flight.any fun p => p.2.endsView) = false → y.suspended = true)
      ∧ y.em = st.pm ∧ y.trapMode = true ∧ y.pc = st.tvec ∧ y.arrival = .target st.tvec
      ∧ y.s = st.s ∧ y.sm = st.sm ∧ y.v = st.v ∧ y.lat = st.lat ∧ y.uc = st.uc ∧ y.lr = st.lr ∧ y.lc0 = st.lc0
      ∧ y.lc1 = st.lc1 ∧ y.lh0 = st.lh0 ∧ y.lh1 = st.lh1 ∧ y.fl = st.fl ∧ y.h = st.h ∧ y.pending = st.pending
      ∧ t.jobs = s.jobs ∧ t.arrayOps = s.arrayOps)
    ∧ (st.trapMode = true → st.poisonTrap = false → t = killBlock (s.setStrand k st) st.blk cDoubleFault)
    ∧ (st.trapMode = false → st.tvec = 0 → t = killBlock (s.setStrand k st) st.blk cause)

/-- R85, R86, R89, R90: how a strand that completes an instruction goes on, by the selector, outside a region; at the end of a region
it goes where the region's end leads, whether it comes there in sequence or by a formed address, since the end belongs to the bounds (the model's reading of R90,
log 25); and a target, a taken branch or LOOP, or RET that leads out of the region is an ILLEGAL FORK EXIT at the instruction, whose
effects stand. The uniform writes of a pair come first (R13). -/
def Obligations.NextAddress : Prop :=
  ∀ (s : State) (k : Nat) (st : Strand) (fl : Flags) (em0 : Half) (nx : Nx),
    let t := retire s k st nx fl em0
    (st.pair = .none → inRegion st = false → nx ≠ .endStrand → ∃ y, t.strand k = some y ∧ y.fl = st.fl ||| fl ∧ y.em = st.em
      ∧ (match nx with
        | .next => y.pc = st.seq
        | .loop => if st.lc0.toNat ≤ 1 then
            y.pc = st.seq ∧ y.lc0 = st.lc1 ∧ y.lh0 = st.lh1 ∧ y.lc1 = 0 ∧ y.lh1 = 0
          else y.pc = st.lh0 ∧ y.lc0 = st.lc0 - 1 ∧ y.lh0 = st.lh0 ∧ y.lc1 = st.lc1 ∧ y.lh1 = st.lh1
        | .ret => y.pc = st.lr
        | .endStrand => False
        | .jump o => y.pc = wrap64 (targetOf st.pc o)
        | .call o => y.pc = wrap64 (targetOf st.pc o) ∧ y.lr = st.seq
        | .brz o => y.pc = if st.em = 0 then wrap64 (targetOf st.pc o) else st.seq
        | .bru o => y.pc = if st.uc then wrap64 (targetOf st.pc o) else st.seq))
    ∧ (st.pair = .none → nx = .endStrand → ∃ y, t.strand k = some y ∧ y.ended = true ∧ y.fork = .empty ∧ y.pending = st.pending
      ∧ t.jobs = s.jobs)
    ∧ (st.pair = .none → inRegion st = true → nx = .next → (st.seq.toNat : Int) = (regionBounds st.fork).2 →
      let e := regionEnd st
      ∃ y, t.strand k = some y ∧ y.pc = wrap64 e.2 ∧ y.em = e.1.em ∧ y.fork = e.1.fork)
    ∧ (let r := selectNext { st.completed with fl := st.fl ||| fl } nx
      ∀ n d, st.pair = .none → inRegion st = true → r.2 = .goes n d → n = (regionBounds st.fork).2 →
        let e := regionEnd r.1
        ∃ y, t.strand k = some y ∧ y.pc = wrap64 e.2 ∧ y.em = e.1.em ∧ y.fork = e.1.fork)
    ∧ (let done := { st.completed with fl := st.fl ||| fl }
      ∀ n, st.pair = .none → (selectNext done nx).2 = .goes n true → leavesRegion st n = true →
        t = enterTrap s k (endChain done) cIllegalForkExit (wrap64 n) st.pc em0)
    ∧ (∀ ws, st.pair = .apply ws → t = retire s k (applyWrites st.completed ws) nx fl em0)

/-- R46, R47, R77, R104: element k of a packed result is the exact result of the elements modulo 2^w, or with SAT the nearest value of
the type; and a word of elements holds the codes that it was given. -/
def Obligations.PackedElements : Prop :=
  ∀ (t : Ty) (op : Int → Int → Int) (g : Nat → Nat) (x y : Word) (k : Nat), k < t.lanes →
    elemCode t (elements t g) k = g k % 2 ^ t.width
    ∧ ((elemCode t (packed2 t false op x y) k : Nat) : Int) = op (elemInt t x k) (elemInt t y k) % ((2 ^ t.width : Nat) : Int)
    ∧ elemInt t (packed2 t true op x y) k = max (tyLo t) (min (tyHi t) (op (elemInt t x k) (elemInt t y k)))

/-- R79: `clz`, `ctz` and `popc` write to each element the number of leading zeros, the number of trailing zeros, and the number of
ones of the matching element of src(A). -/
def Obligations.CountsOfElements : Prop :=
  ∀ (f : Fields) (s : State) (k : Nat) (st : Strand) (x : Word),
    Acts s k st → inFlight (uniformReader st) [] (uRegs f true) = false →
    uval s (uniformReader st) f.ty f.a = .ok x →
    let w := f.ty.width
    (∃ r : Word, exec (.clz f) s = .next (uniformDone s k st f.nx [.reg f.d.toNat r false])
      ∧ ∀ j, j < f.ty.lanes → let c := elemCode f.ty r j
        c ≤ w ∧ (∀ i, w ≤ i + c → i < w → (elemCode f.ty x j).testBit i = false)
        ∧ (c < w → (elemCode f.ty x j).testBit (w - 1 - c) = true))
    ∧ (∃ r : Word, exec (.ctz f) s = .next (uniformDone s k st f.nx [.reg f.d.toNat r false])
      ∧ ∀ j, j < f.ty.lanes → let c := elemCode f.ty r j
        c ≤ w ∧ (∀ i, i < c → (elemCode f.ty x j).testBit i = false)
        ∧ (c < w → (elemCode f.ty x j).testBit c = true))
    ∧ (∃ r : Word, exec (.popc f) s = .next (uniformDone s k st f.nx [.reg f.d.toNat r false])
      ∧ ∀ j, j < f.ty.lanes →
        elemCode f.ty r j = ((List.range w).filter fun i => (elemCode f.ty x j).testBit i).length)

/-- R84: `ffs` writes the bit number of the least significant 1 in src(A), or 64 if it is zero, and sets `uc` to whether it is
nonzero. -/
def Obligations.FindFirst : Prop :=
  ∀ (f : Fields) (s : State) (k : Nat) (st : Strand) (x : Word),
    Acts s k st → inFlight (uniformReader st) [] (uRegs f true) = false →
    uval s (uniformReader st) f.ty f.a = .ok x →
    ∃ n : Nat, exec (.ffs f) s = .next (uniformDone s k st f.nx [.reg f.d.toNat (BitVec.ofNat 64 n) false, .uc (x != 0)])
      ∧ (x = 0 → n = 64) ∧ (x ≠ 0 → n < 64 ∧ x.getLsbD n = true ∧ ∀ i, i < n → x.getLsbD i = false)

/-- R23, R98, R100, R168: what a vector instruction leaves: D receives the results of the active threads and keeps the others, which
read zero where D was unallocated; the latches shift, and b1 receives what D holds, or with NW the results alone; the mask destination
receives the mask; every other register stands. -/
def Obligations.VectorDestination : Prop :=
  ∀ (st : Strand) (f : Fields) (os : List Opd) (r : VOut),
    let y := vectorWrite st f os r
    (f.nw = false → ∃ v, y.vreg f.d.toNat = some v ∧ y.latch 0 = v
      ∧ ∀ t, t < 32 → (activeIn st.em t = true → v.get t = (r.val t).1 ∧ v.marked t = (r.val t).2)
        ∧ (activeIn st.em t = false → (∀ o, st.vreg f.d.toNat = some o → v.get t = o.get t ∧ v.marked t = o.marked t)
          ∧ (st.vreg f.d.toNat = none → v.get t = 0 ∧ v.marked t = false)))
    ∧ (f.nw = true → y.v = st.v ∧ ∀ t, t < 32 →
        (activeIn st.em t = true → (y.latch 0).get t = (r.val t).1 ∧ (y.latch 0).marked t = (r.val t).2)
        ∧ (activeIn st.em t = false → (y.latch 0).get t = 0 ∧ (y.latch 0).marked t = false))
    ∧ y.latch 1 = st.latch 0 ∧ y.latch 2 = st.latch 1 ∧ y.latch 3 = st.latch 2
    ∧ (∀ n, n < 64 → n ≠ f.d.toNat → y.vreg n = st.vreg n)
    ∧ (∀ m n, r.mask = some m → f.c.spec = .bcast n →
        y.sreg n.toNat = m.setWidth 64 ∧ y.smark n.toNat = false ∧ ∀ j, j < 64 → j ≠ n.toNat → y.sreg j = st.sreg j)
    ∧ (r.mask = none → y.s = st.s ∧ y.sm = st.sm)
    ∧ y.em = st.em ∧ y.uc = st.uc ∧ y.gens = r.gens ∧ y.h = st.h ∧ y.lr = st.lr ∧ y.fl = st.fl

/-- The frame of a uniform instruction, given the writes that it makes (R77 to R86, R95): a write reaches the register that it names
and no other; memory stands; and outside a region every other strand stands, and the strand's own registers hold what the writes
leave, but for what the selector writes. -/
def Obligations.UniformFrame : Prop :=
  ∀ (s : State) (k : Nat) (st : Strand) (nx : Nx) (ws : List UWrite),
    let w := applyWrites st ws
    (∀ n x mark, n < 64 → ws = [.reg n x mark] → w.sreg n = x ∧ w.smark n = mark)
    ∧ (∀ n, n < 64 → (∀ x mark, UWrite.reg n x mark ∉ ws) → w.sreg n = st.sreg n ∧ w.smark n = st.smark n)
    ∧ ((∀ m, UWrite.em m ∉ ws) → w.em = st.em) ∧ ((∀ c, UWrite.uc c ∉ ws) → w.uc = st.uc)
    ∧ ((∀ x, UWrite.lr x ∉ ws) → w.lr = st.lr) ∧ ((∀ f, UWrite.flags f ∉ ws) → w.fl = st.fl)
    ∧ ((∀ x, UWrite.rnd x ∉ ws) → w.rnd = st.rnd) ∧ ((∀ x, UWrite.seed x ∉ ws) → w.seed = st.seed ∧ w.gens = st.gens)
    ∧ ((∀ n x, UWrite.win n x ∉ ws) → w.win = st.win) ∧ ((∀ x, UWrite.tpc x ∉ ws) → w.tpc = st.tpc)
    ∧ ((∀ x, UWrite.tcause x ∉ ws) → w.tcause = st.tcause) ∧ ((∀ x, UWrite.taddr x ∉ ws) → w.taddr = st.taddr)
    ∧ ((∀ x, UWrite.tem x ∉ ws) → w.tem = st.tem) ∧ ((∀ x, UWrite.tfk x ∉ ws) → w.tfk = st.tfk)
    ∧ ((∀ c h, UWrite.push c h ∉ ws) → ((∀ x, UWrite.lc0 x ∉ ws) → w.lc0 = st.lc0) ∧ ((∀ x, UWrite.lc1 x ∉ ws) → w.lc1 = st.lc1)
      ∧ ((∀ x, UWrite.lh0 x ∉ ws) → w.lh0 = st.lh0) ∧ ((∀ x, UWrite.lh1 x ∉ ws) → w.lh1 = st.lh1))
    ∧ (s.strand k = some st → st.pair = .none →
      let t := uniformDone s k st nx ws
      SameMemory s t
      ∧ (inRegion st = false → OthersKept s t k ∧ t.blocks = s.blocks ∧ t.jobs = s.jobs ∧ t.arrayOps = s.arrayOps
        ∧ t.cores = s.cores ∧ ∃ y, t.strand k = some y
        ∧ y.s = w.s ∧ y.sm = w.sm ∧ y.em = w.em ∧ y.uc = w.uc ∧ y.fl = w.fl ∧ y.rnd = w.rnd ∧ y.seed = w.seed
        ∧ y.gens = w.gens ∧ y.win = w.win ∧ y.tpc = w.tpc ∧ y.tcause = w.tcause ∧ y.taddr = w.taddr ∧ y.tem = w.tem
        ∧ y.tfk = w.tfk ∧ y.v = (endChain st).v ∧ y.lat = st.lat ∧ y.pm = st.pm ∧ y.h = st.h
        ∧ y.trapMode = st.trapMode ∧ y.viewOn = st.viewOn
        ∧ ((∀ o, nx ≠ .call o) → y.lr = w.lr)
        ∧ (nx ≠ .loop → y.lc0 = w.lc0 ∧ y.lc1 = w.lc1 ∧ y.lh0 = w.lh0 ∧ y.lh1 = w.lh1)))

/-- The frame of a vector instruction, once its effect is given (R98 to R101): memory stands; outside a region every other strand
stands, and of its own every register but those of VectorDestination, what its selector writes, the flags that it raises, and with END
the last reads of its chain, which are freed (R165). -/
def Obligations.VectorFrame : Prop :=
  ∀ (s : State) (k : Nat) (st : Strand) (f : Fields) (os : List Opd) (r : VOut),
    s.strand k = some st → st.pair = .none →
    let t := vectorDone s k st f os r
    SameMemory s t
    ∧ (inRegion st = false → OthersKept s t k ∧ t.blocks = s.blocks ∧ t.jobs = s.jobs ∧ t.arrayOps = s.arrayOps
      ∧ t.cores = s.cores ∧ ∃ y, t.strand k = some y
      ∧ (let w := vectorWrite st f os r
        y.v = if f.nx = .endStrand then (endChain w).v else w.v) ∧ y.lat = (vectorWrite st f os r).lat
      ∧ y.s = (vectorWrite st f os r).s ∧ y.sm = (vectorWrite st f os r).sm
      ∧ y.fl = st.fl ||| r.fl ∧ y.em = st.em ∧ y.pm = st.pm ∧ y.uc = st.uc ∧ y.h = st.h
      ∧ y.tpc = st.tpc ∧ y.tcause = st.tcause ∧ y.taddr = st.taddr ∧ y.tem = st.tem ∧ y.tfk = st.tfk ∧ y.win = st.win
      ∧ y.trapMode = st.trapMode ∧ y.viewOn = st.viewOn
      ∧ ((∀ o, f.nx ≠ .call o) → y.lr = st.lr)
      ∧ (f.nx ≠ .loop → y.lc0 = st.lc0 ∧ y.lc1 = st.lc1 ∧ y.lh0 = st.lh0 ∧ y.lh1 = st.lh1))

/-- R60, R133, R136: the stores of a scratchpad store reach the bytes that its addresses give and no others: of its own block every
other byte of the scratchpad reads as before, and every other block, every strand and memory stand; where one thread stores, the
bytes at its address read as the low bytes of its data. -/
def Obligations.ScratchFrame : Prop :=
  ∀ (f : Fields) (blk : Nat) (as : List (Nat × Nat)) (data : Nat → Word × Bool) (s : State) (b : Block),
    s.blocks.find blk = some b → Memory.wf b.scratch = true →
    let t := scratchPut f blk as data s
    let n := accessSize f.ty
    SameMemory s t ∧ t.strands = s.strands ∧ (∀ j, j ≠ blk → t.block j = s.block j)
    ∧ Memory.wf (t.block blk).scratch = true
    ∧ (∀ a, (∀ p ∈ as, a < p.2 ∨ p.2 + n ≤ a) → readCell (t.block blk).scratch a = readCell b.scratch a)
    ∧ (∀ p, as = [p] → ∀ i, i < n → readCell (t.block blk).scratch (p.2 + i) = byteOf (data p.1).1.toNat i)

/-- R132, R136: the bytes of a store. An access is cut at pages, and each of its parts at lines: a part's stores reach the bytes of the
part and no others, each with the byte of the data that lies there. -/
def Obligations.StoredBytes : Prop :=
  (∀ off n : Nat, 0 < n → n ≤ 65536 →
    (∀ q ∈ pageSplit off n, q.2.1 = off + q.1 ∧ 0 < q.2.2 ∧ q.1 + q.2.2 ≤ n
      ∧ (q.2.1 + q.2.2 - 1) / 65536 = q.2.1 / 65536)
    ∧ ∀ j, j < n → ∃ q ∈ pageSplit off n, q.1 ≤ j ∧ j < q.1 + q.2.2)
  ∧ ∀ (x : Word) (p : Part),
    (∀ q ∈ storeBytes x p, ∀ b ∈ q.2, b.1 < 128 ∧ p.ga ≤ 128 * q.1 + b.1 ∧ 128 * q.1 + b.1 < p.ga + p.n
      ∧ b.2 = byteOf x.toNat (p.pos + (128 * q.1 + b.1 - p.ga)))
    ∧ ∀ j, j < p.n → ∃ q ∈ storeBytes x p, q.1 = (p.ga + j) / 128
      ∧ ((p.ga + j) % 128, byteOf x.toNat (p.pos + j)) ∈ q.2

/-- R136, R287: bytes that are merged into a line that its home holds, in a set with room for the line's state, change those bytes of
that line, the later of two bytes staying, and no byte of another line or at another home, nor of memory, of a scratchpad or, unless the
line's tag is found bad (R375), of a core. -/
def Obligations.LineWrite : Prop :=
  ∀ (s : State) (home line : Nat) (bs : List (Nat × Byte)) (mark : Bool),
    (lineWords line).all (cachePresent (s.home home).l2) = true → l2Short s home (l2Set (line / 8)) 1 = false →
    let t := homeMerge s home line bs mark
    SameMemory s t ∧ t.strands = s.strands ∧ t.blocks = s.blocks ∧ (s.badTags.contains line = false → t.cores = s.cores)
    ∧ (∀ i, i < 128 → lineByte (homeLine t home line) i =
        match bs.reverse.find? fun p => p.1 == i with
        | some p => p.2
        | none => lineByte (homeLine s home line) i)
    ∧ ∀ h l, l ≠ line ∨ h ≠ home → homeLine t h l = homeLine s h l

/-- The frame of the accesses to global memory, once they are performed (R135, R136, R142, R289): they reach memory and the homes by
messages alone, and no scratchpad; every other strand stands; and of its own every register but D, a vector access's last reads, and
for a pair the register after D. -/
def Obligations.AccessFrame : Prop :=
  ∀ (s : State) (k : Nat) (st x : Strand) (f : Fields) (vec b pair : Bool) (hint : Nat) (ps : List Part) (frees : List Nat)
    (data : Nat → Word × Bool) (op : Part → MemOp), s.strand k = some x →
    let kept (t : State) : Prop := t.mem = s.mem ∧ (∀ h, (t.home h).l2 = (s.home h).l2) ∧ t.blocks = s.blocks
      ∧ OthersKept s t k ∧ ∃ y, t.strand k = some y ∧ y.em = x.em ∧ y.pm = x.pm ∧ y.uc = x.uc ∧ y.lr = x.lr ∧ y.fl = x.fl
      ∧ y.lat = x.lat ∧ y.gens = x.gens ∧ y.h = x.h ∧ y.win = x.win ∧ y.tpc = x.tpc ∧ y.tcause = x.tcause
      ∧ y.taddr = x.taddr ∧ y.tem = x.tem ∧ y.tfk = x.tfk ∧ y.trapMode = x.trapMode
    let dst (two : Bool) (n : Nat) : Prop := n = f.d.toNat ∨ (two = true ∧ n = f.d.toNat + 1)
    let regs (t : State) (two : Bool) : Prop := ∃ y, t.strand k = some y
      ∧ (vec = true → y.s = x.s ∧ y.sm = x.sm ∧ ∀ n, ¬ dst two n → n ∉ frees → y.vreg n = x.vreg n)
      ∧ (vec = false → frees = [] →
        y.v = x.v ∧ ∀ n, n < 64 → ¬ dst two n → y.sreg n = x.sreg n ∧ y.smark n = x.smark n)
    (let t := ((performLoad k st f vec b ps frees).run s).2
     kept t ∧ regs t false)
    ∧ (let t := ((performAtomic k st f vec b pair ps frees op).run s).2
       kept t ∧ regs t pair)
    ∧ (let t := ((performStore k st hint b ps data).run s).2
       kept t ∧ ∃ y, t.strand k = some y ∧ y.s = x.s ∧ y.sm = x.sm ∧ y.v = x.v)

/-- The frame of an instruction that completes, once its own effect on the state and on its strand is given (R85, R165): memory stands;
outside a region every other strand, the blocks, the jobs, the array and row operations, the BSUs and the cores stand, and of its own
strand every register as that effect left it, but for what its selector writes, and the last reads that are freed. -/
def Obligations.CompletionFrame : Prop :=
  ∀ (s : State) (k : Nat) (st st0 : Strand) (nx : Nx) (g : Strand → Strand),
    s.strand k = some st → (g st).pair = .none →
    let x := g st
    let t := memRetire k nx st0 g s
    SameMemory s t
    ∧ (inRegion x = false → OthersKept s t k ∧ t.blocks = s.blocks ∧ t.jobs = s.jobs ∧ t.arrayOps = s.arrayOps
      ∧ t.rowOps = s.rowOps ∧ t.bsus = s.bsus ∧ t.cores = s.cores ∧ ∃ y, t.strand k = some y
      ∧ y.s = x.s ∧ y.sm = x.sm ∧ (let w := memLast (st0.chainPos != 0) x
        y.v = if nx = .endStrand then (endChain w).v else w.v) ∧ y.lat = x.lat ∧ y.em = x.em ∧ y.pm = x.pm ∧ y.uc = x.uc ∧ y.fl = x.fl
      ∧ y.h = x.h ∧ y.rnd = x.rnd ∧ y.seed = x.seed ∧ y.gens = x.gens ∧ y.win = x.win ∧ y.tpc = x.tpc ∧ y.tcause = x.tcause
      ∧ y.taddr = x.taddr ∧ y.tem = x.tem ∧ y.tfk = x.tfk ∧ y.trapMode = x.trapMode ∧ y.viewOn = x.viewOn ∧ y.bnd = x.bnd
      ∧ ((∀ o, nx ≠ .call o) → y.lr = x.lr)
      ∧ (nx ≠ .loop → y.lc0 = x.lc0 ∧ y.lc1 = x.lc1 ∧ y.lh0 = x.lh0 ∧ y.lh1 = x.lh1))

/-- R77, R78, R82: `add`, `sub`, `mul`, `mulh`, `div`, `rem`, `min`, `max`, the bitwise instructions, the shifts, the rotate and `bfx`,
and their compact forms (R35), complete when their registers are not in flight and their sources are readable: D takes the packed result, and the strand goes on
by its selector, or hands the write to the co-issue pair (R13). -/
def Obligations.UniformArithmetic : Prop :=
  ∀ (f : Fields) (s : State) (k : Nat) (st : Strand) (x y : Word),
    Acts s k st → inFlight (uniformReader st) [] (uRegs f true) = false →
    uval s (uniformReader st) f.ty f.a = .ok x →
    uval s (uniformReader st) f.ty f.b = .ok y →
    exec (.add f) s = .next (uniformDone s k st f.nx [.reg f.d.toNat (packed2 f.ty (f.fBit 0) (· + ·) x y) false])
    ∧ (∀ c : CFields, f = c.expand 18 → exec (.addC c) s = .next (uniformDone s k st f.nx [.reg f.d.toNat (packed2 f.ty (f.fBit 0) (· + ·) x y) false]))
    ∧ exec (.sub f) s = .next (uniformDone s k st f.nx [.reg f.d.toNat (packed2 f.ty (f.fBit 0) (· - ·) x y) false])
    ∧ (∀ c : CFields, f = c.expand 19 → exec (.subC c) s = .next (uniformDone s k st f.nx [.reg f.d.toNat (packed2 f.ty (f.fBit 0) (· - ·) x y) false]))
    ∧ exec (.mul f) s = .next (uniformDone s k st f.nx [.reg f.d.toNat (packed2 f.ty (f.fBit 0) (· * ·) x y) false])
    ∧ (∀ c : CFields, f = c.expand 20 → exec (.mulC c) s = .next (uniformDone s k st f.nx [.reg f.d.toNat (packed2 f.ty (f.fBit 0) (· * ·) x y) false]))
    ∧ exec (.mulh f) s = .next (uniformDone s k st f.nx [.reg f.d.toNat (packed2 f.ty false (mulHigh f.ty) x y) false])
    ∧ (∀ c : CFields, f = c.expand 31 → exec (.mulhC c) s = .next (uniformDone s k st f.nx [.reg f.d.toNat (packed2 f.ty false (mulHigh f.ty) x y) false]))
    ∧ exec (.div f) s = .next (uniformDone s k st f.nx [.reg f.d.toNat (packed2 f.ty (f.fBit 0) (divElem f.ty) x y) false])
    ∧ exec (.rem f) s = .next (uniformDone s k st f.nx [.reg f.d.toNat (packed2 f.ty false remElem x y) false])
    ∧ exec (.min f) s = .next (uniformDone s k st f.nx [.reg f.d.toNat (packed2 f.ty false minInt x y) false])
    ∧ (∀ c : CFields, f = c.expand 28 → exec (.minC c) s = .next (uniformDone s k st f.nx [.reg f.d.toNat (packed2 f.ty false minInt x y) false]))
    ∧ exec (.max f) s = .next (uniformDone s k st f.nx [.reg f.d.toNat (packed2 f.ty false maxInt x y) false])
    ∧ (∀ c : CFields, f = c.expand 29 → exec (.maxC c) s = .next (uniformDone s k st f.nx [.reg f.d.toNat (packed2 f.ty false maxInt x y) false]))
    ∧ exec (.and f) s = .next (uniformDone s k st f.nx [.reg f.d.toNat (x &&& y) false])
    ∧ (∀ c : CFields, f = c.expand 21 → exec (.andC c) s = .next (uniformDone s k st f.nx [.reg f.d.toNat (x &&& y) false]))
    ∧ exec (.or f) s = .next (uniformDone s k st f.nx [.reg f.d.toNat (x ||| y) false])
    ∧ (∀ c : CFields, f = c.expand 22 → exec (.orC c) s = .next (uniformDone s k st f.nx [.reg f.d.toNat (x ||| y) false]))
    ∧ exec (.xor f) s = .next (uniformDone s k st f.nx [.reg f.d.toNat (x ^^^ y) false])
    ∧ (∀ c : CFields, f = c.expand 23 → exec (.xorC c) s = .next (uniformDone s k st f.nx [.reg f.d.toNat (x ^^^ y) false]))
    ∧ exec (.andn f) s = .next (uniformDone s k st f.nx [.reg f.d.toNat (x &&& ~~~y) false])
    ∧ (∀ c : CFields, f = c.expand 24 → exec (.andnC c) s = .next (uniformDone s k st f.nx [.reg f.d.toNat (x &&& ~~~y) false]))
    ∧ exec (.shl f) s = .next (uniformDone s k st f.nx [.reg f.d.toNat (packedCode f.ty (shlElem f.ty) x y) false])
    ∧ (∀ c : CFields, f = c.expand 25 → exec (.shlC c) s = .next (uniformDone s k st f.nx [.reg f.d.toNat (packedCode f.ty (shlElem f.ty) x y) false]))
    ∧ exec (.shr f) s = .next (uniformDone s k st f.nx [.reg f.d.toNat (packedCode f.ty (shrElem f.ty) x y) false])
    ∧ (∀ c : CFields, f = c.expand 26 → exec (.shrC c) s = .next (uniformDone s k st f.nx [.reg f.d.toNat (packedCode f.ty (shrElem f.ty) x y) false]))
    ∧ exec (.sar f) s = .next (uniformDone s k st f.nx [.reg f.d.toNat (packedCode f.ty (sarElem f.ty) x y) false])
    ∧ (∀ c : CFields, f = c.expand 27 → exec (.sarC c) s = .next (uniformDone s k st f.nx [.reg f.d.toNat (packedCode f.ty (sarElem f.ty) x y) false]))
    ∧ exec (.rot f) s = .next (uniformDone s k st f.nx [.reg f.d.toNat (packedCode f.ty (rotElem f.ty) x y) false])
    ∧ (∀ c : CFields, f = c.expand 30 → exec (.rotC c) s = .next (uniformDone s k st f.nx [.reg f.d.toNat (packedCode f.ty (rotElem f.ty) x y) false]))
    ∧ exec (.bfx f) s = .next (uniformDone s k st f.nx [.reg f.d.toNat (bfxWord f.ty x y) false])

/-- R72, R75, R76, R96: `nop` only goes on, and `yield` also gives up the turn at the lane; `mov` copies the source with its mark;
`movl` and `movh` replace one half of D. -/
def Obligations.UniformMoves : Prop :=
  ∀ (f : Fields) (s : State) (k : Nat) (st : Strand), Acts s k st →
    exec (.nop f) s = .next (uniformDone s k st f.nx [])
    ∧ (∀ c : CFields, f = c.expand 16 → exec (.nopC c) s = .next (uniformDone s k st f.nx []))
    ∧ exec (.yield f) s = .next (uniformDone s k st f.nx [.yieldTurn])
    ∧ ∀ (x : Word) (mark : Bool),
      inFlight (uniformReader st) [] (uRegs f true) = false → uread s (uniformReader st) f.ty f.a = .ok (x, mark) →
      exec (.mov f) s = .next (uniformDone s k st f.nx [.reg f.d.toNat x mark])
      ∧ (∀ c : CFields, f = c.expand 17 → exec (.movC c) s = .next (uniformDone s k st f.nx [.reg f.d.toNat x mark]))
      ∧ exec (.movl f) s = .next (uniformDone s k st f.nx
          [.reg f.d.toNat ((st.sreg f.d.toNat &&& 0xFFFFFFFF00000000#64) ||| (x &&& 0xFFFFFFFF#64))
            (st.smark f.d.toNat || mark)])
      ∧ exec (.movh f) s = .next (uniformDone s k st f.nx
          [.reg f.d.toNat ((st.sreg f.d.toNat &&& 0xFFFFFFFF#64) ||| ((x &&& 0xFFFFFFFF#64) <<< 32))
            (st.smark f.d.toNat || mark)])

/-- R80 to R82: `sel`, `cmp` and `bfi`. -/
def Obligations.UniformSelect : Prop :=
  ∀ (f : Fields) (s : State) (k : Nat) (st : Strand) (x y z : Word) (p q : Bool),
    Acts s k st → inFlight (uniformReader st) [] (uRegs f true) = false →
    uread s (uniformReader st) f.ty f.a = .ok (x, p) → uread s (uniformReader st) f.ty f.b = .ok (y, q) →
    uval s (uniformReader st) f.ty f.c = .ok z →
    exec (.sel f) s = .next (uniformDone s k st f.nx [.reg f.d.toNat (selWord f.ty f.m.toNat x y z)
      (((upto f.ty.lanes).any (fun j => condInt f.m.toNat (elemInt f.ty z j) 0) && p)
        || ((upto f.ty.lanes).any (fun j => !condInt f.m.toNat (elemInt f.ty z j) 0) && q))])
    ∧ (p = false → q = false →
      exec (.cmp f) s = .next (uniformDone s k st f.nx
        [.reg f.d.toNat (maskElements f.ty fun j => condInt f.m.toNat (elemInt f.ty x j) (elemInt f.ty y j)) false
        , .uc (condInt f.m.toNat (elemInt f.ty x 0) (elemInt f.ty y 0))])
      ∧ exec (.bfi f) s = .next (uniformDone s k st f.nx [.reg f.d.toNat (bfiWord x y z) false]))

/-- R83, R86 to R88, R92 to R95: the mask instructions read and write em, within pm where the entry says so; `loop` pushes a level whose
head is the next address; `getid`, `time` and `cget` read; `cset` makes the write that its register defines.
`fork` forms its two masks from em, and starts the region that it is to start; with the register occupied it only goes on. -/
def Obligations.UniformMasksAndControl : Prop :=
  (∀ (f : Fields) (s : State) (k : Nat) (st : Strand) (x : Word),
    Acts s k st → inFlight (uniformReader st) [] (uRegs f false) = false → uval s (uniformReader st) f.ty f.a = .ok x →
    (inFlight (uniformReader st) [] (uRegs f true) = false →
      exec (.emget f) s = .next (uniformDone s k st f.nx [.reg f.d.toNat (st.em.setWidth 64) false]))
    ∧ exec (.emset f) s = .next (uniformDone s k st f.nx [.em (x.setWidth 32 &&& st.pm)])
    ∧ exec (.emand f) s = .next (uniformDone s k st f.nx [.em (st.em &&& x.setWidth 32)])
    ∧ exec (.emandn f) s = .next (uniformDone s k st f.nx [.em (st.em &&& ~~~(x.setWidth 32))])
    ∧ exec (.emor f) s = .next (uniformDone s k st f.nx [.em ((st.em ||| x.setWidth 32) &&& st.pm)])
    ∧ exec (.loop f) s = .next (uniformDone s k st f.nx [.push (x.setWidth 32) st.seq])
    ∧ (x.toNat < 16 → inFlight (uniformReader st) [] (uRegs f true) = false → exec (.getid f) s = .next (uniformDone s k st f.nx
        [.reg f.d.toNat (BitVec.ofNat 64 (getidValue s (uniformReader st) x.toNat)) false]))
    ∧ (inFlight (uniformReader st) [] (uRegs f true) = false →
      exec (.time f) s = .next (uniformDone s k st f.nx [.reg f.d.toNat (BitVec.ofNat 64 s.datum) false]))
    ∧ (inFlight (uniformReader st) [] (uRegs f true) = false → exec (.cget f) s = .next (uniformDone s k st f.nx
        [.reg f.d.toNat (cregValue s (uniformReader st) f.f.toNat) false]))
    ∧ (contextFault s (endChain st) 0x026 f.f.toNat = false → ∀ ws, cregWrite (uniformReader st) f.f.toNat x = .ok ws →
      exec (.cset f) s = .next (uniformDone s k st f.nx ws)))
  ∧ (∀ (f : ForkFields) (s : State) (k : Nat) (st : Strand) (xa xb : Word),
    Acts s k st → inFlight (endChain st) [] [f.a.toNat, f.b.toNat] = false →
    uval s (endChain st) .i8 ⟨.reg f.a, false⟩ = .ok xa → uval s (endChain st) .i8 ⟨.reg f.b, false⟩ = .ok xb →
    exec (.fork f) s = .next
      (if st.fork.phase != .none then retire s k (endChain st) .next 0 st.em
       else retireTo s k (forkStep f (endChain st) xa xb).1 (forkStep f (endChain st) xa xb).2 st.em
         ((endChain st).saveNext st.em)))

/-- R104, R82: the packed integer instructions of two sources complete when their registers are ready: D takes, in each active
thread, the function of the two operands there. -/
def Obligations.VectorTwoSource : Prop :=
  ∀ (f : Fields) (s : State) (k : Nat) (st0 : Strand), Acts s k st0 →
    vectorReady s (vectorStart st0 [f.a, f.b]) f [f.a, f.b] (noMarks [f.a, f.b]) = .ok () →
    exec (.vadd f) s = .next (vectorDone s k (vectorStart st0 [f.a, f.b]) f [f.a, f.b] (threadOut f (fun x y _ => packed2 f.ty (f.fBit 0) (· + ·) x y) (vectorStart st0 [f.a, f.b])))
    ∧ (∀ c : CFields, f = c.expand 2 → exec (.vaddC c) s = .next (vectorDone s k (vectorStart st0 [f.a, f.b]) f [f.a, f.b] (threadOut f (fun x y _ => packed2 f.ty (f.fBit 0) (· + ·) x y) (vectorStart st0 [f.a, f.b]))))
    ∧ exec (.vsub f) s = .next (vectorDone s k (vectorStart st0 [f.a, f.b]) f [f.a, f.b] (threadOut f (fun x y _ => packed2 f.ty (f.fBit 0) (· - ·) x y) (vectorStart st0 [f.a, f.b])))
    ∧ (∀ c : CFields, f = c.expand 3 → exec (.vsubC c) s = .next (vectorDone s k (vectorStart st0 [f.a, f.b]) f [f.a, f.b] (threadOut f (fun x y _ => packed2 f.ty (f.fBit 0) (· - ·) x y) (vectorStart st0 [f.a, f.b]))))
    ∧ exec (.vmul f) s = .next (vectorDone s k (vectorStart st0 [f.a, f.b]) f [f.a, f.b] (threadOut f (fun x y _ => packed2 f.ty (f.fBit 0) (· * ·) x y) (vectorStart st0 [f.a, f.b])))
    ∧ (∀ c : CFields, f = c.expand 4 → exec (.vmulC c) s = .next (vectorDone s k (vectorStart st0 [f.a, f.b]) f [f.a, f.b] (threadOut f (fun x y _ => packed2 f.ty (f.fBit 0) (· * ·) x y) (vectorStart st0 [f.a, f.b]))))
    ∧ exec (.vmulh f) s = .next (vectorDone s k (vectorStart st0 [f.a, f.b]) f [f.a, f.b] (threadOut f (fun x y _ => packed2 f.ty false (mulHigh f.ty) x y) (vectorStart st0 [f.a, f.b])))
    ∧ exec (.vdiv f) s = .next (vectorDone s k (vectorStart st0 [f.a, f.b]) f [f.a, f.b] (threadOut f (fun x y _ => packed2 f.ty (f.fBit 0) (divElem f.ty) x y) (vectorStart st0 [f.a, f.b])))
    ∧ exec (.vrem f) s = .next (vectorDone s k (vectorStart st0 [f.a, f.b]) f [f.a, f.b] (threadOut f (fun x y _ => packed2 f.ty false remElem x y) (vectorStart st0 [f.a, f.b])))
    ∧ exec (.vmin f) s = .next (vectorDone s k (vectorStart st0 [f.a, f.b]) f [f.a, f.b] (threadOut f (fun x y _ => packed2 f.ty false minInt x y) (vectorStart st0 [f.a, f.b])))
    ∧ (∀ c : CFields, f = c.expand 5 → exec (.vminC c) s = .next (vectorDone s k (vectorStart st0 [f.a, f.b]) f [f.a, f.b] (threadOut f (fun x y _ => packed2 f.ty false minInt x y) (vectorStart st0 [f.a, f.b]))))
    ∧ exec (.vmax f) s = .next (vectorDone s k (vectorStart st0 [f.a, f.b]) f [f.a, f.b] (threadOut f (fun x y _ => packed2 f.ty false maxInt x y) (vectorStart st0 [f.a, f.b])))
    ∧ (∀ c : CFields, f = c.expand 6 → exec (.vmaxC c) s = .next (vectorDone s k (vectorStart st0 [f.a, f.b]) f [f.a, f.b] (threadOut f (fun x y _ => packed2 f.ty false maxInt x y) (vectorStart st0 [f.a, f.b]))))
    ∧ exec (.vavg f) s = .next (vectorDone s k (vectorStart st0 [f.a, f.b]) f [f.a, f.b] (threadOut f (fun x y _ => packed2 f.ty false (fun p q => (p + q + (if f.fBit 1 then 0 else 1)) / 2) x y) (vectorStart st0 [f.a, f.b])))
    ∧ exec (.vand f) s = .next (vectorDone s k (vectorStart st0 [f.a, f.b]) f [f.a, f.b] (threadOut f (fun x y _ => x &&& y) (vectorStart st0 [f.a, f.b])))
    ∧ (∀ c : CFields, f = c.expand 7 → exec (.vandC c) s = .next (vectorDone s k (vectorStart st0 [f.a, f.b]) f [f.a, f.b] (threadOut f (fun x y _ => x &&& y) (vectorStart st0 [f.a, f.b]))))
    ∧ exec (.vor f) s = .next (vectorDone s k (vectorStart st0 [f.a, f.b]) f [f.a, f.b] (threadOut f (fun x y _ => x ||| y) (vectorStart st0 [f.a, f.b])))
    ∧ (∀ c : CFields, f = c.expand 8 → exec (.vorC c) s = .next (vectorDone s k (vectorStart st0 [f.a, f.b]) f [f.a, f.b] (threadOut f (fun x y _ => x ||| y) (vectorStart st0 [f.a, f.b]))))
    ∧ exec (.vxor f) s = .next (vectorDone s k (vectorStart st0 [f.a, f.b]) f [f.a, f.b] (threadOut f (fun x y _ => x ^^^ y) (vectorStart st0 [f.a, f.b])))
    ∧ (∀ c : CFields, f = c.expand 9 → exec (.vxorC c) s = .next (vectorDone s k (vectorStart st0 [f.a, f.b]) f [f.a, f.b] (threadOut f (fun x y _ => x ^^^ y) (vectorStart st0 [f.a, f.b]))))
    ∧ exec (.vandn f) s = .next (vectorDone s k (vectorStart st0 [f.a, f.b]) f [f.a, f.b] (threadOut f (fun x y _ => x &&& ~~~y) (vectorStart st0 [f.a, f.b])))
    ∧ exec (.vshl f) s = .next (vectorDone s k (vectorStart st0 [f.a, f.b]) f [f.a, f.b] (threadOut f (fun x y _ => packedCode f.ty (shlElem f.ty) x y) (vectorStart st0 [f.a, f.b])))
    ∧ (∀ c : CFields, f = c.expand 10 → exec (.vshlC c) s = .next (vectorDone s k (vectorStart st0 [f.a, f.b]) f [f.a, f.b] (threadOut f (fun x y _ => packedCode f.ty (shlElem f.ty) x y) (vectorStart st0 [f.a, f.b]))))
    ∧ exec (.vshr f) s = .next (vectorDone s k (vectorStart st0 [f.a, f.b]) f [f.a, f.b] (threadOut f (fun x y _ => packedCode f.ty (shrElem f.ty) x y) (vectorStart st0 [f.a, f.b])))
    ∧ (∀ c : CFields, f = c.expand 11 → exec (.vshrC c) s = .next (vectorDone s k (vectorStart st0 [f.a, f.b]) f [f.a, f.b] (threadOut f (fun x y _ => packedCode f.ty (shrElem f.ty) x y) (vectorStart st0 [f.a, f.b]))))
    ∧ exec (.vsar f) s = .next (vectorDone s k (vectorStart st0 [f.a, f.b]) f [f.a, f.b] (threadOut f (fun x y _ => packedCode f.ty (sarElem f.ty) x y) (vectorStart st0 [f.a, f.b])))
    ∧ (∀ c : CFields, f = c.expand 12 → exec (.vsarC c) s = .next (vectorDone s k (vectorStart st0 [f.a, f.b]) f [f.a, f.b] (threadOut f (fun x y _ => packedCode f.ty (sarElem f.ty) x y) (vectorStart st0 [f.a, f.b]))))
    ∧ exec (.vrot f) s = .next (vectorDone s k (vectorStart st0 [f.a, f.b]) f [f.a, f.b] (threadOut f (fun x y _ => packedCode f.ty (rotElem f.ty) x y) (vectorStart st0 [f.a, f.b])))
    ∧ exec (.vbfx f) s = .next (vectorDone s k (vectorStart st0 [f.a, f.b]) f [f.a, f.b] (threadOut f (fun x y _ => bfxWord f.ty x y) (vectorStart st0 [f.a, f.b])))
    ∧ exec (.vpack f) s = .next (vectorDone s k (vectorStart st0 [f.a, f.b]) f [f.a, f.b] (threadOut f (fun x y _ => packWord f x y) (vectorStart st0 [f.a, f.b])))

/-- R82, R104, R105, R112, R121: `vabs`, `vneg`, the counts and `vunpack`, of one source; `vmad`, `vbfi` and `vperm`, of three. -/
def Obligations.VectorOneAndThreeSource : Prop :=
  ∀ (f : Fields) (s : State) (k : Nat) (st0 : Strand), Acts s k st0 →
    (vectorReady s (vectorStart st0 [f.a]) f [f.a] (noMarks [f.a]) = .ok () →
      exec (.vabs f) s = .next (vectorDone s k (vectorStart st0 [f.a]) f [f.a] (threadOut f (fun x _ _ => absWord f x) (vectorStart st0 [f.a])))
      ∧ exec (.vneg f) s = .next (vectorDone s k (vectorStart st0 [f.a]) f [f.a] (threadOut f (fun x _ _ => negWord f x) (vectorStart st0 [f.a])))
      ∧ exec (.vclz f) s = .next (vectorDone s k (vectorStart st0 [f.a]) f [f.a] (threadOut f (fun x _ _ => elements f.ty fun j => clz f.ty.width (elemCode f.ty x j)) (vectorStart st0 [f.a])))
      ∧ exec (.vpopc f) s = .next (vectorDone s k (vectorStart st0 [f.a]) f [f.a] (threadOut f (fun x _ _ => elements f.ty fun j => popcount f.ty.width (elemCode f.ty x j)) (vectorStart st0 [f.a])))
      ∧ exec (.vunpack f) s = .next (vectorDone s k (vectorStart st0 [f.a]) f [f.a] (threadOut f (fun x _ _ => unpackWord f x) (vectorStart st0 [f.a]))))
    ∧ (vectorReady s (vectorStart st0 [f.a, f.b, f.c]) f [f.a, f.b, f.c] (noMarks [f.a, f.b, f.c]) = .ok () →
      exec (.vmad f) s = .next (vectorDone s k (vectorStart st0 [f.a, f.b, f.c]) f [f.a, f.b, f.c] (threadOut f (fun x y z => madWord f x y z) (vectorStart st0 [f.a, f.b, f.c])))
      ∧ exec (.vbfi f) s = .next (vectorDone s k (vectorStart st0 [f.a, f.b, f.c]) f [f.a, f.b, f.c] (threadOut f (fun x y z => bfiWord x y z) (vectorStart st0 [f.a, f.b, f.c])))
      ∧ exec (.vperm f) s = .next (vectorDone s k (vectorStart st0 [f.a, f.b, f.c]) f [f.a, f.b, f.c] (threadOut f (fun x y z => permWord x y z) (vectorStart st0 [f.a, f.b, f.c]))))

/-- R113, R114, R116: `vfadd`, `vfsub`, `vfmul` and `vfdiv` round the exact result of each element, and
their compact forms (R35); `vfscl` scales, `vfmin` and `vfmax` choose.
R115: `vfrcp`, `vfrsq`, `vfsqrt`, `vfexp2` and `vflog2` round their functions of each element; `vcvt` converts the part of its source
that B names (R109, R110). -/
def Obligations.FloatArithmetic : Prop :=
  ∀ (f : Fields) (s : State) (k : Nat) (st0 : Strand), Acts s k st0 →
    (vectorReady s (vectorStart st0 [f.a, f.b]) f [f.a, f.b] (withMarks [f.a, f.b] noCheck) = .ok () →
      exec (.vfadd f) s = .next (vectorDone s k (vectorStart st0 [f.a, f.b]) f [f.a, f.b] (lanesOut (floatLane f (fun dn x y _ => Val.add dn x y)) s (vectorStart st0 [f.a, f.b])))
      ∧ (∀ c : CFields, f = c.expand 13 → exec (.vfaddC c) s = .next (vectorDone s k (vectorStart st0 [f.a, f.b]) f [f.a, f.b] (lanesOut (floatLane f (fun dn x y _ => Val.add dn x y)) s (vectorStart st0 [f.a, f.b]))))
      ∧ exec (.vfsub f) s = .next (vectorDone s k (vectorStart st0 [f.a, f.b]) f [f.a, f.b] (lanesOut (floatLane f (fun dn x y _ => Val.add dn x y.negate)) s (vectorStart st0 [f.a, f.b])))
      ∧ (∀ c : CFields, f = c.expand 14 → exec (.vfsubC c) s = .next (vectorDone s k (vectorStart st0 [f.a, f.b]) f [f.a, f.b] (lanesOut (floatLane f (fun dn x y _ => Val.add dn x y.negate)) s (vectorStart st0 [f.a, f.b]))))
      ∧ exec (.vfmul f) s = .next (vectorDone s k (vectorStart st0 [f.a, f.b]) f [f.a, f.b] (lanesOut (floatLane f (fun _ x y _ => Val.mul x y)) s (vectorStart st0 [f.a, f.b])))
      ∧ (∀ c : CFields, f = c.expand 15 → exec (.vfmulC c) s = .next (vectorDone s k (vectorStart st0 [f.a, f.b]) f [f.a, f.b] (lanesOut (floatLane f (fun _ x y _ => Val.mul x y)) s (vectorStart st0 [f.a, f.b]))))
      ∧ exec (.vfdiv f) s = .next (vectorDone s k (vectorStart st0 [f.a, f.b]) f [f.a, f.b] (lanesOut (floatLane f (fun _ x y _ => Val.div x y)) s (vectorStart st0 [f.a, f.b])))
      ∧ exec (.vfscl f) s = .next (vectorDone s k (vectorStart st0 [f.a, f.b]) f [f.a, f.b] (lanesOut (scaleLane f) s (vectorStart st0 [f.a, f.b])))
      ∧ exec (.vfmin f) s = .next (vectorDone s k (vectorStart st0 [f.a, f.b]) f [f.a, f.b] (lanesOut (minMaxLane f true) s (vectorStart st0 [f.a, f.b])))
      ∧ exec (.vfmax f) s = .next (vectorDone s k (vectorStart st0 [f.a, f.b]) f [f.a, f.b] (lanesOut (minMaxLane f false) s (vectorStart st0 [f.a, f.b]))))
    ∧ (vectorReady s (vectorStart st0 [f.a]) f [f.a] (withMarks [f.a] noCheck) = .ok () →
      exec (.vfrcp f) s = .next (vectorDone s k (vectorStart st0 [f.a]) f [f.a] (lanesOut (floatLane f (fun _ x _ _ => Val.rcp x)) s (vectorStart st0 [f.a])))
      ∧ exec (.vfrsq f) s = .next (vectorDone s k (vectorStart st0 [f.a]) f [f.a] (lanesOut (floatLane f (fun _ x _ _ => Val.rsqrt x)) s (vectorStart st0 [f.a])))
      ∧ exec (.vfsqrt f) s = .next (vectorDone s k (vectorStart st0 [f.a]) f [f.a] (lanesOut (floatLane f (fun _ x _ _ => Val.sqrt x)) s (vectorStart st0 [f.a])))
      ∧ exec (.vfexp2 f) s = .next (vectorDone s k (vectorStart st0 [f.a]) f [f.a] (lanesOut (floatLane f (fun _ x _ _ => Val.exp2 x)) s (vectorStart st0 [f.a])))
      ∧ exec (.vflog2 f) s = .next (vectorDone s k (vectorStart st0 [f.a]) f [f.a] (lanesOut (floatLane f (fun _ x _ _ => Val.log2 x)) s (vectorStart st0 [f.a])))
      ∧ exec (.vcvt f) s = .next (vectorDone s k (vectorStart st0 [f.a]) f [f.a] (lanesOut (cvtLane f) s (vectorStart st0 [f.a]))))

/-- R106, R107, R108: the compares write element masks and their mask destination; `vsel` selects; `vmov` copies values and marks. -/
def Obligations.VectorCompare : Prop :=
  ∀ (f : Fields) (s : State) (k : Nat) (st0 : Strand), Acts s k st0 →
    (vectorReady s (vectorStart st0 [f.a, f.b]) f [f.a, f.b] (noMarks [f.a, f.b]) = .ok () →
      exec (.vcmp f) s = .next (vectorDone s k (vectorStart st0 [f.a, f.b]) f [f.a, f.b]
        (compareOut f (fun x y j => condInt f.m.toNat (elemInt f.ty x j) (elemInt f.ty y j)) (fun _ _ => 0)
          (vectorStart st0 [f.a, f.b])))
      ∧ exec (.vfcmp f) s = .next (vectorDone s k (vectorStart st0 [f.a, f.b]) f [f.a, f.b]
        (compareOut f (fun x y j => condVal f.m.toNat (floatElem f.ty x j) (floatElem f.ty y j))
          (fun x y => (upto f.ty.lanes).foldl (fun a j =>
            a ||| condFlags f.m.toNat (floatElem f.ty x j) (floatElem f.ty y j)) 0)
          (vectorStart st0 [f.a, f.b]))))
    ∧ (vectorReady s (vectorStart st0 [f.a, f.b, f.c]) f [f.a, f.b, f.c]
        (fun _ st => checkMarks st [f.c] (activeList st.em)) = .ok () →
      exec (.vsel f) s = .next (vectorDone s k (vectorStart st0 [f.a, f.b, f.c]) f [f.a, f.b, f.c]
        (selOut f (vectorStart st0 [f.a, f.b, f.c]))))
    ∧ (vectorReady s (vectorStart st0 [f.a]) f [f.a] (fun _ _ => .ok ()) = .ok () →
      exec (.vmov f) s = .next (vectorDone s k (vectorStart st0 [f.a]) f [f.a]
        (VOut.plain (vectorStart st0 [f.a]) fun t => vread (vectorStart st0 [f.a]) f.ty 0 f.a t))
      ∧ ∀ c : CFields, f = c.expand 1 →
        exec (.vmovC c) s = .next (vectorDone s k (vectorStart st0 [f.a]) f [f.a]
          (VOut.plain (vectorStart st0 [f.a]) fun t => vread (vectorStart st0 [f.a]) f.ty 0 f.a t)))

/-- R111, R117 to R119, R128, R129: `vfcvt`, `vfma`, `vftbl`, `vexpr`, `vqnt` and `vdqnt`, each with the checks of its entry. -/
def Obligations.FloatOthers : Prop :=
  ∀ (f : Fields) (s : State) (k : Nat) (st0 : Strand), Acts s k st0 →
    (vectorReady s (vectorStart st0 [f.a]) f [f.a] (withMarks [f.a] (fcvtCheck f)) = .ok () →
      exec (.vfcvt f) s = .next (vectorDone s k (vectorStart st0 [f.a]) f [f.a]
        (lanesOut (fcvtLane f) s (vectorStart st0 [f.a]))))
    ∧ (vectorReady s (vectorStart st0 [f.a, f.b, f.c]) f [f.a, f.b, f.c] (withMarks [f.a, f.b, f.c] noCheck) = .ok () →
      exec (.vfma f) s = .next (vectorDone s k (vectorStart st0 [f.a, f.b, f.c]) f [f.a, f.b, f.c]
        (lanesOut (floatLane f Val.fma) s (vectorStart st0 [f.a, f.b, f.c]))))
    ∧ (contextFault s (vectorStart st0 [f.a, f.b, f.c]) 0x12D 0 = false →
      vectorReady s (vectorStart st0 [f.a, f.b, f.c]) f [f.a, f.b, f.c] (withMarks [f.a, f.b, f.c] noCheck) = .ok () →
      exec (.vftbl f) s = .next (vectorDone s k (vectorStart st0 [f.a, f.b, f.c]) f [f.a, f.b, f.c]
        (lanesOut (ftblLane f) s (vectorStart st0 [f.a, f.b, f.c]))))
    ∧ (∀ toks : BitVec 32,
      vectorReady s (vectorStart st0 [f.a, f.b, f.c]) f [f.a, f.b, f.c] (withMarks [f.a, f.b, f.c] noCheck) = .ok () →
      exec (.vexpr ⟨f, toks⟩) s = .next (vectorDone s k (vectorStart st0 [f.a, f.b, f.c]) f [f.a, f.b, f.c]
        (lanesOut (fun _ st t => exprThread ⟨f, toks⟩ st t) s (vectorStart st0 [f.a, f.b, f.c]))))
    ∧ (vectorReady s (vectorStart st0 [f.a]) f [f.a] (withMarks [f.a] fun s st => checkFormat s st (f.f.toNat / 4)) = .ok () →
      exec (.vqnt f) s = .next (vectorDone s k (vectorStart st0 [f.a]) f [f.a] (quantOut f s (vectorStart st0 [f.a]))))
    ∧ (vectorReady s (vectorStart st0 [f.a]) f [f.a] (withMarks [f.a] fun s st => checkFormat s st f.srcFmt) = .ok () →
      exec (.vdqnt f) s = .next (vectorDone s k (vectorStart st0 [f.a]) f [f.a]
        (lanesOut (dequantLane f) s (vectorStart st0 [f.a]))))

/-- R122, R124 to R127: the moves between threads, the scan, the reduction, the ballot and the Hadamard butterfly. -/
def Obligations.VectorCross : Prop :=
  ∀ (f : Fields) (s : State) (k : Nat) (st0 : Strand), Acts s k st0 →
    (vectorReady s (vectorStart st0 [f.a, f.b]) f [f.a, f.b] (fun _ st => checkMarks st [f.b] (activeList st.em)) = .ok () →
      exec (.vshuf f) s = .next (vectorDone s k (vectorStart st0 [f.a, f.b]) f [f.a, f.b]
        (moveOut (pickShuf f) (vectorStart st0 [f.a, f.b]))))
    ∧ (vectorReady s (vectorStart st0 [f.a, f.b]) f [f.a, f.b] (fun _ st => checkMarks st [f.b] [0]) = .ok () →
      exec (.vbcast f) s = .next (vectorDone s k (vectorStart st0 [f.a, f.b]) f [f.a, f.b]
        (moveOut (fun st _ => (f.a, countOf st f.b % 32)) (vectorStart st0 [f.a, f.b])))
      ∧ exec (.vrott f) s = .next (vectorDone s k (vectorStart st0 [f.a, f.b]) f [f.a, f.b]
        (moveOut (fun st t => (f.a, (t + 32 - countOf st f.b % 32) % 32)) (vectorStart st0 [f.a, f.b]))))
    ∧ (vectorReady s (vectorStart st0 [f.a, f.b, f.c]) f [f.a, f.b, f.c] (fun _ st => checkMarks st [f.b] [0]) = .ok () →
      exec (.vslide f) s = .next (vectorDone s k (vectorStart st0 [f.a, f.b, f.c]) f [f.a, f.b, f.c]
        (moveOut (pickSlide f) (vectorStart st0 [f.a, f.b, f.c]))))
    ∧ (vectorReady s (vectorStart st0 [f.a]) f [f.a] (noMarks [f.a]) = .ok () →
      exec (.vscan f) s = .next (vectorDone s k (vectorStart st0 [f.a]) f [f.a] (scanOut f (vectorStart st0 [f.a])))
      ∧ exec (.vred f) s = .next (vectorDone s k (vectorStart st0 [f.a]) f [f.a] (redOut f (vectorStart st0 [f.a])))
      ∧ exec (.vhad f) s = .next (vectorDone s k (vectorStart st0 [f.a]) f [f.a] (hadOut f (vectorStart st0 [f.a])))
      ∧ exec (.vballot f) s = .next (vectorDone s k (vectorStart st0 [f.a]) f [f.a]
        ⟨fun _ => ((ballotMask f (vectorStart st0 [f.a])).setWidth 64, false), (vectorStart st0 [f.a]).gens, 0
        , some (ballotMask f (vectorStart st0 [f.a]))⟩))

/-- R132 to R137, R142, R289: `ld`, `lda` and `uld` complete when everything a load waits for and checks allows it and no view load
is refused (R332): the access is performed, and the strand goes on by its selector. -/
def Obligations.MemoryLoads : Prop :=
  ∀ (f : Fields) (s s1 : State) (k : Nat) (st0 : Strand) (vec lda : Bool) (i : Instr) (ps : List Part),
    Acts s k st0 →
    (i = .ld f ∧ vec = true ∧ lda = false) ∨ (i = .lda f ∧ vec = true ∧ lda = true) ∨ (i = .uld f ∧ vec = false ∧ lda = false) →
    let os := memVecs vec [f.a, f.b]
    let st := vectorStart st0 os
    chainCheck st (os.flatMap latchesOf) = .ok () →
    (loadChecks f vec lda k st).run s = (.ok (ps, none), s1) →
    exec i s = .next (memRetire k f.nx st (memMarks st os [f.d.toNat])
      ((performLoad k st f vec (lda || isAcq f) ps (memFrees st os)).run s1).2)

/-- R136, R137, R142, R268: `st`, `stl` and `ust` complete when everything a store waits for and checks allows it; in a restartable
block the store is installed for the block's bundle, where the bundle has room for its lines. -/
def Obligations.MemoryStores : Prop :=
  ∀ (f : Fields) (s s1 : State) (k : Nat) (st0 : Strand) (vec stl : Bool) (i : Instr) (ps : List Part) (o : MemOpnds),
    Acts s k st0 →
    (i = .st f ∧ vec = true ∧ stl = false) ∨ (i = .stl f ∧ vec = true ∧ stl = true) ∨ (i = .ust f ∧ vec = false ∧ stl = false) →
    let os := memVecs vec [f.a, f.b, f.c]
    let st := vectorStart st0 os
    chainCheck st (os.flatMap latchesOf) = .ok () →
    (storeChecks f vec stl st).run s = (.ok (ps, o), s1) →
    let done (t : State) : Out := .next (memRetire k f.nx st (storeEnd vec [f.a, f.b, f.c]) t)
    (restartableBlock s st = false → exec i s = done ((performStore k st f.hint (stl || isRel f) ps o.data).run s1).2)
    ∧ (restartableBlock s st = true →
      let ls := (partLines ps).map (homeOfLine s1 st)
      (st.unacked.any fun u => (partLines ps).contains u.line) = false →
      (bundleDead s1 st.bnd = true → exec i s = done s1)
      ∧ ∀ s2, bundleDead s1 st.bnd = false →
        (bundleDev st.bnd = s1.dev ∨ newLines s1 st.bnd ls = [] ∨ st.answer = some 1) → admitLines s1 st.bnd ls = some s2 →
        exec i s = done (installLines k st ps o.data s2))

/-- R139 to R142: `atom`, `cas`, `uatom` and `ucas` complete when everything an atomic waits for and checks allows it. -/
def Obligations.MemoryAtomics : Prop :=
  ∀ (f : Fields) (s s1 : State) (k : Nat) (st0 : Strand) (vec cas : Bool) (i : Instr) (ps : List Part) (op : Part → MemOp),
    Acts s k st0 →
    (i = .atom f ∧ vec = true ∧ cas = false) ∨ (i = .cas f ∧ vec = true ∧ cas = true)
      ∨ (i = .uatom f ∧ vec = false ∧ cas = false) ∨ (i = .ucas f ∧ vec = false ∧ cas = true) →
    let os := atomicVecs f vec cas
    let st := vectorStart st0 os
    chainCheck st (os.flatMap latchesOf) = .ok () →
    (atomicChecks f vec cas st).run s = (.ok (ps, op), s1) →
    exec i s = .next (memRetire k f.nx st (memMarks st os (atomicDsts f cas))
      ((performAtomic k st f vec (isAcq f) (cas && f.cOp == 1) ps (memFrees st os) op).run s1).2)

/-- R133 to R136, R140, R283: the scratchpad's loads, stores and atomic complete when their checks allow it: a load takes the bytes
of the block's scratchpad, a store puts them there thread after thread, an atomic does both. -/
def Obligations.ScratchAccess : Prop :=
  ∀ (f : Fields) (s s1 : State) (k : Nat) (st0 : Strand) (vec : Bool) (i : Instr) (as : List (Nat × Nat)) (o : MemOpnds),
    Acts s k st0 →
    ((i = .sld f ∧ vec = true) ∨ (i = .usld f ∧ vec = false) →
      let os := memVecs vec [f.a, f.b]
      let st := vectorStart st0 os
      chainCheck st (os.flatMap latchesOf) = .ok () → (scratchLoadChecks f vec st).run s = (.ok as, s1) →
      exec i s = .next (memRetire k f.nx st (scratchEnd f vec [f.a, f.b] (scratchValues f (s1.block st.blk) as)) s1))
    ∧ ((i = .sst f ∧ vec = true) ∨ (i = .usst f ∧ vec = false) →
      let os := memVecs vec [f.a, f.b, f.c]
      let st := vectorStart st0 os
      chainCheck st (os.flatMap latchesOf) = .ok () → (scratchStoreChecks f vec st).run s = (.ok (as, o), s1) →
      exec i s = .next (memRetire k f.nx st (storeEnd vec [f.a, f.b, f.c]) (scratchPut f st.blk as o.data s1)))
    ∧ (i = .satom f →
      let st := vectorStart st0 [f.a, f.b]
      chainCheck st ([f.a, f.b].flatMap latchesOf) = .ok () → (satomChecks f st).run s = (.ok (as, o), s1) →
      exec i s = .next (memRetire k f.nx st (scratchEnd f true [f.a, f.b] (satomRun f as o.off (s1.block st.blk)).1)
        (s1.updBlock st.blk fun _ => (satomRun f as o.off (s1.block st.blk)).2)))

/-- R143 to R150: `fence`, `cflush`, `cclean`, `cpref` and `cbias` complete when their checks allow it; `cbias` of pages that are to
flip completes when the flips have ended, which BIAS_FLIP_END sees to. `signal` sends its update and goes on; `wait` completes when
its condition holds of the word at the home, of a peer's as the peer has answered; `bbar` arrives at the block's barrier, where the last strand lets all go on. -/
def Obligations.FencesAndSignals : Prop :=
  ∀ (f : Fields) (s s1 : State) (k : Nat) (st0 : Strand), Acts s k st0 →
    let st := endChain st0
    ((fenceChecks f st).run s = (.ok (), s1) →
      exec (.fence f) s = .next (memRetire k f.nx st (fun x => { x with viewOn := false }) s1))
    ∧ (∀ drop sc ls, (cleanChecks f drop st).run s = (.ok (sc, ls), s1) →
      exec (if drop then .cflush f else .cclean f) s
        = .next (memRetire k f.nx st id (ls.foldl (fun a p => cleanLine sc drop p.1 a) s1)))
    ∧ (∀ ls, (prefChecks f st).run s = (.ok ls, s1) →
      exec (.cpref f) s = .next (memRetire k f.nx st id (prefetchLines f k st ls s1)))
    ∧ (∀ pages, (biasChecks f st).run s = (.ok pages, s1) →
      exec (.cbias f) s = .next (if pages.isEmpty then memRetire k f.nx st id s1 else biasWait f k st pages s1))
    ∧ ∀ (s2 : State) (p : Part) (b : Word) (sc : Nat),
      ((signalChecks f st).run s = (.ok ([p], b), s1) →
        exec (.signal f) s = .next (memRetire k f.nx st id (sendSignal f k st p b s1)))
      ∧ ((waitChecks f st).run s = (.ok ([p], b), s1) →
        let w := waitWord (if restartableBlock s st then st.bnd else 0) st.core p s1
        (isPeer p.ga = false → waitHolds f w.2.1 b = true → (capScope (whoOf s st).fn f.cScope p.off).run w.1 = (.ok sc, s2) →
          exec (.wait f) s = .next (memRetire k f.nx st (waitGot f w.2.1 w.2.2) s2))
        ∧ ∀ line, isPeer p.ga = true → st.answer = some line → waitHolds f (bits line (8 * (p.ga % 128)) 64) b = true →
          (capScope (whoOf s st).fn f.cScope p.off).run s1 = (.ok sc, s2) →
          exec (.wait f) s
            = .next (memRetire k f.nx st (waitGot f (bits line (8 * (p.ga % 128)) 64) (bitOf line 1024)) s2))
      ∧ (st.trapMode = false → st.flight = [] → orderWaits st (some 2) false = .ok () →
        exec (.bbar f) s = .next (barrierArrived k st f.nx none s))

/-- R225 to R229: `parr` arrives and reads its phase; `pwait` and `pbar` complete when every participant has arrived at the phase, and
end an open view (R272). -/
def Obligations.PlumbNetwork : Prop :=
  ∀ (f : Fields) (s s1 s2 : State) (k : Nat) (st0 : Strand) (p : Half) (sc : Nat), Acts s k st0 →
    let st := endChain st0
    let b := s1.block st.blk
    let own := (s1.grid b.grid).arrivals.getD (plumbKey b.bid st.sid (plumbTag f) (plumbLevel f)) 0
    let back := (BitVec.ofNat 32 own - p).toNat
    let complete : Prop := own < back ∨ phaseComplete s1 b.grid b.bid (plumbTag f) (plumbLevel f) (own - back) = true
    (awaitRegs st [] [f.d.toNat] = .ok () → plumbChecks s st f = .ok () → (plumbArrive k st f).run s = (.ok p, s1) →
      exec (.parr f) s = .next (memRetire k f.nx st (fun x => x.setS f.d.toNat (p.setWidth 64) false) s1))
    ∧ ((pwaitChecks f st).run s = (.ok p, s1) →
      complete → (capScope (s1.grid b.grid).fn (plumbScope (plumbLevel f)) 0).run s1 = (.ok sc, s2) →
      exec (.pwait f) s = .next (memRetire k f.nx st (fun x => { x with plumbAt := none, viewOn := false }) s2))
    ∧ ((pbarArrive k st f).run s = (.ok p, s1) → complete →
      exec (.pbar f) s
        = .next (memRetire k f.nx st (fun x => { x with plumbAt := none, pbarKept := none, viewOn := false }) s1))

/-- R230 to R232, R253: `trap` and `brk` take their exceptions, with the code they are given; `tret` returns from one, and on the save
entry of a PREEMPT sets the strand aside. -/
def Obligations.TrapInstructions : Prop :=
  ∀ (f : Fields) (s s1 : State) (k : Nat) (st0 : Strand) (a : Word) (fork : Fork), Acts s k st0 →
    let st := endChain st0
    (inFlight st [] (memRegs false [f.a]) = false → uval s st .i8 f.a = .ok a →
      exec (.trap f) s = .next (enterTrap s k st.unkept cSoftwareTrap st0.seq (BitVec.ofNat 64 (field a 0 32)) st0.em)
      ∧ (field a 16 16 = 0 →
        exec (.brk f) s = .next (enterTrap s k st.unkept cBreakpoint st0.pc (BitVec.ofNat 64 (field a 0 16)) st0.em)))
    ∧ (st0.trapMode = true → st0.saveEntry = false → (tretChecks st).run s = (.ok fork, s1) →
      exec (.tret f) s = .next (tretDone k st fork s1))
    ∧ (st0.trapMode = true → st0.saveEntry = true → orderWaits st (some 9) false = .ok () →
      exec (.tret f) s = .next ((setAside k st).run s).2)

/-- R233 to R238: `rgmap` and `rgfree`; `fnld` starts to load the inactive bank, `fnswap` makes it the active one; `sleep` takes its
strand off the lanes for its cycles, or with 0 gives up one turn. -/
def Obligations.RegistersAndTable : Prop :=
  ∀ (f : Fields) (s s1 : State) (k : Nat) (st0 : Strand) (a : Word) (ad : Nat), Acts s k st0 →
    let st := endChain st0
    (uval s st .i8 f.a = .ok a →
      (inFlight st [] (f.d.toNat :: memRegs false [f.a]) = false → (a = 0 ∨ a = 1) →
        (st.flight.all fun p => !p.2.vector) = true →
        exec (.rgmap f) s = .next (retire s k (st.setS f.d.toNat (rgmapValue s st a) false) f.nx 0 st.em))
      ∧ (inFlight st [] (memRegs false [f.a]) = false →
        (st.flight.any fun p => p.2.vector && (a.getLsbD p.2.d || (p.2.pair && a.getLsbD (p.2.d + 1)))) = false →
        exec (.rgfree f) s = .next (retire s k (freeRegs st (ones 64 a.toNat)) f.nx 0 st.em))
      ∧ (inFlight st [] (memRegs false [f.a]) = false →
        exec (.sleep f) s = .next (if field a 0 32 = 0 then retire s k { st with yielded := true } f.nx 0 st.em
          else sleepFor f k st (field a 0 32) s)))
    ∧ ((fnldChecks f k st).run s = (.ok ad, s1) → exec (.fnld f) s = .next (fnldStart f k st ad s1))
    ∧ ((fnswapChecks f k st).run s = (.ok (), s1) →
      exec (.fnswap f) s = .next (memRetire k f.nx st
        (fun x => x.setS f.d.toNat (BitVec.ofNat 64 (1 - (s1.core st.core).table.active)) false) (swapBanks k st.core s1)))


/-- R189, R190, R191, R192: claims, releases, `fmtset` and `tstat` of a strand that may go on. A claim writes its grant to the
result register, and UC says whether it is not 0. -/
def Obligations.MatrixItems : Prop :=
  ∀ (f : Fields) (s s1 : State) (k : Nat) (st0 : Strand) (acc : Bool) (g : Nat) (v : Half) (a : Word) (r : Nat × State),
    Acts s k st0 →
    let st := endChain st0
    ((claimChecks f acc st).run s = (.ok g, s1) →
      exec (if acc then .aclaim f else .tclaim f) s = .next (memRetire k f.nx st
        (fun x => { x.setS (resOf f) (BitVec.ofNat 64 g) false with uc := g != 0 }) (giveItems st acc g s1)))
    ∧ ((releaseChecks f acc st).run s = (.ok g, s1) →
      exec (if acc then .arel f else .trel f) s
        = .next (memRetire k f.nx st id (releaseItems s1 st.core st.blk acc g)))
    ∧ ((fmtsetChecks f st).run s = (.ok v, s1) →
      exec (.fmtset f) s = .next (memRetire k f.nx st id
        (s1.updBlock st.blk fun b => { b with fmt := b.fmt.setIfInBounds (f.f.toNat % 16) v })))
    ∧ (inFlight st [] (engRegs f true) = false → uval s st .i8 f.a = .ok a →
      tstatRead s st a.toNat (f.f.getLsbD 4) = .ok r →
      exec (.tstat f) s = .next (memRetire k f.nx st
        (fun x => x.setS (resOf f) (BitVec.ofNat 64 r.1) false) r.2))

/-- R186, R188, R194 to R199: an array operation whose checks allow it enters the array queue where the queue has room, with the
items and the work that the checks give it; a tile move with `.async` enters a job in its place (R193). -/
def Obligations.ArrayOperations : Prop :=
  ∀ (f : Fields) (s s1 : State) (k : Nat) (st0 : Strand) (p : Prepared) (rows : Rows) (load acc : Bool), Acts s k st0 →
    let st := endChain st0
    let win := (st.window f.m.toNat).toNat
    let enters (t : State) (code w : Nat) (sync : Bool) : State :=
      arrayIssued k f st sync (putArray k st code f.d.toNat w sync none p t)
    ((arrayQueue s st.core).length < 16 → inFlight st [] (sRegsOf f.c) = false →
      (prepMma s st f none = .ok p → exec (.mma f) s = .next (enters s 0x05 0 false))
      ∧ (prepMmas s st f none = .ok p → exec (.mmas f) s = .next (enters s 0x06 0 false)))
    ∧ ((arrayQueue s st.core).length < 16 → prepAzero s st f = .ok p →
      exec (.azero f) s = .next (enters s 0x09 0 false))
    ∧ ((tileChecks f load st).run s = (.ok (p, rows), s1) →
      let i : Instr := if load then .tld f else .tst f
      let code := if load then 0x03 else 0x04
      (f.f.getLsbD 4 = false → (arrayQueue s1 st.core).length < 16 → exec i s = .next (enters s1 code win true))
      ∧ (f.f.getLsbD 4 = true → (s1.jobs.filter fun q => q.2.blk == st.blk).length < 64 →
        let j := tileJob f load s st rows
        exec i s = .next (memRetire k f.nx st id (putJob k st (f.c.spec.code % 16) code j.1 j.2 s1).2)))
    ∧ ((ardChecks f st).run s = (.ok p, s1) → (arrayQueue s1 st.core).length < 16 →
      exec (.ard f) s = .next (enters s1 0x0A win false))
    ∧ ((imageChecks f load acc st).run s = (.ok p, s1) → (arrayQueue s1 st.core).length < 16 →
      exec (if acc then (if load then .aload f else .asave f) else if load then .tload f else .tsave f) s
        = .next (enters s1 ((if acc then 0x0B else 0x0D) + (if load then 1 else 0)) win false))

/-- R204, R209 to R216: a card instruction whose card, follow-on and order allow it enters its job. -/
def Obligations.CardInstructions : Prop :=
  ∀ (f : Fields) (s s1 : State) (k : Nat) (st0 : Strand) (i : Instr) (code : Nat)
    (c : CardRead), Acts s k st0 →
    (i, code) ∈ [(Instr.cpy f, 0x80), (.cpym f, 0x81), (.gath f, 0x82), (.scat f, 0x83), (.nbl f, 0x84), (.coll f, 0x85),
      (.cload f, 0x86)] →
    let st := endChain st0
    (cardChecks f code k st).run s = (.ok c, s1) →
    exec i s = .next (memRetire k f.nx st id (cardStart f code k st c s1))

/-- R217 to R221: the handle instructions. `hwait` waits while its job is not complete; a stale handle reads 0. `hcancel` of a job
that it can stop waits until the job has stopped. -/
def Obligations.HandleInstructions : Prop :=
  ∀ (f : Fields) (s s1 : State) (k : Nat) (st0 : Strand) (h w : Half) (e : HandleEntry) (a : Word), Acts s k st0 →
    let st := endChain st0
    (inFlight st [] (engRegs f true) = false → handleOf s st f = .ok h →
      (handleSeen s st h = none → exec (.hwait f) s = .next (memRetire k f.nx st (handleResult f none) s))
      ∧ (handleSeen s st h = some e → e.done = some w →
        exec (.hwait f) s = .next (memRetire k f.nx st (handleResult f (some w)) s))
      ∧ exec (.htest f) s = .next (memRetire k f.nx st
          (handleResult f ((handleEntry (s.block st.blk) h).bind fun e => e.done)) s))
    ∧ (inFlight st [] (engRegs f false) = false → handleOf s st f = .ok h →
      (handleSeen s st h = none → exec (.hcancel f) s = .next (memRetire k f.nx st (cancelDone false) s))
      ∧ (handleSeen s st h = some e → e.done = some w →
        exec (.hcancel f) s = .next (memRetire k f.nx st
          (cancelDone (st.cancelling == some e.job && w.toNat % 256 == 2)) s)))
    ∧ (f.f.getLsbD 0 = true → inFlight st [] (engRegs f false) = false → uval s st .i8 f.a = .ok a → field a 6 10 = 0 →
      exec (.hmov f) s = .next (memRetire k f.nx st (fun x => x.setH (f.d.toNat % 16) (a.setWidth 32)) s))
    ∧ (f.f.getLsbD 0 = false → inFlight st [] [resOf f] = false →
      exec (.hmov f) s = .next (memRetire k f.nx st
        (fun x => x.setS (resOf f) ((st.handle (f.d.toNat % 16)).setWidth 64) false) s))
    ∧ (batchFull st (openBatches s st) = false →
      exec (.aclose f) s = .next (memRetire k f.nx st (closeBatch st (openBatches s st)) s))
    ∧ ((awaitChecks f st).run s = (.ok (), s1) → exec (.await f) s = .next (memRetire k f.nx st id s1))

/-- R266 to R270, R273: the bundle instructions. A strand that has its answer goes on with it; a store to an ABORTED bundle is
discarded; a `babort` of one waits for nothing. -/
def Obligations.BundleInstructions : Prop :=
  ∀ (f : Fields) (s s1 s2 : State) (k : Nat) (st0 : Strand) (q : Nat × Nat × Half) (name x : Nat), Acts s k st0 →
    let st := endChain st0
    ((bopenChecks f st).run s = (.ok q, s1) → st.answer = some x →
      exec (.bopen f) s = .next (memRetire k f.nx st (bopenAnswer f x) s1))
    ∧ ((bjoinChecks f st).run s = (.ok name, s1) → st.answer = some x →
      exec (.bjoin f) s = .next (memRetire k f.nx st (bjoinAnswer f x) s1))
    ∧ (∀ (vec : Bool) (ps : List Part) (o : MemOpnds),
      let os := memVecs vec [f.a, f.b, f.c]
      let sv := vectorStart st0 os
      chainCheck sv (os.flatMap latchesOf) = .ok () → (bundledChecks f vec sv).run s = (.ok (ps, o), s1) →
      let ls := (partLines ps).map (homeOfLine s1 sv)
      let done (t : State) : Out := .next (memRetire k f.nx sv (storeEnd vec [f.a, f.b, f.c]) t)
      (sv.unacked.any fun u => (partLines ps).contains u.line) = false →
      (bundleDead s1 sv.bnd = true → exec (if vec then .bst f else .ubst f) s = done s1)
      ∧ (bundleDead s1 sv.bnd = false → (bundleDev sv.bnd = s1.dev ∨ newLines s1 sv.bnd ls = [] ∨ sv.answer = some 1) →
        admitLines s1 sv.bnd ls = some s2 →
        exec (if vec then .bst f else .ubst f) s = done (installLines k sv ps o.data s2)))
    ∧ ((bcloseChecks st).run s = (.ok (), s1) →
      exec (.bclose f) s = .next (memRetire k f.nx st leaveBundle (closeStart f k st s1)))
    ∧ (st.joined = true → restartableBlock s st = false →
      (st.answer = some x → exec (.babort f) s = .next (memRetire k f.nx st leaveBundle s))
      ∧ (st.answer = none → st.ask = 0 → bundleDead s st.bnd = true → exec (.babort f) s
        = .next (memRetire k f.nx st leaveBundle (sendTo s (bundleDev st.bnd)
          (.bundleCloseArrival (s.mail (coreDie st.core)) noAsker st.bnd .aborts [])))))
    ∧ (restartableBlock s st = true → st.trapMode = false → st.flight = [] → st.unacked = [] →
      orderWaits st (some 2) false = .ok () →
      exec (.commit f) s = .next (barrierArrived k st f.nx (some f.d.toNat) (implicitScope s (whoOf s st).fn 7)))

/-- R271, R272, R274, R275: `view` and `vend` open and close a view; `trace` emits a marker; `tctl` reads the trace control word
and changes it while LOCK is 0. -/
def Obligations.ViewsAndTrace : Prop :=
  ∀ (f : Fields) (s : State) (k : Nat) (st0 : Strand) (v : Nat) (a : Word), Acts s k st0 →
    let st := endChain st0
    (f.a.spec = .lit v →
      exec (.view f) s = .next (retire s k { st with
        vstamp := BitVec.ofNat 64 s.datum, vretry := wrap64 (targetOf st.pc v), vem := st.em, viewOn := true } f.nx 0 st0.em))
    ∧ exec (.vend f) s = .next (retire s k { st with viewOn := false } f.nx 0 st0.em)
    ∧ (inFlight st [] (memRegs false [f.a]) = false → uval s st f.ty f.a = .ok a →
      exec (.trace f) s = .next (retire
        (s.emit (whoOf s st).fn (strandSrc st) (0x70 + f.f.toNat % 16) (field a 0 32) none (some k)) k st f.nx 0 st0.em))
    ∧ (inFlight st [] (f.d.toNat :: memRegs false [f.a]) = false → uval s st f.ty f.a = .ok a →
      let fn := (whoOf s st).fn
      let w := (s.fn fn).trcw
      exec (.tctl f) s = .next (retire (s.updFn fn fun x => { x with trcw := tctlWord f w a }) k
        { st.setS f.d.toNat (BitVec.ofNat 64 w) false with uc := tctlChanges f w } f.nx 0 st0.em))

/-- R351 to R358: a row instruction that its strand's checks and the BSUs of its mask allow goes to their queues; with an empty mask
nothing happens. `rsync` reads the flags and the mark of the strand's row instructions, `rstat` the BSUs' state. -/
def Obligations.RowInstructions : Prop :=
  ∀ (f : Fields) (s s1 s2 : State) (k : Nat) (st0 : Strand) (i : Instr) (op : Nat) (r : RowArgs) (q : Nat × Nat),
    Acts s k st0 →
    let st := endChain st0
    ((i, op) ∈ [(Instr.ropen f, 0x600), (.rwrite f, 0x601), (.rvload f, 0x602), (.radd f, 0x603), (.rmul f, 0x604),
      (.rfma f, 0x605), (.rmax f, 0x606), (.rcvt f, 0x607), (.rgemv f, 0x608), (.rred f, 0x609), (.racc f, 0x60A),
      (.rmove f, 0x60B), (.rfill f, 0x60C)] → (rowChecks op f st).run s = (.ok r, s1) →
      (r.mask = 0 → exec i s = .next (memRetire k f.nx st id s1))
      ∧ (r.mask ≠ 0 → (rowAccepts op st r).run s1 = (.ok (), s2) →
        exec i s = .next (memRetire k f.nx st (fun x => { x with rowsOut := x.rowsOut ++ [s2.nextId] })
          (rowStart op k f st r s2))))
    ∧ (inFlight st [] [f.d.toNat] = false → st.rowsOut = [] →
      exec (.rsync f) s = .next (memRetire k f.nx st
        (fun x => { x.setS f.d.toNat (rowWord st) false with rowFlags := 0, rowMarks := false }) s))
    ∧ ((rstatChecks f st).run s = (.ok q, s1) →
      exec (.rstat f) s = .next (memRetire k f.nx st
        (fun y => y.setS f.d.toNat (BitVec.ofNat 64 (rowStat s1 q.1 q.2 (f.selector / 2 ^ 24))) false)
        (rstatClear f q.1 q.2 s1)))


/-- R158, R159, R163, R323, R228, R236, R238, R251: the events that let strands go on. An issue opportunity gives a lane its strand; a
line enters a strand's buffer; a reply completes an access, or reaches an L1 alone; an acknowledgement leaves what the strand, the
engine or the grid waits for; PREEMPT is taken at once by a strand that waits before its instruction has had an effect, or that
sleeps, and otherwise becomes pending. -/
def Obligations.StrandEvents : Prop :=
  ∀ (s : State) (k : Nat) (st : Strand) (r : Reply) (lane acc grid : Nat) (win : BitVec 16) (ad : Word) (ln : BitVec 512),
    exec (.issueOpportunity lane) s = .next (issue s lane)
    ∧ exec (.instructionLineArrival k win ad ln) s = .next (s.updStrand k fun x =>
        let y := bufAdd x ⟨ad, win, ln, 0⟩
        if x.wait == .line && win == x.cwin && lineBase x.pc == ad then { y with wait := .none } else y)
    ∧ (r.req.agent = .strand k → r.req.op = .load →
      exec (.memoryAccessComplete r) s = .next (sillLooks (accessGoesOn r.req k (deliverLoad r k (replyInstall r s))) k))
    ∧ (r.req.agent = .strand k → r.req.op ≠ .load →
      exec (.memoryAccessComplete r) s = .next (sillLooks (accessGoesOn r.req k (deliverAtomic r k (replyInstall r s))) k))
    ∧ ((∀ j, r.req.agent ≠ .strand j) → exec (.memoryAccessComplete r) s = .next (replyInstall r s))
    ∧ exec (.storeAck (.strand k) acc grid) s = .next (sillLooks (countDown (strandAcked s k acc) grid (coreOfKey k)) k)
    ∧ exec (.storeAck .hub acc grid) s = .next (countDown s grid 1024)
    ∧ exec (.storeAck (.bsu k) acc grid) s = .next (rowDone (s.updRow k fun o => { o with acks := o.acks - 1 }) k)
    ∧ (∀ x, s.jobs.find k = some x → x.acks = 1 → ∀ t, exec (.storeAck (.job k) acc grid) s = .next t →
      (t.jobs.find k).map (·.acks) = some 0 ∧ Event.jobComplete k ∈ t.queue.map (·.2))
    ∧ (∀ dev home q, s.peerReqs.find acc = some (dev, home, q) → ∀ d, exec (.storeAck (.peer d) acc grid) s
      = .next ({ s with peerReqs := s.peerReqs.del acc }.emitOut (.answer d home (.ack q))))
    ∧ exec (.plumbPhaseComplete k) s = .next (s.updStrand k fun x => wakeStrand x [.plumb])
    ∧ (s.strand k = some st → st.ended = true ∨ st.asideMark = true → exec (.preemptDelivery k) s = .next s)
    ∧ (s.strand k = some st → st.ended = false → st.asideMark = false →
      let asked := { st with preempt := true }
      (st.trapMode = true ∨ waitsBefore s k st = false → exec (.preemptDelivery k) s = .next (s.setStrand k asked))
      ∧ (st.trapMode = false → waitsBefore s k st = true →
        (st.wait ≠ .sleep →
          let t := takePreempt (dropQueued s st) k { asked with asyncOp := none } (restartPc st)
          exec (.preemptDelivery k) s = .next (if st.wait = .trace then holdEnd t st.blk else t))
        ∧ (st.wait = .sleep → ∀ y, (retire s k asked st.pendNx 0 st.em).strand k = some y →
          exec (.preemptDelivery k) s = .next (if y.ended || y.trapMode then retire s k asked st.pendNx 0 st.em
            else takePreempt (retire s k asked st.pendNx 0 st.em) k y y.pc))))
    ∧ (s.strand k = some st → st.wait = .sleep → st.sleepId = acc → st.ended = false →
      exec (.sleepExpiry k acc) s = .next (retire s k st st.pendNx 0 st.em))
    ∧ ∀ core t, (s.core core).table.writing = some k →
      t = tableNext (s.updCore core fun c => { c with table := { c.table with writing := none } }) core →
      t.strand k = some st → st.ended = false →
      exec (.functionTableWriteDone core k) s = .next (retire t k st st.pendNx 0 st.em)

/-- R145, R287, R291, R294 to R302, R320 to R322: what a home does with a request. One for a page that is being switched
is held, but for those that log 37 names; a host line that another slice holds is taken from it first (log 16); one for a busy line is
held; one that needs a line state that its set has none free for waits for one to be released; one that owes the host a snoop waits for that. A load is answered
with the home's copy, or the owner forwards it, and is the only holder's E where an SO fill asks for it; a request for ownership, a
far atomic and a signal close the window and then invalidate the copies; a plain store recalls an owned line, joins the combine window
or opens one, or is performed alone. -/
def Obligations.HomeEvents : Prop :=
  ∀ (s : State) (r : MemReq),
    let reqs : List (Instr × Event) := [(.homeLoadFill r, .homeLoadFill r), (.homeOwnershipRequest r, .homeOwnershipRequest r),
      (.homeFarAtomic r, .homeFarAtomic r), (.signalArrival r, .signalArrival r)]
    let s1 := makeRoom s r.home r.line
    (∀ q ∈ reqs, switchHolds s r.line (reqBundle s q.2) = true → exec q.1 s = .next (holdInstall s q.2 0))
    ∧ (switchHolds s r.line (reqBundle s (.homeLoadFill r)) = false →
    (∀ q ∈ reqs, busyLine s r.home r.line = true → exec q.1 s = .next (holdReq s r.home r.line q.2))
    ∧ (busyLine s r.home r.line = false →
      (∀ q ∈ reqs, ∀ l, heldAt s r.home r.line = some l → exec q.1 s = .next (holdReq s r.home l q.2))
      ∧ (∀ q ∈ reqs, ∀ h, heldAt s r.home r.line = none → otherHolder s r.home r.line = some h →
        exec q.1 s = .next (takeFrom s h r.line [q.2])))
    ∧ (busyLine s r.home r.line = false → heldAt s r.home r.line = none → otherHolder s r.home r.line = none →
    (∀ q ∈ reqs, hasRoom s1 r.home r.line = false → exec q.1 s = .next (releaseFor s1 r.home r.line [q.2]))
    ∧ (∀ q ∈ reqs, hasRoom s1 r.home r.line = true → needSnoop s1 r.line = true →
      exec q.1 s = .next (snoopLine s1 r.home r.line [q.2]))
    ∧ (hasRoom s1 r.home r.line = true → needSnoop s1 r.line = false →
      let does (t : State) : Out := .next (unhost t r.home r.line)
      (let filled := if reqTouches s1 r then l2Read s1 r.home r.line r.cold else l2Fill s1 r.home r.line r.cold
        let d := dirOf filled r.home r.line
        let q := if pendingHere s1 r.line || hostBiased s1 r.line then { r with fill := 0 } else r
        let data := overPending s1 r.bnd r.line (homeLine filled r.home r.line)
        let alone := decide (q.fill ≠ 0) && q.so && (d.holders filled).isEmpty
        (d.owner = none → alone = false → exec (.homeLoadFill r) s = does (answerLoad (share filled q) q data d.mark 1))
        ∧ (d.owner = none → alone = true → exec (.homeLoadFill r) s = does (answerLoad (updDir (share filled q) r.home r.line fun x =>
            { x with owner := some r.core, sharers := [] }) q data d.mark 2))
        ∧ (d.owner = some r.core → exec (.homeLoadFill r) s = does (answerLoad filled q data d.mark 1))
        ∧ ∀ o, d.owner = some o → o ≠ r.core → exec (.homeLoadFill r) s = does (forwardTo filled q o data d.mark))
      ∧ (let closed := closeWindow s1 r.home r.line
        let d := dirOf closed r.home r.line
        let far := (opAtomic r.op && decide (2 ≤ d.bounce)) || pendingHere closed r.line || hostBiased closed r.line
        let moves := match d.owner with | some o => o != r.core | none => false
        (busyLine closed r.home r.line = true → ∀ q ∈ reqs.drop 1, exec q.1 s = does (holdReq closed r.home r.line q.2))
        ∧ (busyLine closed r.home r.line = false →
          exec (.homeFarAtomic r) s = does (recallThen closed r.home r.line none (.far r) [])
          ∧ exec (.signalArrival r) s = does (recallThen closed r.home r.line none (.signal r) [])
          ∧ (far = true → exec (.homeOwnershipRequest r) s = does (recallThen closed r.home r.line none (.far r) []))
          ∧ (far = false → exec (.homeOwnershipRequest r) s = does (recallThen
              (if moves then updDir closed r.home r.line fun x => { x with bounce := min 3 (x.bounce + 1) } else closed)
              r.home r.line (some r.core) (.grant r) []))))
      ∧ ∀ bs mark, r.op = .store bs mark →
        let plain := !r.closing && isDevice (r.line * 128) && !hostBiased s1 r.line
        (∀ o, (dirOf s1 r.home r.line).owner = some o →
          exec (.homeStoreArrival r) s = does (beginTx s1 r.home r.line [o] .recalled [.homeStoreArrival r]))
        ∧ ((dirOf s1 r.home r.line).owner = none → plain = true → exec (.homeStoreArrival r) s = does (joinWindow s1 r bs mark))
        ∧ ((dirOf s1 r.home r.line).owner = none → plain = false →
          let closed := closeWindow s1 r.home r.line
          exec (.homeStoreArrival r) s = does (if busyLine closed r.home r.line then
            holdReq closed r.home r.line (.homeStoreArrival r) else storeAlone closed r bs mark)))))

/-- R146, R287, R295, R296, R297, R321: the rest of what a home and an L1 exchange. The owner of a forwarded line answers with its dirty
words over the home's, and one of a peer's line sends them to its home (log 16); an invalidated L1 gives the line up, with a writeback
if it held dirty words; the writeback merges its words, and is acknowledged unless the home has waited for it. -/
def Obligations.CopyEvents : Prop :=
  ∀ (s : State) (m : Mail) (r : MemReq) (home core line mask owner n k : Nat) (data : Line) (ack gone mark : Bool),
    exec (.waitRecheck k) s = .next (s.updStrand k fun x => wakeStrand x [.word])
    ∧ (let t := recv s m (coreDie owner)
      let c := (t.core owner).l1
      (∀ x, c.lines.find r.line = some x → isPeer (r.line * 128) = false →
        let u := setCopy t owner r.line ⟨sharedState x.st, x.mark⟩
        exec (.forwardedRequest m r owner (data, mark)) s = .next (ackTx (answerLoad
          (if sharedState x.st = .s then ownerShares u r.home r.line owner r.line else u) r
          ((dirtyWords c r.line).foldl (fun a p => setLineWord a (p.1 % 4) p.2) data) (mark || x.mark) 1) r.home r.line))
      ∧ (∀ x, c.lines.find r.line = some x → isPeer (r.line * 128) = true →
        exec (.forwardedRequest m r owner (data, mark)) s = .next (toHome (setCopy t owner r.line ⟨sharedState x.st, x.mark⟩) r.line
          (writebackMsg (t.mail (coreDie owner)) r.home (homeCore t r.line owner) r.line (dirtyWords c r.line) true false x.mark)))
      ∧ (c.lines.find r.line = none → isPeer (r.line * 128) = false → writebackComes t r.home owner r.line = true →
        exec (.forwardedRequest m r owner (data, mark)) s = .next (t.send (.forwardedRequest m r owner data mark)))
      ∧ (c.lines.find r.line = none → isPeer (r.line * 128) = false → writebackComes t r.home owner r.line = false →
        exec (.forwardedRequest m r owner (data, mark)) s = .next (ackTx ((updDir t r.home r.line fun d => d.dropCore owner).updHome r.home
          fun h => { h with busy := h.busy.upd r.line fun x => { x with waiters := .homeLoadFill r :: x.waiters } }) r.home r.line))
      ∧ (c.lines.find r.line = none → isPeer (r.line * 128) = true → exec (.forwardedRequest m r owner (data, mark)) s = .next
        (toHome t r.line (writebackMsg (t.mail (coreDie owner)) r.home (homeCore t r.line owner) r.line [] true true false))))
    ∧ (∀ w, (s.home home).windows.find line = some w → exec (.combineWindowClose home line n) s
        = .next (if w.number = n then closeWindow s home line else s))
    ∧ (let t := recv s m (coreDie core)
      let ackMsg : Event := .invalidationAck (t.mail (coreDie core)) home (homeCore t line core) line
      let d := dirtyWords (t.core core).l1 line
      (core ≠ 1023 → (t.core core).l1.lines.find line = none →
        exec (.l1Invalidation m home ⟨core, line⟩) s = .next (toHome t line ackMsg))
      ∧ (core ≠ 1023 → ∀ x, (t.core core).l1.lines.find line = some x → d = [] → x.mark = false →
        exec (.l1Invalidation m home ⟨core, line⟩) s = .next (toHome (giveLine t core line) line
          (.invalidationAck ((giveLine t core line).mail (coreDie core)) home (homeCore t line core) line)))
      ∧ (core ≠ 1023 → ∀ x, (t.core core).l1.lines.find line = some x → (d ≠ [] ∨ x.mark = true) →
        exec (.l1Invalidation m home ⟨core, line⟩) s = .next (toHome (giveLine t core line) line (writebackMsg
          ((giveLine t core line).mail (coreDie core)) home (homeCore t line core) line d true true x.mark)))
      ∧ (core = 1023 → exec (.l1Invalidation m home ⟨core, line⟩) s = .next (invalidateAll t home line)))
    ∧ (let t := recv s m (homeDie home)
      let bs := (ones 4 mask).flatMap fun w => number (32 * w) (toBytes 32 (lineWord data w).toNat)
      let l := homeName t home core line
      (homeKnows t home core line = true →
        let u := mergeWriteback t home core l line bs gone mark
        exec (.writebackArrival m home ⟨core, line⟩ mask data ack gone mark) s
          = .next (if ack then ackTx u home l else if bs.isEmpty then u else ackWriteback u home core line)
        ∧ exec (.invalidationAck m home ⟨core, line⟩) s = .next (ackTx (updDir t home l fun d => d.dropCore core) home l))
      ∧ (homeKnows t home core line = false → exec (.invalidationAck m home ⟨core, line⟩) s = .next t
        ∧ exec (.writebackArrival m home ⟨core, line⟩ mask data ack gone mark) s
          = .next (if ack || bs.isEmpty then t else ackWriteback t home core line)))

/-- R186, R201, R206, R208, R214, R215, R350, R356: the events of the engines. The array starts the operation that may start and goes
on with one under way, an assist's groups enter their accumulator, an operation that has ended leaves the queue when its stores are
acknowledged; a job whose edges are gone starts, one that has come to its end writes its completion word; a collective whose cards have
all come runs, and one whose cards differ ends; a BSU performs the head of its queue. -/
def Obligations.EngineEvents : Prop :=
  ∀ (s : State) (op job bsu : Nat) (a : ArrayOp) (x : Job) (o : RowOp),
    (s.arrayOps.find op = some a →
      (a.phase = .queued → arrayBusy s a.core = false → nextArray s 0 0 false (arrayQueue s a.core) = some op →
        exec (.arrayOpStart op) s = .next (arrayBegin s op a))
      ∧ (a.phase = .running → a.port.waiting = false → exec (.arrayOpStart op) s = .next (arrayWork s op a))
      ∧ (a.phase = .parked → exec (.arrayOpStart op) s
        = .next (arrayWork (s.updArray op fun y => { y with phase := .running }) op { a with phase := .running }))
      ∧ (a.acks = 0 → exec (.arrayOpComplete op) s = .next (arrayDone s op a))
      ∧ (a.acks ≠ 0 → exec (.arrayOpComplete op) s = .next (s.updArray op fun y => { y with phase := .settling }))
      ∧ ∀ n fb ta tb acc ovr, a.phase = .assist n → a.work = .mma fb ta tb acc ovr →
        exec (.subnormalAssistDone op) s = .next (assistDone s op a acc))
    ∧ (s.jobs.find job = some x →
      (x.phase = .waiting → x.edges.all (opDone s) = true → (∀ b, x.work ≠ .close b) →
        ((∀ e c n sl ar w, x.work ≠ .sill e c n sl ar w) →
          exec (.jobStart job) s = .next (runJob (jobStarted x (s.updJob job fun y => { y with phase := .running })) job
            { x with phase := .running }))
        ∧ ((∃ e c n sl ar w, x.work = .sill e c n sl ar w) → ∀ t, startSill s job x = some t →
          exec (.jobStart job) s = .next (jobStarted x t)))
      ∧ (x.phase = .running → x.port.waiting = false → (∀ e c n sl ar w, x.work ≠ .sill e c n sl ar w) →
        exec (.jobStart job) s = .next (runJob s job x))
      ∧ (x.sill.all (sillGone s) = true → x.acks = 0 →
        (∀ status cause, x.phase = .ended status cause → (∀ b, x.work ≠ .code b) →
          exec (.jobComplete job) s = .next (completeJob (tellPeers (removeSill s job x) x .leaves) job status cause))
        ∧ (∀ status cause b, x.phase = .ended status cause → x.work = .code b →
          exec (.jobComplete job) s = .next (completeJob (tellPeers (dropCode (removeSill s job x) (s.grid x.grid).fn (x.region 1)
            x.moved x.buf) x .leaves) job status cause))
        ∧ (x.phase = .running → (∃ e c n sl ar w, x.work = .sill e c n sl ar w) →
          exec (.jobComplete job) s = .next (completeJob (removeSill s job x) job 1 0))))
    ∧ (∀ fn name (remote : List RemoteCard),
      let s1 := remote.foldl (fun a r => collNews name (recv a ⟨r.dev, 8, r.stamp⟩ 8) r) s
      let far := collFar s1 fn name
      ∀ js, collJobs s1 fn name = (job, x) :: js →
      let cards := (job, x) :: js
      let ranks := collRanks cards far
      let fits := collAgree cards x far && (ranks.foldl addNew []).length == ranks.length
      (fits = true → (collKey x.work).2.2.2.2 ≤ ranks.length →
        exec (.collectiveStart fn name remote) s = .next (dropGathered (collRun fn cards x far s1) fn name))
      ∧ (fits = true → ranks.length < (collKey x.work).2.2.2.2 → exec (.collectiveStart fn name remote) s = .next s1)
      ∧ (fits = false → exec (.collectiveStart fn name remote) s
        = .next (dropGathered ((collOpen s1 fn name).foldl (fun b p => endJob b p.1 3 cIllegalField) s1) fn name)))
    ∧ (s.rowOps.find op = some o → bsuHead s o.slice bsu = some op → o.port.waiting = false →
      let g : Eng := ⟨⟨o.fn, 0, clusterOf o.home, none⟩, .bsu op, o.port, o.grid, o.core⟩
      let hold (_ : Bool) (p : Port) (t : State) : State := t.updRow op fun y => { y with port := p }
      (∀ t, o.op = 0x600 → (∃ u, engRun g (.bsuExecute op bsu) hold (bsuOpen g o bsu) s = (.done u, t)) →
        exec (.bsuExecute op bsu) s = .next (bsuDone op o [bsu] 0 ((t.bsu o.slice bsu).rowMark o.rd != 0) t))
      ∧ (∀ b t, o.op = 0x602 → o.f0 = false → engRun g (.bsuExecute op bsu) hold (bsuLoad g op o bsu) s = (.done b, t) →
        exec (.bsuExecute op bsu) s = .next (bsuDone op o [bsu] 0 b t))
      ∧ (o.op = 0x601 → exec (.bsuExecute op bsu) s
        = .next (bsuDone op o [bsu] 0 ((s.bsu o.slice bsu).rowMark o.ra != 0) (bsuWrite op o bsu s)))
      ∧ (o.op = 0x60A → exec (.bsuExecute op bsu) s = .next (bsuDone op o [bsu] 0 false (bsuAcc op o bsu s)))
      ∧ (o.op = 0x60B → o.f0 = true → (ones 16 o.mask).all (fun k => bsuHead s o.slice k == some op) = true →
        let r := bsuRotate o (ones 16 o.mask) s
        exec (.bsuExecute op bsu) s = .next (bsuDone op o (ones 16 o.mask) 0 r.2 r.1))
      ∧ (o.op ∉ [0x600, 0x601, 0x60A] → ¬ (o.op = 0x602 ∧ o.f0 = false) → ¬ (o.op = 0x60B ∧ o.f0 = true) →
        let r := bsuCompute o (s.bsu o.slice bsu)
        exec (.bsuExecute op bsu) s
          = .next (bsuDone op o [bsu] r.2.1 r.2.2 (s.updBsu o.slice bsu fun _ => r.1))))

/-- R266, R267, R269, R270, R324 to R326: names, joins and closes at a record's home. A `bopen` whose name is free goes on with the age
of what it retries; a name is registered once; a join succeeds while the record is OPEN with fewer than J, waits for a place, or is
refused; the J-th close commits; what reaches a record that is gone is answered ABORTED. -/
def Obligations.NameEvents : Prop :=
  ∀ (s : State) (m : Mail) (who : Asker) (scope name core need : Nat) (retry h : BitVec 32) (b : Bundle) (stamp : Option Nat)
    (lines : List (Nat × Nat)),
    (let s0 := recv s m (coreDie core);
      awaits s0 who = true →
      (nameFind s0 scope name = none → exec (.nameRegister m who scope name (.openHere core need retry)) s
        = .next (openHere s0 who scope name core need retry))
      ∧ (nameFind s0 scope name ≠ none → exec (.nameRegister m who scope name (.openHere core need retry)) s
        = .next (answerStrand s0 (coreDie core) who 1))
      ∧ exec (.nameRegister m who scope name (.age core need retry stamp)) s
        = .next (openWith s0 who scope name core need (if stamp.isSome then retry else 0) (stamp.getD s0.datum)))
    ∧ (let s0 := recv s m (bundleDie retry);
      exec (.nameRegister m who scope name (.ageOf core need retry)) s = .next (sendTo s0 m.dev (.nameRegister
        (s0.mail (bundleDie retry)) who scope name (.age core need retry ((retryOf s0 name retry).map (·.stamp)))))
      ∧ exec (.nameRegister m who scope name (.retire retry)) s = .next (retireOld s0 (bundleDie retry) name retry))
    ∧ (let s0 := recv s m (nameDie name)
      let tell (t : State) (a : NameAct) : Out := .next (sendTo t m.dev (.nameRegister (s0.mail (nameDie name)) who scope name a))
      (nameFind s0 scope name = none → exec (.nameRegister m who scope name (.register h retry)) s
        = tell (addName s0 scope name h) (.registered h retry true))
      ∧ (nameFind s0 scope name ≠ none → exec (.nameRegister m who scope name (.register h retry)) s
        = tell s0 (.registered h retry false))
      ∧ (∀ g, nameFind s0 scope name = some g → exec (.nameRegister m who scope name .lookUp) s = tell s0 (.found g))
      ∧ (nameFind s0 scope name = none →
        (who.waits = false → exec (.nameRegister m who scope name .lookUp) s = tell s0 (.found 0))
        ∧ (who.waits = true → exec (.nameRegister m who scope name .lookUp) s
          = .next { s0 with nameWaits := s0.nameWaits ++ [(scope, name, who)] }))
      ∧ exec (.nameRegister m who scope name (.remove h)) s
        = .next { s0 with names := s0.names.filter fun p => p.2.2 != h })
    ∧ (∀ ok, exec (.nameRegister m who scope name (.registered h retry ok)) s
      = .next (openDone (recv s m (bundleDie h)) who name h retry ok))
    ∧ (let s0 := recv s m (keyDie who.strand);
      awaits s0 who = true →
      (h ≠ 0 → exec (.nameRegister m who scope name (.found h)) s
        = .next (sendTo s0 (bundleDev h) (.joinMessage (s0.mail (keyDie who.strand)) who h none)))
      ∧ exec (.nameRegister m who scope name (.found 0)) s = .next (answerStrand s0 (keyDie who.strand) who 0)
      ∧ ∀ t, exec (.joinMessage m who h (some (some t))) s
        = .next (answerJoined (keepAway s0 h t) (keyDie who.strand) who h))
    ∧ (let s0 := recv s m (keyDie who.strand);
      awaits s0 who = false → ∀ t, exec (.joinMessage m who h (some (some t))) s
        = .next (sendTo s0 (bundleDev h) (.bundleCloseArrival (s0.mail (keyDie who.strand)) noAsker h .unjoin [])))
    ∧ (let s0 := recv s m (keyDie who.strand);
      exec (.joinMessage m who h (some none)) s
        = .next (if who.waits then askAgain s0 who else answerStrand s0 (keyDie who.strand) who 0))
    ∧ (let s0 := recv s m (bundleDie h)
      (findBundle s0 h = some b →
        (canJoin s0 h = true → exec (.joinMessage m who h none) s
          = .next (tellJoin (countJoin s0 who.dev h) who h (some b.stamp)))
        ∧ (canJoin s0 h = false → b.st = .opened → who.waits = true → exec (.joinMessage m who h none) s
          = .next (updBundle s0 h fun x => { x with asked := x.asked ++ [who] }))
        ∧ (canJoin s0 h = false → (b.st ≠ .opened ∨ who.waits = false) →
          exec (.joinMessage m who h none) s = .next (tellJoin s0 who h none)))
      ∧ (findBundle s0 h = none → exec (.joinMessage m who h none) s = .next (tellJoin s0 who h none))
      ∧ (findBundle s0 h = some b → exec (.bundleCloseArrival m who h .closes lines) s = .next (closeHere s0 m.dev b))
      ∧ (findBundle s0 h = none → exec (.bundleCloseArrival m who h .closes lines) s = .next
        (if m.dev = s0.dev then endCloses s0 h 4 0 else sendTo s0 m.dev (.dropNotice (s0.mail (bundleDie h)) 127 h)))
      ∧ exec (.bundleCloseArrival m who h .wound lines) s = .next (abortBundle s0 h)
      ∧ exec (.bundleCloseArrival m who h .unjoin lines) s = .next (unjoin s0 m.dev h)
      ∧ let reply (a : State) (n : Nat) : Out := .next (if who.token = 0 then a
          else sendTo a m.dev (.bundleCloseArrival (a.mail (bundleDie h)) who h (.answered n) []))
        exec (.bundleCloseArrival m who h .aborts lines) s = reply (tryFree (abortBundle (departed s0 m.dev false h) h) h) 1
        ∧ (isOpen s0 h = false → exec (.bundleCloseArrival m who h .admits lines) s = reply s0 2)
        ∧ (isOpen s0 h = true →
          (∀ t, admitLines s0 h lines = some t → exec (.bundleCloseArrival m who h .admits lines) s = reply t 1)
          ∧ (admitLines s0 h lines = none → exec (.bundleCloseArrival m who h .admits lines) s = reply s0 0)))
    ∧ (∀ n, exec (.bundleCloseArrival m who h (.answered n) lines) s
      = .next (answerStrand (recv s m (keyDie who.strand)) (keyDie who.strand) who n))
    ∧ exec (.abortedHoldExpiry h) s = .next (tryFree s h)

/-- R328 to R332, R334: bundled stores, view loads, and the promotion or the drop of versions at the homes. A store of an ABORTED bundle
is discarded; one for a line that is busy comes again, and one for a page that is being switched is held (log 37 names those that are
not); one that the line has no version of, or that its own bundle's is of, is
installed; another bundle's pending version is met by wound-wait. A view load is decided by the candidates in order, of which the
record of a pending version may have to be asked. -/
def Obligations.VersionEvents : Prop :=
  ∀ (s : State) (m : Mail) (who : Asker) (r : MemReq) (h : BitVec 32) (age home line v stamp n acc grid : Nat) (k : Nat)
    (skip : Option (BitVec 32)) (c : Option (Option Nat)) (opens : List (BitVec 32)),
    (let s0 := recv s m (homeDie r.home)
      let s1 := makeRoom s0 r.home r.line
      let again : Event := .bundleInstall m r h age opens
      (bundleDead s0 h = true → opens.contains h = false → exec (.bundleInstall m r (h, age) opens) s
        = .next (if bundleDev h = s0.dev ∨ routeOk s0 (bundleDev h) = false then ackInstall s0 m r else askAgainOf s0 r.line again h))
      ∧ (bundleDead s0 h = false ∨ opens.contains h = true →
        (busyLine s0 r.home r.line = true ∨ s0.rejoined ≠ [] → exec (.bundleInstall m r (h, age) opens) s = .next (s0.post again))
        ∧ (busyLine s0 r.home r.line = false → s0.rejoined = [] →
          (switchHolds s0 r.line h = true → exec (.bundleInstall m r (h, age) opens) s = .next (holdInstall s0 again 0))
          ∧ (switchHolds s0 r.line h = false → hasRoom s1 r.home r.line = false →
            exec (.bundleInstall m r (h, age) opens) s = .next (releaseFor s1 r.home r.line [again]))
          ∧ (switchHolds s0 r.line h = false → hasRoom s1 r.home r.line = true →
            (∀ d q mk a2 i, (versionsOf s1 r.line).second = some (.pending d q mk h a2 i) → exec (.bundleInstall m r (h, age) opens) s
              = .next (ackInstall (installInto s1 r h age (versionsOf s1 r.line).second) m r))
            ∧ (∀ d q mk h2 a2 i, (versionsOf s1 r.line).second = some (.pending d q mk h2 a2 i) → h2 ≠ h →
              exec (.bundleInstall m r (h, age) opens) s = .next (woundWait s1 m r h age h2 a2 opens again))
            ∧ (∀ d mk t i, (versionsOf s1 r.line).second = some (.previous d mk t i) → exec (.bundleInstall m r (h, age) opens) s
              = .next (ackInstall (installInto s1 r h age (versionsOf s1 r.line).second) m r))
            ∧ ((versionsOf s1 r.line).second = none → exec (.bundleInstall m r (h, age) opens) s
              = .next (if descriptors s1 r.home < 65535 then ackInstall (installInto s1 r h age none) m r
                else needDescriptor s1 m r h age opens again))))))
    ∧ exec (.installAck m (.strand k) acc grid) s
      = .next (sillLooks (countDown (strandAcked (recv s m (keyDie k)) k acc) grid (coreOfKey k)) k)
    ∧ (let s0 := recv s m (homeDie (homeFor line))
      (switchHolds s0 line 0 = true →
        exec (.viewLoadDecide m who line v skip) s = .next (holdInstall s0 (.viewLoadDecide m who line v skip) 0))
      ∧ (switchHolds s0 line 0 = false → busyLine s0 (homeFor line) line = true ∨ s0.rejoined ≠ [] →
        exec (.viewLoadDecide m who line v skip) s = .next (s0.post (.viewLoadDecide m who line v skip)))
      ∧ (switchHolds s0 line 0 = false → busyLine s0 (homeFor line) line = false → s0.rejoined = [] →
        ((∀ d q mk h2 a2 i, (versionsOf s0 line).second ≠ some (.pending d q mk h2 a2 i)) →
          exec (.viewLoadDecide m who line v skip) s = .next (viewSettled s0 who line v))
        ∧ ∀ d q mk a2 i, (versionsOf s0 line).second = some (.pending d q mk h a2 i) →
          exec (.viewLoadDecide m who line v skip) s = .next
            (if v ≤ i ∨ skip = some h then viewSettled s0 who line v
            else if bundleDev h ≠ s0.dev ∧ routeOk s0 (bundleDev h) = false then
              holdInstall s0 (.viewLoadDecide m who line v skip) h
            else postTo s0 (bundleDev h) (.stateQuery (s0.mail (homeDie (homeFor line))) who h line v)))
      ∧ (let t := settleRejoined (learnState s0 h line c) h line c
        (line = noLine → exec (.stateQueryReply m who h line v c) s = .next (learnClosed (recv s m 8) h c))
        ∧ (line ≠ noLine → exec (.stateQueryReply m who h line v c) s = .next (if who.token = 0 then t
          else t.post (.viewLoadDecide (t.mail (homeDie (homeFor line))) who line v (some h))))))
    ∧ (let s0 := recv s m (homeDie home)
      let p := (pendingLines s0 home h).foldl (fun a l => promoteLine a l stamp) s0
      let dead := markDead s0 h
      let q := (pendingLines dead home h).foldl dropVersion dead
      (home ≠ 126 → home ≠ 127 →
        exec (.commitNotice m home h (stamp, n)) s
          = .next (sendTo (releaseHeld p 0) m.dev (.promotionAck (p.mail (homeDie home)) (128 * p.dev + home) h))
        ∧ exec (.dropNotice m home h) s
          = .next (sendTo (releaseHeld q h) m.dev (.dropAck (q.mail (homeDie home)) (128 * q.dev + home) h)))
      ∧ (home = 126 → exec (.commitNotice m home h (stamp, n)) s = .next (releaseHeld s0 h)
        ∧ exec (.dropNotice m home h) s = .next dead)
      ∧ (home = 127 → exec (.commitNotice m home h (stamp, n)) s = .next (freeBundle (endCloses s0 h 1 (128 * n)) h)
        ∧ exec (.dropNotice m home h) s = .next (endCloses dead h 4 0)))
    ∧ (let s0 := recv s m (bundleDie h)
      let done := updBundle s0 h fun b => { b with waits := b.waits.filter (· != home) }
      exec (.promotionAck m home h) s = .next (settleBundle done h)
      ∧ exec (.dropAck m home h) s = .next (abortDone done h)
      ∧ (let s1 := if isOpen s0 h then { s0 with datum := max s0.datum (v + 1) } else s0
        exec (.stateQuery m who h line v) s
          = .next (postTo s1 m.dev (.stateQueryReply (s1.mail (bundleDie h)) who h line v (stateOf s0 h)))))

/-- R405, R406, R408, R409, R412, R413, R415 to R417, R447: fault records and translations. A staged entry whose ring is open is
written; an invalidation removes its translations and is complete once the accesses that may have used one are performed; a REPLAY
lets every parked access execute again. -/
def Obligations.FaultEvents : Prop :=
  ∀ (s : State) (cl fn packet pasid page pages n : Nat) (e : FaultEntry) (x : Grid) (v : BitVec 64) (w : BitVec 32),
    ((s.cluster cl).staged.find? (fun y => faultRingOpen s y.fn) = some e →
      exec (.faultRecordWrite cl) s = .next (writeFault s cl e))
    ∧ ((s.fn fn).frTimer = n → exec (.faultInterruptTimer fn n) s = .next (faultInterrupt s fn))
    ∧ (∀ q, s.atsPending.find? (fun p => p.1 == pasid && p.2.1 == page && p.2.2.1 == pages) = some q →
      performedBefore s (fun _ => true) q.2.2.2 = true →
      exec (.atsInvalidateRequest pasid page pages) s
        = .next ({ s with atsPending := s.atsPending.erase q }.emitOut (.atsDone pasid page pages)))
    ∧ (s.grids.find packet = some x → x.isOver = false → x.ended = none → x.result = none →
      (x.step = 0 → invalidateOk x = true → exec (.invalidate packet) s = .next (beginInvalidate s packet x))
      ∧ (x.step ≠ 0 → performedBefore s (· == x.at_ 3 1) (x.work.headD 0) = true →
        exec (.invalidate packet) s = .next (endPacket s packet 1 0))
      ∧ (replayOk x = true →
        exec (.replay packet) s = .next (endPacket (replayAll (startPacket s packet false) (x.at_ 3 1)) packet 1 0)))
    ∧ exec (.s1InvalidateAll fn v) s = .next (s1Invalidate fn v (fun _ => true) s)
    ∧ exec (.s1InvalidatePage fn v) s = .next (s1Invalidate fn v (fun y =>
        y.page == (if bitOf v.toNat 3 then 0 else bits v.toNat 4 12 * 16) * 2 ^ 48 + bits v.toNat 16 48) s)
    ∧ ((s.fn fn).s1done = false → performedBefore s (· == fn) (s.fn fn).s1mark = true →
      exec (.s1InvalidateDone fn) s = .next (s.updFn fn fun f => { f with s1done := true }))
    ∧ (let t := s.updFn fn fun f => { f with frEn := bitOf w.toNat 31, frArm := bitOf w.toNat 30, frIrq := w.toNat % 2048 }
      exec (.frctlWrite fn w) s = .next (faultInterrupt ((stagedAt s fn).foldl (fun a c => writeNext a c nextWriteNs) t) fn))
    ∧ exec (.dhctlOvfClear fn) s = .next (s.updFn fn fun f => { f with dhOvf := false })
    ∧ exec (.errstatSharedClear fn) s = .next (s.updFn fn fun f => { f with shared := false })

/-- R261, R262, R387, R413, R416, R417: errors of units. A retired lane takes no strand any more; an error that is not corrected poisons
the lines it affects; a cluster recovers when nothing is on its way to it. -/
def Obligations.UnitErrors : Prop :=
  ∀ (s : State) (core lane slice cl : Nat) (lines : List Nat) (spots : List Spot) (parcel : Option Nat) (ok : Bool),
    exec (.laneRetired core lane) s = .next ((retireLane s core lane).emitNotice pf (coreSrc core 0) 0xD0 true none)
    ∧ exec (.timingReplay core false) s = .next s
    ∧ exec (.timingReplay core true) s = .next ((noteClass (s.emitNotice pf (coreSrc core 0) 0xD1 true none)
        (fnOfCore s core)).emitNotice (fnOfCore s core) (coreSrc core 0) 0xE0 true none)
    ∧ exec (.uncorrectableError spots parcel) s = .next ((errorParcels s spots parcel).foldl (errorNotice (spotLines spots))
        ((spotSlices spots).foldl countSlice (spots.foldl poisonSpot s)))
    ∧ exec (.sharedLogicError lines) s = .next (sharedError s lines)
    ∧ exec (.correctableError slice) s = .next (countSlice s slice)
    ∧ ((s.home cl).busy = [] → s.queue = [] →
      (copiesElsewhere s cl lines = [] → exec (.clusterRecovery cl lines ok) s = .next (recoverCluster s cl lines ok))
      ∧ (copiesElsewhere s cl lines ≠ [] → exec (.clusterRecovery cl lines ok) s = .next
        (((copiesElsewhere s cl lines).foldl (fun a l => beginTx a cl l.1 l.2 .recalled []) s).post (.clusterRecovery cl lines ok))))

/-- R341, R344, R447, R450, R453 to R456: the packets that set and detach trace rings, and those of bias, from their beginning to their
end; the release of stalled emitters; the flips of bias and the host's answers to snoops. A TRACE packet notes how many records have been
accepted, and once they are written sets the ring, its header zeroed, or detaches it. A BIAS packet tests its pages, flips one after
another, and is complete when none is left. A flip begins when it is its turn, and is complete when every line of its page has answered. -/
def Obligations.TraceAndBias : Prop :=
  ∀ (s s1 : State) (packet page line fn : Nat) (x : Grid) (f : Flip) (data : Option Line) (toHost share : Bool) (ps : List Nat) (u : Unit),
    (s.grids.find packet = some x → x.isOver = false → x.ended = none → x.result = none →
      let set : Instr := if share then .traceSetShareRing packet else .traceSetRing packet
      let detach : Instr := if share then .traceDetachShareRing packet else .traceDetachRing packet
      let again : Event := if share then .traceSetShareRing packet else .traceSetRing packet
      let undo : Event := if share then .traceDetachShareRing packet else .traceDetachRing packet
      let owner := if share then 128 else x.fn
      (x.step = 0 → traceOk x = true → exec set s = .next (traceBegin packet share x again s)
        ∧ exec detach s = .next (traceBegin packet share x undo s))
      ∧ (x.step ≠ 0 → x.port.waiting = false → writtenUpTo s owner (x.work.headD 0) = true →
        (x.at_ 2 1 % 2 = 1 → exec detach s = .next (endPacket (setRing s owner none) packet 1 0))
        ∧ (x.at_ 2 1 % 2 = 0 →
          (engWrite (hubEng s packet) (x.at_ 8 2) (x.at_ 0x18 8) (List.replicate 128 0) fun _ => false).run s = (.ok u, s1) →
          let ring : Ring := { pasid := x.pasid, win := x.at_ 8 2, off := x.at_ 0x18 8, logN := x.at_ 0xC 1, wr := 0, drops := 0
                               stallNs := 0, rd := 0, todo := [], lost := [], stalled := [], shown := (0, 0) }
          let t := setRing { s1 with snooped := [] } owner (some ring)
          exec set s = .next (endPacket (if share then t
            else t.updFn x.fn fun y => { y with trcw := x.at_ 0x28 4 % 2 ^ 20, exempt := x.at_ 0x10 4 }) packet 1 0))))
    ∧ ((s.fn fn).ring = none → exec (.traceStallRelease fn) s = .next (releaseStalls fn s.stalls { s with stalls := [] }))
    ∧ (∀ g, (s.fn fn).ring = some g → let t := setRing (readIdx s fn g).2 fn (some (readIdx s fn g).1)
      exec (.traceStallRelease fn) s = .next (releaseStalls fn t.stalls { t with stalls := [] }))
    ∧ (s.grids.find packet = some x → x.isOver = false → x.ended = none → x.result = none →
      let bias : Instr := if toHost then .biasToHost packet else .biasToDevice packet
      let again : Event := packetEvent 6 (b2n toHost) packet
      let offs := (upto (x.at_ 0xC 4)).map fun i => x.at_ 0x18 8 + 4096 * i
      (x.step = 0 → biasOk x = true → x.at_ 0x18 8 + 4096 * x.at_ 0xC 4 ≤ 2 ^ 64 →
        exec bias s = .next ((startPacket s packet false).post again))
      ∧ (x.step = 1 → biasPages (hubEng s packet).who (x.at_ 8 2) offs s = (some ps, none, s1) →
        exec bias s = .next ((s1.updGrid packet fun g => { g with step := 2, work := ps }).post again))
      ∧ (x.step = 2 → x.work = [] → exec bias s = .next (endPacket s packet 1 0))
      ∧ (x.step = 2 → ∀ p r, x.work = p :: r → (s.flips.any fun q => q.2.any fun g => g.packet == some packet) = false →
        exec bias s = .next (askFlips (s.updGrid packet fun g => { g with work := r }) [p] ⟨toHost, [], some packet, none⟩)))
    ∧ (headFlip s page = some f →
      (f.waits = [] → exec (.biasFlipEnd page) s = .next (beginFlip s page f))
      ∧ (f.waits ≠ [] → flipAnswered s page = true → exec (.biasFlipEnd page) s = .next (completeFlip s page f)))
    ∧ (let h := homeFor line
      let merged := match data with
        | some d => homeMerge s h line (number 0 (toBytes 128 d.toNat)) false
        | none => s
      busyLine s h line = true →
      ((s.flips.find (line / 32)).isSome = true → exec (.bisnpResponse line data) s = .next (ackTx merged h line))
      ∧ ((s.flips.find (line / 32)).isSome = false → exec (.bisnpResponse line data) s
        = .next (ackTx { merged with snooped := addNew merged.snooped line } h line)))

/-- R222, R254, R258, R259, R424 to R429, R432 to R434: the scheduler. A group of the highest effective priority binds when there is
room and its AQI's deficit lets it; a group at the heads of its cores' tables is admitted; a block that must leave leaves, or is
killed at the limit; a grid whose work is done ends with its outcome, and its record is written when no message is on its way. -/
def Obligations.SchedulerEvents : Prop :=
  ∀ (s : State) (fn grid core block cl : Nat) (g : Grid) (b : Block) (r : Bind) (ps : List (Nat × Unbound)),
    (let t := tidyFn (tidyTables s) fn
      let q := turnFrom (topLevel t fn) (t.fn fn).turn
      let bs := nextBlocks t grid
      (t.fn fn).err = false → (topLevel t fn).find? (fun p => p.2.aqi == q) = some (grid, g) →
      (findPlace t grid bs).1 = some ps → ps.length * g.strands ≤ (t.aqi fn q).deficit →
      exec (.blockBind fn) s = .next (bindGroup (findPlace t grid bs).2 fn q grid (ps.length * g.strands) bs ps))
    ∧ (s.grids.find grid = some g → g.live = true →
      exec (.launchAgeTick grid) s = .next (ageLaunch s grid g)
      ∧ (g.waiting ≠ none → (s.fn g.fn).err = false → exec (.priorityPreempt grid) s = .next (preemptFor s grid g)))
    ∧ (let t := tidyTables s
      ∀ rs u, bindsOf t core = r :: rs → groupHeads t r = true → groupAsleep t r = [] →
      admitAll t (groupMembers t r) = some u →
      exec (.blockAdmit core) s
        = .next ((groupCores t r).foldl (fun a c => a.post (.blockAdmit c)) (u.send (.blockBind (t.grid r.grid).fn))))
    ∧ (s.blocks.find block = some b →
      (b.phase = .leaving →
        exec (.blockLeave block) s = .next (leaveBlock s block b)
        ∧ let left := saveLimit s (s.grid b.grid).fn - saveTime s b
          exec (.saveLimitExpiry block b.core b.admitted) s = .next (if left = 0 then killBlock s block cSaveLimit
            else s.after left (.saveLimitExpiry block b.core b.admitted)))
      ∧ (b.phase = .resident → exec (.blockRetire block) s = .next (retireBlock s block b)))
    ∧ (s.grids.find grid = some g → g.isOver = false → g.port.waiting = false →
      (g.ended = none → ∀ o, outcomeOf s g = some o → exec (.gridComplete grid) s = .next
        (let s1 := s.updGrid grid fun y => { y with result := some o, ended := some s.datum }
        (if g.kind = 1 ∧ o.1 ≠ 2 then s1.emit g.fn (hubSrc 0) 0x96 g.seqNo else s1).post (.gridComplete grid)))
      ∧ (g.ended ≠ none → s.queue = [] → exec (.gridComplete grid) s = .next (writeRecord s grid g (g.result.getD (1, 0)))))
    ∧ (clusterBusy s cl = false → (s.cluster cl).idle = false → (s.cluster cl).quiet + msToDatum 1 ≤ s.datum →
      exec (.clusterIdle cl) s = .next ((s.updCluster cl fun c => { c with timer := false }).updCluster cl fun c =>
        { c with idle := true }))
    ∧ ∀ cls, s.wakes = cl :: cls → exec .clusterWake s = .next (wakeNext s cl cls)

/-- R336, R460, R461, R465 to R468: the module. A cold reset loses everything and runs the boot sequence; the FLRs and the partition
restart tear partitions down; the datum clock is set forward before its first lock, and never back. -/
def Obligations.ModuleEvents : Prop :=
  ∀ (s : State) (level die dev err fn units : Nat) (bad lanes : List Nat),
    exec (.powerStep level) s = .next ({ s with throttle := level }.emitNotice pf (hubSrc 33) 0xD2 false none)
    ∧ exec (.thermalTrip die) s = .next { sharedError s [] with
        queue := [(0, .coldReset (sharedError s []).dev 0 [] [])], linkQueues := [], later := [], timers := [], sched := [] }
    ∧ (s.everLocked = false → exec (.clockAdjust true units) s
        = .next ({ s with datum := s.datum + units, locked := true, everLocked := true }.emitNotice pf (hubSrc 34) 0xF0 false
          (some units)))
    ∧ (s.everLocked = true → ∀ ahead,
      exec (.clockAdjust ahead units) s = .next (s.emitNotice pf (hubSrc 34) 0xF0 false (some units)))
    ∧ (s.everLocked = false → exec (.clockAdjust false units) s = .next s)
    ∧ exec (.clockLock true) s = .next { s with locked := true, everLocked := s.everLocked || true }
    ∧ exec (.clockLock false) s
        = .next ({ s with locked := false, everLocked := s.everLocked || false }.emitNotice pf (hubSrc 34) 0xF1 false (some 0))
    ∧ (err = 1 ∨ err = 3 → exec (.coldReset dev err bad lanes) s = .next (blankReset dev err s))
    ∧ exec (.coldReset dev 2 bad lanes) s = .next (measure (blankReset dev 2 s) 2)
    ∧ exec (.coldReset dev 4 bad lanes) s = .next (bootUnits bad lanes (measure (blankReset dev 4 s) 6))
    ∧ exec (.coldReset dev 0 bad lanes) s = .next (finishBoot (bootKeys bad (bootUnits bad lanes (measure (blankReset dev 0 s) 6))))
    ∧ (let t := teardown s (rangeFrom 1 64 ++ [pf]) false
      exec .pfFlr s = .next (pfRegisters ((t.routes.map (·.1)).foldl peerLeaves { t with routes := [] })))
    ∧ (1 ≤ fn → fn ≤ 64 → exec (.vfFlr fn) s = .next (resetVfs s [fn]))
    ∧ exec .vfEnableClear s = .next (resetVfs s (rangeFrom 1 64))
    ∧ (s.pfQueue.head? = some 0 → let u := quiesce s s.restartFn
      exec (.partitionRestart fn) s = .next (if isLocked s s.restartFn = false ∧ opsUnderWay u s.restartFn = true
        then u.post (.partitionRestart s.restartFn)
        else pfPump (restartPartition { s with pfQueue := s.pfQueue.drop 1 } s.restartFn)))
    ∧ (s.pfQueue.head? ≠ some 0 → exec (.partitionRestart fn) s = .next (placeRestart s fn))

/-- R370, R371, R376, R379, R380, R389: parcels. A create or destroy at the head of the PF's order takes effect when its fields and its
state allow it; a resize or a migration drains, copies in rounds and switches; a parcel that has been released gets new keys and is
scrubbed before it is free. -/
def Obligations.ParcelEvents : Prop :=
  ∀ (s : State) (packet parcel n : Nat) (ok : Bool) (x : Grid) (m : Move) (todo : List Nat),
    (s.grids.find packet = some x → x.isOver = false → x.ended = none → x.result = none → x.step = 0 →
      s.pfQueue.head? = some packet →
      (createFails s x = none → exec (.partitionCreate packet) s = .next (createPartition packet x s))
      ∧ (destroyFails s x = none → exec (.partitionDestroy packet) s = .next (destroyPartition packet x s))
      ∧ (let l := remapList s x
        let s1 := chargeFar s pf 4 hostBase (16 * x.at_ 0x20 4) false
        l.2 = false → ∀ ps, moveCheck s1 x l.1 = .ok ps → let t := noteTables s1 (x.at_ 3 1)
          exec (.resize packet) s = .next (beginMove t packet x ps) ∧ exec (.migrate packet) s = .next (beginMove t packet x ps))
      ∧ (meterOk x = true → exec (.meter packet) s = .next (endPacket (noteChange (setMeter (startPacket s packet false) (x.at_ 3 1)
        (x.at_ 4 1) (x.at_ 8 4))) packet 1 0)))
    ∧ (s.grids.find packet = some x → x.step = 3 → x.result = none → x.isOver = false →
      exec (.partitionCreate packet) s = .next (finishCreate packet x s))
    ∧ (s.move = some m → m.packet = packet →
      (m.phase = .drain → drainedParcels s m.remove = true →
        exec (.migrationDrainDone packet) s = .next
          ({ s with move := some { m with phase := .copy 1 m.rows, dirty := [] } }.post (.migrationCopyRoundDone packet)))
      ∧ (m.phase = .copy n todo → exec (.migrationCopyRoundDone packet) s = .next (copyRound s packet m n todo))
      ∧ (m.phase = .switch → moveBusy s m = false → remoteMoved s m = [] →
        exec (.migrationCopyRoundDone packet) s = .next (switchPages s m)))
    ∧ (s.rekey.contains parcel = true → exec (.keysReplaced parcel) s = .next (newKeys s parcel))
    ∧ ((s.platOf parcel).owner = 0 → s.rekey.contains parcel = false → (s.platOf parcel).state = .erasing →
      exec (.parcelScrubDone parcel ok) s = .next (scrubbed s parcel (!ok || (s.platOf parcel).bad)))

/-- R301, R442, R453, R457 to R459, R470: the host and the peers. A read of device memory by the host is answered with the home's data; a
peer's access is translated and served as the module's own; a peer whose route goes leaves. -/
def Obligations.PeerEvents : Prop :=
  ∀ (s s1 : State) (m : Mail) (addr tag line domain port word cluster incarn ga : Nat) (r : MemReq)
    (v : BitVec 32) (a : PeerAnswer),
    (hdmXlate s (addr / 64 * 64) false = (some ga, s1) → busyLine s1 (homeFor (ga / 128)) (ga / 128) = false →
      (dirOf s1 (homeFor (ga / 128)) (ga / 128)).owner = none →
      exec (.hostMemRead addr tag) s = .next (
        let t := (checkTag s1 (ga / 128)).2
        t.emitOut (.hostData (homeFor (ga / 128)) tag (BitVec.ofNat 512 (field (homeLine t (homeFor (ga / 128)) (ga / 128)) (8 * (ga % 128)) 512))
          (linePoisoned t (homeFor (ga / 128)) (ga / 128)))))
    ∧ (∀ b : Byte, hdmXlate s (128 * (addr / 128)) true = (some ga, s1) →
      exec (.hostMemWrite addr [(0, b)]) s
        = .next (hostWriteLine s1 (ga / 128) [(addr % 128, b)] (.hostMemWrite addr [(0, b)])))
    ∧ (hdmXlate s (addr / 64 * 64) false = (some ga, s1) → busyLine s1 (homeFor (ga / 128)) (ga / 128) = false →
      ∀ o, (dirOf s1 (homeFor (ga / 128)) (ga / 128)).owner = some o → exec (.hostMemRead addr tag) s
        = .next (beginTx s1 (homeFor (ga / 128)) (ga / 128) [o] .recalled [.hostMemRead addr tag]))
    ∧ (hdmXlate s (addr / 64 * 64) false = (none, s1) → let d := freeBytes 64 s1
      exec (.hostMemRead addr tag) s = .next (d.2.emitOut (.hostData hostHome tag (BitVec.ofNat 512 d.1) true)))
    ∧ (busyLine s (homeAt s line) line = false →
      let h := homeAt s line
      let owner := (dirOf s h line).owner
      let dirty := !(dirtyWords (s.home h).l2 line).isEmpty || match owner with | some o => holdsDirty s o line | none => false
      let answer (t : State) : Output := .snoopData line (if dirty then some (homeLine t h line) else none)
      (let t := settleLine s h line;
        exec (.hostSnoop line true) s = .next ((l2Drop t h line).emitOut (answer t)))
      ∧ (owner = none → exec (.hostSnoop line false) s = .next ((l2Clean s h line).emitOut (answer s)))
      ∧ (∀ o, owner = some o →
        let t := (updDir (l1Clean s o line false) h line fun d => { d with owner := none, sharers := addNew d.sharers o }).updCore o
          fun k => { k with l1 := { k.l1 with lines := k.l1.lines.upd line fun x => { x with st := .s } } }
        exec (.hostSnoop line false) s = .next ((l2Clean t h line).emitOut (answer t))))
    ∧ (let s0 := recv s m 8
      let old := decide (clusterOf r.core < 64)
        && olderIncarn r.incarn (s0.peerIncarn.getD (64 * m.dev + clusterOf r.core) 0)
      let write := match r.op with | .load => false | _ => true
      let fetch := match r.agent with | .fetch _ => true | _ => false
      (old = true → exec (.peerAccessRequest m domain (.access r)) s = .next s0)
      ∧ (old = false → peerXlate s0 m.dev domain (localOf (r.line * 128)) write fetch (.access r) = (some (some ga), s1) →
        let q := localReq s1 m.dev (ga / 128) r
        let s2 := if r.op = .load then (checkTag s1 (ga / 128)).2 else s1
        exec (.peerAccessRequest m domain (.access r)) s = .next ({ s2 with
          nextId := s2.nextId + 1, peerReqs := s2.peerReqs.put q.acc (m.dev, q.home, r) }.send (reqEvent q (nearHere s2 q))))
      ∧ (old = false → peerXlate s0 m.dev domain (localOf (r.line * 128)) write fetch (.access r) = (some none, s1) →
        exec (.peerAccessRequest m domain (.access r)) s = .next (s1.emitOut (.answer m.dev hostHome (.refused r))))
      ∧ (∀ strand page w x, peerXlate s0 m.dev domain (localOf (page * 65536)) w false (.page strand page w) = (some x, s1) →
        exec (.peerAccessRequest m domain (.page strand page w)) s
          = .next (s1.emitOut (.answer m.dev hostHome (.page strand page (x.map (· / 65536)))))))
    ∧ (let s0 := recv s m 8
      (∀ q, (∀ st tk l d, a ≠ .viewed st tk l d) → (∀ c l, a ≠ .kept c l) →
        s0.peerAsked.find? (fun p => p.1 == m.dev && answersAsk a p.2) = some q →
        exec (.peerAccessReply m a) s = .next (takeAnswer { s0 with peerAsked := s0.peerAsked.erase q } m.dev a))
      ∧ ((∃ st tk l d, a = .viewed st tk l d) ∨ (∃ c l, a = .kept c l) →
        exec (.peerAccessReply m a) s = .next (takeAnswer s0 m.dev a)))
    ∧ (let devs := (s.routes.filter fun p => bitOf p.2 7 && p.2 % 8 == port % 8).map (·.1)
      exec (.fabricLinkFailure port) s = .next (devs.foldl peerLeaves
        (devs.foldl (fun (b : State) d => { b with routes := b.routes.upd d fun e => putBits e 7 1 0 }) s)))
    ∧ (let s0 := recv s m 8
      let t := dropStale { s0 with peerIncarn := s0.peerIncarn.put (64 * m.dev + cluster) incarn } m.dev cluster
      exec (.peerReady m cluster incarn) s = .next (settleReturned (askReturned t m.dev) m.dev))
    ∧ (let ds := rangeFrom (4 * word) 4
      let t := ds.foldl (fun (b : State) d =>
        let e := putBits (field v (8 * (d % 4)) 8) 3 4 0
        { b with routes := if e = 0 then b.routes.del d else b.routes.put d e }) s
      exec (.routeTableWrite word v) s = .next ((ds.filter fun d => routeOk s d && !routeOk t d).foldl peerLeaves t))

/-- R382 to R386: a request that comes in its turn is answered and moves the connection, the session or the interface on; one out of
its turn is answered with an error. What the spec puts into an answer (the certificate chain and its digest, the measurements, the
report) is in it, and a signing answer is signed with this boot's alias key; the rest is open (log 12). -/
def Obligations.SecureEvents : Prop :=
  ∀ (s : State) (fn n : Nat) (a : Amendment) (d : Option (Nat × Nat)),
    let x := s.fn fn
    let sign (t : State) (code : Nat) (known : List Nat) : Out :=
      .next (secureAnswer t fn code (known ++ [Config.signature (aliasPair s).1 (known ++ [s.free]) % 2 ^ (8 * signatureBytes)]))
    let error : Out := .next (secureAnswer s fn 0x7F)
    exec (.getVersion fn) s = .next (secureAnswer (s.updFn fn fun f => { f with spdm := .version, session := 0 }) fn 0x84)
    ∧ exec (.getCapabilities fn n) s
      = (if x.spdm = .version then .next (secureAnswer (setSpdm fn .capabilities s) fn 0xE1) else error)
    ∧ exec (.negotiateAlgorithms fn n) s
      = (if x.spdm = .capabilities then .next (secureAnswer (setSpdm fn .algorithms s) fn 0xE3 algorithms) else error)
    ∧ (x.spdm = .algorithms ∨ x.spdm = .handshake →
      let chain := Config.identityChain ++ Config.certificate (Config.keyPair Config.identitySeed 0).1 (aliasPair s).2
      exec (.getDigests fn) s = .next (secureAnswer s fn 0x81 [(sha256 chain).toNat])
      ∧ exec (.getCertificate fn n) s = .next (secureAnswer s fn 0x82 chain)
      ∧ exec (.challenge fn n) s = sign s 0x83 [(sha256 chain).toNat, n]
      ∧ exec (.keyExchange fn n) s = sign (setSpdm fn .handshake s) 0xE4 [n, (Config.exchangeKey s.free).toNat]
      ∧ let found := (measurements s fn).filter fun m => n % 256 = 0xFF ∨ m.1 = n % 256
        let known := if n % 256 = 0 then [(measurements s fn).length] else found.flatMap fun m => [m.1, m.2]
        (n % 256 = 0 ∨ found ≠ [] → exec (.getMeasurements fn n) s
          = if bitOf n 8 then sign s 0xE0 known else .next (secureAnswer s fn 0xE0 known))
        ∧ (n % 256 ≠ 0 → n % 256 ≠ 0xFF → found = [] → exec (.getMeasurements fn n) s = error))
    ∧ (x.spdm ≠ .algorithms → x.spdm ≠ .handshake →
      exec (.getDigests fn) s = error ∧ exec (.getCertificate fn n) s = error ∧ exec (.challenge fn n) s = error
      ∧ exec (.keyExchange fn n) s = error ∧ exec (.getMeasurements fn n) s = error)
    ∧ exec (.finish fn) s = (if x.spdm = .handshake then
        .next (secureAnswer (s.updFn fn fun f => { f with
          spdm := .algorithms, session := f.sessions + 1, sessions := f.sessions + 1 }) fn 0xE5) else error)
    ∧ exec (.endSession fn) s = (if x.session ≠ 0 then
        .next (secureAnswer (s.updFn fn fun f => { f with session := 0 }) fn 0xEC) else error)
    ∧ exec (.amend fn a) s = (if boundSession x = true ∧ a.aseq = x.amendments + 1 then
        .next (secureAnswer (s.updFn fn fun f => { f with amend := some a }) fn 0xFE) else error)
    ∧ (isInterface fn = false → ∀ i ∈ [Instr.getTdispVersion fn, .getTdispCapabilities fn, .lockInterfaceRequest fn,
        .getDeviceInterfaceReport fn, .getDeviceInterfaceState fn, .startInterfaceRequest fn, .stopInterfaceRequest fn],
      exec i s = .next (tdispAnswer s fn 0x7F))
    ∧ (isInterface fn = true →
    exec (.getTdispVersion fn) s = .next (secureAnswer s fn 0x181 [0x10])
    ∧ exec (.getTdispCapabilities fn) s = .next (tdispAnswer s fn 0x82)
    ∧ exec (.lockInterfaceRequest fn) s = .next (if x.tdisp = .unlocked then
        tdispAnswer (setLock (s.updFn fn fun f => { f with tdisp := .locked, lockedBy := f.session }) fn true) fn 0x83
        else tdispAnswer s fn 0x7F)
    ∧ exec (.getDeviceInterfaceReport fn) s = .next (s.emitOut (.report fn ((parcelsOf s fn).map fun p => (p, (s.platOf p).kgen))
        (partitionSlices s fn) ((upto 18).map fun m => (m, x.meters.getD m 0))))
    ∧ exec (.getDeviceInterfaceState fn) s = .next (s.emitOut (.secure fn 0x185 [x.tdisp.code] 0))
    ∧ exec (.startInterfaceRequest fn) s = .next (if x.tdisp = .locked then
        tdispAnswer (s.updFn fn fun f => { f with tdisp := .run }) fn 0x86 else tdispAnswer s fn 0x7F)
    ∧ exec (.stopInterfaceRequest fn) s
        = .next (tdispAnswer (setLock (s.updFn fn fun f => { f with tdisp := .unlocked, lockedBy := 0 }) fn false) fn 0x87))
    ∧ exec (.vfConfigWrite (fn, none)) s = .next (failInterface s fn)
    ∧ ∀ p, d = some p → exec (.vfConfigWrite (fn, d)) s
        = .next (failInterface (s.updFn fn fun f => { f with hdmBase := p.1, hdmSize := p.2 }) fn)

/-- R418, R423, R445 to R450: AQIs and packets. A write to the notify page of an AQI that may be used has its effect; an AQI that may
go on reads its next packet, where the host lets it read its ring; a packet whose fields are in their limits has its effect. -/
def Obligations.PacketEvents : Prop :=
  ∀ (s : State) (fn q value packet : Nat) (x : Grid),
    (notifyOk s fn q = true →
      (tailOk (s.aqi fn q) value = true → exec (.tailWrite fn q value) s
        = .next (aqiPump (s.updAqi fn q fun y => { y with tail := value % 2 ^ 32 }) fn q))
      ∧ exec (.aqiArm fn q value) s
        = .next (armCheck (s.updAqi fn q fun y => { y with armed := some (value % 2048) }) fn q)
      ∧ exec (.aqiPause fn q) s = .next (s.updAqi fn q fun y => { y with paused := true })
      ∧ exec (.aqiResume fn q) s = .next (aqiPump (s.updAqi fn q fun y => { y with paused := false }) fn q))
    ∧ ((s.aqi fn q).en = false → (s.aqi fn q).valid = true → aqiExists s fn q = true →
      exec (.aqiEnable fn q) s = .next (aqiPump (s.updAqi fn q fun y => { y with en := true }) fn q))
    ∧ ((s.aqi fn q).en = true → exec (.aqiDisable fn q) s = .next (disableAqi s fn q))
    ∧ (let a := s.aqi fn q
      let t := fillBucket s fn
      let addr := a.rbase + 64 * (a.head % a.depth)
      let ans := Config.atsAnswer a.pasid (addr / 65536) t.free
      let u := chargeFar { t with free := t.free + 1 } fn 4 hostBase 64 false
      let d := farRead u (hostBase + ans / 4 * 65536 + addr % 65536) 64
      aqiExists s fn q = true → a.en = true → a.paused = false → a.head ≠ a.tail → a.hold = .none → meterOpen (t.fn fn) = true →
      exec (.packetStart fn q) s = .next (if bitOf ans 0 then
          if d.2 then logError (disableAqi u fn q) fn 8 0 q a.head else takePacket (takeToken u fn) fn q d.1
        else requestFault (u.updAqi fn q fun y => { y with hold := .replay none }) ⟨fn, a.pasid, 256, none⟩
          ⟨0, 0, 3, addr / 65536 * 65536, false, false, false⟩))
    ∧ (s.grids.find packet = some x → x.isOver = false → x.ended = none → x.result = none → x.port.waiting = false →
      (x.step = 0 →
        (launchFields x = true → ∀ d t,
          engRun (hubEng s packet) (.launch packet) (holdAqi packet) (engRead (hubEng s packet) (x.at_ 8 2) (x.at_ 0x18 8) 128) s
            = (.done (d, false), t) →
          exec (.launch packet) s = .next (checkLaunch t packet x (ofBytes d)))
        ∧ (copyOk x = true → x.at_ 0x18 8 + x.at_ 0xC 4 ≤ 2 ^ 64 → x.at_ 0x28 8 + x.at_ 0xC 4 ≤ 2 ^ 64 →
          exec (.copyPacket packet) s = .next (copyBegin s packet x))
        ∧ (nblaunchOk s x = true → exec (.nblaunch packet) s = .next (nblaunchBegin s packet x)))
      ∧ (let s1 := startPacket s packet false
        ∀ ps t, signalOk x = true →
        engRun (hubEng s1 packet) (.signalPacket packet) (fun _ => holdPacket packet)
          (engPages (hubEng s1 packet) true (x.at_ 8 2) (x.at_ 0x18 8) 8) s1 = (.done ps, t) →
        exec (.signalPacket packet) s = .next (hubSignal t packet x (ps.headD (0, 0, 0)).1))
      ∧ (let s1 := startPacket s packet true
        ∀ d t, waitOk x = true →
        engRun (hubEng s1 packet) (.waitPacket packet) (fun _ => holdPacket packet)
          (engRead (hubEng s1 packet) (x.at_ 8 2) (x.at_ 0x18 8) 8) s1 = (.done d, t) → waitMet x (ofBytes d.1) = true →
        exec (.waitPacket packet) s = .next (endPacket t packet 1 0))
      ∧ (x.limitsOk [] = true → earlierOpen (startPacket s packet true) packet x = false →
        exec (.qfence packet) s = .next (endPacket (startPacket s packet true) packet 1 0)))

/-- R313, R394, R442 to R446, R451, R452, R465: register writes. A write of a register's width at its offset, once the module is READY, has
the register's effect; before that it is ignored. -/
def Obligations.RegisterEvents : Prop :=
  ∀ (s : State) (fn q i slice bsu : Nat) (w : BitVec 32) (v : BitVec 64),
    (let e := intrEntry s fn i
      let t := updIntr s fn i fun x => { x with mask := false, pend := false }
      exec (.intrEntryUnmask fn i) s = .next (if e.mask && e.pend then sendInterrupt t fn i e.why else t))
    ∧ (isLocked s fn = false → 2 ≤ w.toNat % 16 → w.toNat % 16 ≤ 9 →
      exec (.scopepolWrite fn w) s
        = .next (s.updFn fn fun f => { f with cap := w.toNat % 16, capFault := bitOf w.toNat 4, capCount := 0 }))
    ∧ exec (.cscountClear fn) s = .next (s.updFn fn fun f => { f with capCount := 0 })
    ∧ (q < 64 → exec (.aqibindWrite fn q w) s = .next (aqiPump
        (s.updAqi fn q fun a => { a with valid := bitOf w.toNat 31, revoked := bitOf w.toNat 30, pasid := w.toNat % 2 ^ 20 }) fn q))
    ∧ (w.toNat % 128 ≤ 64 → (s.fns.filter fun p => p.1 != fn).foldl (fun t p => t + p.2.naqi) 0 + w.toNat % 128 ≤ 1024 →
      exec (.naqiWrite fn w) s = .next ((upto (w.toNat % 128)).foldl (fun a q => aqiPump a fn q)
        (s.updFn fn fun f => { f with naqi := w.toNat % 128 })))
    ∧ exec (.refusalCounterClear slice bsu) s = .next { s with refusals := s.refusals.del (16 * slice + bsu) }
    ∧ (s.ready = true →
      exec (.registerWrite fn 0 8 v) s = .next (s.updFn fn fun f => { f with s1root := bits v.toNat 16 36 * 65536 }))
    ∧ (s.ready = false → ∀ o n, exec (.registerWrite fn o n v) s = .next s)
end

