-- ==== Sys2Proof/Laws/Events.lean ====
section
/-!
SUPPORT. An event that comes due is performed as `exec` performs its row of the opcode table.
-/
namespace Sys2Proof.Machine

theorem perform_issueOpportunity (s : State) : ∀ lane, perform (.issueOpportunity lane) s = exec (.issueOpportunity lane) s := fun _ => rfl
theorem perform_instructionLineArrival (s : State) : ∀ strand win addr line, perform (.instructionLineArrival strand win addr line) s = exec (.instructionLineArrival strand win addr line) s := fun _ _ _ _ => rfl
theorem perform_memoryAccessComplete (s : State) : ∀ r, perform (.memoryAccessComplete r) s = exec (.memoryAccessComplete r) s := fun _ => rfl
theorem perform_storeAck (s : State) : ∀ agent acc grid, perform (.storeAck agent acc grid) s = exec (.storeAck agent acc grid) s := fun _ _ _ => rfl
theorem perform_preemptDelivery (s : State) : ∀ strand, perform (.preemptDelivery strand) s = exec (.preemptDelivery strand) s := fun _ => rfl
theorem perform_sleepExpiry (s : State) : ∀ strand acc, perform (.sleepExpiry strand acc) s = exec (.sleepExpiry strand acc) s := fun _ _ => rfl
theorem perform_plumbPhaseComplete (s : State) : ∀ strand, perform (.plumbPhaseComplete strand) s = exec (.plumbPhaseComplete strand) s := fun _ => rfl
theorem perform_waitRecheck (s : State) : ∀ strand, perform (.waitRecheck strand) s = exec (.waitRecheck strand) s := fun _ => rfl
theorem perform_signalArrival (s : State) : ∀ r, perform (.signalArrival r) s = exec (.signalArrival r) s := fun _ => rfl
theorem perform_arrayOpStart (s : State) : ∀ op, perform (.arrayOpStart op) s = exec (.arrayOpStart op) s := fun _ => rfl
theorem perform_arrayOpComplete (s : State) : ∀ op, perform (.arrayOpComplete op) s = exec (.arrayOpComplete op) s := fun _ => rfl
theorem perform_subnormalAssistDone (s : State) : ∀ op, perform (.subnormalAssistDone op) s = exec (.subnormalAssistDone op) s := fun _ => rfl
theorem perform_jobStart (s : State) : ∀ job, perform (.jobStart job) s = exec (.jobStart job) s := fun _ => rfl
theorem perform_jobComplete (s : State) : ∀ job, perform (.jobComplete job) s = exec (.jobComplete job) s := fun _ => rfl
theorem perform_collectiveStart (s : State) : ∀ fn name remote, perform (.collectiveStart fn name remote) s = exec (.collectiveStart fn name remote) s := fun _ _ _ => rfl
theorem perform_bsuExecute (s : State) : ∀ op bsu, perform (.bsuExecute op bsu) s = exec (.bsuExecute op bsu) s := fun _ _ => rfl
theorem perform_homeLoadFill (s : State) : ∀ r, perform (.homeLoadFill r) s = exec (.homeLoadFill r) s := fun _ => rfl
theorem perform_forwardedRequest (s : State) : ∀ m r owner data mark, perform (.forwardedRequest m r owner data mark) s = exec (.forwardedRequest m r owner (data, mark)) s := fun _ _ _ _ _ => rfl
theorem perform_homeOwnershipRequest (s : State) : ∀ r, perform (.homeOwnershipRequest r) s = exec (.homeOwnershipRequest r) s := fun _ => rfl
theorem perform_homeStoreArrival (s : State) : ∀ r, perform (.homeStoreArrival r) s = exec (.homeStoreArrival r) s := fun _ => rfl
theorem perform_combineWindowClose (s : State) : ∀ home line number, perform (.combineWindowClose home line number) s = exec (.combineWindowClose home line number) s := fun _ _ _ => rfl
theorem perform_homeFarAtomic (s : State) : ∀ r, perform (.homeFarAtomic r) s = exec (.homeFarAtomic r) s := fun _ => rfl
theorem perform_l1Invalidation (s : State) : ∀ m home core line, perform (.l1Invalidation m home core line) s = exec (.l1Invalidation m home ⟨core, line⟩) s := fun _ _ _ _ => rfl
theorem perform_writebackArrival (s : State) : ∀ m home core line mask data ack gone mark, perform (.writebackArrival m home core line mask data ack gone mark) s = exec (.writebackArrival m home ⟨core, line⟩ mask data ack gone mark) s := fun _ _ _ _ _ _ _ _ _ => rfl
theorem perform_bundleInstall (s : State) : ∀ m r bundle age opens, perform (.bundleInstall m r bundle age opens) s = exec (.bundleInstall m r (bundle, age) opens) s := fun _ _ _ _ _ => rfl
theorem perform_installAck (s : State) : ∀ m agent acc grid, perform (.installAck m agent acc grid) s = exec (.installAck m agent acc grid) s := fun _ _ _ _ => rfl
theorem perform_viewLoadDecide (s : State) : ∀ m who line v skip, perform (.viewLoadDecide m who line v skip) s = exec (.viewLoadDecide m who line v skip) s := fun _ _ _ _ _ => rfl
theorem perform_nameRegister (s : State) : ∀ m who scope name act, perform (.nameRegister m who scope name act) s = exec (.nameRegister m who scope name act) s := fun _ _ _ _ _ => rfl
theorem perform_joinMessage (s : State) : ∀ m who bundle answer, perform (.joinMessage m who bundle answer) s = exec (.joinMessage m who bundle answer) s := fun _ _ _ _ => rfl
theorem perform_bundleCloseArrival (s : State) : ∀ m who bundle kind lines, perform (.bundleCloseArrival m who bundle kind lines) s = exec (.bundleCloseArrival m who bundle kind lines) s := fun _ _ _ _ _ => rfl
theorem perform_commitNotice (s : State) : ∀ m home bundle stamp lines, perform (.commitNotice m home bundle stamp lines) s = exec (.commitNotice m home bundle (stamp, lines)) s := fun _ _ _ _ _ => rfl
theorem perform_promotionAck (s : State) : ∀ m home bundle, perform (.promotionAck m home bundle) s = exec (.promotionAck m home bundle) s := fun _ _ _ => rfl
theorem perform_dropNotice (s : State) : ∀ m home bundle, perform (.dropNotice m home bundle) s = exec (.dropNotice m home bundle) s := fun _ _ _ => rfl
theorem perform_dropAck (s : State) : ∀ m home bundle, perform (.dropAck m home bundle) s = exec (.dropAck m home bundle) s := fun _ _ _ => rfl
theorem perform_stateQuery (s : State) : ∀ m who bundle line v, perform (.stateQuery m who bundle line v) s = exec (.stateQuery m who bundle line v) s := fun _ _ _ _ _ => rfl
theorem perform_stateQueryReply (s : State) : ∀ m who bundle line v stamp, perform (.stateQueryReply m who bundle line v stamp) s = exec (.stateQueryReply m who bundle line v stamp) s := fun _ _ _ _ _ _ => rfl
theorem perform_abortedHoldExpiry (s : State) : ∀ bundle, perform (.abortedHoldExpiry bundle) s = exec (.abortedHoldExpiry bundle) s := fun _ => rfl
theorem perform_faultRecordWrite (s : State) : ∀ cluster, perform (.faultRecordWrite cluster) s = exec (.faultRecordWrite cluster) s := fun _ => rfl
theorem perform_faultInterruptTimer (s : State) : ∀ fn number, perform (.faultInterruptTimer fn number) s = exec (.faultInterruptTimer fn number) s := fun _ _ => rfl
theorem perform_traceStallRelease (s : State) : ∀ fn, perform (.traceStallRelease fn) s = exec (.traceStallRelease fn) s := fun _ => rfl
theorem perform_blockBind (s : State) : ∀ fn, perform (.blockBind fn) s = exec (.blockBind fn) s := fun _ => rfl
theorem perform_launchAgeTick (s : State) : ∀ grid, perform (.launchAgeTick grid) s = exec (.launchAgeTick grid) s := fun _ => rfl
theorem perform_priorityPreempt (s : State) : ∀ grid, perform (.priorityPreempt grid) s = exec (.priorityPreempt grid) s := fun _ => rfl
theorem perform_blockAdmit (s : State) : ∀ core, perform (.blockAdmit core) s = exec (.blockAdmit core) s := fun _ => rfl
theorem perform_blockLeave (s : State) : ∀ block, perform (.blockLeave block) s = exec (.blockLeave block) s := fun _ => rfl
theorem perform_saveLimitExpiry (s : State) : ∀ block core order, perform (.saveLimitExpiry block core order) s = exec (.saveLimitExpiry block core order) s := fun _ _ _ => rfl
theorem perform_blockRetire (s : State) : ∀ block, perform (.blockRetire block) s = exec (.blockRetire block) s := fun _ => rfl
theorem perform_gridComplete (s : State) : ∀ grid, perform (.gridComplete grid) s = exec (.gridComplete grid) s := fun _ => rfl
theorem perform_clusterIdle (s : State) : ∀ cluster, perform (.clusterIdle cluster) s = exec (.clusterIdle cluster) s := fun _ => rfl
theorem perform_clusterWake (s : State) : perform .clusterWake s = exec .clusterWake s := rfl
theorem perform_powerStep (s : State) : ∀ level, perform (.powerStep level) s = exec (.powerStep level) s := fun _ => rfl
theorem perform_thermalTrip (s : State) : ∀ die, perform (.thermalTrip die) s = exec (.thermalTrip die) s := fun _ => rfl
theorem perform_clockAdjust (s : State) : ∀ ahead units, perform (.clockAdjust ahead units) s = exec (.clockAdjust ahead units) s := fun _ _ => rfl
theorem perform_clockLock (s : State) : ∀ locked, perform (.clockLock locked) s = exec (.clockLock locked) s := fun _ => rfl
theorem perform_laneRetired (s : State) : ∀ core lane, perform (.laneRetired core lane) s = exec (.laneRetired core lane) s := fun _ _ => rfl
theorem perform_timingReplay (s : State) : ∀ core persists, perform (.timingReplay core persists) s = exec (.timingReplay core persists) s := fun _ _ => rfl
theorem perform_uncorrectableError (s : State) : ∀ lines parcel, perform (.uncorrectableError lines parcel) s = exec (.uncorrectableError lines parcel) s := fun _ _ => rfl
theorem perform_sharedLogicError (s : State) : ∀ lines, perform (.sharedLogicError lines) s = exec (.sharedLogicError lines) s := fun _ => rfl
theorem perform_clusterRecovery (s : State) : ∀ cluster lost ok, perform (.clusterRecovery cluster lost ok) s = exec (.clusterRecovery cluster lost ok) s := fun _ _ _ => rfl
theorem perform_coldReset (s : State) : ∀ dev err bad lanes, perform (.coldReset dev err bad lanes) s = exec (.coldReset dev err bad lanes) s := fun _ _ _ _ => rfl
theorem perform_pfFlr (s : State) : perform .pfFlr s = exec .pfFlr s := rfl
theorem perform_vfFlr (s : State) : ∀ fn, perform (.vfFlr fn) s = exec (.vfFlr fn) s := fun _ => rfl
theorem perform_vfEnableClear (s : State) : perform .vfEnableClear s = exec .vfEnableClear s := rfl
theorem perform_partitionRestart (s : State) : ∀ fn, perform (.partitionRestart fn) s = exec (.partitionRestart fn) s := fun _ => rfl
theorem perform_parcelScrubDone (s : State) : ∀ parcel ok, perform (.parcelScrubDone parcel ok) s = exec (.parcelScrubDone parcel ok) s := fun _ _ => rfl
theorem perform_migrationDrainDone (s : State) : ∀ packet, perform (.migrationDrainDone packet) s = exec (.migrationDrainDone packet) s := fun _ => rfl
theorem perform_migrationCopyRoundDone (s : State) : ∀ packet, perform (.migrationCopyRoundDone packet) s = exec (.migrationCopyRoundDone packet) s := fun _ => rfl
theorem perform_hostMemRead (s : State) : ∀ addr tag, perform (.hostMemRead addr tag) s = exec (.hostMemRead addr tag) s := fun _ _ => rfl
theorem perform_hostMemWrite (s : State) : ∀ addr bytes, perform (.hostMemWrite addr bytes) s = exec (.hostMemWrite addr bytes) s := fun _ _ => rfl
theorem perform_hostSnoop (s : State) : ∀ line invalidate, perform (.hostSnoop line invalidate) s = exec (.hostSnoop line invalidate) s := fun _ _ => rfl
theorem perform_atsInvalidateRequest (s : State) : ∀ pasid page pages, perform (.atsInvalidateRequest pasid page pages) s = exec (.atsInvalidateRequest pasid page pages) s := fun _ _ _ => rfl
theorem perform_bisnpResponse (s : State) : ∀ line data, perform (.bisnpResponse line data) s = exec (.bisnpResponse line data) s := fun _ _ => rfl
theorem perform_biasFlipEnd (s : State) : ∀ page, perform (.biasFlipEnd page) s = exec (.biasFlipEnd page) s := fun _ => rfl
theorem perform_peerAccessRequest (s : State) : ∀ m domain ask, perform (.peerAccessRequest m domain ask) s = exec (.peerAccessRequest m domain ask) s := fun _ _ _ => rfl
theorem perform_peerAccessReply (s : State) : ∀ m a, perform (.peerAccessReply m a) s = exec (.peerAccessReply m a) s := fun _ _ => rfl
theorem perform_fabricLinkFailure (s : State) : ∀ port, perform (.fabricLinkFailure port) s = exec (.fabricLinkFailure port) s := fun _ => rfl
theorem perform_peerReady (s : State) : ∀ dev cluster incarn, perform (.peerReady dev cluster incarn) s = exec (.peerReady dev cluster incarn) s := fun _ _ _ => rfl
theorem perform_getVersion (s : State) : ∀ fn, perform (.getVersion fn) s = exec (.getVersion fn) s := fun _ => rfl
theorem perform_getCapabilities (s : State) : ∀ fn request, perform (.getCapabilities fn request) s = exec (.getCapabilities fn request) s := fun _ _ => rfl
theorem perform_negotiateAlgorithms (s : State) : ∀ fn request, perform (.negotiateAlgorithms fn request) s = exec (.negotiateAlgorithms fn request) s := fun _ _ => rfl
theorem perform_getDigests (s : State) : ∀ fn, perform (.getDigests fn) s = exec (.getDigests fn) s := fun _ => rfl
theorem perform_getCertificate (s : State) : ∀ fn request, perform (.getCertificate fn request) s = exec (.getCertificate fn request) s := fun _ _ => rfl
theorem perform_challenge (s : State) : ∀ fn request, perform (.challenge fn request) s = exec (.challenge fn request) s := fun _ _ => rfl
theorem perform_getMeasurements (s : State) : ∀ fn request, perform (.getMeasurements fn request) s = exec (.getMeasurements fn request) s := fun _ _ => rfl
theorem perform_keyExchange (s : State) : ∀ fn request, perform (.keyExchange fn request) s = exec (.keyExchange fn request) s := fun _ _ => rfl
theorem perform_finish (s : State) : ∀ fn, perform (.finish fn) s = exec (.finish fn) s := fun _ => rfl
theorem perform_endSession (s : State) : ∀ fn, perform (.endSession fn) s = exec (.endSession fn) s := fun _ => rfl
theorem perform_amend (s : State) : ∀ fn a, perform (.amend fn a) s = exec (.amend fn a) s := fun _ _ => rfl
theorem perform_getTdispVersion (s : State) : ∀ fn, perform (.getTdispVersion fn) s = exec (.getTdispVersion fn) s := fun _ => rfl
theorem perform_getTdispCapabilities (s : State) : ∀ fn, perform (.getTdispCapabilities fn) s = exec (.getTdispCapabilities fn) s := fun _ => rfl
theorem perform_lockInterfaceRequest (s : State) : ∀ fn, perform (.lockInterfaceRequest fn) s = exec (.lockInterfaceRequest fn) s := fun _ => rfl
theorem perform_getDeviceInterfaceReport (s : State) : ∀ fn, perform (.getDeviceInterfaceReport fn) s = exec (.getDeviceInterfaceReport fn) s := fun _ => rfl
theorem perform_getDeviceInterfaceState (s : State) : ∀ fn, perform (.getDeviceInterfaceState fn) s = exec (.getDeviceInterfaceState fn) s := fun _ => rfl
theorem perform_startInterfaceRequest (s : State) : ∀ fn, perform (.startInterfaceRequest fn) s = exec (.startInterfaceRequest fn) s := fun _ => rfl
theorem perform_stopInterfaceRequest (s : State) : ∀ fn, perform (.stopInterfaceRequest fn) s = exec (.stopInterfaceRequest fn) s := fun _ => rfl
theorem perform_vfConfigWrite (s : State) : ∀ fn decoder, perform (.vfConfigWrite fn decoder) s = exec (.vfConfigWrite (fn, decoder)) s := fun _ _ => rfl
theorem perform_tailWrite (s : State) : ∀ fn q value, perform (.tailWrite fn q value) s = exec (.tailWrite fn q value) s := fun _ _ _ => rfl
theorem perform_aqiArm (s : State) : ∀ fn q value, perform (.aqiArm fn q value) s = exec (.aqiArm fn q value) s := fun _ _ _ => rfl
theorem perform_aqiPause (s : State) : ∀ fn q, perform (.aqiPause fn q) s = exec (.aqiPause fn q) s := fun _ _ => rfl
theorem perform_aqiResume (s : State) : ∀ fn q, perform (.aqiResume fn q) s = exec (.aqiResume fn q) s := fun _ _ => rfl
theorem perform_aqiEnable (s : State) : ∀ fn q, perform (.aqiEnable fn q) s = exec (.aqiEnable fn q) s := fun _ _ => rfl
theorem perform_aqiDisable (s : State) : ∀ fn q, perform (.aqiDisable fn q) s = exec (.aqiDisable fn q) s := fun _ _ => rfl
theorem perform_packetStart (s : State) : ∀ fn q, perform (.packetStart fn q) s = exec (.packetStart fn q) s := fun _ _ => rfl
theorem perform_launch (s : State) : ∀ packet, perform (.launch packet) s = exec (.launch packet) s := fun _ => rfl
theorem perform_copyPacket (s : State) : ∀ packet, perform (.copyPacket packet) s = exec (.copyPacket packet) s := fun _ => rfl
theorem perform_signalPacket (s : State) : ∀ packet, perform (.signalPacket packet) s = exec (.signalPacket packet) s := fun _ => rfl
theorem perform_waitPacket (s : State) : ∀ packet, perform (.waitPacket packet) s = exec (.waitPacket packet) s := fun _ => rfl
theorem perform_nblaunch (s : State) : ∀ packet, perform (.nblaunch packet) s = exec (.nblaunch packet) s := fun _ => rfl
theorem perform_biasToHost (s : State) : ∀ packet, perform (.biasToHost packet) s = exec (.biasToHost packet) s := fun _ => rfl
theorem perform_biasToDevice (s : State) : ∀ packet, perform (.biasToDevice packet) s = exec (.biasToDevice packet) s := fun _ => rfl
theorem perform_traceSetRing (s : State) : ∀ packet, perform (.traceSetRing packet) s = exec (.traceSetRing packet) s := fun _ => rfl
theorem perform_traceDetachRing (s : State) : ∀ packet, perform (.traceDetachRing packet) s = exec (.traceDetachRing packet) s := fun _ => rfl
theorem perform_traceSetShareRing (s : State) : ∀ packet, perform (.traceSetShareRing packet) s = exec (.traceSetShareRing packet) s := fun _ => rfl
theorem perform_traceDetachShareRing (s : State) : ∀ packet, perform (.traceDetachShareRing packet) s = exec (.traceDetachShareRing packet) s := fun _ => rfl
theorem perform_qfence (s : State) : ∀ packet, perform (.qfence packet) s = exec (.qfence packet) s := fun _ => rfl
theorem perform_partitionCreate (s : State) : ∀ packet, perform (.partitionCreate packet) s = exec (.partitionCreate packet) s := fun _ => rfl
theorem perform_partitionDestroy (s : State) : ∀ packet, perform (.partitionDestroy packet) s = exec (.partitionDestroy packet) s := fun _ => rfl
theorem perform_resize (s : State) : ∀ packet, perform (.resize packet) s = exec (.resize packet) s := fun _ => rfl
theorem perform_migrate (s : State) : ∀ packet, perform (.migrate packet) s = exec (.migrate packet) s := fun _ => rfl
theorem perform_meter (s : State) : ∀ packet, perform (.meter packet) s = exec (.meter packet) s := fun _ => rfl
theorem perform_invalidate (s : State) : ∀ packet, perform (.invalidate packet) s = exec (.invalidate packet) s := fun _ => rfl
theorem perform_replay (s : State) : ∀ packet, perform (.replay packet) s = exec (.replay packet) s := fun _ => rfl
theorem perform_s1InvalidatePage (s : State) : ∀ fn value, perform (.s1InvalidatePage fn value) s = exec (.s1InvalidatePage fn value) s := fun _ _ => rfl
theorem perform_s1InvalidateAll (s : State) : ∀ fn value, perform (.s1InvalidateAll fn value) s = exec (.s1InvalidateAll fn value) s := fun _ _ => rfl
theorem perform_s1InvalidateDone (s : State) : ∀ fn, perform (.s1InvalidateDone fn) s = exec (.s1InvalidateDone fn) s := fun _ => rfl
theorem perform_intrEntryUnmask (s : State) : ∀ fn index, perform (.intrEntryUnmask fn index) s = exec (.intrEntryUnmask fn index) s := fun _ _ => rfl
theorem perform_scopepolWrite (s : State) : ∀ fn value, perform (.scopepolWrite fn value) s = exec (.scopepolWrite fn value) s := fun _ _ => rfl
theorem perform_cscountClear (s : State) : ∀ fn, perform (.cscountClear fn) s = exec (.cscountClear fn) s := fun _ => rfl
theorem perform_aqibindWrite (s : State) : ∀ fn q value, perform (.aqibindWrite fn q value) s = exec (.aqibindWrite fn q value) s := fun _ _ _ => rfl
theorem perform_naqiWrite (s : State) : ∀ fn value, perform (.naqiWrite fn value) s = exec (.naqiWrite fn value) s := fun _ _ => rfl
theorem perform_frctlWrite (s : State) : ∀ fn value, perform (.frctlWrite fn value) s = exec (.frctlWrite fn value) s := fun _ _ => rfl
theorem perform_dhctlOvfClear (s : State) : ∀ fn, perform (.dhctlOvfClear fn) s = exec (.dhctlOvfClear fn) s := fun _ => rfl
theorem perform_errstatSharedClear (s : State) : ∀ fn, perform (.errstatSharedClear fn) s = exec (.errstatSharedClear fn) s := fun _ => rfl
theorem perform_refusalCounterClear (s : State) : ∀ slice bsu, perform (.refusalCounterClear slice bsu) s = exec (.refusalCounterClear slice bsu) s := fun _ _ => rfl
theorem perform_routeTableWrite (s : State) : ∀ word value, perform (.routeTableWrite word value) s = exec (.routeTableWrite word value) s := fun _ _ => rfl
theorem perform_registerWrite (s : State) : ∀ fn offset width value, perform (.registerWrite fn offset width value) s = exec (.registerWrite fn offset width value) s := fun _ _ _ _ => rfl
theorem perform_invalidationAck (s : State) : ∀ m home core line, perform (.invalidationAck m home core line) s = exec (.invalidationAck m home ⟨core, line⟩) s := fun _ _ _ _ => rfl
theorem perform_keysReplaced (s : State) : ∀ parcel, perform (.keysReplaced parcel) s = exec (.keysReplaced parcel) s := fun _ => rfl
theorem perform_correctableError (s : State) : ∀ slice, perform (.correctableError slice) s = exec (.correctableError slice) s := fun _ => rfl
theorem perform_functionTableWriteDone (s : State) : ∀ core strand, perform (.functionTableWriteDone core strand) s = exec (.functionTableWriteDone core strand) s := fun _ _ => rfl

end Sys2Proof.Machine
end

