-- ==== Sys2Proof/Laws/Maps.lean ====
section
/-!
SUPPORT. What a table holds after each of its operations. They hold of every list, whether ascending or not.
-/
set_option Elab.async false
namespace Sys2Proof.Machine

variable {α : Type}

@[simp] theorem Map.find_nil (k : Nat) : Map.find ([] : Map α) k = none := rfl

@[simp] theorem Map.find_put (m : Map α) (k j : Nat) (a : α) :
    (m.put k a).find j = if j = k then some a else m.find j := by
  induction m with
  | nil => simp only [Map.put, Map.find, eq_comm]
  | cons p m ih =>
    obtain ⟨i, b⟩ := p
    simp only [Map.put]
    by_cases h1 : i = k
    · subst h1; simp only [if_true, Map.find, eq_comm]; by_cases h2 : j = i <;> simp [h2]
    · by_cases h2 : k < i
      · simp only [h1, h2, if_true, if_false, Map.find, eq_comm]
      · simp only [h1, h2, if_false, Map.find, ih]
        by_cases h3 : i = j
        · subst h3; simp [h1]
        · simp [h3]

@[simp] theorem Map.find_del (m : Map α) (k j : Nat) : (m.del k).find j = if j = k then none else m.find j := by
  induction m with
  | nil => simp [Map.del, Map.find]
  | cons p m ih =>
    obtain ⟨i, b⟩ := p
    simp only [Map.del]
    by_cases h1 : i = k
    · subst h1
      simp only [if_true, ih, Map.find]
      by_cases h2 : j = i
      · simp [h2]
      · have h3 : ¬ i = j := fun h => h2 h.symm
        simp [h2, h3]
    · simp only [h1, if_false, Map.find, ih]
      by_cases h2 : i = j
      · subst h2; simp [h1]
      · simp [h2]

theorem Map.find_upd (m : Map α) (k j : Nat) (f : α → α) :
    (m.upd k f).find j = if j = k then (m.find k).map f else m.find j := by
  simp only [Map.upd]
  cases h : m.find k with
  | none => simp only [Option.map_none]; split <;> simp_all
  | some a => simp

theorem Map.getD_put (m : Map α) (k j : Nat) (a d : α) :
    (m.put k a).getD j d = if j = k then a else m.getD j d := by
  simp only [Map.getD, Map.find_put]; split <;> simp

theorem Map.getD_updD (m : Map α) (k j : Nat) (d : α) (f : α → α) :
    (m.updD k d f).getD j d = if j = k then f (m.getD k d) else m.getD j d := by
  simp only [Map.updD, Map.getD_put]

end Sys2Proof.Machine
end

