-- ==== Sys2Proof/Laws/State.lean ====
section
/-!
SUPPORT. What each update of the state and of a strand leaves in each field, so that no proof unfolds a record; and what the
readers of a table find after an update of it.
-/
set_option Elab.async false
namespace Sys2Proof.Machine

-- State.setStrand
@[simp] theorem State.setStrand_blocks (s : State) (k : Nat) (x : Strand) : (s.setStrand k x).blocks = s.blocks := rfl
@[simp] theorem State.setStrand_grids (s : State) (k : Nat) (x : Strand) : (s.setStrand k x).grids = s.grids := rfl
@[simp] theorem State.setStrand_jobs (s : State) (k : Nat) (x : Strand) : (s.setStrand k x).jobs = s.jobs := rfl
@[simp] theorem State.setStrand_arrayOps (s : State) (k : Nat) (x : Strand) : (s.setStrand k x).arrayOps = s.arrayOps := rfl
@[simp] theorem State.setStrand_cards (s : State) (k : Nat) (x : Strand) : (s.setStrand k x).cards = s.cards := rfl
@[simp] theorem State.setStrand_rowOps (s : State) (k : Nat) (x : Strand) : (s.setStrand k x).rowOps = s.rowOps := rfl
@[simp] theorem State.setStrand_gathered (s : State) (k : Nat) (x : Strand) : (s.setStrand k x).gathered = s.gathered := rfl
@[simp] theorem State.setStrand_bsus (s : State) (k : Nat) (x : Strand) : (s.setStrand k x).bsus = s.bsus := rfl
@[simp] theorem State.setStrand_refusals (s : State) (k : Nat) (x : Strand) : (s.setStrand k x).refusals = s.refusals := rfl
@[simp] theorem State.setStrand_bundles (s : State) (k : Nat) (x : Strand) : (s.setStrand k x).bundles = s.bundles := rfl
@[simp] theorem State.setStrand_bundleUses (s : State) (k : Nat) (x : Strand) : (s.setStrand k x).bundleUses = s.bundleUses := rfl
@[simp] theorem State.setStrand_names (s : State) (k : Nat) (x : Strand) : (s.setStrand k x).names = s.names := rfl
@[simp] theorem State.setStrand_nameWaits (s : State) (k : Nat) (x : Strand) : (s.setStrand k x).nameWaits = s.nameWaits := rfl
@[simp] theorem State.setStrand_versions (s : State) (k : Nat) (x : Strand) : (s.setStrand k x).versions = s.versions := rfl
@[simp] theorem State.setStrand_heldInstalls (s : State) (k : Nat) (x : Strand) : (s.setStrand k x).heldInstalls = s.heldInstalls := rfl
@[simp] theorem State.setStrand_rejoined (s : State) (k : Nat) (x : Strand) : (s.setStrand k x).rejoined = s.rejoined := rfl
@[simp] theorem State.setStrand_cores (s : State) (k : Nat) (x : Strand) : (s.setStrand k x).cores = s.cores := rfl
@[simp] theorem State.setStrand_homes (s : State) (k : Nat) (x : Strand) : (s.setStrand k x).homes = s.homes := rfl
@[simp] theorem State.setStrand_clusters (s : State) (k : Nat) (x : Strand) : (s.setStrand k x).clusters = s.clusters := rfl
@[simp] theorem State.setStrand_fns (s : State) (k : Nat) (x : Strand) : (s.setStrand k x).fns = s.fns := rfl
@[simp] theorem State.setStrand_plat (s : State) (k : Nat) (x : Strand) : (s.setStrand k x).plat = s.plat := rfl
@[simp] theorem State.setStrand_mem (s : State) (k : Nat) (x : Strand) : (s.setStrand k x).mem = s.mem := rfl
@[simp] theorem State.setStrand_poisoned (s : State) (k : Nat) (x : Strand) : (s.setStrand k x).poisoned = s.poisoned := rfl
@[simp] theorem State.setStrand_badTags (s : State) (k : Nat) (x : Strand) : (s.setStrand k x).badTags = s.badTags := rfl
@[simp] theorem State.setStrand_drbg (s : State) (k : Nat) (x : Strand) : (s.setStrand k x).drbg = s.drbg := rfl
@[simp] theorem State.setStrand_keySets (s : State) (k : Nat) (x : Strand) : (s.setStrand k x).keySets = s.keySets := rfl
@[simp] theorem State.setStrand_digests (s : State) (k : Nat) (x : Strand) : (s.setStrand k x).digests = s.digests := rfl
@[simp] theorem State.setStrand_aliasKey (s : State) (k : Nat) (x : Strand) : (s.setStrand k x).aliasKey = s.aliasKey := rfl
@[simp] theorem State.setStrand_datum (s : State) (k : Nat) (x : Strand) : (s.setStrand k x).datum = s.datum := rfl
@[simp] theorem State.setStrand_dev (s : State) (k : Nat) (x : Strand) : (s.setStrand k x).dev = s.dev := rfl
@[simp] theorem State.setStrand_routes (s : State) (k : Nat) (x : Strand) : (s.setStrand k x).routes = s.routes := rfl
@[simp] theorem State.setStrand_aqis (s : State) (k : Nat) (x : Strand) : (s.setStrand k x).aqis = s.aqis := rfl
@[simp] theorem State.setStrand_slotTables (s : State) (k : Nat) (x : Strand) : (s.setStrand k x).slotTables = s.slotTables := rfl
@[simp] theorem State.setStrand_wakes (s : State) (k : Nat) (x : Strand) : (s.setStrand k x).wakes = s.wakes := rfl
@[simp] theorem State.setStrand_wakeAt (s : State) (k : Nat) (x : Strand) : (s.setStrand k x).wakeAt = s.wakeAt := rfl
@[simp] theorem State.setStrand_pfQueue (s : State) (k : Nat) (x : Strand) : (s.setStrand k x).pfQueue = s.pfQueue := rfl
@[simp] theorem State.setStrand_move (s : State) (k : Nat) (x : Strand) : (s.setStrand k x).move = s.move := rfl
@[simp] theorem State.setStrand_hostBias (s : State) (k : Nat) (x : Strand) : (s.setStrand k x).hostBias = s.hostBias := rfl
@[simp] theorem State.setStrand_flips (s : State) (k : Nat) (x : Strand) : (s.setStrand k x).flips = s.flips := rfl
@[simp] theorem State.setStrand_snooped (s : State) (k : Nat) (x : Strand) : (s.setStrand k x).snooped = s.snooped := rfl
@[simp] theorem State.setStrand_peerIncarn (s : State) (k : Nat) (x : Strand) : (s.setStrand k x).peerIncarn = s.peerIncarn := rfl
@[simp] theorem State.setStrand_peerHeld (s : State) (k : Nat) (x : Strand) : (s.setStrand k x).peerHeld = s.peerHeld := rfl
@[simp] theorem State.setStrand_peerPages (s : State) (k : Nat) (x : Strand) : (s.setStrand k x).peerPages = s.peerPages := rfl
@[simp] theorem State.setStrand_peerReqs (s : State) (k : Nat) (x : Strand) : (s.setStrand k x).peerReqs = s.peerReqs := rfl
@[simp] theorem State.setStrand_peerAsked (s : State) (k : Nat) (x : Strand) : (s.setStrand k x).peerAsked = s.peerAsked := rfl
@[simp] theorem State.setStrand_atsPending (s : State) (k : Nat) (x : Strand) : (s.setStrand k x).atsPending = s.atsPending := rfl
@[simp] theorem State.setStrand_stage (s : State) (k : Nat) (x : Strand) : (s.setStrand k x).stage = s.stage := rfl
@[simp] theorem State.setStrand_bootErr (s : State) (k : Nat) (x : Strand) : (s.setStrand k x).bootErr = s.bootErr := rfl
@[simp] theorem State.setStrand_ready (s : State) (k : Nat) (x : Strand) : (s.setStrand k x).ready = s.ready := rfl
@[simp] theorem State.setStrand_degraded (s : State) (k : Nat) (x : Strand) : (s.setStrand k x).degraded = s.degraded := rfl
@[simp] theorem State.setStrand_throttle (s : State) (k : Nat) (x : Strand) : (s.setStrand k x).throttle = s.throttle := rfl
@[simp] theorem State.setStrand_pwrCap (s : State) (k : Nat) (x : Strand) : (s.setStrand k x).pwrCap = s.pwrCap := rfl
@[simp] theorem State.setStrand_restartFn (s : State) (k : Nat) (x : Strand) : (s.setStrand k x).restartFn = s.restartFn := rfl
@[simp] theorem State.setStrand_restartDone (s : State) (k : Nat) (x : Strand) : (s.setStrand k x).restartDone = s.restartDone := rfl
@[simp] theorem State.setStrand_tdKeys (s : State) (k : Nat) (x : Strand) : (s.setStrand k x).tdKeys = s.tdKeys := rfl
@[simp] theorem State.setStrand_tdScrub (s : State) (k : Nat) (x : Strand) : (s.setStrand k x).tdScrub = s.tdScrub := rfl
@[simp] theorem State.setStrand_tdBusy (s : State) (k : Nat) (x : Strand) : (s.setStrand k x).tdBusy = s.tdBusy := rfl
@[simp] theorem State.setStrand_tdParcels (s : State) (k : Nat) (x : Strand) : (s.setStrand k x).tdParcels = s.tdParcels := rfl
@[simp] theorem State.setStrand_rekey (s : State) (k : Nat) (x : Strand) : (s.setStrand k x).rekey = s.rekey := rfl
@[simp] theorem State.setStrand_capGen (s : State) (k : Nat) (x : Strand) : (s.setStrand k x).capGen = s.capGen := rfl
@[simp] theorem State.setStrand_sliceErrors (s : State) (k : Nat) (x : Strand) : (s.setStrand k x).sliceErrors = s.sliceErrors := rfl
@[simp] theorem State.setStrand_locked (s : State) (k : Nat) (x : Strand) : (s.setStrand k x).locked = s.locked := rfl
@[simp] theorem State.setStrand_everLocked (s : State) (k : Nat) (x : Strand) : (s.setStrand k x).everLocked = s.everLocked := rfl
@[simp] theorem State.setStrand_shareRing (s : State) (k : Nat) (x : Strand) : (s.setStrand k x).shareRing = s.shareRing := rfl
@[simp] theorem State.setStrand_divided (s : State) (k : Nat) (x : Strand) : (s.setStrand k x).divided = s.divided := rfl
@[simp] theorem State.setStrand_stalls (s : State) (k : Nat) (x : Strand) : (s.setStrand k x).stalls = s.stalls := rfl
@[simp] theorem State.setStrand_buckets (s : State) (k : Nat) (x : Strand) : (s.setStrand k x).buckets = s.buckets := rfl
@[simp] theorem State.setStrand_linkQueues (s : State) (k : Nat) (x : Strand) : (s.setStrand k x).linkQueues = s.linkQueues := rfl
@[simp] theorem State.setStrand_out (s : State) (k : Nat) (x : Strand) : (s.setStrand k x).out = s.out := rfl
@[simp] theorem State.setStrand_records (s : State) (k : Nat) (x : Strand) : (s.setStrand k x).records = s.records := rfl
@[simp] theorem State.setStrand_free (s : State) (k : Nat) (x : Strand) : (s.setStrand k x).free = s.free := rfl
@[simp] theorem State.setStrand_steps (s : State) (k : Nat) (x : Strand) : (s.setStrand k x).steps = s.steps := rfl
@[simp] theorem State.setStrand_nextId (s : State) (k : Nat) (x : Strand) : (s.setStrand k x).nextId = s.nextId := rfl
@[simp] theorem State.setStrand_queue (s : State) (k : Nat) (x : Strand) : (s.setStrand k x).queue = s.queue := rfl
@[simp] theorem State.setStrand_timers (s : State) (k : Nat) (x : Strand) : (s.setStrand k x).timers = s.timers := rfl
@[simp] theorem State.setStrand_later (s : State) (k : Nat) (x : Strand) : (s.setStrand k x).later = s.later := rfl
@[simp] theorem State.setStrand_sched (s : State) (k : Nat) (x : Strand) : (s.setStrand k x).sched = s.sched := rfl
@[simp] theorem State.setStrand_act (s : State) (k : Nat) (x : Strand) : (s.setStrand k x).act = s.act := rfl

-- State.updStrand
@[simp] theorem State.updStrand_blocks (s : State) (k : Nat) (f : Strand → Strand) : (s.updStrand k f).blocks = s.blocks := rfl
@[simp] theorem State.updStrand_grids (s : State) (k : Nat) (f : Strand → Strand) : (s.updStrand k f).grids = s.grids := rfl
@[simp] theorem State.updStrand_jobs (s : State) (k : Nat) (f : Strand → Strand) : (s.updStrand k f).jobs = s.jobs := rfl
@[simp] theorem State.updStrand_arrayOps (s : State) (k : Nat) (f : Strand → Strand) : (s.updStrand k f).arrayOps = s.arrayOps := rfl
@[simp] theorem State.updStrand_cards (s : State) (k : Nat) (f : Strand → Strand) : (s.updStrand k f).cards = s.cards := rfl
@[simp] theorem State.updStrand_rowOps (s : State) (k : Nat) (f : Strand → Strand) : (s.updStrand k f).rowOps = s.rowOps := rfl
@[simp] theorem State.updStrand_gathered (s : State) (k : Nat) (f : Strand → Strand) : (s.updStrand k f).gathered = s.gathered := rfl
@[simp] theorem State.updStrand_bsus (s : State) (k : Nat) (f : Strand → Strand) : (s.updStrand k f).bsus = s.bsus := rfl
@[simp] theorem State.updStrand_refusals (s : State) (k : Nat) (f : Strand → Strand) : (s.updStrand k f).refusals = s.refusals := rfl
@[simp] theorem State.updStrand_bundles (s : State) (k : Nat) (f : Strand → Strand) : (s.updStrand k f).bundles = s.bundles := rfl
@[simp] theorem State.updStrand_bundleUses (s : State) (k : Nat) (f : Strand → Strand) : (s.updStrand k f).bundleUses = s.bundleUses := rfl
@[simp] theorem State.updStrand_names (s : State) (k : Nat) (f : Strand → Strand) : (s.updStrand k f).names = s.names := rfl
@[simp] theorem State.updStrand_nameWaits (s : State) (k : Nat) (f : Strand → Strand) : (s.updStrand k f).nameWaits = s.nameWaits := rfl
@[simp] theorem State.updStrand_versions (s : State) (k : Nat) (f : Strand → Strand) : (s.updStrand k f).versions = s.versions := rfl
@[simp] theorem State.updStrand_heldInstalls (s : State) (k : Nat) (f : Strand → Strand) : (s.updStrand k f).heldInstalls = s.heldInstalls := rfl
@[simp] theorem State.updStrand_rejoined (s : State) (k : Nat) (f : Strand → Strand) : (s.updStrand k f).rejoined = s.rejoined := rfl
@[simp] theorem State.updStrand_cores (s : State) (k : Nat) (f : Strand → Strand) : (s.updStrand k f).cores = s.cores := rfl
@[simp] theorem State.updStrand_homes (s : State) (k : Nat) (f : Strand → Strand) : (s.updStrand k f).homes = s.homes := rfl
@[simp] theorem State.updStrand_clusters (s : State) (k : Nat) (f : Strand → Strand) : (s.updStrand k f).clusters = s.clusters := rfl
@[simp] theorem State.updStrand_fns (s : State) (k : Nat) (f : Strand → Strand) : (s.updStrand k f).fns = s.fns := rfl
@[simp] theorem State.updStrand_plat (s : State) (k : Nat) (f : Strand → Strand) : (s.updStrand k f).plat = s.plat := rfl
@[simp] theorem State.updStrand_mem (s : State) (k : Nat) (f : Strand → Strand) : (s.updStrand k f).mem = s.mem := rfl
@[simp] theorem State.updStrand_poisoned (s : State) (k : Nat) (f : Strand → Strand) : (s.updStrand k f).poisoned = s.poisoned := rfl
@[simp] theorem State.updStrand_badTags (s : State) (k : Nat) (f : Strand → Strand) : (s.updStrand k f).badTags = s.badTags := rfl
@[simp] theorem State.updStrand_drbg (s : State) (k : Nat) (f : Strand → Strand) : (s.updStrand k f).drbg = s.drbg := rfl
@[simp] theorem State.updStrand_keySets (s : State) (k : Nat) (f : Strand → Strand) : (s.updStrand k f).keySets = s.keySets := rfl
@[simp] theorem State.updStrand_digests (s : State) (k : Nat) (f : Strand → Strand) : (s.updStrand k f).digests = s.digests := rfl
@[simp] theorem State.updStrand_aliasKey (s : State) (k : Nat) (f : Strand → Strand) : (s.updStrand k f).aliasKey = s.aliasKey := rfl
@[simp] theorem State.updStrand_datum (s : State) (k : Nat) (f : Strand → Strand) : (s.updStrand k f).datum = s.datum := rfl
@[simp] theorem State.updStrand_dev (s : State) (k : Nat) (f : Strand → Strand) : (s.updStrand k f).dev = s.dev := rfl
@[simp] theorem State.updStrand_routes (s : State) (k : Nat) (f : Strand → Strand) : (s.updStrand k f).routes = s.routes := rfl
@[simp] theorem State.updStrand_aqis (s : State) (k : Nat) (f : Strand → Strand) : (s.updStrand k f).aqis = s.aqis := rfl
@[simp] theorem State.updStrand_slotTables (s : State) (k : Nat) (f : Strand → Strand) : (s.updStrand k f).slotTables = s.slotTables := rfl
@[simp] theorem State.updStrand_wakes (s : State) (k : Nat) (f : Strand → Strand) : (s.updStrand k f).wakes = s.wakes := rfl
@[simp] theorem State.updStrand_wakeAt (s : State) (k : Nat) (f : Strand → Strand) : (s.updStrand k f).wakeAt = s.wakeAt := rfl
@[simp] theorem State.updStrand_pfQueue (s : State) (k : Nat) (f : Strand → Strand) : (s.updStrand k f).pfQueue = s.pfQueue := rfl
@[simp] theorem State.updStrand_move (s : State) (k : Nat) (f : Strand → Strand) : (s.updStrand k f).move = s.move := rfl
@[simp] theorem State.updStrand_hostBias (s : State) (k : Nat) (f : Strand → Strand) : (s.updStrand k f).hostBias = s.hostBias := rfl
@[simp] theorem State.updStrand_flips (s : State) (k : Nat) (f : Strand → Strand) : (s.updStrand k f).flips = s.flips := rfl
@[simp] theorem State.updStrand_snooped (s : State) (k : Nat) (f : Strand → Strand) : (s.updStrand k f).snooped = s.snooped := rfl
@[simp] theorem State.updStrand_peerIncarn (s : State) (k : Nat) (f : Strand → Strand) : (s.updStrand k f).peerIncarn = s.peerIncarn := rfl
@[simp] theorem State.updStrand_peerHeld (s : State) (k : Nat) (f : Strand → Strand) : (s.updStrand k f).peerHeld = s.peerHeld := rfl
@[simp] theorem State.updStrand_peerPages (s : State) (k : Nat) (f : Strand → Strand) : (s.updStrand k f).peerPages = s.peerPages := rfl
@[simp] theorem State.updStrand_peerReqs (s : State) (k : Nat) (f : Strand → Strand) : (s.updStrand k f).peerReqs = s.peerReqs := rfl
@[simp] theorem State.updStrand_peerAsked (s : State) (k : Nat) (f : Strand → Strand) : (s.updStrand k f).peerAsked = s.peerAsked := rfl
@[simp] theorem State.updStrand_atsPending (s : State) (k : Nat) (f : Strand → Strand) : (s.updStrand k f).atsPending = s.atsPending := rfl
@[simp] theorem State.updStrand_stage (s : State) (k : Nat) (f : Strand → Strand) : (s.updStrand k f).stage = s.stage := rfl
@[simp] theorem State.updStrand_bootErr (s : State) (k : Nat) (f : Strand → Strand) : (s.updStrand k f).bootErr = s.bootErr := rfl
@[simp] theorem State.updStrand_ready (s : State) (k : Nat) (f : Strand → Strand) : (s.updStrand k f).ready = s.ready := rfl
@[simp] theorem State.updStrand_degraded (s : State) (k : Nat) (f : Strand → Strand) : (s.updStrand k f).degraded = s.degraded := rfl
@[simp] theorem State.updStrand_throttle (s : State) (k : Nat) (f : Strand → Strand) : (s.updStrand k f).throttle = s.throttle := rfl
@[simp] theorem State.updStrand_pwrCap (s : State) (k : Nat) (f : Strand → Strand) : (s.updStrand k f).pwrCap = s.pwrCap := rfl
@[simp] theorem State.updStrand_restartFn (s : State) (k : Nat) (f : Strand → Strand) : (s.updStrand k f).restartFn = s.restartFn := rfl
@[simp] theorem State.updStrand_restartDone (s : State) (k : Nat) (f : Strand → Strand) : (s.updStrand k f).restartDone = s.restartDone := rfl
@[simp] theorem State.updStrand_tdKeys (s : State) (k : Nat) (f : Strand → Strand) : (s.updStrand k f).tdKeys = s.tdKeys := rfl
@[simp] theorem State.updStrand_tdScrub (s : State) (k : Nat) (f : Strand → Strand) : (s.updStrand k f).tdScrub = s.tdScrub := rfl
@[simp] theorem State.updStrand_tdBusy (s : State) (k : Nat) (f : Strand → Strand) : (s.updStrand k f).tdBusy = s.tdBusy := rfl
@[simp] theorem State.updStrand_tdParcels (s : State) (k : Nat) (f : Strand → Strand) : (s.updStrand k f).tdParcels = s.tdParcels := rfl
@[simp] theorem State.updStrand_rekey (s : State) (k : Nat) (f : Strand → Strand) : (s.updStrand k f).rekey = s.rekey := rfl
@[simp] theorem State.updStrand_capGen (s : State) (k : Nat) (f : Strand → Strand) : (s.updStrand k f).capGen = s.capGen := rfl
@[simp] theorem State.updStrand_sliceErrors (s : State) (k : Nat) (f : Strand → Strand) : (s.updStrand k f).sliceErrors = s.sliceErrors := rfl
@[simp] theorem State.updStrand_locked (s : State) (k : Nat) (f : Strand → Strand) : (s.updStrand k f).locked = s.locked := rfl
@[simp] theorem State.updStrand_everLocked (s : State) (k : Nat) (f : Strand → Strand) : (s.updStrand k f).everLocked = s.everLocked := rfl
@[simp] theorem State.updStrand_shareRing (s : State) (k : Nat) (f : Strand → Strand) : (s.updStrand k f).shareRing = s.shareRing := rfl
@[simp] theorem State.updStrand_divided (s : State) (k : Nat) (f : Strand → Strand) : (s.updStrand k f).divided = s.divided := rfl
@[simp] theorem State.updStrand_stalls (s : State) (k : Nat) (f : Strand → Strand) : (s.updStrand k f).stalls = s.stalls := rfl
@[simp] theorem State.updStrand_buckets (s : State) (k : Nat) (f : Strand → Strand) : (s.updStrand k f).buckets = s.buckets := rfl
@[simp] theorem State.updStrand_linkQueues (s : State) (k : Nat) (f : Strand → Strand) : (s.updStrand k f).linkQueues = s.linkQueues := rfl
@[simp] theorem State.updStrand_out (s : State) (k : Nat) (f : Strand → Strand) : (s.updStrand k f).out = s.out := rfl
@[simp] theorem State.updStrand_records (s : State) (k : Nat) (f : Strand → Strand) : (s.updStrand k f).records = s.records := rfl
@[simp] theorem State.updStrand_free (s : State) (k : Nat) (f : Strand → Strand) : (s.updStrand k f).free = s.free := rfl
@[simp] theorem State.updStrand_steps (s : State) (k : Nat) (f : Strand → Strand) : (s.updStrand k f).steps = s.steps := rfl
@[simp] theorem State.updStrand_nextId (s : State) (k : Nat) (f : Strand → Strand) : (s.updStrand k f).nextId = s.nextId := rfl
@[simp] theorem State.updStrand_queue (s : State) (k : Nat) (f : Strand → Strand) : (s.updStrand k f).queue = s.queue := rfl
@[simp] theorem State.updStrand_timers (s : State) (k : Nat) (f : Strand → Strand) : (s.updStrand k f).timers = s.timers := rfl
@[simp] theorem State.updStrand_later (s : State) (k : Nat) (f : Strand → Strand) : (s.updStrand k f).later = s.later := rfl
@[simp] theorem State.updStrand_sched (s : State) (k : Nat) (f : Strand → Strand) : (s.updStrand k f).sched = s.sched := rfl
@[simp] theorem State.updStrand_act (s : State) (k : Nat) (f : Strand → Strand) : (s.updStrand k f).act = s.act := rfl

-- State.updBlock
@[simp] theorem State.updBlock_strands (s : State) (k : Nat) (f : Block → Block) : (s.updBlock k f).strands = s.strands := rfl
@[simp] theorem State.updBlock_grids (s : State) (k : Nat) (f : Block → Block) : (s.updBlock k f).grids = s.grids := rfl
@[simp] theorem State.updBlock_jobs (s : State) (k : Nat) (f : Block → Block) : (s.updBlock k f).jobs = s.jobs := rfl
@[simp] theorem State.updBlock_arrayOps (s : State) (k : Nat) (f : Block → Block) : (s.updBlock k f).arrayOps = s.arrayOps := rfl
@[simp] theorem State.updBlock_cards (s : State) (k : Nat) (f : Block → Block) : (s.updBlock k f).cards = s.cards := rfl
@[simp] theorem State.updBlock_rowOps (s : State) (k : Nat) (f : Block → Block) : (s.updBlock k f).rowOps = s.rowOps := rfl
@[simp] theorem State.updBlock_gathered (s : State) (k : Nat) (f : Block → Block) : (s.updBlock k f).gathered = s.gathered := rfl
@[simp] theorem State.updBlock_bsus (s : State) (k : Nat) (f : Block → Block) : (s.updBlock k f).bsus = s.bsus := rfl
@[simp] theorem State.updBlock_refusals (s : State) (k : Nat) (f : Block → Block) : (s.updBlock k f).refusals = s.refusals := rfl
@[simp] theorem State.updBlock_bundles (s : State) (k : Nat) (f : Block → Block) : (s.updBlock k f).bundles = s.bundles := rfl
@[simp] theorem State.updBlock_bundleUses (s : State) (k : Nat) (f : Block → Block) : (s.updBlock k f).bundleUses = s.bundleUses := rfl
@[simp] theorem State.updBlock_names (s : State) (k : Nat) (f : Block → Block) : (s.updBlock k f).names = s.names := rfl
@[simp] theorem State.updBlock_nameWaits (s : State) (k : Nat) (f : Block → Block) : (s.updBlock k f).nameWaits = s.nameWaits := rfl
@[simp] theorem State.updBlock_versions (s : State) (k : Nat) (f : Block → Block) : (s.updBlock k f).versions = s.versions := rfl
@[simp] theorem State.updBlock_heldInstalls (s : State) (k : Nat) (f : Block → Block) : (s.updBlock k f).heldInstalls = s.heldInstalls := rfl
@[simp] theorem State.updBlock_rejoined (s : State) (k : Nat) (f : Block → Block) : (s.updBlock k f).rejoined = s.rejoined := rfl
@[simp] theorem State.updBlock_cores (s : State) (k : Nat) (f : Block → Block) : (s.updBlock k f).cores = s.cores := rfl
@[simp] theorem State.updBlock_homes (s : State) (k : Nat) (f : Block → Block) : (s.updBlock k f).homes = s.homes := rfl
@[simp] theorem State.updBlock_clusters (s : State) (k : Nat) (f : Block → Block) : (s.updBlock k f).clusters = s.clusters := rfl
@[simp] theorem State.updBlock_fns (s : State) (k : Nat) (f : Block → Block) : (s.updBlock k f).fns = s.fns := rfl
@[simp] theorem State.updBlock_plat (s : State) (k : Nat) (f : Block → Block) : (s.updBlock k f).plat = s.plat := rfl
@[simp] theorem State.updBlock_mem (s : State) (k : Nat) (f : Block → Block) : (s.updBlock k f).mem = s.mem := rfl
@[simp] theorem State.updBlock_poisoned (s : State) (k : Nat) (f : Block → Block) : (s.updBlock k f).poisoned = s.poisoned := rfl
@[simp] theorem State.updBlock_badTags (s : State) (k : Nat) (f : Block → Block) : (s.updBlock k f).badTags = s.badTags := rfl
@[simp] theorem State.updBlock_drbg (s : State) (k : Nat) (f : Block → Block) : (s.updBlock k f).drbg = s.drbg := rfl
@[simp] theorem State.updBlock_keySets (s : State) (k : Nat) (f : Block → Block) : (s.updBlock k f).keySets = s.keySets := rfl
@[simp] theorem State.updBlock_digests (s : State) (k : Nat) (f : Block → Block) : (s.updBlock k f).digests = s.digests := rfl
@[simp] theorem State.updBlock_aliasKey (s : State) (k : Nat) (f : Block → Block) : (s.updBlock k f).aliasKey = s.aliasKey := rfl
@[simp] theorem State.updBlock_datum (s : State) (k : Nat) (f : Block → Block) : (s.updBlock k f).datum = s.datum := rfl
@[simp] theorem State.updBlock_dev (s : State) (k : Nat) (f : Block → Block) : (s.updBlock k f).dev = s.dev := rfl
@[simp] theorem State.updBlock_routes (s : State) (k : Nat) (f : Block → Block) : (s.updBlock k f).routes = s.routes := rfl
@[simp] theorem State.updBlock_aqis (s : State) (k : Nat) (f : Block → Block) : (s.updBlock k f).aqis = s.aqis := rfl
@[simp] theorem State.updBlock_slotTables (s : State) (k : Nat) (f : Block → Block) : (s.updBlock k f).slotTables = s.slotTables := rfl
@[simp] theorem State.updBlock_wakes (s : State) (k : Nat) (f : Block → Block) : (s.updBlock k f).wakes = s.wakes := rfl
@[simp] theorem State.updBlock_wakeAt (s : State) (k : Nat) (f : Block → Block) : (s.updBlock k f).wakeAt = s.wakeAt := rfl
@[simp] theorem State.updBlock_pfQueue (s : State) (k : Nat) (f : Block → Block) : (s.updBlock k f).pfQueue = s.pfQueue := rfl
@[simp] theorem State.updBlock_move (s : State) (k : Nat) (f : Block → Block) : (s.updBlock k f).move = s.move := rfl
@[simp] theorem State.updBlock_hostBias (s : State) (k : Nat) (f : Block → Block) : (s.updBlock k f).hostBias = s.hostBias := rfl
@[simp] theorem State.updBlock_flips (s : State) (k : Nat) (f : Block → Block) : (s.updBlock k f).flips = s.flips := rfl
@[simp] theorem State.updBlock_snooped (s : State) (k : Nat) (f : Block → Block) : (s.updBlock k f).snooped = s.snooped := rfl
@[simp] theorem State.updBlock_peerIncarn (s : State) (k : Nat) (f : Block → Block) : (s.updBlock k f).peerIncarn = s.peerIncarn := rfl
@[simp] theorem State.updBlock_peerHeld (s : State) (k : Nat) (f : Block → Block) : (s.updBlock k f).peerHeld = s.peerHeld := rfl
@[simp] theorem State.updBlock_peerPages (s : State) (k : Nat) (f : Block → Block) : (s.updBlock k f).peerPages = s.peerPages := rfl
@[simp] theorem State.updBlock_peerReqs (s : State) (k : Nat) (f : Block → Block) : (s.updBlock k f).peerReqs = s.peerReqs := rfl
@[simp] theorem State.updBlock_peerAsked (s : State) (k : Nat) (f : Block → Block) : (s.updBlock k f).peerAsked = s.peerAsked := rfl
@[simp] theorem State.updBlock_atsPending (s : State) (k : Nat) (f : Block → Block) : (s.updBlock k f).atsPending = s.atsPending := rfl
@[simp] theorem State.updBlock_stage (s : State) (k : Nat) (f : Block → Block) : (s.updBlock k f).stage = s.stage := rfl
@[simp] theorem State.updBlock_bootErr (s : State) (k : Nat) (f : Block → Block) : (s.updBlock k f).bootErr = s.bootErr := rfl
@[simp] theorem State.updBlock_ready (s : State) (k : Nat) (f : Block → Block) : (s.updBlock k f).ready = s.ready := rfl
@[simp] theorem State.updBlock_degraded (s : State) (k : Nat) (f : Block → Block) : (s.updBlock k f).degraded = s.degraded := rfl
@[simp] theorem State.updBlock_throttle (s : State) (k : Nat) (f : Block → Block) : (s.updBlock k f).throttle = s.throttle := rfl
@[simp] theorem State.updBlock_pwrCap (s : State) (k : Nat) (f : Block → Block) : (s.updBlock k f).pwrCap = s.pwrCap := rfl
@[simp] theorem State.updBlock_restartFn (s : State) (k : Nat) (f : Block → Block) : (s.updBlock k f).restartFn = s.restartFn := rfl
@[simp] theorem State.updBlock_restartDone (s : State) (k : Nat) (f : Block → Block) : (s.updBlock k f).restartDone = s.restartDone := rfl
@[simp] theorem State.updBlock_tdKeys (s : State) (k : Nat) (f : Block → Block) : (s.updBlock k f).tdKeys = s.tdKeys := rfl
@[simp] theorem State.updBlock_tdScrub (s : State) (k : Nat) (f : Block → Block) : (s.updBlock k f).tdScrub = s.tdScrub := rfl
@[simp] theorem State.updBlock_tdBusy (s : State) (k : Nat) (f : Block → Block) : (s.updBlock k f).tdBusy = s.tdBusy := rfl
@[simp] theorem State.updBlock_tdParcels (s : State) (k : Nat) (f : Block → Block) : (s.updBlock k f).tdParcels = s.tdParcels := rfl
@[simp] theorem State.updBlock_rekey (s : State) (k : Nat) (f : Block → Block) : (s.updBlock k f).rekey = s.rekey := rfl
@[simp] theorem State.updBlock_capGen (s : State) (k : Nat) (f : Block → Block) : (s.updBlock k f).capGen = s.capGen := rfl
@[simp] theorem State.updBlock_sliceErrors (s : State) (k : Nat) (f : Block → Block) : (s.updBlock k f).sliceErrors = s.sliceErrors := rfl
@[simp] theorem State.updBlock_locked (s : State) (k : Nat) (f : Block → Block) : (s.updBlock k f).locked = s.locked := rfl
@[simp] theorem State.updBlock_everLocked (s : State) (k : Nat) (f : Block → Block) : (s.updBlock k f).everLocked = s.everLocked := rfl
@[simp] theorem State.updBlock_shareRing (s : State) (k : Nat) (f : Block → Block) : (s.updBlock k f).shareRing = s.shareRing := rfl
@[simp] theorem State.updBlock_divided (s : State) (k : Nat) (f : Block → Block) : (s.updBlock k f).divided = s.divided := rfl
@[simp] theorem State.updBlock_stalls (s : State) (k : Nat) (f : Block → Block) : (s.updBlock k f).stalls = s.stalls := rfl
@[simp] theorem State.updBlock_buckets (s : State) (k : Nat) (f : Block → Block) : (s.updBlock k f).buckets = s.buckets := rfl
@[simp] theorem State.updBlock_linkQueues (s : State) (k : Nat) (f : Block → Block) : (s.updBlock k f).linkQueues = s.linkQueues := rfl
@[simp] theorem State.updBlock_out (s : State) (k : Nat) (f : Block → Block) : (s.updBlock k f).out = s.out := rfl
@[simp] theorem State.updBlock_records (s : State) (k : Nat) (f : Block → Block) : (s.updBlock k f).records = s.records := rfl
@[simp] theorem State.updBlock_free (s : State) (k : Nat) (f : Block → Block) : (s.updBlock k f).free = s.free := rfl
@[simp] theorem State.updBlock_steps (s : State) (k : Nat) (f : Block → Block) : (s.updBlock k f).steps = s.steps := rfl
@[simp] theorem State.updBlock_nextId (s : State) (k : Nat) (f : Block → Block) : (s.updBlock k f).nextId = s.nextId := rfl
@[simp] theorem State.updBlock_queue (s : State) (k : Nat) (f : Block → Block) : (s.updBlock k f).queue = s.queue := rfl
@[simp] theorem State.updBlock_timers (s : State) (k : Nat) (f : Block → Block) : (s.updBlock k f).timers = s.timers := rfl
@[simp] theorem State.updBlock_later (s : State) (k : Nat) (f : Block → Block) : (s.updBlock k f).later = s.later := rfl
@[simp] theorem State.updBlock_sched (s : State) (k : Nat) (f : Block → Block) : (s.updBlock k f).sched = s.sched := rfl
@[simp] theorem State.updBlock_act (s : State) (k : Nat) (f : Block → Block) : (s.updBlock k f).act = s.act := rfl

-- State.updGrid
@[simp] theorem State.updGrid_strands (s : State) (k : Nat) (f : Grid → Grid) : (s.updGrid k f).strands = s.strands := rfl
@[simp] theorem State.updGrid_blocks (s : State) (k : Nat) (f : Grid → Grid) : (s.updGrid k f).blocks = s.blocks := rfl
@[simp] theorem State.updGrid_jobs (s : State) (k : Nat) (f : Grid → Grid) : (s.updGrid k f).jobs = s.jobs := rfl
@[simp] theorem State.updGrid_arrayOps (s : State) (k : Nat) (f : Grid → Grid) : (s.updGrid k f).arrayOps = s.arrayOps := rfl
@[simp] theorem State.updGrid_cards (s : State) (k : Nat) (f : Grid → Grid) : (s.updGrid k f).cards = s.cards := rfl
@[simp] theorem State.updGrid_rowOps (s : State) (k : Nat) (f : Grid → Grid) : (s.updGrid k f).rowOps = s.rowOps := rfl
@[simp] theorem State.updGrid_gathered (s : State) (k : Nat) (f : Grid → Grid) : (s.updGrid k f).gathered = s.gathered := rfl
@[simp] theorem State.updGrid_bsus (s : State) (k : Nat) (f : Grid → Grid) : (s.updGrid k f).bsus = s.bsus := rfl
@[simp] theorem State.updGrid_refusals (s : State) (k : Nat) (f : Grid → Grid) : (s.updGrid k f).refusals = s.refusals := rfl
@[simp] theorem State.updGrid_bundles (s : State) (k : Nat) (f : Grid → Grid) : (s.updGrid k f).bundles = s.bundles := rfl
@[simp] theorem State.updGrid_bundleUses (s : State) (k : Nat) (f : Grid → Grid) : (s.updGrid k f).bundleUses = s.bundleUses := rfl
@[simp] theorem State.updGrid_names (s : State) (k : Nat) (f : Grid → Grid) : (s.updGrid k f).names = s.names := rfl
@[simp] theorem State.updGrid_nameWaits (s : State) (k : Nat) (f : Grid → Grid) : (s.updGrid k f).nameWaits = s.nameWaits := rfl
@[simp] theorem State.updGrid_versions (s : State) (k : Nat) (f : Grid → Grid) : (s.updGrid k f).versions = s.versions := rfl
@[simp] theorem State.updGrid_heldInstalls (s : State) (k : Nat) (f : Grid → Grid) : (s.updGrid k f).heldInstalls = s.heldInstalls := rfl
@[simp] theorem State.updGrid_rejoined (s : State) (k : Nat) (f : Grid → Grid) : (s.updGrid k f).rejoined = s.rejoined := rfl
@[simp] theorem State.updGrid_cores (s : State) (k : Nat) (f : Grid → Grid) : (s.updGrid k f).cores = s.cores := rfl
@[simp] theorem State.updGrid_homes (s : State) (k : Nat) (f : Grid → Grid) : (s.updGrid k f).homes = s.homes := rfl
@[simp] theorem State.updGrid_clusters (s : State) (k : Nat) (f : Grid → Grid) : (s.updGrid k f).clusters = s.clusters := rfl
@[simp] theorem State.updGrid_fns (s : State) (k : Nat) (f : Grid → Grid) : (s.updGrid k f).fns = s.fns := rfl
@[simp] theorem State.updGrid_plat (s : State) (k : Nat) (f : Grid → Grid) : (s.updGrid k f).plat = s.plat := rfl
@[simp] theorem State.updGrid_mem (s : State) (k : Nat) (f : Grid → Grid) : (s.updGrid k f).mem = s.mem := rfl
@[simp] theorem State.updGrid_poisoned (s : State) (k : Nat) (f : Grid → Grid) : (s.updGrid k f).poisoned = s.poisoned := rfl
@[simp] theorem State.updGrid_badTags (s : State) (k : Nat) (f : Grid → Grid) : (s.updGrid k f).badTags = s.badTags := rfl
@[simp] theorem State.updGrid_drbg (s : State) (k : Nat) (f : Grid → Grid) : (s.updGrid k f).drbg = s.drbg := rfl
@[simp] theorem State.updGrid_keySets (s : State) (k : Nat) (f : Grid → Grid) : (s.updGrid k f).keySets = s.keySets := rfl
@[simp] theorem State.updGrid_digests (s : State) (k : Nat) (f : Grid → Grid) : (s.updGrid k f).digests = s.digests := rfl
@[simp] theorem State.updGrid_aliasKey (s : State) (k : Nat) (f : Grid → Grid) : (s.updGrid k f).aliasKey = s.aliasKey := rfl
@[simp] theorem State.updGrid_datum (s : State) (k : Nat) (f : Grid → Grid) : (s.updGrid k f).datum = s.datum := rfl
@[simp] theorem State.updGrid_dev (s : State) (k : Nat) (f : Grid → Grid) : (s.updGrid k f).dev = s.dev := rfl
@[simp] theorem State.updGrid_routes (s : State) (k : Nat) (f : Grid → Grid) : (s.updGrid k f).routes = s.routes := rfl
@[simp] theorem State.updGrid_aqis (s : State) (k : Nat) (f : Grid → Grid) : (s.updGrid k f).aqis = s.aqis := rfl
@[simp] theorem State.updGrid_slotTables (s : State) (k : Nat) (f : Grid → Grid) : (s.updGrid k f).slotTables = s.slotTables := rfl
@[simp] theorem State.updGrid_wakes (s : State) (k : Nat) (f : Grid → Grid) : (s.updGrid k f).wakes = s.wakes := rfl
@[simp] theorem State.updGrid_wakeAt (s : State) (k : Nat) (f : Grid → Grid) : (s.updGrid k f).wakeAt = s.wakeAt := rfl
@[simp] theorem State.updGrid_pfQueue (s : State) (k : Nat) (f : Grid → Grid) : (s.updGrid k f).pfQueue = s.pfQueue := rfl
@[simp] theorem State.updGrid_move (s : State) (k : Nat) (f : Grid → Grid) : (s.updGrid k f).move = s.move := rfl
@[simp] theorem State.updGrid_hostBias (s : State) (k : Nat) (f : Grid → Grid) : (s.updGrid k f).hostBias = s.hostBias := rfl
@[simp] theorem State.updGrid_flips (s : State) (k : Nat) (f : Grid → Grid) : (s.updGrid k f).flips = s.flips := rfl
@[simp] theorem State.updGrid_snooped (s : State) (k : Nat) (f : Grid → Grid) : (s.updGrid k f).snooped = s.snooped := rfl
@[simp] theorem State.updGrid_peerIncarn (s : State) (k : Nat) (f : Grid → Grid) : (s.updGrid k f).peerIncarn = s.peerIncarn := rfl
@[simp] theorem State.updGrid_peerHeld (s : State) (k : Nat) (f : Grid → Grid) : (s.updGrid k f).peerHeld = s.peerHeld := rfl
@[simp] theorem State.updGrid_peerPages (s : State) (k : Nat) (f : Grid → Grid) : (s.updGrid k f).peerPages = s.peerPages := rfl
@[simp] theorem State.updGrid_peerReqs (s : State) (k : Nat) (f : Grid → Grid) : (s.updGrid k f).peerReqs = s.peerReqs := rfl
@[simp] theorem State.updGrid_peerAsked (s : State) (k : Nat) (f : Grid → Grid) : (s.updGrid k f).peerAsked = s.peerAsked := rfl
@[simp] theorem State.updGrid_atsPending (s : State) (k : Nat) (f : Grid → Grid) : (s.updGrid k f).atsPending = s.atsPending := rfl
@[simp] theorem State.updGrid_stage (s : State) (k : Nat) (f : Grid → Grid) : (s.updGrid k f).stage = s.stage := rfl
@[simp] theorem State.updGrid_bootErr (s : State) (k : Nat) (f : Grid → Grid) : (s.updGrid k f).bootErr = s.bootErr := rfl
@[simp] theorem State.updGrid_ready (s : State) (k : Nat) (f : Grid → Grid) : (s.updGrid k f).ready = s.ready := rfl
@[simp] theorem State.updGrid_degraded (s : State) (k : Nat) (f : Grid → Grid) : (s.updGrid k f).degraded = s.degraded := rfl
@[simp] theorem State.updGrid_throttle (s : State) (k : Nat) (f : Grid → Grid) : (s.updGrid k f).throttle = s.throttle := rfl
@[simp] theorem State.updGrid_pwrCap (s : State) (k : Nat) (f : Grid → Grid) : (s.updGrid k f).pwrCap = s.pwrCap := rfl
@[simp] theorem State.updGrid_restartFn (s : State) (k : Nat) (f : Grid → Grid) : (s.updGrid k f).restartFn = s.restartFn := rfl
@[simp] theorem State.updGrid_restartDone (s : State) (k : Nat) (f : Grid → Grid) : (s.updGrid k f).restartDone = s.restartDone := rfl
@[simp] theorem State.updGrid_tdKeys (s : State) (k : Nat) (f : Grid → Grid) : (s.updGrid k f).tdKeys = s.tdKeys := rfl
@[simp] theorem State.updGrid_tdScrub (s : State) (k : Nat) (f : Grid → Grid) : (s.updGrid k f).tdScrub = s.tdScrub := rfl
@[simp] theorem State.updGrid_tdBusy (s : State) (k : Nat) (f : Grid → Grid) : (s.updGrid k f).tdBusy = s.tdBusy := rfl
@[simp] theorem State.updGrid_tdParcels (s : State) (k : Nat) (f : Grid → Grid) : (s.updGrid k f).tdParcels = s.tdParcels := rfl
@[simp] theorem State.updGrid_rekey (s : State) (k : Nat) (f : Grid → Grid) : (s.updGrid k f).rekey = s.rekey := rfl
@[simp] theorem State.updGrid_capGen (s : State) (k : Nat) (f : Grid → Grid) : (s.updGrid k f).capGen = s.capGen := rfl
@[simp] theorem State.updGrid_sliceErrors (s : State) (k : Nat) (f : Grid → Grid) : (s.updGrid k f).sliceErrors = s.sliceErrors := rfl
@[simp] theorem State.updGrid_locked (s : State) (k : Nat) (f : Grid → Grid) : (s.updGrid k f).locked = s.locked := rfl
@[simp] theorem State.updGrid_everLocked (s : State) (k : Nat) (f : Grid → Grid) : (s.updGrid k f).everLocked = s.everLocked := rfl
@[simp] theorem State.updGrid_shareRing (s : State) (k : Nat) (f : Grid → Grid) : (s.updGrid k f).shareRing = s.shareRing := rfl
@[simp] theorem State.updGrid_divided (s : State) (k : Nat) (f : Grid → Grid) : (s.updGrid k f).divided = s.divided := rfl
@[simp] theorem State.updGrid_stalls (s : State) (k : Nat) (f : Grid → Grid) : (s.updGrid k f).stalls = s.stalls := rfl
@[simp] theorem State.updGrid_buckets (s : State) (k : Nat) (f : Grid → Grid) : (s.updGrid k f).buckets = s.buckets := rfl
@[simp] theorem State.updGrid_linkQueues (s : State) (k : Nat) (f : Grid → Grid) : (s.updGrid k f).linkQueues = s.linkQueues := rfl
@[simp] theorem State.updGrid_out (s : State) (k : Nat) (f : Grid → Grid) : (s.updGrid k f).out = s.out := rfl
@[simp] theorem State.updGrid_records (s : State) (k : Nat) (f : Grid → Grid) : (s.updGrid k f).records = s.records := rfl
@[simp] theorem State.updGrid_free (s : State) (k : Nat) (f : Grid → Grid) : (s.updGrid k f).free = s.free := rfl
@[simp] theorem State.updGrid_steps (s : State) (k : Nat) (f : Grid → Grid) : (s.updGrid k f).steps = s.steps := rfl
@[simp] theorem State.updGrid_nextId (s : State) (k : Nat) (f : Grid → Grid) : (s.updGrid k f).nextId = s.nextId := rfl
@[simp] theorem State.updGrid_queue (s : State) (k : Nat) (f : Grid → Grid) : (s.updGrid k f).queue = s.queue := rfl
@[simp] theorem State.updGrid_timers (s : State) (k : Nat) (f : Grid → Grid) : (s.updGrid k f).timers = s.timers := rfl
@[simp] theorem State.updGrid_later (s : State) (k : Nat) (f : Grid → Grid) : (s.updGrid k f).later = s.later := rfl
@[simp] theorem State.updGrid_sched (s : State) (k : Nat) (f : Grid → Grid) : (s.updGrid k f).sched = s.sched := rfl
@[simp] theorem State.updGrid_act (s : State) (k : Nat) (f : Grid → Grid) : (s.updGrid k f).act = s.act := rfl

-- State.updCore
@[simp] theorem State.updCore_strands (s : State) (k : Nat) (f : Core → Core) : (s.updCore k f).strands = s.strands := rfl
@[simp] theorem State.updCore_blocks (s : State) (k : Nat) (f : Core → Core) : (s.updCore k f).blocks = s.blocks := rfl
@[simp] theorem State.updCore_grids (s : State) (k : Nat) (f : Core → Core) : (s.updCore k f).grids = s.grids := rfl
@[simp] theorem State.updCore_jobs (s : State) (k : Nat) (f : Core → Core) : (s.updCore k f).jobs = s.jobs := rfl
@[simp] theorem State.updCore_arrayOps (s : State) (k : Nat) (f : Core → Core) : (s.updCore k f).arrayOps = s.arrayOps := rfl
@[simp] theorem State.updCore_cards (s : State) (k : Nat) (f : Core → Core) : (s.updCore k f).cards = s.cards := rfl
@[simp] theorem State.updCore_rowOps (s : State) (k : Nat) (f : Core → Core) : (s.updCore k f).rowOps = s.rowOps := rfl
@[simp] theorem State.updCore_gathered (s : State) (k : Nat) (f : Core → Core) : (s.updCore k f).gathered = s.gathered := rfl
@[simp] theorem State.updCore_bsus (s : State) (k : Nat) (f : Core → Core) : (s.updCore k f).bsus = s.bsus := rfl
@[simp] theorem State.updCore_refusals (s : State) (k : Nat) (f : Core → Core) : (s.updCore k f).refusals = s.refusals := rfl
@[simp] theorem State.updCore_bundles (s : State) (k : Nat) (f : Core → Core) : (s.updCore k f).bundles = s.bundles := rfl
@[simp] theorem State.updCore_bundleUses (s : State) (k : Nat) (f : Core → Core) : (s.updCore k f).bundleUses = s.bundleUses := rfl
@[simp] theorem State.updCore_names (s : State) (k : Nat) (f : Core → Core) : (s.updCore k f).names = s.names := rfl
@[simp] theorem State.updCore_nameWaits (s : State) (k : Nat) (f : Core → Core) : (s.updCore k f).nameWaits = s.nameWaits := rfl
@[simp] theorem State.updCore_versions (s : State) (k : Nat) (f : Core → Core) : (s.updCore k f).versions = s.versions := rfl
@[simp] theorem State.updCore_heldInstalls (s : State) (k : Nat) (f : Core → Core) : (s.updCore k f).heldInstalls = s.heldInstalls := rfl
@[simp] theorem State.updCore_rejoined (s : State) (k : Nat) (f : Core → Core) : (s.updCore k f).rejoined = s.rejoined := rfl
@[simp] theorem State.updCore_homes (s : State) (k : Nat) (f : Core → Core) : (s.updCore k f).homes = s.homes := rfl
@[simp] theorem State.updCore_clusters (s : State) (k : Nat) (f : Core → Core) : (s.updCore k f).clusters = s.clusters := rfl
@[simp] theorem State.updCore_fns (s : State) (k : Nat) (f : Core → Core) : (s.updCore k f).fns = s.fns := rfl
@[simp] theorem State.updCore_plat (s : State) (k : Nat) (f : Core → Core) : (s.updCore k f).plat = s.plat := rfl
@[simp] theorem State.updCore_mem (s : State) (k : Nat) (f : Core → Core) : (s.updCore k f).mem = s.mem := rfl
@[simp] theorem State.updCore_poisoned (s : State) (k : Nat) (f : Core → Core) : (s.updCore k f).poisoned = s.poisoned := rfl
@[simp] theorem State.updCore_badTags (s : State) (k : Nat) (f : Core → Core) : (s.updCore k f).badTags = s.badTags := rfl
@[simp] theorem State.updCore_drbg (s : State) (k : Nat) (f : Core → Core) : (s.updCore k f).drbg = s.drbg := rfl
@[simp] theorem State.updCore_keySets (s : State) (k : Nat) (f : Core → Core) : (s.updCore k f).keySets = s.keySets := rfl
@[simp] theorem State.updCore_digests (s : State) (k : Nat) (f : Core → Core) : (s.updCore k f).digests = s.digests := rfl
@[simp] theorem State.updCore_aliasKey (s : State) (k : Nat) (f : Core → Core) : (s.updCore k f).aliasKey = s.aliasKey := rfl
@[simp] theorem State.updCore_datum (s : State) (k : Nat) (f : Core → Core) : (s.updCore k f).datum = s.datum := rfl
@[simp] theorem State.updCore_dev (s : State) (k : Nat) (f : Core → Core) : (s.updCore k f).dev = s.dev := rfl
@[simp] theorem State.updCore_routes (s : State) (k : Nat) (f : Core → Core) : (s.updCore k f).routes = s.routes := rfl
@[simp] theorem State.updCore_aqis (s : State) (k : Nat) (f : Core → Core) : (s.updCore k f).aqis = s.aqis := rfl
@[simp] theorem State.updCore_slotTables (s : State) (k : Nat) (f : Core → Core) : (s.updCore k f).slotTables = s.slotTables := rfl
@[simp] theorem State.updCore_wakes (s : State) (k : Nat) (f : Core → Core) : (s.updCore k f).wakes = s.wakes := rfl
@[simp] theorem State.updCore_wakeAt (s : State) (k : Nat) (f : Core → Core) : (s.updCore k f).wakeAt = s.wakeAt := rfl
@[simp] theorem State.updCore_pfQueue (s : State) (k : Nat) (f : Core → Core) : (s.updCore k f).pfQueue = s.pfQueue := rfl
@[simp] theorem State.updCore_move (s : State) (k : Nat) (f : Core → Core) : (s.updCore k f).move = s.move := rfl
@[simp] theorem State.updCore_hostBias (s : State) (k : Nat) (f : Core → Core) : (s.updCore k f).hostBias = s.hostBias := rfl
@[simp] theorem State.updCore_flips (s : State) (k : Nat) (f : Core → Core) : (s.updCore k f).flips = s.flips := rfl
@[simp] theorem State.updCore_snooped (s : State) (k : Nat) (f : Core → Core) : (s.updCore k f).snooped = s.snooped := rfl
@[simp] theorem State.updCore_peerIncarn (s : State) (k : Nat) (f : Core → Core) : (s.updCore k f).peerIncarn = s.peerIncarn := rfl
@[simp] theorem State.updCore_peerHeld (s : State) (k : Nat) (f : Core → Core) : (s.updCore k f).peerHeld = s.peerHeld := rfl
@[simp] theorem State.updCore_peerPages (s : State) (k : Nat) (f : Core → Core) : (s.updCore k f).peerPages = s.peerPages := rfl
@[simp] theorem State.updCore_peerReqs (s : State) (k : Nat) (f : Core → Core) : (s.updCore k f).peerReqs = s.peerReqs := rfl
@[simp] theorem State.updCore_peerAsked (s : State) (k : Nat) (f : Core → Core) : (s.updCore k f).peerAsked = s.peerAsked := rfl
@[simp] theorem State.updCore_atsPending (s : State) (k : Nat) (f : Core → Core) : (s.updCore k f).atsPending = s.atsPending := rfl
@[simp] theorem State.updCore_stage (s : State) (k : Nat) (f : Core → Core) : (s.updCore k f).stage = s.stage := rfl
@[simp] theorem State.updCore_bootErr (s : State) (k : Nat) (f : Core → Core) : (s.updCore k f).bootErr = s.bootErr := rfl
@[simp] theorem State.updCore_ready (s : State) (k : Nat) (f : Core → Core) : (s.updCore k f).ready = s.ready := rfl
@[simp] theorem State.updCore_degraded (s : State) (k : Nat) (f : Core → Core) : (s.updCore k f).degraded = s.degraded := rfl
@[simp] theorem State.updCore_throttle (s : State) (k : Nat) (f : Core → Core) : (s.updCore k f).throttle = s.throttle := rfl
@[simp] theorem State.updCore_pwrCap (s : State) (k : Nat) (f : Core → Core) : (s.updCore k f).pwrCap = s.pwrCap := rfl
@[simp] theorem State.updCore_restartFn (s : State) (k : Nat) (f : Core → Core) : (s.updCore k f).restartFn = s.restartFn := rfl
@[simp] theorem State.updCore_restartDone (s : State) (k : Nat) (f : Core → Core) : (s.updCore k f).restartDone = s.restartDone := rfl
@[simp] theorem State.updCore_tdKeys (s : State) (k : Nat) (f : Core → Core) : (s.updCore k f).tdKeys = s.tdKeys := rfl
@[simp] theorem State.updCore_tdScrub (s : State) (k : Nat) (f : Core → Core) : (s.updCore k f).tdScrub = s.tdScrub := rfl
@[simp] theorem State.updCore_tdBusy (s : State) (k : Nat) (f : Core → Core) : (s.updCore k f).tdBusy = s.tdBusy := rfl
@[simp] theorem State.updCore_tdParcels (s : State) (k : Nat) (f : Core → Core) : (s.updCore k f).tdParcels = s.tdParcels := rfl
@[simp] theorem State.updCore_rekey (s : State) (k : Nat) (f : Core → Core) : (s.updCore k f).rekey = s.rekey := rfl
@[simp] theorem State.updCore_capGen (s : State) (k : Nat) (f : Core → Core) : (s.updCore k f).capGen = s.capGen := rfl
@[simp] theorem State.updCore_sliceErrors (s : State) (k : Nat) (f : Core → Core) : (s.updCore k f).sliceErrors = s.sliceErrors := rfl
@[simp] theorem State.updCore_locked (s : State) (k : Nat) (f : Core → Core) : (s.updCore k f).locked = s.locked := rfl
@[simp] theorem State.updCore_everLocked (s : State) (k : Nat) (f : Core → Core) : (s.updCore k f).everLocked = s.everLocked := rfl
@[simp] theorem State.updCore_shareRing (s : State) (k : Nat) (f : Core → Core) : (s.updCore k f).shareRing = s.shareRing := rfl
@[simp] theorem State.updCore_divided (s : State) (k : Nat) (f : Core → Core) : (s.updCore k f).divided = s.divided := rfl
@[simp] theorem State.updCore_stalls (s : State) (k : Nat) (f : Core → Core) : (s.updCore k f).stalls = s.stalls := rfl
@[simp] theorem State.updCore_buckets (s : State) (k : Nat) (f : Core → Core) : (s.updCore k f).buckets = s.buckets := rfl
@[simp] theorem State.updCore_linkQueues (s : State) (k : Nat) (f : Core → Core) : (s.updCore k f).linkQueues = s.linkQueues := rfl
@[simp] theorem State.updCore_out (s : State) (k : Nat) (f : Core → Core) : (s.updCore k f).out = s.out := rfl
@[simp] theorem State.updCore_records (s : State) (k : Nat) (f : Core → Core) : (s.updCore k f).records = s.records := rfl
@[simp] theorem State.updCore_free (s : State) (k : Nat) (f : Core → Core) : (s.updCore k f).free = s.free := rfl
@[simp] theorem State.updCore_steps (s : State) (k : Nat) (f : Core → Core) : (s.updCore k f).steps = s.steps := rfl
@[simp] theorem State.updCore_nextId (s : State) (k : Nat) (f : Core → Core) : (s.updCore k f).nextId = s.nextId := rfl
@[simp] theorem State.updCore_queue (s : State) (k : Nat) (f : Core → Core) : (s.updCore k f).queue = s.queue := rfl
@[simp] theorem State.updCore_timers (s : State) (k : Nat) (f : Core → Core) : (s.updCore k f).timers = s.timers := rfl
@[simp] theorem State.updCore_later (s : State) (k : Nat) (f : Core → Core) : (s.updCore k f).later = s.later := rfl
@[simp] theorem State.updCore_sched (s : State) (k : Nat) (f : Core → Core) : (s.updCore k f).sched = s.sched := rfl
@[simp] theorem State.updCore_act (s : State) (k : Nat) (f : Core → Core) : (s.updCore k f).act = s.act := rfl

-- State.updHome
@[simp] theorem State.updHome_strands (s : State) (k : Nat) (f : Home → Home) : (s.updHome k f).strands = s.strands := rfl
@[simp] theorem State.updHome_blocks (s : State) (k : Nat) (f : Home → Home) : (s.updHome k f).blocks = s.blocks := rfl
@[simp] theorem State.updHome_grids (s : State) (k : Nat) (f : Home → Home) : (s.updHome k f).grids = s.grids := rfl
@[simp] theorem State.updHome_jobs (s : State) (k : Nat) (f : Home → Home) : (s.updHome k f).jobs = s.jobs := rfl
@[simp] theorem State.updHome_arrayOps (s : State) (k : Nat) (f : Home → Home) : (s.updHome k f).arrayOps = s.arrayOps := rfl
@[simp] theorem State.updHome_cards (s : State) (k : Nat) (f : Home → Home) : (s.updHome k f).cards = s.cards := rfl
@[simp] theorem State.updHome_rowOps (s : State) (k : Nat) (f : Home → Home) : (s.updHome k f).rowOps = s.rowOps := rfl
@[simp] theorem State.updHome_gathered (s : State) (k : Nat) (f : Home → Home) : (s.updHome k f).gathered = s.gathered := rfl
@[simp] theorem State.updHome_bsus (s : State) (k : Nat) (f : Home → Home) : (s.updHome k f).bsus = s.bsus := rfl
@[simp] theorem State.updHome_refusals (s : State) (k : Nat) (f : Home → Home) : (s.updHome k f).refusals = s.refusals := rfl
@[simp] theorem State.updHome_bundles (s : State) (k : Nat) (f : Home → Home) : (s.updHome k f).bundles = s.bundles := rfl
@[simp] theorem State.updHome_bundleUses (s : State) (k : Nat) (f : Home → Home) : (s.updHome k f).bundleUses = s.bundleUses := rfl
@[simp] theorem State.updHome_names (s : State) (k : Nat) (f : Home → Home) : (s.updHome k f).names = s.names := rfl
@[simp] theorem State.updHome_nameWaits (s : State) (k : Nat) (f : Home → Home) : (s.updHome k f).nameWaits = s.nameWaits := rfl
@[simp] theorem State.updHome_versions (s : State) (k : Nat) (f : Home → Home) : (s.updHome k f).versions = s.versions := rfl
@[simp] theorem State.updHome_heldInstalls (s : State) (k : Nat) (f : Home → Home) : (s.updHome k f).heldInstalls = s.heldInstalls := rfl
@[simp] theorem State.updHome_rejoined (s : State) (k : Nat) (f : Home → Home) : (s.updHome k f).rejoined = s.rejoined := rfl
@[simp] theorem State.updHome_cores (s : State) (k : Nat) (f : Home → Home) : (s.updHome k f).cores = s.cores := rfl
@[simp] theorem State.updHome_clusters (s : State) (k : Nat) (f : Home → Home) : (s.updHome k f).clusters = s.clusters := rfl
@[simp] theorem State.updHome_fns (s : State) (k : Nat) (f : Home → Home) : (s.updHome k f).fns = s.fns := rfl
@[simp] theorem State.updHome_plat (s : State) (k : Nat) (f : Home → Home) : (s.updHome k f).plat = s.plat := rfl
@[simp] theorem State.updHome_mem (s : State) (k : Nat) (f : Home → Home) : (s.updHome k f).mem = s.mem := rfl
@[simp] theorem State.updHome_poisoned (s : State) (k : Nat) (f : Home → Home) : (s.updHome k f).poisoned = s.poisoned := rfl
@[simp] theorem State.updHome_badTags (s : State) (k : Nat) (f : Home → Home) : (s.updHome k f).badTags = s.badTags := rfl
@[simp] theorem State.updHome_drbg (s : State) (k : Nat) (f : Home → Home) : (s.updHome k f).drbg = s.drbg := rfl
@[simp] theorem State.updHome_keySets (s : State) (k : Nat) (f : Home → Home) : (s.updHome k f).keySets = s.keySets := rfl
@[simp] theorem State.updHome_digests (s : State) (k : Nat) (f : Home → Home) : (s.updHome k f).digests = s.digests := rfl
@[simp] theorem State.updHome_aliasKey (s : State) (k : Nat) (f : Home → Home) : (s.updHome k f).aliasKey = s.aliasKey := rfl
@[simp] theorem State.updHome_datum (s : State) (k : Nat) (f : Home → Home) : (s.updHome k f).datum = s.datum := rfl
@[simp] theorem State.updHome_dev (s : State) (k : Nat) (f : Home → Home) : (s.updHome k f).dev = s.dev := rfl
@[simp] theorem State.updHome_routes (s : State) (k : Nat) (f : Home → Home) : (s.updHome k f).routes = s.routes := rfl
@[simp] theorem State.updHome_aqis (s : State) (k : Nat) (f : Home → Home) : (s.updHome k f).aqis = s.aqis := rfl
@[simp] theorem State.updHome_slotTables (s : State) (k : Nat) (f : Home → Home) : (s.updHome k f).slotTables = s.slotTables := rfl
@[simp] theorem State.updHome_wakes (s : State) (k : Nat) (f : Home → Home) : (s.updHome k f).wakes = s.wakes := rfl
@[simp] theorem State.updHome_wakeAt (s : State) (k : Nat) (f : Home → Home) : (s.updHome k f).wakeAt = s.wakeAt := rfl
@[simp] theorem State.updHome_pfQueue (s : State) (k : Nat) (f : Home → Home) : (s.updHome k f).pfQueue = s.pfQueue := rfl
@[simp] theorem State.updHome_move (s : State) (k : Nat) (f : Home → Home) : (s.updHome k f).move = s.move := rfl
@[simp] theorem State.updHome_hostBias (s : State) (k : Nat) (f : Home → Home) : (s.updHome k f).hostBias = s.hostBias := rfl
@[simp] theorem State.updHome_flips (s : State) (k : Nat) (f : Home → Home) : (s.updHome k f).flips = s.flips := rfl
@[simp] theorem State.updHome_snooped (s : State) (k : Nat) (f : Home → Home) : (s.updHome k f).snooped = s.snooped := rfl
@[simp] theorem State.updHome_peerIncarn (s : State) (k : Nat) (f : Home → Home) : (s.updHome k f).peerIncarn = s.peerIncarn := rfl
@[simp] theorem State.updHome_peerHeld (s : State) (k : Nat) (f : Home → Home) : (s.updHome k f).peerHeld = s.peerHeld := rfl
@[simp] theorem State.updHome_peerPages (s : State) (k : Nat) (f : Home → Home) : (s.updHome k f).peerPages = s.peerPages := rfl
@[simp] theorem State.updHome_peerReqs (s : State) (k : Nat) (f : Home → Home) : (s.updHome k f).peerReqs = s.peerReqs := rfl
@[simp] theorem State.updHome_peerAsked (s : State) (k : Nat) (f : Home → Home) : (s.updHome k f).peerAsked = s.peerAsked := rfl
@[simp] theorem State.updHome_atsPending (s : State) (k : Nat) (f : Home → Home) : (s.updHome k f).atsPending = s.atsPending := rfl
@[simp] theorem State.updHome_stage (s : State) (k : Nat) (f : Home → Home) : (s.updHome k f).stage = s.stage := rfl
@[simp] theorem State.updHome_bootErr (s : State) (k : Nat) (f : Home → Home) : (s.updHome k f).bootErr = s.bootErr := rfl
@[simp] theorem State.updHome_ready (s : State) (k : Nat) (f : Home → Home) : (s.updHome k f).ready = s.ready := rfl
@[simp] theorem State.updHome_degraded (s : State) (k : Nat) (f : Home → Home) : (s.updHome k f).degraded = s.degraded := rfl
@[simp] theorem State.updHome_throttle (s : State) (k : Nat) (f : Home → Home) : (s.updHome k f).throttle = s.throttle := rfl
@[simp] theorem State.updHome_pwrCap (s : State) (k : Nat) (f : Home → Home) : (s.updHome k f).pwrCap = s.pwrCap := rfl
@[simp] theorem State.updHome_restartFn (s : State) (k : Nat) (f : Home → Home) : (s.updHome k f).restartFn = s.restartFn := rfl
@[simp] theorem State.updHome_restartDone (s : State) (k : Nat) (f : Home → Home) : (s.updHome k f).restartDone = s.restartDone := rfl
@[simp] theorem State.updHome_tdKeys (s : State) (k : Nat) (f : Home → Home) : (s.updHome k f).tdKeys = s.tdKeys := rfl
@[simp] theorem State.updHome_tdScrub (s : State) (k : Nat) (f : Home → Home) : (s.updHome k f).tdScrub = s.tdScrub := rfl
@[simp] theorem State.updHome_tdBusy (s : State) (k : Nat) (f : Home → Home) : (s.updHome k f).tdBusy = s.tdBusy := rfl
@[simp] theorem State.updHome_tdParcels (s : State) (k : Nat) (f : Home → Home) : (s.updHome k f).tdParcels = s.tdParcels := rfl
@[simp] theorem State.updHome_rekey (s : State) (k : Nat) (f : Home → Home) : (s.updHome k f).rekey = s.rekey := rfl
@[simp] theorem State.updHome_capGen (s : State) (k : Nat) (f : Home → Home) : (s.updHome k f).capGen = s.capGen := rfl
@[simp] theorem State.updHome_sliceErrors (s : State) (k : Nat) (f : Home → Home) : (s.updHome k f).sliceErrors = s.sliceErrors := rfl
@[simp] theorem State.updHome_locked (s : State) (k : Nat) (f : Home → Home) : (s.updHome k f).locked = s.locked := rfl
@[simp] theorem State.updHome_everLocked (s : State) (k : Nat) (f : Home → Home) : (s.updHome k f).everLocked = s.everLocked := rfl
@[simp] theorem State.updHome_shareRing (s : State) (k : Nat) (f : Home → Home) : (s.updHome k f).shareRing = s.shareRing := rfl
@[simp] theorem State.updHome_divided (s : State) (k : Nat) (f : Home → Home) : (s.updHome k f).divided = s.divided := rfl
@[simp] theorem State.updHome_stalls (s : State) (k : Nat) (f : Home → Home) : (s.updHome k f).stalls = s.stalls := rfl
@[simp] theorem State.updHome_buckets (s : State) (k : Nat) (f : Home → Home) : (s.updHome k f).buckets = s.buckets := rfl
@[simp] theorem State.updHome_linkQueues (s : State) (k : Nat) (f : Home → Home) : (s.updHome k f).linkQueues = s.linkQueues := rfl
@[simp] theorem State.updHome_out (s : State) (k : Nat) (f : Home → Home) : (s.updHome k f).out = s.out := rfl
@[simp] theorem State.updHome_records (s : State) (k : Nat) (f : Home → Home) : (s.updHome k f).records = s.records := rfl
@[simp] theorem State.updHome_free (s : State) (k : Nat) (f : Home → Home) : (s.updHome k f).free = s.free := rfl
@[simp] theorem State.updHome_steps (s : State) (k : Nat) (f : Home → Home) : (s.updHome k f).steps = s.steps := rfl
@[simp] theorem State.updHome_nextId (s : State) (k : Nat) (f : Home → Home) : (s.updHome k f).nextId = s.nextId := rfl
@[simp] theorem State.updHome_queue (s : State) (k : Nat) (f : Home → Home) : (s.updHome k f).queue = s.queue := rfl
@[simp] theorem State.updHome_timers (s : State) (k : Nat) (f : Home → Home) : (s.updHome k f).timers = s.timers := rfl
@[simp] theorem State.updHome_later (s : State) (k : Nat) (f : Home → Home) : (s.updHome k f).later = s.later := rfl
@[simp] theorem State.updHome_sched (s : State) (k : Nat) (f : Home → Home) : (s.updHome k f).sched = s.sched := rfl
@[simp] theorem State.updHome_act (s : State) (k : Nat) (f : Home → Home) : (s.updHome k f).act = s.act := rfl

-- State.updCluster
@[simp] theorem State.updCluster_strands (s : State) (k : Nat) (f : Cluster → Cluster) : (s.updCluster k f).strands = s.strands := rfl
@[simp] theorem State.updCluster_blocks (s : State) (k : Nat) (f : Cluster → Cluster) : (s.updCluster k f).blocks = s.blocks := rfl
@[simp] theorem State.updCluster_grids (s : State) (k : Nat) (f : Cluster → Cluster) : (s.updCluster k f).grids = s.grids := rfl
@[simp] theorem State.updCluster_jobs (s : State) (k : Nat) (f : Cluster → Cluster) : (s.updCluster k f).jobs = s.jobs := rfl
@[simp] theorem State.updCluster_arrayOps (s : State) (k : Nat) (f : Cluster → Cluster) : (s.updCluster k f).arrayOps = s.arrayOps := rfl
@[simp] theorem State.updCluster_cards (s : State) (k : Nat) (f : Cluster → Cluster) : (s.updCluster k f).cards = s.cards := rfl
@[simp] theorem State.updCluster_rowOps (s : State) (k : Nat) (f : Cluster → Cluster) : (s.updCluster k f).rowOps = s.rowOps := rfl
@[simp] theorem State.updCluster_gathered (s : State) (k : Nat) (f : Cluster → Cluster) : (s.updCluster k f).gathered = s.gathered := rfl
@[simp] theorem State.updCluster_bsus (s : State) (k : Nat) (f : Cluster → Cluster) : (s.updCluster k f).bsus = s.bsus := rfl
@[simp] theorem State.updCluster_refusals (s : State) (k : Nat) (f : Cluster → Cluster) : (s.updCluster k f).refusals = s.refusals := rfl
@[simp] theorem State.updCluster_bundles (s : State) (k : Nat) (f : Cluster → Cluster) : (s.updCluster k f).bundles = s.bundles := rfl
@[simp] theorem State.updCluster_bundleUses (s : State) (k : Nat) (f : Cluster → Cluster) : (s.updCluster k f).bundleUses = s.bundleUses := rfl
@[simp] theorem State.updCluster_names (s : State) (k : Nat) (f : Cluster → Cluster) : (s.updCluster k f).names = s.names := rfl
@[simp] theorem State.updCluster_nameWaits (s : State) (k : Nat) (f : Cluster → Cluster) : (s.updCluster k f).nameWaits = s.nameWaits := rfl
@[simp] theorem State.updCluster_versions (s : State) (k : Nat) (f : Cluster → Cluster) : (s.updCluster k f).versions = s.versions := rfl
@[simp] theorem State.updCluster_heldInstalls (s : State) (k : Nat) (f : Cluster → Cluster) : (s.updCluster k f).heldInstalls = s.heldInstalls := rfl
@[simp] theorem State.updCluster_rejoined (s : State) (k : Nat) (f : Cluster → Cluster) : (s.updCluster k f).rejoined = s.rejoined := rfl
@[simp] theorem State.updCluster_cores (s : State) (k : Nat) (f : Cluster → Cluster) : (s.updCluster k f).cores = s.cores := rfl
@[simp] theorem State.updCluster_homes (s : State) (k : Nat) (f : Cluster → Cluster) : (s.updCluster k f).homes = s.homes := rfl
@[simp] theorem State.updCluster_fns (s : State) (k : Nat) (f : Cluster → Cluster) : (s.updCluster k f).fns = s.fns := rfl
@[simp] theorem State.updCluster_plat (s : State) (k : Nat) (f : Cluster → Cluster) : (s.updCluster k f).plat = s.plat := rfl
@[simp] theorem State.updCluster_mem (s : State) (k : Nat) (f : Cluster → Cluster) : (s.updCluster k f).mem = s.mem := rfl
@[simp] theorem State.updCluster_poisoned (s : State) (k : Nat) (f : Cluster → Cluster) : (s.updCluster k f).poisoned = s.poisoned := rfl
@[simp] theorem State.updCluster_badTags (s : State) (k : Nat) (f : Cluster → Cluster) : (s.updCluster k f).badTags = s.badTags := rfl
@[simp] theorem State.updCluster_drbg (s : State) (k : Nat) (f : Cluster → Cluster) : (s.updCluster k f).drbg = s.drbg := rfl
@[simp] theorem State.updCluster_keySets (s : State) (k : Nat) (f : Cluster → Cluster) : (s.updCluster k f).keySets = s.keySets := rfl
@[simp] theorem State.updCluster_digests (s : State) (k : Nat) (f : Cluster → Cluster) : (s.updCluster k f).digests = s.digests := rfl
@[simp] theorem State.updCluster_aliasKey (s : State) (k : Nat) (f : Cluster → Cluster) : (s.updCluster k f).aliasKey = s.aliasKey := rfl
@[simp] theorem State.updCluster_datum (s : State) (k : Nat) (f : Cluster → Cluster) : (s.updCluster k f).datum = s.datum := rfl
@[simp] theorem State.updCluster_dev (s : State) (k : Nat) (f : Cluster → Cluster) : (s.updCluster k f).dev = s.dev := rfl
@[simp] theorem State.updCluster_routes (s : State) (k : Nat) (f : Cluster → Cluster) : (s.updCluster k f).routes = s.routes := rfl
@[simp] theorem State.updCluster_aqis (s : State) (k : Nat) (f : Cluster → Cluster) : (s.updCluster k f).aqis = s.aqis := rfl
@[simp] theorem State.updCluster_slotTables (s : State) (k : Nat) (f : Cluster → Cluster) : (s.updCluster k f).slotTables = s.slotTables := rfl
@[simp] theorem State.updCluster_wakes (s : State) (k : Nat) (f : Cluster → Cluster) : (s.updCluster k f).wakes = s.wakes := rfl
@[simp] theorem State.updCluster_wakeAt (s : State) (k : Nat) (f : Cluster → Cluster) : (s.updCluster k f).wakeAt = s.wakeAt := rfl
@[simp] theorem State.updCluster_pfQueue (s : State) (k : Nat) (f : Cluster → Cluster) : (s.updCluster k f).pfQueue = s.pfQueue := rfl
@[simp] theorem State.updCluster_move (s : State) (k : Nat) (f : Cluster → Cluster) : (s.updCluster k f).move = s.move := rfl
@[simp] theorem State.updCluster_hostBias (s : State) (k : Nat) (f : Cluster → Cluster) : (s.updCluster k f).hostBias = s.hostBias := rfl
@[simp] theorem State.updCluster_flips (s : State) (k : Nat) (f : Cluster → Cluster) : (s.updCluster k f).flips = s.flips := rfl
@[simp] theorem State.updCluster_snooped (s : State) (k : Nat) (f : Cluster → Cluster) : (s.updCluster k f).snooped = s.snooped := rfl
@[simp] theorem State.updCluster_peerIncarn (s : State) (k : Nat) (f : Cluster → Cluster) : (s.updCluster k f).peerIncarn = s.peerIncarn := rfl
@[simp] theorem State.updCluster_peerHeld (s : State) (k : Nat) (f : Cluster → Cluster) : (s.updCluster k f).peerHeld = s.peerHeld := rfl
@[simp] theorem State.updCluster_peerPages (s : State) (k : Nat) (f : Cluster → Cluster) : (s.updCluster k f).peerPages = s.peerPages := rfl
@[simp] theorem State.updCluster_peerReqs (s : State) (k : Nat) (f : Cluster → Cluster) : (s.updCluster k f).peerReqs = s.peerReqs := rfl
@[simp] theorem State.updCluster_peerAsked (s : State) (k : Nat) (f : Cluster → Cluster) : (s.updCluster k f).peerAsked = s.peerAsked := rfl
@[simp] theorem State.updCluster_atsPending (s : State) (k : Nat) (f : Cluster → Cluster) : (s.updCluster k f).atsPending = s.atsPending := rfl
@[simp] theorem State.updCluster_stage (s : State) (k : Nat) (f : Cluster → Cluster) : (s.updCluster k f).stage = s.stage := rfl
@[simp] theorem State.updCluster_bootErr (s : State) (k : Nat) (f : Cluster → Cluster) : (s.updCluster k f).bootErr = s.bootErr := rfl
@[simp] theorem State.updCluster_ready (s : State) (k : Nat) (f : Cluster → Cluster) : (s.updCluster k f).ready = s.ready := rfl
@[simp] theorem State.updCluster_degraded (s : State) (k : Nat) (f : Cluster → Cluster) : (s.updCluster k f).degraded = s.degraded := rfl
@[simp] theorem State.updCluster_throttle (s : State) (k : Nat) (f : Cluster → Cluster) : (s.updCluster k f).throttle = s.throttle := rfl
@[simp] theorem State.updCluster_pwrCap (s : State) (k : Nat) (f : Cluster → Cluster) : (s.updCluster k f).pwrCap = s.pwrCap := rfl
@[simp] theorem State.updCluster_restartFn (s : State) (k : Nat) (f : Cluster → Cluster) : (s.updCluster k f).restartFn = s.restartFn := rfl
@[simp] theorem State.updCluster_restartDone (s : State) (k : Nat) (f : Cluster → Cluster) : (s.updCluster k f).restartDone = s.restartDone := rfl
@[simp] theorem State.updCluster_tdKeys (s : State) (k : Nat) (f : Cluster → Cluster) : (s.updCluster k f).tdKeys = s.tdKeys := rfl
@[simp] theorem State.updCluster_tdScrub (s : State) (k : Nat) (f : Cluster → Cluster) : (s.updCluster k f).tdScrub = s.tdScrub := rfl
@[simp] theorem State.updCluster_tdBusy (s : State) (k : Nat) (f : Cluster → Cluster) : (s.updCluster k f).tdBusy = s.tdBusy := rfl
@[simp] theorem State.updCluster_tdParcels (s : State) (k : Nat) (f : Cluster → Cluster) : (s.updCluster k f).tdParcels = s.tdParcels := rfl
@[simp] theorem State.updCluster_rekey (s : State) (k : Nat) (f : Cluster → Cluster) : (s.updCluster k f).rekey = s.rekey := rfl
@[simp] theorem State.updCluster_capGen (s : State) (k : Nat) (f : Cluster → Cluster) : (s.updCluster k f).capGen = s.capGen := rfl
@[simp] theorem State.updCluster_sliceErrors (s : State) (k : Nat) (f : Cluster → Cluster) : (s.updCluster k f).sliceErrors = s.sliceErrors := rfl
@[simp] theorem State.updCluster_locked (s : State) (k : Nat) (f : Cluster → Cluster) : (s.updCluster k f).locked = s.locked := rfl
@[simp] theorem State.updCluster_everLocked (s : State) (k : Nat) (f : Cluster → Cluster) : (s.updCluster k f).everLocked = s.everLocked := rfl
@[simp] theorem State.updCluster_shareRing (s : State) (k : Nat) (f : Cluster → Cluster) : (s.updCluster k f).shareRing = s.shareRing := rfl
@[simp] theorem State.updCluster_divided (s : State) (k : Nat) (f : Cluster → Cluster) : (s.updCluster k f).divided = s.divided := rfl
@[simp] theorem State.updCluster_stalls (s : State) (k : Nat) (f : Cluster → Cluster) : (s.updCluster k f).stalls = s.stalls := rfl
@[simp] theorem State.updCluster_buckets (s : State) (k : Nat) (f : Cluster → Cluster) : (s.updCluster k f).buckets = s.buckets := rfl
@[simp] theorem State.updCluster_linkQueues (s : State) (k : Nat) (f : Cluster → Cluster) : (s.updCluster k f).linkQueues = s.linkQueues := rfl
@[simp] theorem State.updCluster_out (s : State) (k : Nat) (f : Cluster → Cluster) : (s.updCluster k f).out = s.out := rfl
@[simp] theorem State.updCluster_records (s : State) (k : Nat) (f : Cluster → Cluster) : (s.updCluster k f).records = s.records := rfl
@[simp] theorem State.updCluster_free (s : State) (k : Nat) (f : Cluster → Cluster) : (s.updCluster k f).free = s.free := rfl
@[simp] theorem State.updCluster_steps (s : State) (k : Nat) (f : Cluster → Cluster) : (s.updCluster k f).steps = s.steps := rfl
@[simp] theorem State.updCluster_nextId (s : State) (k : Nat) (f : Cluster → Cluster) : (s.updCluster k f).nextId = s.nextId := rfl
@[simp] theorem State.updCluster_queue (s : State) (k : Nat) (f : Cluster → Cluster) : (s.updCluster k f).queue = s.queue := rfl
@[simp] theorem State.updCluster_timers (s : State) (k : Nat) (f : Cluster → Cluster) : (s.updCluster k f).timers = s.timers := rfl
@[simp] theorem State.updCluster_later (s : State) (k : Nat) (f : Cluster → Cluster) : (s.updCluster k f).later = s.later := rfl
@[simp] theorem State.updCluster_sched (s : State) (k : Nat) (f : Cluster → Cluster) : (s.updCluster k f).sched = s.sched := rfl
@[simp] theorem State.updCluster_act (s : State) (k : Nat) (f : Cluster → Cluster) : (s.updCluster k f).act = s.act := rfl

-- State.updFn
@[simp] theorem State.updFn_strands (s : State) (k : Nat) (f : Fn → Fn) : (s.updFn k f).strands = s.strands := rfl
@[simp] theorem State.updFn_blocks (s : State) (k : Nat) (f : Fn → Fn) : (s.updFn k f).blocks = s.blocks := rfl
@[simp] theorem State.updFn_grids (s : State) (k : Nat) (f : Fn → Fn) : (s.updFn k f).grids = s.grids := rfl
@[simp] theorem State.updFn_jobs (s : State) (k : Nat) (f : Fn → Fn) : (s.updFn k f).jobs = s.jobs := rfl
@[simp] theorem State.updFn_arrayOps (s : State) (k : Nat) (f : Fn → Fn) : (s.updFn k f).arrayOps = s.arrayOps := rfl
@[simp] theorem State.updFn_cards (s : State) (k : Nat) (f : Fn → Fn) : (s.updFn k f).cards = s.cards := rfl
@[simp] theorem State.updFn_rowOps (s : State) (k : Nat) (f : Fn → Fn) : (s.updFn k f).rowOps = s.rowOps := rfl
@[simp] theorem State.updFn_gathered (s : State) (k : Nat) (f : Fn → Fn) : (s.updFn k f).gathered = s.gathered := rfl
@[simp] theorem State.updFn_bsus (s : State) (k : Nat) (f : Fn → Fn) : (s.updFn k f).bsus = s.bsus := rfl
@[simp] theorem State.updFn_refusals (s : State) (k : Nat) (f : Fn → Fn) : (s.updFn k f).refusals = s.refusals := rfl
@[simp] theorem State.updFn_bundles (s : State) (k : Nat) (f : Fn → Fn) : (s.updFn k f).bundles = s.bundles := rfl
@[simp] theorem State.updFn_bundleUses (s : State) (k : Nat) (f : Fn → Fn) : (s.updFn k f).bundleUses = s.bundleUses := rfl
@[simp] theorem State.updFn_names (s : State) (k : Nat) (f : Fn → Fn) : (s.updFn k f).names = s.names := rfl
@[simp] theorem State.updFn_nameWaits (s : State) (k : Nat) (f : Fn → Fn) : (s.updFn k f).nameWaits = s.nameWaits := rfl
@[simp] theorem State.updFn_versions (s : State) (k : Nat) (f : Fn → Fn) : (s.updFn k f).versions = s.versions := rfl
@[simp] theorem State.updFn_heldInstalls (s : State) (k : Nat) (f : Fn → Fn) : (s.updFn k f).heldInstalls = s.heldInstalls := rfl
@[simp] theorem State.updFn_rejoined (s : State) (k : Nat) (f : Fn → Fn) : (s.updFn k f).rejoined = s.rejoined := rfl
@[simp] theorem State.updFn_cores (s : State) (k : Nat) (f : Fn → Fn) : (s.updFn k f).cores = s.cores := rfl
@[simp] theorem State.updFn_homes (s : State) (k : Nat) (f : Fn → Fn) : (s.updFn k f).homes = s.homes := rfl
@[simp] theorem State.updFn_clusters (s : State) (k : Nat) (f : Fn → Fn) : (s.updFn k f).clusters = s.clusters := rfl
@[simp] theorem State.updFn_plat (s : State) (k : Nat) (f : Fn → Fn) : (s.updFn k f).plat = s.plat := rfl
@[simp] theorem State.updFn_mem (s : State) (k : Nat) (f : Fn → Fn) : (s.updFn k f).mem = s.mem := rfl
@[simp] theorem State.updFn_poisoned (s : State) (k : Nat) (f : Fn → Fn) : (s.updFn k f).poisoned = s.poisoned := rfl
@[simp] theorem State.updFn_badTags (s : State) (k : Nat) (f : Fn → Fn) : (s.updFn k f).badTags = s.badTags := rfl
@[simp] theorem State.updFn_drbg (s : State) (k : Nat) (f : Fn → Fn) : (s.updFn k f).drbg = s.drbg := rfl
@[simp] theorem State.updFn_keySets (s : State) (k : Nat) (f : Fn → Fn) : (s.updFn k f).keySets = s.keySets := rfl
@[simp] theorem State.updFn_digests (s : State) (k : Nat) (f : Fn → Fn) : (s.updFn k f).digests = s.digests := rfl
@[simp] theorem State.updFn_aliasKey (s : State) (k : Nat) (f : Fn → Fn) : (s.updFn k f).aliasKey = s.aliasKey := rfl
@[simp] theorem State.updFn_datum (s : State) (k : Nat) (f : Fn → Fn) : (s.updFn k f).datum = s.datum := rfl
@[simp] theorem State.updFn_dev (s : State) (k : Nat) (f : Fn → Fn) : (s.updFn k f).dev = s.dev := rfl
@[simp] theorem State.updFn_routes (s : State) (k : Nat) (f : Fn → Fn) : (s.updFn k f).routes = s.routes := rfl
@[simp] theorem State.updFn_aqis (s : State) (k : Nat) (f : Fn → Fn) : (s.updFn k f).aqis = s.aqis := rfl
@[simp] theorem State.updFn_slotTables (s : State) (k : Nat) (f : Fn → Fn) : (s.updFn k f).slotTables = s.slotTables := rfl
@[simp] theorem State.updFn_wakes (s : State) (k : Nat) (f : Fn → Fn) : (s.updFn k f).wakes = s.wakes := rfl
@[simp] theorem State.updFn_wakeAt (s : State) (k : Nat) (f : Fn → Fn) : (s.updFn k f).wakeAt = s.wakeAt := rfl
@[simp] theorem State.updFn_pfQueue (s : State) (k : Nat) (f : Fn → Fn) : (s.updFn k f).pfQueue = s.pfQueue := rfl
@[simp] theorem State.updFn_move (s : State) (k : Nat) (f : Fn → Fn) : (s.updFn k f).move = s.move := rfl
@[simp] theorem State.updFn_hostBias (s : State) (k : Nat) (f : Fn → Fn) : (s.updFn k f).hostBias = s.hostBias := rfl
@[simp] theorem State.updFn_flips (s : State) (k : Nat) (f : Fn → Fn) : (s.updFn k f).flips = s.flips := rfl
@[simp] theorem State.updFn_snooped (s : State) (k : Nat) (f : Fn → Fn) : (s.updFn k f).snooped = s.snooped := rfl
@[simp] theorem State.updFn_peerIncarn (s : State) (k : Nat) (f : Fn → Fn) : (s.updFn k f).peerIncarn = s.peerIncarn := rfl
@[simp] theorem State.updFn_peerHeld (s : State) (k : Nat) (f : Fn → Fn) : (s.updFn k f).peerHeld = s.peerHeld := rfl
@[simp] theorem State.updFn_peerPages (s : State) (k : Nat) (f : Fn → Fn) : (s.updFn k f).peerPages = s.peerPages := rfl
@[simp] theorem State.updFn_peerReqs (s : State) (k : Nat) (f : Fn → Fn) : (s.updFn k f).peerReqs = s.peerReqs := rfl
@[simp] theorem State.updFn_peerAsked (s : State) (k : Nat) (f : Fn → Fn) : (s.updFn k f).peerAsked = s.peerAsked := rfl
@[simp] theorem State.updFn_atsPending (s : State) (k : Nat) (f : Fn → Fn) : (s.updFn k f).atsPending = s.atsPending := rfl
@[simp] theorem State.updFn_stage (s : State) (k : Nat) (f : Fn → Fn) : (s.updFn k f).stage = s.stage := rfl
@[simp] theorem State.updFn_bootErr (s : State) (k : Nat) (f : Fn → Fn) : (s.updFn k f).bootErr = s.bootErr := rfl
@[simp] theorem State.updFn_ready (s : State) (k : Nat) (f : Fn → Fn) : (s.updFn k f).ready = s.ready := rfl
@[simp] theorem State.updFn_degraded (s : State) (k : Nat) (f : Fn → Fn) : (s.updFn k f).degraded = s.degraded := rfl
@[simp] theorem State.updFn_throttle (s : State) (k : Nat) (f : Fn → Fn) : (s.updFn k f).throttle = s.throttle := rfl
@[simp] theorem State.updFn_pwrCap (s : State) (k : Nat) (f : Fn → Fn) : (s.updFn k f).pwrCap = s.pwrCap := rfl
@[simp] theorem State.updFn_restartFn (s : State) (k : Nat) (f : Fn → Fn) : (s.updFn k f).restartFn = s.restartFn := rfl
@[simp] theorem State.updFn_restartDone (s : State) (k : Nat) (f : Fn → Fn) : (s.updFn k f).restartDone = s.restartDone := rfl
@[simp] theorem State.updFn_tdKeys (s : State) (k : Nat) (f : Fn → Fn) : (s.updFn k f).tdKeys = s.tdKeys := rfl
@[simp] theorem State.updFn_tdScrub (s : State) (k : Nat) (f : Fn → Fn) : (s.updFn k f).tdScrub = s.tdScrub := rfl
@[simp] theorem State.updFn_tdBusy (s : State) (k : Nat) (f : Fn → Fn) : (s.updFn k f).tdBusy = s.tdBusy := rfl
@[simp] theorem State.updFn_tdParcels (s : State) (k : Nat) (f : Fn → Fn) : (s.updFn k f).tdParcels = s.tdParcels := rfl
@[simp] theorem State.updFn_rekey (s : State) (k : Nat) (f : Fn → Fn) : (s.updFn k f).rekey = s.rekey := rfl
@[simp] theorem State.updFn_capGen (s : State) (k : Nat) (f : Fn → Fn) : (s.updFn k f).capGen = s.capGen := rfl
@[simp] theorem State.updFn_sliceErrors (s : State) (k : Nat) (f : Fn → Fn) : (s.updFn k f).sliceErrors = s.sliceErrors := rfl
@[simp] theorem State.updFn_locked (s : State) (k : Nat) (f : Fn → Fn) : (s.updFn k f).locked = s.locked := rfl
@[simp] theorem State.updFn_everLocked (s : State) (k : Nat) (f : Fn → Fn) : (s.updFn k f).everLocked = s.everLocked := rfl
@[simp] theorem State.updFn_shareRing (s : State) (k : Nat) (f : Fn → Fn) : (s.updFn k f).shareRing = s.shareRing := rfl
@[simp] theorem State.updFn_divided (s : State) (k : Nat) (f : Fn → Fn) : (s.updFn k f).divided = s.divided := rfl
@[simp] theorem State.updFn_stalls (s : State) (k : Nat) (f : Fn → Fn) : (s.updFn k f).stalls = s.stalls := rfl
@[simp] theorem State.updFn_buckets (s : State) (k : Nat) (f : Fn → Fn) : (s.updFn k f).buckets = s.buckets := rfl
@[simp] theorem State.updFn_linkQueues (s : State) (k : Nat) (f : Fn → Fn) : (s.updFn k f).linkQueues = s.linkQueues := rfl
@[simp] theorem State.updFn_out (s : State) (k : Nat) (f : Fn → Fn) : (s.updFn k f).out = s.out := rfl
@[simp] theorem State.updFn_records (s : State) (k : Nat) (f : Fn → Fn) : (s.updFn k f).records = s.records := rfl
@[simp] theorem State.updFn_free (s : State) (k : Nat) (f : Fn → Fn) : (s.updFn k f).free = s.free := rfl
@[simp] theorem State.updFn_steps (s : State) (k : Nat) (f : Fn → Fn) : (s.updFn k f).steps = s.steps := rfl
@[simp] theorem State.updFn_nextId (s : State) (k : Nat) (f : Fn → Fn) : (s.updFn k f).nextId = s.nextId := rfl
@[simp] theorem State.updFn_queue (s : State) (k : Nat) (f : Fn → Fn) : (s.updFn k f).queue = s.queue := rfl
@[simp] theorem State.updFn_timers (s : State) (k : Nat) (f : Fn → Fn) : (s.updFn k f).timers = s.timers := rfl
@[simp] theorem State.updFn_later (s : State) (k : Nat) (f : Fn → Fn) : (s.updFn k f).later = s.later := rfl
@[simp] theorem State.updFn_sched (s : State) (k : Nat) (f : Fn → Fn) : (s.updFn k f).sched = s.sched := rfl
@[simp] theorem State.updFn_act (s : State) (k : Nat) (f : Fn → Fn) : (s.updFn k f).act = s.act := rfl

-- State.updRow
@[simp] theorem State.updRow_strands (s : State) (k : Nat) (f : RowOp → RowOp) : (s.updRow k f).strands = s.strands := rfl
@[simp] theorem State.updRow_blocks (s : State) (k : Nat) (f : RowOp → RowOp) : (s.updRow k f).blocks = s.blocks := rfl
@[simp] theorem State.updRow_grids (s : State) (k : Nat) (f : RowOp → RowOp) : (s.updRow k f).grids = s.grids := rfl
@[simp] theorem State.updRow_jobs (s : State) (k : Nat) (f : RowOp → RowOp) : (s.updRow k f).jobs = s.jobs := rfl
@[simp] theorem State.updRow_arrayOps (s : State) (k : Nat) (f : RowOp → RowOp) : (s.updRow k f).arrayOps = s.arrayOps := rfl
@[simp] theorem State.updRow_cards (s : State) (k : Nat) (f : RowOp → RowOp) : (s.updRow k f).cards = s.cards := rfl
@[simp] theorem State.updRow_gathered (s : State) (k : Nat) (f : RowOp → RowOp) : (s.updRow k f).gathered = s.gathered := rfl
@[simp] theorem State.updRow_bsus (s : State) (k : Nat) (f : RowOp → RowOp) : (s.updRow k f).bsus = s.bsus := rfl
@[simp] theorem State.updRow_refusals (s : State) (k : Nat) (f : RowOp → RowOp) : (s.updRow k f).refusals = s.refusals := rfl
@[simp] theorem State.updRow_bundles (s : State) (k : Nat) (f : RowOp → RowOp) : (s.updRow k f).bundles = s.bundles := rfl
@[simp] theorem State.updRow_bundleUses (s : State) (k : Nat) (f : RowOp → RowOp) : (s.updRow k f).bundleUses = s.bundleUses := rfl
@[simp] theorem State.updRow_names (s : State) (k : Nat) (f : RowOp → RowOp) : (s.updRow k f).names = s.names := rfl
@[simp] theorem State.updRow_nameWaits (s : State) (k : Nat) (f : RowOp → RowOp) : (s.updRow k f).nameWaits = s.nameWaits := rfl
@[simp] theorem State.updRow_versions (s : State) (k : Nat) (f : RowOp → RowOp) : (s.updRow k f).versions = s.versions := rfl
@[simp] theorem State.updRow_heldInstalls (s : State) (k : Nat) (f : RowOp → RowOp) : (s.updRow k f).heldInstalls = s.heldInstalls := rfl
@[simp] theorem State.updRow_rejoined (s : State) (k : Nat) (f : RowOp → RowOp) : (s.updRow k f).rejoined = s.rejoined := rfl
@[simp] theorem State.updRow_cores (s : State) (k : Nat) (f : RowOp → RowOp) : (s.updRow k f).cores = s.cores := rfl
@[simp] theorem State.updRow_homes (s : State) (k : Nat) (f : RowOp → RowOp) : (s.updRow k f).homes = s.homes := rfl
@[simp] theorem State.updRow_clusters (s : State) (k : Nat) (f : RowOp → RowOp) : (s.updRow k f).clusters = s.clusters := rfl
@[simp] theorem State.updRow_fns (s : State) (k : Nat) (f : RowOp → RowOp) : (s.updRow k f).fns = s.fns := rfl
@[simp] theorem State.updRow_plat (s : State) (k : Nat) (f : RowOp → RowOp) : (s.updRow k f).plat = s.plat := rfl
@[simp] theorem State.updRow_mem (s : State) (k : Nat) (f : RowOp → RowOp) : (s.updRow k f).mem = s.mem := rfl
@[simp] theorem State.updRow_poisoned (s : State) (k : Nat) (f : RowOp → RowOp) : (s.updRow k f).poisoned = s.poisoned := rfl
@[simp] theorem State.updRow_badTags (s : State) (k : Nat) (f : RowOp → RowOp) : (s.updRow k f).badTags = s.badTags := rfl
@[simp] theorem State.updRow_drbg (s : State) (k : Nat) (f : RowOp → RowOp) : (s.updRow k f).drbg = s.drbg := rfl
@[simp] theorem State.updRow_keySets (s : State) (k : Nat) (f : RowOp → RowOp) : (s.updRow k f).keySets = s.keySets := rfl
@[simp] theorem State.updRow_digests (s : State) (k : Nat) (f : RowOp → RowOp) : (s.updRow k f).digests = s.digests := rfl
@[simp] theorem State.updRow_aliasKey (s : State) (k : Nat) (f : RowOp → RowOp) : (s.updRow k f).aliasKey = s.aliasKey := rfl
@[simp] theorem State.updRow_datum (s : State) (k : Nat) (f : RowOp → RowOp) : (s.updRow k f).datum = s.datum := rfl
@[simp] theorem State.updRow_dev (s : State) (k : Nat) (f : RowOp → RowOp) : (s.updRow k f).dev = s.dev := rfl
@[simp] theorem State.updRow_routes (s : State) (k : Nat) (f : RowOp → RowOp) : (s.updRow k f).routes = s.routes := rfl
@[simp] theorem State.updRow_aqis (s : State) (k : Nat) (f : RowOp → RowOp) : (s.updRow k f).aqis = s.aqis := rfl
@[simp] theorem State.updRow_slotTables (s : State) (k : Nat) (f : RowOp → RowOp) : (s.updRow k f).slotTables = s.slotTables := rfl
@[simp] theorem State.updRow_wakes (s : State) (k : Nat) (f : RowOp → RowOp) : (s.updRow k f).wakes = s.wakes := rfl
@[simp] theorem State.updRow_wakeAt (s : State) (k : Nat) (f : RowOp → RowOp) : (s.updRow k f).wakeAt = s.wakeAt := rfl
@[simp] theorem State.updRow_pfQueue (s : State) (k : Nat) (f : RowOp → RowOp) : (s.updRow k f).pfQueue = s.pfQueue := rfl
@[simp] theorem State.updRow_move (s : State) (k : Nat) (f : RowOp → RowOp) : (s.updRow k f).move = s.move := rfl
@[simp] theorem State.updRow_hostBias (s : State) (k : Nat) (f : RowOp → RowOp) : (s.updRow k f).hostBias = s.hostBias := rfl
@[simp] theorem State.updRow_flips (s : State) (k : Nat) (f : RowOp → RowOp) : (s.updRow k f).flips = s.flips := rfl
@[simp] theorem State.updRow_snooped (s : State) (k : Nat) (f : RowOp → RowOp) : (s.updRow k f).snooped = s.snooped := rfl
@[simp] theorem State.updRow_peerIncarn (s : State) (k : Nat) (f : RowOp → RowOp) : (s.updRow k f).peerIncarn = s.peerIncarn := rfl
@[simp] theorem State.updRow_peerHeld (s : State) (k : Nat) (f : RowOp → RowOp) : (s.updRow k f).peerHeld = s.peerHeld := rfl
@[simp] theorem State.updRow_peerPages (s : State) (k : Nat) (f : RowOp → RowOp) : (s.updRow k f).peerPages = s.peerPages := rfl
@[simp] theorem State.updRow_peerReqs (s : State) (k : Nat) (f : RowOp → RowOp) : (s.updRow k f).peerReqs = s.peerReqs := rfl
@[simp] theorem State.updRow_peerAsked (s : State) (k : Nat) (f : RowOp → RowOp) : (s.updRow k f).peerAsked = s.peerAsked := rfl
@[simp] theorem State.updRow_atsPending (s : State) (k : Nat) (f : RowOp → RowOp) : (s.updRow k f).atsPending = s.atsPending := rfl
@[simp] theorem State.updRow_stage (s : State) (k : Nat) (f : RowOp → RowOp) : (s.updRow k f).stage = s.stage := rfl
@[simp] theorem State.updRow_bootErr (s : State) (k : Nat) (f : RowOp → RowOp) : (s.updRow k f).bootErr = s.bootErr := rfl
@[simp] theorem State.updRow_ready (s : State) (k : Nat) (f : RowOp → RowOp) : (s.updRow k f).ready = s.ready := rfl
@[simp] theorem State.updRow_degraded (s : State) (k : Nat) (f : RowOp → RowOp) : (s.updRow k f).degraded = s.degraded := rfl
@[simp] theorem State.updRow_throttle (s : State) (k : Nat) (f : RowOp → RowOp) : (s.updRow k f).throttle = s.throttle := rfl
@[simp] theorem State.updRow_pwrCap (s : State) (k : Nat) (f : RowOp → RowOp) : (s.updRow k f).pwrCap = s.pwrCap := rfl
@[simp] theorem State.updRow_restartFn (s : State) (k : Nat) (f : RowOp → RowOp) : (s.updRow k f).restartFn = s.restartFn := rfl
@[simp] theorem State.updRow_restartDone (s : State) (k : Nat) (f : RowOp → RowOp) : (s.updRow k f).restartDone = s.restartDone := rfl
@[simp] theorem State.updRow_tdKeys (s : State) (k : Nat) (f : RowOp → RowOp) : (s.updRow k f).tdKeys = s.tdKeys := rfl
@[simp] theorem State.updRow_tdScrub (s : State) (k : Nat) (f : RowOp → RowOp) : (s.updRow k f).tdScrub = s.tdScrub := rfl
@[simp] theorem State.updRow_tdBusy (s : State) (k : Nat) (f : RowOp → RowOp) : (s.updRow k f).tdBusy = s.tdBusy := rfl
@[simp] theorem State.updRow_tdParcels (s : State) (k : Nat) (f : RowOp → RowOp) : (s.updRow k f).tdParcels = s.tdParcels := rfl
@[simp] theorem State.updRow_rekey (s : State) (k : Nat) (f : RowOp → RowOp) : (s.updRow k f).rekey = s.rekey := rfl
@[simp] theorem State.updRow_capGen (s : State) (k : Nat) (f : RowOp → RowOp) : (s.updRow k f).capGen = s.capGen := rfl
@[simp] theorem State.updRow_sliceErrors (s : State) (k : Nat) (f : RowOp → RowOp) : (s.updRow k f).sliceErrors = s.sliceErrors := rfl
@[simp] theorem State.updRow_locked (s : State) (k : Nat) (f : RowOp → RowOp) : (s.updRow k f).locked = s.locked := rfl
@[simp] theorem State.updRow_everLocked (s : State) (k : Nat) (f : RowOp → RowOp) : (s.updRow k f).everLocked = s.everLocked := rfl
@[simp] theorem State.updRow_shareRing (s : State) (k : Nat) (f : RowOp → RowOp) : (s.updRow k f).shareRing = s.shareRing := rfl
@[simp] theorem State.updRow_divided (s : State) (k : Nat) (f : RowOp → RowOp) : (s.updRow k f).divided = s.divided := rfl
@[simp] theorem State.updRow_stalls (s : State) (k : Nat) (f : RowOp → RowOp) : (s.updRow k f).stalls = s.stalls := rfl
@[simp] theorem State.updRow_buckets (s : State) (k : Nat) (f : RowOp → RowOp) : (s.updRow k f).buckets = s.buckets := rfl
@[simp] theorem State.updRow_linkQueues (s : State) (k : Nat) (f : RowOp → RowOp) : (s.updRow k f).linkQueues = s.linkQueues := rfl
@[simp] theorem State.updRow_out (s : State) (k : Nat) (f : RowOp → RowOp) : (s.updRow k f).out = s.out := rfl
@[simp] theorem State.updRow_records (s : State) (k : Nat) (f : RowOp → RowOp) : (s.updRow k f).records = s.records := rfl
@[simp] theorem State.updRow_free (s : State) (k : Nat) (f : RowOp → RowOp) : (s.updRow k f).free = s.free := rfl
@[simp] theorem State.updRow_steps (s : State) (k : Nat) (f : RowOp → RowOp) : (s.updRow k f).steps = s.steps := rfl
@[simp] theorem State.updRow_nextId (s : State) (k : Nat) (f : RowOp → RowOp) : (s.updRow k f).nextId = s.nextId := rfl
@[simp] theorem State.updRow_queue (s : State) (k : Nat) (f : RowOp → RowOp) : (s.updRow k f).queue = s.queue := rfl
@[simp] theorem State.updRow_timers (s : State) (k : Nat) (f : RowOp → RowOp) : (s.updRow k f).timers = s.timers := rfl
@[simp] theorem State.updRow_later (s : State) (k : Nat) (f : RowOp → RowOp) : (s.updRow k f).later = s.later := rfl
@[simp] theorem State.updRow_sched (s : State) (k : Nat) (f : RowOp → RowOp) : (s.updRow k f).sched = s.sched := rfl
@[simp] theorem State.updRow_act (s : State) (k : Nat) (f : RowOp → RowOp) : (s.updRow k f).act = s.act := rfl

-- State.updJob
@[simp] theorem State.updJob_strands (s : State) (k : Nat) (f : Job → Job) : (s.updJob k f).strands = s.strands := rfl
@[simp] theorem State.updJob_blocks (s : State) (k : Nat) (f : Job → Job) : (s.updJob k f).blocks = s.blocks := rfl
@[simp] theorem State.updJob_grids (s : State) (k : Nat) (f : Job → Job) : (s.updJob k f).grids = s.grids := rfl
@[simp] theorem State.updJob_arrayOps (s : State) (k : Nat) (f : Job → Job) : (s.updJob k f).arrayOps = s.arrayOps := rfl
@[simp] theorem State.updJob_cards (s : State) (k : Nat) (f : Job → Job) : (s.updJob k f).cards = s.cards := rfl
@[simp] theorem State.updJob_rowOps (s : State) (k : Nat) (f : Job → Job) : (s.updJob k f).rowOps = s.rowOps := rfl
@[simp] theorem State.updJob_gathered (s : State) (k : Nat) (f : Job → Job) : (s.updJob k f).gathered = s.gathered := rfl
@[simp] theorem State.updJob_bsus (s : State) (k : Nat) (f : Job → Job) : (s.updJob k f).bsus = s.bsus := rfl
@[simp] theorem State.updJob_refusals (s : State) (k : Nat) (f : Job → Job) : (s.updJob k f).refusals = s.refusals := rfl
@[simp] theorem State.updJob_bundles (s : State) (k : Nat) (f : Job → Job) : (s.updJob k f).bundles = s.bundles := rfl
@[simp] theorem State.updJob_bundleUses (s : State) (k : Nat) (f : Job → Job) : (s.updJob k f).bundleUses = s.bundleUses := rfl
@[simp] theorem State.updJob_names (s : State) (k : Nat) (f : Job → Job) : (s.updJob k f).names = s.names := rfl
@[simp] theorem State.updJob_nameWaits (s : State) (k : Nat) (f : Job → Job) : (s.updJob k f).nameWaits = s.nameWaits := rfl
@[simp] theorem State.updJob_versions (s : State) (k : Nat) (f : Job → Job) : (s.updJob k f).versions = s.versions := rfl
@[simp] theorem State.updJob_heldInstalls (s : State) (k : Nat) (f : Job → Job) : (s.updJob k f).heldInstalls = s.heldInstalls := rfl
@[simp] theorem State.updJob_rejoined (s : State) (k : Nat) (f : Job → Job) : (s.updJob k f).rejoined = s.rejoined := rfl
@[simp] theorem State.updJob_cores (s : State) (k : Nat) (f : Job → Job) : (s.updJob k f).cores = s.cores := rfl
@[simp] theorem State.updJob_homes (s : State) (k : Nat) (f : Job → Job) : (s.updJob k f).homes = s.homes := rfl
@[simp] theorem State.updJob_clusters (s : State) (k : Nat) (f : Job → Job) : (s.updJob k f).clusters = s.clusters := rfl
@[simp] theorem State.updJob_fns (s : State) (k : Nat) (f : Job → Job) : (s.updJob k f).fns = s.fns := rfl
@[simp] theorem State.updJob_plat (s : State) (k : Nat) (f : Job → Job) : (s.updJob k f).plat = s.plat := rfl
@[simp] theorem State.updJob_mem (s : State) (k : Nat) (f : Job → Job) : (s.updJob k f).mem = s.mem := rfl
@[simp] theorem State.updJob_poisoned (s : State) (k : Nat) (f : Job → Job) : (s.updJob k f).poisoned = s.poisoned := rfl
@[simp] theorem State.updJob_badTags (s : State) (k : Nat) (f : Job → Job) : (s.updJob k f).badTags = s.badTags := rfl
@[simp] theorem State.updJob_drbg (s : State) (k : Nat) (f : Job → Job) : (s.updJob k f).drbg = s.drbg := rfl
@[simp] theorem State.updJob_keySets (s : State) (k : Nat) (f : Job → Job) : (s.updJob k f).keySets = s.keySets := rfl
@[simp] theorem State.updJob_digests (s : State) (k : Nat) (f : Job → Job) : (s.updJob k f).digests = s.digests := rfl
@[simp] theorem State.updJob_aliasKey (s : State) (k : Nat) (f : Job → Job) : (s.updJob k f).aliasKey = s.aliasKey := rfl
@[simp] theorem State.updJob_datum (s : State) (k : Nat) (f : Job → Job) : (s.updJob k f).datum = s.datum := rfl
@[simp] theorem State.updJob_dev (s : State) (k : Nat) (f : Job → Job) : (s.updJob k f).dev = s.dev := rfl
@[simp] theorem State.updJob_routes (s : State) (k : Nat) (f : Job → Job) : (s.updJob k f).routes = s.routes := rfl
@[simp] theorem State.updJob_aqis (s : State) (k : Nat) (f : Job → Job) : (s.updJob k f).aqis = s.aqis := rfl
@[simp] theorem State.updJob_slotTables (s : State) (k : Nat) (f : Job → Job) : (s.updJob k f).slotTables = s.slotTables := rfl
@[simp] theorem State.updJob_wakes (s : State) (k : Nat) (f : Job → Job) : (s.updJob k f).wakes = s.wakes := rfl
@[simp] theorem State.updJob_wakeAt (s : State) (k : Nat) (f : Job → Job) : (s.updJob k f).wakeAt = s.wakeAt := rfl
@[simp] theorem State.updJob_pfQueue (s : State) (k : Nat) (f : Job → Job) : (s.updJob k f).pfQueue = s.pfQueue := rfl
@[simp] theorem State.updJob_move (s : State) (k : Nat) (f : Job → Job) : (s.updJob k f).move = s.move := rfl
@[simp] theorem State.updJob_hostBias (s : State) (k : Nat) (f : Job → Job) : (s.updJob k f).hostBias = s.hostBias := rfl
@[simp] theorem State.updJob_flips (s : State) (k : Nat) (f : Job → Job) : (s.updJob k f).flips = s.flips := rfl
@[simp] theorem State.updJob_snooped (s : State) (k : Nat) (f : Job → Job) : (s.updJob k f).snooped = s.snooped := rfl
@[simp] theorem State.updJob_peerIncarn (s : State) (k : Nat) (f : Job → Job) : (s.updJob k f).peerIncarn = s.peerIncarn := rfl
@[simp] theorem State.updJob_peerHeld (s : State) (k : Nat) (f : Job → Job) : (s.updJob k f).peerHeld = s.peerHeld := rfl
@[simp] theorem State.updJob_peerPages (s : State) (k : Nat) (f : Job → Job) : (s.updJob k f).peerPages = s.peerPages := rfl
@[simp] theorem State.updJob_peerReqs (s : State) (k : Nat) (f : Job → Job) : (s.updJob k f).peerReqs = s.peerReqs := rfl
@[simp] theorem State.updJob_peerAsked (s : State) (k : Nat) (f : Job → Job) : (s.updJob k f).peerAsked = s.peerAsked := rfl
@[simp] theorem State.updJob_atsPending (s : State) (k : Nat) (f : Job → Job) : (s.updJob k f).atsPending = s.atsPending := rfl
@[simp] theorem State.updJob_stage (s : State) (k : Nat) (f : Job → Job) : (s.updJob k f).stage = s.stage := rfl
@[simp] theorem State.updJob_bootErr (s : State) (k : Nat) (f : Job → Job) : (s.updJob k f).bootErr = s.bootErr := rfl
@[simp] theorem State.updJob_ready (s : State) (k : Nat) (f : Job → Job) : (s.updJob k f).ready = s.ready := rfl
@[simp] theorem State.updJob_degraded (s : State) (k : Nat) (f : Job → Job) : (s.updJob k f).degraded = s.degraded := rfl
@[simp] theorem State.updJob_throttle (s : State) (k : Nat) (f : Job → Job) : (s.updJob k f).throttle = s.throttle := rfl
@[simp] theorem State.updJob_pwrCap (s : State) (k : Nat) (f : Job → Job) : (s.updJob k f).pwrCap = s.pwrCap := rfl
@[simp] theorem State.updJob_restartFn (s : State) (k : Nat) (f : Job → Job) : (s.updJob k f).restartFn = s.restartFn := rfl
@[simp] theorem State.updJob_restartDone (s : State) (k : Nat) (f : Job → Job) : (s.updJob k f).restartDone = s.restartDone := rfl
@[simp] theorem State.updJob_tdKeys (s : State) (k : Nat) (f : Job → Job) : (s.updJob k f).tdKeys = s.tdKeys := rfl
@[simp] theorem State.updJob_tdScrub (s : State) (k : Nat) (f : Job → Job) : (s.updJob k f).tdScrub = s.tdScrub := rfl
@[simp] theorem State.updJob_tdBusy (s : State) (k : Nat) (f : Job → Job) : (s.updJob k f).tdBusy = s.tdBusy := rfl
@[simp] theorem State.updJob_tdParcels (s : State) (k : Nat) (f : Job → Job) : (s.updJob k f).tdParcels = s.tdParcels := rfl
@[simp] theorem State.updJob_rekey (s : State) (k : Nat) (f : Job → Job) : (s.updJob k f).rekey = s.rekey := rfl
@[simp] theorem State.updJob_capGen (s : State) (k : Nat) (f : Job → Job) : (s.updJob k f).capGen = s.capGen := rfl
@[simp] theorem State.updJob_sliceErrors (s : State) (k : Nat) (f : Job → Job) : (s.updJob k f).sliceErrors = s.sliceErrors := rfl
@[simp] theorem State.updJob_locked (s : State) (k : Nat) (f : Job → Job) : (s.updJob k f).locked = s.locked := rfl
@[simp] theorem State.updJob_everLocked (s : State) (k : Nat) (f : Job → Job) : (s.updJob k f).everLocked = s.everLocked := rfl
@[simp] theorem State.updJob_shareRing (s : State) (k : Nat) (f : Job → Job) : (s.updJob k f).shareRing = s.shareRing := rfl
@[simp] theorem State.updJob_divided (s : State) (k : Nat) (f : Job → Job) : (s.updJob k f).divided = s.divided := rfl
@[simp] theorem State.updJob_stalls (s : State) (k : Nat) (f : Job → Job) : (s.updJob k f).stalls = s.stalls := rfl
@[simp] theorem State.updJob_buckets (s : State) (k : Nat) (f : Job → Job) : (s.updJob k f).buckets = s.buckets := rfl
@[simp] theorem State.updJob_linkQueues (s : State) (k : Nat) (f : Job → Job) : (s.updJob k f).linkQueues = s.linkQueues := rfl
@[simp] theorem State.updJob_out (s : State) (k : Nat) (f : Job → Job) : (s.updJob k f).out = s.out := rfl
@[simp] theorem State.updJob_records (s : State) (k : Nat) (f : Job → Job) : (s.updJob k f).records = s.records := rfl
@[simp] theorem State.updJob_free (s : State) (k : Nat) (f : Job → Job) : (s.updJob k f).free = s.free := rfl
@[simp] theorem State.updJob_steps (s : State) (k : Nat) (f : Job → Job) : (s.updJob k f).steps = s.steps := rfl
@[simp] theorem State.updJob_nextId (s : State) (k : Nat) (f : Job → Job) : (s.updJob k f).nextId = s.nextId := rfl
@[simp] theorem State.updJob_queue (s : State) (k : Nat) (f : Job → Job) : (s.updJob k f).queue = s.queue := rfl
@[simp] theorem State.updJob_timers (s : State) (k : Nat) (f : Job → Job) : (s.updJob k f).timers = s.timers := rfl
@[simp] theorem State.updJob_later (s : State) (k : Nat) (f : Job → Job) : (s.updJob k f).later = s.later := rfl
@[simp] theorem State.updJob_sched (s : State) (k : Nat) (f : Job → Job) : (s.updJob k f).sched = s.sched := rfl
@[simp] theorem State.updJob_act (s : State) (k : Nat) (f : Job → Job) : (s.updJob k f).act = s.act := rfl

-- State.updArray
@[simp] theorem State.updArray_strands (s : State) (k : Nat) (f : ArrayOp → ArrayOp) : (s.updArray k f).strands = s.strands := rfl
@[simp] theorem State.updArray_blocks (s : State) (k : Nat) (f : ArrayOp → ArrayOp) : (s.updArray k f).blocks = s.blocks := rfl
@[simp] theorem State.updArray_grids (s : State) (k : Nat) (f : ArrayOp → ArrayOp) : (s.updArray k f).grids = s.grids := rfl
@[simp] theorem State.updArray_jobs (s : State) (k : Nat) (f : ArrayOp → ArrayOp) : (s.updArray k f).jobs = s.jobs := rfl
@[simp] theorem State.updArray_cards (s : State) (k : Nat) (f : ArrayOp → ArrayOp) : (s.updArray k f).cards = s.cards := rfl
@[simp] theorem State.updArray_rowOps (s : State) (k : Nat) (f : ArrayOp → ArrayOp) : (s.updArray k f).rowOps = s.rowOps := rfl
@[simp] theorem State.updArray_gathered (s : State) (k : Nat) (f : ArrayOp → ArrayOp) : (s.updArray k f).gathered = s.gathered := rfl
@[simp] theorem State.updArray_bsus (s : State) (k : Nat) (f : ArrayOp → ArrayOp) : (s.updArray k f).bsus = s.bsus := rfl
@[simp] theorem State.updArray_refusals (s : State) (k : Nat) (f : ArrayOp → ArrayOp) : (s.updArray k f).refusals = s.refusals := rfl
@[simp] theorem State.updArray_bundles (s : State) (k : Nat) (f : ArrayOp → ArrayOp) : (s.updArray k f).bundles = s.bundles := rfl
@[simp] theorem State.updArray_bundleUses (s : State) (k : Nat) (f : ArrayOp → ArrayOp) : (s.updArray k f).bundleUses = s.bundleUses := rfl
@[simp] theorem State.updArray_names (s : State) (k : Nat) (f : ArrayOp → ArrayOp) : (s.updArray k f).names = s.names := rfl
@[simp] theorem State.updArray_nameWaits (s : State) (k : Nat) (f : ArrayOp → ArrayOp) : (s.updArray k f).nameWaits = s.nameWaits := rfl
@[simp] theorem State.updArray_versions (s : State) (k : Nat) (f : ArrayOp → ArrayOp) : (s.updArray k f).versions = s.versions := rfl
@[simp] theorem State.updArray_heldInstalls (s : State) (k : Nat) (f : ArrayOp → ArrayOp) : (s.updArray k f).heldInstalls = s.heldInstalls := rfl
@[simp] theorem State.updArray_rejoined (s : State) (k : Nat) (f : ArrayOp → ArrayOp) : (s.updArray k f).rejoined = s.rejoined := rfl
@[simp] theorem State.updArray_cores (s : State) (k : Nat) (f : ArrayOp → ArrayOp) : (s.updArray k f).cores = s.cores := rfl
@[simp] theorem State.updArray_homes (s : State) (k : Nat) (f : ArrayOp → ArrayOp) : (s.updArray k f).homes = s.homes := rfl
@[simp] theorem State.updArray_clusters (s : State) (k : Nat) (f : ArrayOp → ArrayOp) : (s.updArray k f).clusters = s.clusters := rfl
@[simp] theorem State.updArray_fns (s : State) (k : Nat) (f : ArrayOp → ArrayOp) : (s.updArray k f).fns = s.fns := rfl
@[simp] theorem State.updArray_plat (s : State) (k : Nat) (f : ArrayOp → ArrayOp) : (s.updArray k f).plat = s.plat := rfl
@[simp] theorem State.updArray_mem (s : State) (k : Nat) (f : ArrayOp → ArrayOp) : (s.updArray k f).mem = s.mem := rfl
@[simp] theorem State.updArray_poisoned (s : State) (k : Nat) (f : ArrayOp → ArrayOp) : (s.updArray k f).poisoned = s.poisoned := rfl
@[simp] theorem State.updArray_badTags (s : State) (k : Nat) (f : ArrayOp → ArrayOp) : (s.updArray k f).badTags = s.badTags := rfl
@[simp] theorem State.updArray_drbg (s : State) (k : Nat) (f : ArrayOp → ArrayOp) : (s.updArray k f).drbg = s.drbg := rfl
@[simp] theorem State.updArray_keySets (s : State) (k : Nat) (f : ArrayOp → ArrayOp) : (s.updArray k f).keySets = s.keySets := rfl
@[simp] theorem State.updArray_digests (s : State) (k : Nat) (f : ArrayOp → ArrayOp) : (s.updArray k f).digests = s.digests := rfl
@[simp] theorem State.updArray_aliasKey (s : State) (k : Nat) (f : ArrayOp → ArrayOp) : (s.updArray k f).aliasKey = s.aliasKey := rfl
@[simp] theorem State.updArray_datum (s : State) (k : Nat) (f : ArrayOp → ArrayOp) : (s.updArray k f).datum = s.datum := rfl
@[simp] theorem State.updArray_dev (s : State) (k : Nat) (f : ArrayOp → ArrayOp) : (s.updArray k f).dev = s.dev := rfl
@[simp] theorem State.updArray_routes (s : State) (k : Nat) (f : ArrayOp → ArrayOp) : (s.updArray k f).routes = s.routes := rfl
@[simp] theorem State.updArray_aqis (s : State) (k : Nat) (f : ArrayOp → ArrayOp) : (s.updArray k f).aqis = s.aqis := rfl
@[simp] theorem State.updArray_slotTables (s : State) (k : Nat) (f : ArrayOp → ArrayOp) : (s.updArray k f).slotTables = s.slotTables := rfl
@[simp] theorem State.updArray_wakes (s : State) (k : Nat) (f : ArrayOp → ArrayOp) : (s.updArray k f).wakes = s.wakes := rfl
@[simp] theorem State.updArray_wakeAt (s : State) (k : Nat) (f : ArrayOp → ArrayOp) : (s.updArray k f).wakeAt = s.wakeAt := rfl
@[simp] theorem State.updArray_pfQueue (s : State) (k : Nat) (f : ArrayOp → ArrayOp) : (s.updArray k f).pfQueue = s.pfQueue := rfl
@[simp] theorem State.updArray_move (s : State) (k : Nat) (f : ArrayOp → ArrayOp) : (s.updArray k f).move = s.move := rfl
@[simp] theorem State.updArray_hostBias (s : State) (k : Nat) (f : ArrayOp → ArrayOp) : (s.updArray k f).hostBias = s.hostBias := rfl
@[simp] theorem State.updArray_flips (s : State) (k : Nat) (f : ArrayOp → ArrayOp) : (s.updArray k f).flips = s.flips := rfl
@[simp] theorem State.updArray_snooped (s : State) (k : Nat) (f : ArrayOp → ArrayOp) : (s.updArray k f).snooped = s.snooped := rfl
@[simp] theorem State.updArray_peerIncarn (s : State) (k : Nat) (f : ArrayOp → ArrayOp) : (s.updArray k f).peerIncarn = s.peerIncarn := rfl
@[simp] theorem State.updArray_peerHeld (s : State) (k : Nat) (f : ArrayOp → ArrayOp) : (s.updArray k f).peerHeld = s.peerHeld := rfl
@[simp] theorem State.updArray_peerPages (s : State) (k : Nat) (f : ArrayOp → ArrayOp) : (s.updArray k f).peerPages = s.peerPages := rfl
@[simp] theorem State.updArray_peerReqs (s : State) (k : Nat) (f : ArrayOp → ArrayOp) : (s.updArray k f).peerReqs = s.peerReqs := rfl
@[simp] theorem State.updArray_peerAsked (s : State) (k : Nat) (f : ArrayOp → ArrayOp) : (s.updArray k f).peerAsked = s.peerAsked := rfl
@[simp] theorem State.updArray_atsPending (s : State) (k : Nat) (f : ArrayOp → ArrayOp) : (s.updArray k f).atsPending = s.atsPending := rfl
@[simp] theorem State.updArray_stage (s : State) (k : Nat) (f : ArrayOp → ArrayOp) : (s.updArray k f).stage = s.stage := rfl
@[simp] theorem State.updArray_bootErr (s : State) (k : Nat) (f : ArrayOp → ArrayOp) : (s.updArray k f).bootErr = s.bootErr := rfl
@[simp] theorem State.updArray_ready (s : State) (k : Nat) (f : ArrayOp → ArrayOp) : (s.updArray k f).ready = s.ready := rfl
@[simp] theorem State.updArray_degraded (s : State) (k : Nat) (f : ArrayOp → ArrayOp) : (s.updArray k f).degraded = s.degraded := rfl
@[simp] theorem State.updArray_throttle (s : State) (k : Nat) (f : ArrayOp → ArrayOp) : (s.updArray k f).throttle = s.throttle := rfl
@[simp] theorem State.updArray_pwrCap (s : State) (k : Nat) (f : ArrayOp → ArrayOp) : (s.updArray k f).pwrCap = s.pwrCap := rfl
@[simp] theorem State.updArray_restartFn (s : State) (k : Nat) (f : ArrayOp → ArrayOp) : (s.updArray k f).restartFn = s.restartFn := rfl
@[simp] theorem State.updArray_restartDone (s : State) (k : Nat) (f : ArrayOp → ArrayOp) : (s.updArray k f).restartDone = s.restartDone := rfl
@[simp] theorem State.updArray_tdKeys (s : State) (k : Nat) (f : ArrayOp → ArrayOp) : (s.updArray k f).tdKeys = s.tdKeys := rfl
@[simp] theorem State.updArray_tdScrub (s : State) (k : Nat) (f : ArrayOp → ArrayOp) : (s.updArray k f).tdScrub = s.tdScrub := rfl
@[simp] theorem State.updArray_tdBusy (s : State) (k : Nat) (f : ArrayOp → ArrayOp) : (s.updArray k f).tdBusy = s.tdBusy := rfl
@[simp] theorem State.updArray_tdParcels (s : State) (k : Nat) (f : ArrayOp → ArrayOp) : (s.updArray k f).tdParcels = s.tdParcels := rfl
@[simp] theorem State.updArray_rekey (s : State) (k : Nat) (f : ArrayOp → ArrayOp) : (s.updArray k f).rekey = s.rekey := rfl
@[simp] theorem State.updArray_capGen (s : State) (k : Nat) (f : ArrayOp → ArrayOp) : (s.updArray k f).capGen = s.capGen := rfl
@[simp] theorem State.updArray_sliceErrors (s : State) (k : Nat) (f : ArrayOp → ArrayOp) : (s.updArray k f).sliceErrors = s.sliceErrors := rfl
@[simp] theorem State.updArray_locked (s : State) (k : Nat) (f : ArrayOp → ArrayOp) : (s.updArray k f).locked = s.locked := rfl
@[simp] theorem State.updArray_everLocked (s : State) (k : Nat) (f : ArrayOp → ArrayOp) : (s.updArray k f).everLocked = s.everLocked := rfl
@[simp] theorem State.updArray_shareRing (s : State) (k : Nat) (f : ArrayOp → ArrayOp) : (s.updArray k f).shareRing = s.shareRing := rfl
@[simp] theorem State.updArray_divided (s : State) (k : Nat) (f : ArrayOp → ArrayOp) : (s.updArray k f).divided = s.divided := rfl
@[simp] theorem State.updArray_stalls (s : State) (k : Nat) (f : ArrayOp → ArrayOp) : (s.updArray k f).stalls = s.stalls := rfl
@[simp] theorem State.updArray_buckets (s : State) (k : Nat) (f : ArrayOp → ArrayOp) : (s.updArray k f).buckets = s.buckets := rfl
@[simp] theorem State.updArray_linkQueues (s : State) (k : Nat) (f : ArrayOp → ArrayOp) : (s.updArray k f).linkQueues = s.linkQueues := rfl
@[simp] theorem State.updArray_out (s : State) (k : Nat) (f : ArrayOp → ArrayOp) : (s.updArray k f).out = s.out := rfl
@[simp] theorem State.updArray_records (s : State) (k : Nat) (f : ArrayOp → ArrayOp) : (s.updArray k f).records = s.records := rfl
@[simp] theorem State.updArray_free (s : State) (k : Nat) (f : ArrayOp → ArrayOp) : (s.updArray k f).free = s.free := rfl
@[simp] theorem State.updArray_steps (s : State) (k : Nat) (f : ArrayOp → ArrayOp) : (s.updArray k f).steps = s.steps := rfl
@[simp] theorem State.updArray_nextId (s : State) (k : Nat) (f : ArrayOp → ArrayOp) : (s.updArray k f).nextId = s.nextId := rfl
@[simp] theorem State.updArray_queue (s : State) (k : Nat) (f : ArrayOp → ArrayOp) : (s.updArray k f).queue = s.queue := rfl
@[simp] theorem State.updArray_timers (s : State) (k : Nat) (f : ArrayOp → ArrayOp) : (s.updArray k f).timers = s.timers := rfl
@[simp] theorem State.updArray_later (s : State) (k : Nat) (f : ArrayOp → ArrayOp) : (s.updArray k f).later = s.later := rfl
@[simp] theorem State.updArray_sched (s : State) (k : Nat) (f : ArrayOp → ArrayOp) : (s.updArray k f).sched = s.sched := rfl
@[simp] theorem State.updArray_act (s : State) (k : Nat) (f : ArrayOp → ArrayOp) : (s.updArray k f).act = s.act := rfl

-- State.send
@[simp] theorem State.send_strands (s : State) (e : Event) : (s.send e).strands = s.strands := rfl
@[simp] theorem State.send_blocks (s : State) (e : Event) : (s.send e).blocks = s.blocks := rfl
@[simp] theorem State.send_grids (s : State) (e : Event) : (s.send e).grids = s.grids := rfl
@[simp] theorem State.send_jobs (s : State) (e : Event) : (s.send e).jobs = s.jobs := rfl
@[simp] theorem State.send_arrayOps (s : State) (e : Event) : (s.send e).arrayOps = s.arrayOps := rfl
@[simp] theorem State.send_cards (s : State) (e : Event) : (s.send e).cards = s.cards := rfl
@[simp] theorem State.send_rowOps (s : State) (e : Event) : (s.send e).rowOps = s.rowOps := rfl
@[simp] theorem State.send_gathered (s : State) (e : Event) : (s.send e).gathered = s.gathered := rfl
@[simp] theorem State.send_bsus (s : State) (e : Event) : (s.send e).bsus = s.bsus := rfl
@[simp] theorem State.send_refusals (s : State) (e : Event) : (s.send e).refusals = s.refusals := rfl
@[simp] theorem State.send_bundles (s : State) (e : Event) : (s.send e).bundles = s.bundles := rfl
@[simp] theorem State.send_bundleUses (s : State) (e : Event) : (s.send e).bundleUses = s.bundleUses := rfl
@[simp] theorem State.send_names (s : State) (e : Event) : (s.send e).names = s.names := rfl
@[simp] theorem State.send_nameWaits (s : State) (e : Event) : (s.send e).nameWaits = s.nameWaits := rfl
@[simp] theorem State.send_versions (s : State) (e : Event) : (s.send e).versions = s.versions := rfl
@[simp] theorem State.send_heldInstalls (s : State) (e : Event) : (s.send e).heldInstalls = s.heldInstalls := rfl
@[simp] theorem State.send_rejoined (s : State) (e : Event) : (s.send e).rejoined = s.rejoined := rfl
@[simp] theorem State.send_cores (s : State) (e : Event) : (s.send e).cores = s.cores := rfl
@[simp] theorem State.send_homes (s : State) (e : Event) : (s.send e).homes = s.homes := rfl
@[simp] theorem State.send_clusters (s : State) (e : Event) : (s.send e).clusters = s.clusters := rfl
@[simp] theorem State.send_fns (s : State) (e : Event) : (s.send e).fns = s.fns := rfl
@[simp] theorem State.send_plat (s : State) (e : Event) : (s.send e).plat = s.plat := rfl
@[simp] theorem State.send_mem (s : State) (e : Event) : (s.send e).mem = s.mem := rfl
@[simp] theorem State.send_poisoned (s : State) (e : Event) : (s.send e).poisoned = s.poisoned := rfl
@[simp] theorem State.send_badTags (s : State) (e : Event) : (s.send e).badTags = s.badTags := rfl
@[simp] theorem State.send_drbg (s : State) (e : Event) : (s.send e).drbg = s.drbg := rfl
@[simp] theorem State.send_keySets (s : State) (e : Event) : (s.send e).keySets = s.keySets := rfl
@[simp] theorem State.send_digests (s : State) (e : Event) : (s.send e).digests = s.digests := rfl
@[simp] theorem State.send_aliasKey (s : State) (e : Event) : (s.send e).aliasKey = s.aliasKey := rfl
@[simp] theorem State.send_datum (s : State) (e : Event) : (s.send e).datum = s.datum := rfl
@[simp] theorem State.send_dev (s : State) (e : Event) : (s.send e).dev = s.dev := rfl
@[simp] theorem State.send_routes (s : State) (e : Event) : (s.send e).routes = s.routes := rfl
@[simp] theorem State.send_aqis (s : State) (e : Event) : (s.send e).aqis = s.aqis := rfl
@[simp] theorem State.send_slotTables (s : State) (e : Event) : (s.send e).slotTables = s.slotTables := rfl
@[simp] theorem State.send_wakes (s : State) (e : Event) : (s.send e).wakes = s.wakes := rfl
@[simp] theorem State.send_wakeAt (s : State) (e : Event) : (s.send e).wakeAt = s.wakeAt := rfl
@[simp] theorem State.send_pfQueue (s : State) (e : Event) : (s.send e).pfQueue = s.pfQueue := rfl
@[simp] theorem State.send_move (s : State) (e : Event) : (s.send e).move = s.move := rfl
@[simp] theorem State.send_hostBias (s : State) (e : Event) : (s.send e).hostBias = s.hostBias := rfl
@[simp] theorem State.send_flips (s : State) (e : Event) : (s.send e).flips = s.flips := rfl
@[simp] theorem State.send_snooped (s : State) (e : Event) : (s.send e).snooped = s.snooped := rfl
@[simp] theorem State.send_peerIncarn (s : State) (e : Event) : (s.send e).peerIncarn = s.peerIncarn := rfl
@[simp] theorem State.send_peerHeld (s : State) (e : Event) : (s.send e).peerHeld = s.peerHeld := rfl
@[simp] theorem State.send_peerPages (s : State) (e : Event) : (s.send e).peerPages = s.peerPages := rfl
@[simp] theorem State.send_peerReqs (s : State) (e : Event) : (s.send e).peerReqs = s.peerReqs := rfl
@[simp] theorem State.send_peerAsked (s : State) (e : Event) : (s.send e).peerAsked = s.peerAsked := rfl
@[simp] theorem State.send_atsPending (s : State) (e : Event) : (s.send e).atsPending = s.atsPending := rfl
@[simp] theorem State.send_stage (s : State) (e : Event) : (s.send e).stage = s.stage := rfl
@[simp] theorem State.send_bootErr (s : State) (e : Event) : (s.send e).bootErr = s.bootErr := rfl
@[simp] theorem State.send_ready (s : State) (e : Event) : (s.send e).ready = s.ready := rfl
@[simp] theorem State.send_degraded (s : State) (e : Event) : (s.send e).degraded = s.degraded := rfl
@[simp] theorem State.send_throttle (s : State) (e : Event) : (s.send e).throttle = s.throttle := rfl
@[simp] theorem State.send_pwrCap (s : State) (e : Event) : (s.send e).pwrCap = s.pwrCap := rfl
@[simp] theorem State.send_restartFn (s : State) (e : Event) : (s.send e).restartFn = s.restartFn := rfl
@[simp] theorem State.send_restartDone (s : State) (e : Event) : (s.send e).restartDone = s.restartDone := rfl
@[simp] theorem State.send_tdKeys (s : State) (e : Event) : (s.send e).tdKeys = s.tdKeys := rfl
@[simp] theorem State.send_tdScrub (s : State) (e : Event) : (s.send e).tdScrub = s.tdScrub := rfl
@[simp] theorem State.send_tdBusy (s : State) (e : Event) : (s.send e).tdBusy = s.tdBusy := rfl
@[simp] theorem State.send_tdParcels (s : State) (e : Event) : (s.send e).tdParcels = s.tdParcels := rfl
@[simp] theorem State.send_rekey (s : State) (e : Event) : (s.send e).rekey = s.rekey := rfl
@[simp] theorem State.send_capGen (s : State) (e : Event) : (s.send e).capGen = s.capGen := rfl
@[simp] theorem State.send_sliceErrors (s : State) (e : Event) : (s.send e).sliceErrors = s.sliceErrors := rfl
@[simp] theorem State.send_locked (s : State) (e : Event) : (s.send e).locked = s.locked := rfl
@[simp] theorem State.send_everLocked (s : State) (e : Event) : (s.send e).everLocked = s.everLocked := rfl
@[simp] theorem State.send_shareRing (s : State) (e : Event) : (s.send e).shareRing = s.shareRing := rfl
@[simp] theorem State.send_divided (s : State) (e : Event) : (s.send e).divided = s.divided := rfl
@[simp] theorem State.send_stalls (s : State) (e : Event) : (s.send e).stalls = s.stalls := rfl
@[simp] theorem State.send_buckets (s : State) (e : Event) : (s.send e).buckets = s.buckets := rfl
@[simp] theorem State.send_linkQueues (s : State) (e : Event) : (s.send e).linkQueues = s.linkQueues := rfl
@[simp] theorem State.send_out (s : State) (e : Event) : (s.send e).out = s.out := rfl
@[simp] theorem State.send_records (s : State) (e : Event) : (s.send e).records = s.records := rfl
@[simp] theorem State.send_free (s : State) (e : Event) : (s.send e).free = s.free := rfl
@[simp] theorem State.send_steps (s : State) (e : Event) : (s.send e).steps = s.steps := rfl
@[simp] theorem State.send_nextId (s : State) (e : Event) : (s.send e).nextId = s.nextId := rfl
@[simp] theorem State.send_timers (s : State) (e : Event) : (s.send e).timers = s.timers := rfl
@[simp] theorem State.send_later (s : State) (e : Event) : (s.send e).later = s.later := rfl
@[simp] theorem State.send_sched (s : State) (e : Event) : (s.send e).sched = s.sched := rfl
@[simp] theorem State.send_act (s : State) (e : Event) : (s.send e).act = s.act := rfl

-- State.post
@[simp] theorem State.post_strands (s : State) (e : Event) : (s.post e).strands = s.strands := rfl
@[simp] theorem State.post_blocks (s : State) (e : Event) : (s.post e).blocks = s.blocks := rfl
@[simp] theorem State.post_grids (s : State) (e : Event) : (s.post e).grids = s.grids := rfl
@[simp] theorem State.post_jobs (s : State) (e : Event) : (s.post e).jobs = s.jobs := rfl
@[simp] theorem State.post_arrayOps (s : State) (e : Event) : (s.post e).arrayOps = s.arrayOps := rfl
@[simp] theorem State.post_cards (s : State) (e : Event) : (s.post e).cards = s.cards := rfl
@[simp] theorem State.post_rowOps (s : State) (e : Event) : (s.post e).rowOps = s.rowOps := rfl
@[simp] theorem State.post_gathered (s : State) (e : Event) : (s.post e).gathered = s.gathered := rfl
@[simp] theorem State.post_bsus (s : State) (e : Event) : (s.post e).bsus = s.bsus := rfl
@[simp] theorem State.post_refusals (s : State) (e : Event) : (s.post e).refusals = s.refusals := rfl
@[simp] theorem State.post_bundles (s : State) (e : Event) : (s.post e).bundles = s.bundles := rfl
@[simp] theorem State.post_bundleUses (s : State) (e : Event) : (s.post e).bundleUses = s.bundleUses := rfl
@[simp] theorem State.post_names (s : State) (e : Event) : (s.post e).names = s.names := rfl
@[simp] theorem State.post_nameWaits (s : State) (e : Event) : (s.post e).nameWaits = s.nameWaits := rfl
@[simp] theorem State.post_versions (s : State) (e : Event) : (s.post e).versions = s.versions := rfl
@[simp] theorem State.post_heldInstalls (s : State) (e : Event) : (s.post e).heldInstalls = s.heldInstalls := rfl
@[simp] theorem State.post_rejoined (s : State) (e : Event) : (s.post e).rejoined = s.rejoined := rfl
@[simp] theorem State.post_cores (s : State) (e : Event) : (s.post e).cores = s.cores := rfl
@[simp] theorem State.post_homes (s : State) (e : Event) : (s.post e).homes = s.homes := rfl
@[simp] theorem State.post_clusters (s : State) (e : Event) : (s.post e).clusters = s.clusters := rfl
@[simp] theorem State.post_fns (s : State) (e : Event) : (s.post e).fns = s.fns := rfl
@[simp] theorem State.post_plat (s : State) (e : Event) : (s.post e).plat = s.plat := rfl
@[simp] theorem State.post_mem (s : State) (e : Event) : (s.post e).mem = s.mem := rfl
@[simp] theorem State.post_poisoned (s : State) (e : Event) : (s.post e).poisoned = s.poisoned := rfl
@[simp] theorem State.post_badTags (s : State) (e : Event) : (s.post e).badTags = s.badTags := rfl
@[simp] theorem State.post_drbg (s : State) (e : Event) : (s.post e).drbg = s.drbg := rfl
@[simp] theorem State.post_keySets (s : State) (e : Event) : (s.post e).keySets = s.keySets := rfl
@[simp] theorem State.post_digests (s : State) (e : Event) : (s.post e).digests = s.digests := rfl
@[simp] theorem State.post_aliasKey (s : State) (e : Event) : (s.post e).aliasKey = s.aliasKey := rfl
@[simp] theorem State.post_datum (s : State) (e : Event) : (s.post e).datum = s.datum := rfl
@[simp] theorem State.post_dev (s : State) (e : Event) : (s.post e).dev = s.dev := rfl
@[simp] theorem State.post_routes (s : State) (e : Event) : (s.post e).routes = s.routes := rfl
@[simp] theorem State.post_aqis (s : State) (e : Event) : (s.post e).aqis = s.aqis := rfl
@[simp] theorem State.post_slotTables (s : State) (e : Event) : (s.post e).slotTables = s.slotTables := rfl
@[simp] theorem State.post_wakes (s : State) (e : Event) : (s.post e).wakes = s.wakes := rfl
@[simp] theorem State.post_wakeAt (s : State) (e : Event) : (s.post e).wakeAt = s.wakeAt := rfl
@[simp] theorem State.post_pfQueue (s : State) (e : Event) : (s.post e).pfQueue = s.pfQueue := rfl
@[simp] theorem State.post_move (s : State) (e : Event) : (s.post e).move = s.move := rfl
@[simp] theorem State.post_hostBias (s : State) (e : Event) : (s.post e).hostBias = s.hostBias := rfl
@[simp] theorem State.post_flips (s : State) (e : Event) : (s.post e).flips = s.flips := rfl
@[simp] theorem State.post_snooped (s : State) (e : Event) : (s.post e).snooped = s.snooped := rfl
@[simp] theorem State.post_peerIncarn (s : State) (e : Event) : (s.post e).peerIncarn = s.peerIncarn := rfl
@[simp] theorem State.post_peerHeld (s : State) (e : Event) : (s.post e).peerHeld = s.peerHeld := rfl
@[simp] theorem State.post_peerPages (s : State) (e : Event) : (s.post e).peerPages = s.peerPages := rfl
@[simp] theorem State.post_peerReqs (s : State) (e : Event) : (s.post e).peerReqs = s.peerReqs := rfl
@[simp] theorem State.post_peerAsked (s : State) (e : Event) : (s.post e).peerAsked = s.peerAsked := rfl
@[simp] theorem State.post_atsPending (s : State) (e : Event) : (s.post e).atsPending = s.atsPending := rfl
@[simp] theorem State.post_stage (s : State) (e : Event) : (s.post e).stage = s.stage := rfl
@[simp] theorem State.post_bootErr (s : State) (e : Event) : (s.post e).bootErr = s.bootErr := rfl
@[simp] theorem State.post_ready (s : State) (e : Event) : (s.post e).ready = s.ready := rfl
@[simp] theorem State.post_degraded (s : State) (e : Event) : (s.post e).degraded = s.degraded := rfl
@[simp] theorem State.post_throttle (s : State) (e : Event) : (s.post e).throttle = s.throttle := rfl
@[simp] theorem State.post_pwrCap (s : State) (e : Event) : (s.post e).pwrCap = s.pwrCap := rfl
@[simp] theorem State.post_restartFn (s : State) (e : Event) : (s.post e).restartFn = s.restartFn := rfl
@[simp] theorem State.post_restartDone (s : State) (e : Event) : (s.post e).restartDone = s.restartDone := rfl
@[simp] theorem State.post_tdKeys (s : State) (e : Event) : (s.post e).tdKeys = s.tdKeys := rfl
@[simp] theorem State.post_tdScrub (s : State) (e : Event) : (s.post e).tdScrub = s.tdScrub := rfl
@[simp] theorem State.post_tdBusy (s : State) (e : Event) : (s.post e).tdBusy = s.tdBusy := rfl
@[simp] theorem State.post_tdParcels (s : State) (e : Event) : (s.post e).tdParcels = s.tdParcels := rfl
@[simp] theorem State.post_rekey (s : State) (e : Event) : (s.post e).rekey = s.rekey := rfl
@[simp] theorem State.post_capGen (s : State) (e : Event) : (s.post e).capGen = s.capGen := rfl
@[simp] theorem State.post_sliceErrors (s : State) (e : Event) : (s.post e).sliceErrors = s.sliceErrors := rfl
@[simp] theorem State.post_locked (s : State) (e : Event) : (s.post e).locked = s.locked := rfl
@[simp] theorem State.post_everLocked (s : State) (e : Event) : (s.post e).everLocked = s.everLocked := rfl
@[simp] theorem State.post_shareRing (s : State) (e : Event) : (s.post e).shareRing = s.shareRing := rfl
@[simp] theorem State.post_divided (s : State) (e : Event) : (s.post e).divided = s.divided := rfl
@[simp] theorem State.post_stalls (s : State) (e : Event) : (s.post e).stalls = s.stalls := rfl
@[simp] theorem State.post_buckets (s : State) (e : Event) : (s.post e).buckets = s.buckets := rfl
@[simp] theorem State.post_linkQueues (s : State) (e : Event) : (s.post e).linkQueues = s.linkQueues := rfl
@[simp] theorem State.post_out (s : State) (e : Event) : (s.post e).out = s.out := rfl
@[simp] theorem State.post_records (s : State) (e : Event) : (s.post e).records = s.records := rfl
@[simp] theorem State.post_free (s : State) (e : Event) : (s.post e).free = s.free := rfl
@[simp] theorem State.post_steps (s : State) (e : Event) : (s.post e).steps = s.steps := rfl
@[simp] theorem State.post_nextId (s : State) (e : Event) : (s.post e).nextId = s.nextId := rfl
@[simp] theorem State.post_queue (s : State) (e : Event) : (s.post e).queue = s.queue := rfl
@[simp] theorem State.post_timers (s : State) (e : Event) : (s.post e).timers = s.timers := rfl
@[simp] theorem State.post_sched (s : State) (e : Event) : (s.post e).sched = s.sched := rfl
@[simp] theorem State.post_act (s : State) (e : Event) : (s.post e).act = s.act := rfl

-- State.after
@[simp] theorem State.after_strands (s : State) (n : Nat) (e : Event) : (s.after n e).strands = s.strands := rfl
@[simp] theorem State.after_blocks (s : State) (n : Nat) (e : Event) : (s.after n e).blocks = s.blocks := rfl
@[simp] theorem State.after_grids (s : State) (n : Nat) (e : Event) : (s.after n e).grids = s.grids := rfl
@[simp] theorem State.after_jobs (s : State) (n : Nat) (e : Event) : (s.after n e).jobs = s.jobs := rfl
@[simp] theorem State.after_arrayOps (s : State) (n : Nat) (e : Event) : (s.after n e).arrayOps = s.arrayOps := rfl
@[simp] theorem State.after_cards (s : State) (n : Nat) (e : Event) : (s.after n e).cards = s.cards := rfl
@[simp] theorem State.after_rowOps (s : State) (n : Nat) (e : Event) : (s.after n e).rowOps = s.rowOps := rfl
@[simp] theorem State.after_gathered (s : State) (n : Nat) (e : Event) : (s.after n e).gathered = s.gathered := rfl
@[simp] theorem State.after_bsus (s : State) (n : Nat) (e : Event) : (s.after n e).bsus = s.bsus := rfl
@[simp] theorem State.after_refusals (s : State) (n : Nat) (e : Event) : (s.after n e).refusals = s.refusals := rfl
@[simp] theorem State.after_bundles (s : State) (n : Nat) (e : Event) : (s.after n e).bundles = s.bundles := rfl
@[simp] theorem State.after_bundleUses (s : State) (n : Nat) (e : Event) : (s.after n e).bundleUses = s.bundleUses := rfl
@[simp] theorem State.after_names (s : State) (n : Nat) (e : Event) : (s.after n e).names = s.names := rfl
@[simp] theorem State.after_nameWaits (s : State) (n : Nat) (e : Event) : (s.after n e).nameWaits = s.nameWaits := rfl
@[simp] theorem State.after_versions (s : State) (n : Nat) (e : Event) : (s.after n e).versions = s.versions := rfl
@[simp] theorem State.after_heldInstalls (s : State) (n : Nat) (e : Event) : (s.after n e).heldInstalls = s.heldInstalls := rfl
@[simp] theorem State.after_rejoined (s : State) (n : Nat) (e : Event) : (s.after n e).rejoined = s.rejoined := rfl
@[simp] theorem State.after_cores (s : State) (n : Nat) (e : Event) : (s.after n e).cores = s.cores := rfl
@[simp] theorem State.after_homes (s : State) (n : Nat) (e : Event) : (s.after n e).homes = s.homes := rfl
@[simp] theorem State.after_clusters (s : State) (n : Nat) (e : Event) : (s.after n e).clusters = s.clusters := rfl
@[simp] theorem State.after_fns (s : State) (n : Nat) (e : Event) : (s.after n e).fns = s.fns := rfl
@[simp] theorem State.after_plat (s : State) (n : Nat) (e : Event) : (s.after n e).plat = s.plat := rfl
@[simp] theorem State.after_mem (s : State) (n : Nat) (e : Event) : (s.after n e).mem = s.mem := rfl
@[simp] theorem State.after_poisoned (s : State) (n : Nat) (e : Event) : (s.after n e).poisoned = s.poisoned := rfl
@[simp] theorem State.after_badTags (s : State) (n : Nat) (e : Event) : (s.after n e).badTags = s.badTags := rfl
@[simp] theorem State.after_drbg (s : State) (n : Nat) (e : Event) : (s.after n e).drbg = s.drbg := rfl
@[simp] theorem State.after_keySets (s : State) (n : Nat) (e : Event) : (s.after n e).keySets = s.keySets := rfl
@[simp] theorem State.after_digests (s : State) (n : Nat) (e : Event) : (s.after n e).digests = s.digests := rfl
@[simp] theorem State.after_aliasKey (s : State) (n : Nat) (e : Event) : (s.after n e).aliasKey = s.aliasKey := rfl
@[simp] theorem State.after_datum (s : State) (n : Nat) (e : Event) : (s.after n e).datum = s.datum := rfl
@[simp] theorem State.after_dev (s : State) (n : Nat) (e : Event) : (s.after n e).dev = s.dev := rfl
@[simp] theorem State.after_routes (s : State) (n : Nat) (e : Event) : (s.after n e).routes = s.routes := rfl
@[simp] theorem State.after_aqis (s : State) (n : Nat) (e : Event) : (s.after n e).aqis = s.aqis := rfl
@[simp] theorem State.after_slotTables (s : State) (n : Nat) (e : Event) : (s.after n e).slotTables = s.slotTables := rfl
@[simp] theorem State.after_wakes (s : State) (n : Nat) (e : Event) : (s.after n e).wakes = s.wakes := rfl
@[simp] theorem State.after_wakeAt (s : State) (n : Nat) (e : Event) : (s.after n e).wakeAt = s.wakeAt := rfl
@[simp] theorem State.after_pfQueue (s : State) (n : Nat) (e : Event) : (s.after n e).pfQueue = s.pfQueue := rfl
@[simp] theorem State.after_move (s : State) (n : Nat) (e : Event) : (s.after n e).move = s.move := rfl
@[simp] theorem State.after_hostBias (s : State) (n : Nat) (e : Event) : (s.after n e).hostBias = s.hostBias := rfl
@[simp] theorem State.after_flips (s : State) (n : Nat) (e : Event) : (s.after n e).flips = s.flips := rfl
@[simp] theorem State.after_snooped (s : State) (n : Nat) (e : Event) : (s.after n e).snooped = s.snooped := rfl
@[simp] theorem State.after_peerIncarn (s : State) (n : Nat) (e : Event) : (s.after n e).peerIncarn = s.peerIncarn := rfl
@[simp] theorem State.after_peerHeld (s : State) (n : Nat) (e : Event) : (s.after n e).peerHeld = s.peerHeld := rfl
@[simp] theorem State.after_peerPages (s : State) (n : Nat) (e : Event) : (s.after n e).peerPages = s.peerPages := rfl
@[simp] theorem State.after_peerReqs (s : State) (n : Nat) (e : Event) : (s.after n e).peerReqs = s.peerReqs := rfl
@[simp] theorem State.after_peerAsked (s : State) (n : Nat) (e : Event) : (s.after n e).peerAsked = s.peerAsked := rfl
@[simp] theorem State.after_atsPending (s : State) (n : Nat) (e : Event) : (s.after n e).atsPending = s.atsPending := rfl
@[simp] theorem State.after_stage (s : State) (n : Nat) (e : Event) : (s.after n e).stage = s.stage := rfl
@[simp] theorem State.after_bootErr (s : State) (n : Nat) (e : Event) : (s.after n e).bootErr = s.bootErr := rfl
@[simp] theorem State.after_ready (s : State) (n : Nat) (e : Event) : (s.after n e).ready = s.ready := rfl
@[simp] theorem State.after_degraded (s : State) (n : Nat) (e : Event) : (s.after n e).degraded = s.degraded := rfl
@[simp] theorem State.after_throttle (s : State) (n : Nat) (e : Event) : (s.after n e).throttle = s.throttle := rfl
@[simp] theorem State.after_pwrCap (s : State) (n : Nat) (e : Event) : (s.after n e).pwrCap = s.pwrCap := rfl
@[simp] theorem State.after_restartFn (s : State) (n : Nat) (e : Event) : (s.after n e).restartFn = s.restartFn := rfl
@[simp] theorem State.after_restartDone (s : State) (n : Nat) (e : Event) : (s.after n e).restartDone = s.restartDone := rfl
@[simp] theorem State.after_tdKeys (s : State) (n : Nat) (e : Event) : (s.after n e).tdKeys = s.tdKeys := rfl
@[simp] theorem State.after_tdScrub (s : State) (n : Nat) (e : Event) : (s.after n e).tdScrub = s.tdScrub := rfl
@[simp] theorem State.after_tdBusy (s : State) (n : Nat) (e : Event) : (s.after n e).tdBusy = s.tdBusy := rfl
@[simp] theorem State.after_tdParcels (s : State) (n : Nat) (e : Event) : (s.after n e).tdParcels = s.tdParcels := rfl
@[simp] theorem State.after_rekey (s : State) (n : Nat) (e : Event) : (s.after n e).rekey = s.rekey := rfl
@[simp] theorem State.after_capGen (s : State) (n : Nat) (e : Event) : (s.after n e).capGen = s.capGen := rfl
@[simp] theorem State.after_sliceErrors (s : State) (n : Nat) (e : Event) : (s.after n e).sliceErrors = s.sliceErrors := rfl
@[simp] theorem State.after_locked (s : State) (n : Nat) (e : Event) : (s.after n e).locked = s.locked := rfl
@[simp] theorem State.after_everLocked (s : State) (n : Nat) (e : Event) : (s.after n e).everLocked = s.everLocked := rfl
@[simp] theorem State.after_shareRing (s : State) (n : Nat) (e : Event) : (s.after n e).shareRing = s.shareRing := rfl
@[simp] theorem State.after_divided (s : State) (n : Nat) (e : Event) : (s.after n e).divided = s.divided := rfl
@[simp] theorem State.after_stalls (s : State) (n : Nat) (e : Event) : (s.after n e).stalls = s.stalls := rfl
@[simp] theorem State.after_buckets (s : State) (n : Nat) (e : Event) : (s.after n e).buckets = s.buckets := rfl
@[simp] theorem State.after_linkQueues (s : State) (n : Nat) (e : Event) : (s.after n e).linkQueues = s.linkQueues := rfl
@[simp] theorem State.after_out (s : State) (n : Nat) (e : Event) : (s.after n e).out = s.out := rfl
@[simp] theorem State.after_records (s : State) (n : Nat) (e : Event) : (s.after n e).records = s.records := rfl
@[simp] theorem State.after_free (s : State) (n : Nat) (e : Event) : (s.after n e).free = s.free := rfl
@[simp] theorem State.after_steps (s : State) (n : Nat) (e : Event) : (s.after n e).steps = s.steps := rfl
@[simp] theorem State.after_nextId (s : State) (n : Nat) (e : Event) : (s.after n e).nextId = s.nextId := rfl
@[simp] theorem State.after_queue (s : State) (n : Nat) (e : Event) : (s.after n e).queue = s.queue := rfl
@[simp] theorem State.after_later (s : State) (n : Nat) (e : Event) : (s.after n e).later = s.later := rfl
@[simp] theorem State.after_sched (s : State) (n : Nat) (e : Event) : (s.after n e).sched = s.sched := rfl
@[simp] theorem State.after_act (s : State) (n : Nat) (e : Event) : (s.after n e).act = s.act := rfl

-- State.emitOut
@[simp] theorem State.emitOut_strands (s : State) (o : Output) : (s.emitOut o).strands = s.strands := rfl
@[simp] theorem State.emitOut_blocks (s : State) (o : Output) : (s.emitOut o).blocks = s.blocks := rfl
@[simp] theorem State.emitOut_grids (s : State) (o : Output) : (s.emitOut o).grids = s.grids := rfl
@[simp] theorem State.emitOut_jobs (s : State) (o : Output) : (s.emitOut o).jobs = s.jobs := rfl
@[simp] theorem State.emitOut_arrayOps (s : State) (o : Output) : (s.emitOut o).arrayOps = s.arrayOps := rfl
@[simp] theorem State.emitOut_cards (s : State) (o : Output) : (s.emitOut o).cards = s.cards := rfl
@[simp] theorem State.emitOut_rowOps (s : State) (o : Output) : (s.emitOut o).rowOps = s.rowOps := rfl
@[simp] theorem State.emitOut_gathered (s : State) (o : Output) : (s.emitOut o).gathered = s.gathered := rfl
@[simp] theorem State.emitOut_bsus (s : State) (o : Output) : (s.emitOut o).bsus = s.bsus := rfl
@[simp] theorem State.emitOut_refusals (s : State) (o : Output) : (s.emitOut o).refusals = s.refusals := rfl
@[simp] theorem State.emitOut_bundles (s : State) (o : Output) : (s.emitOut o).bundles = s.bundles := rfl
@[simp] theorem State.emitOut_bundleUses (s : State) (o : Output) : (s.emitOut o).bundleUses = s.bundleUses := rfl
@[simp] theorem State.emitOut_names (s : State) (o : Output) : (s.emitOut o).names = s.names := rfl
@[simp] theorem State.emitOut_nameWaits (s : State) (o : Output) : (s.emitOut o).nameWaits = s.nameWaits := rfl
@[simp] theorem State.emitOut_versions (s : State) (o : Output) : (s.emitOut o).versions = s.versions := rfl
@[simp] theorem State.emitOut_heldInstalls (s : State) (o : Output) : (s.emitOut o).heldInstalls = s.heldInstalls := rfl
@[simp] theorem State.emitOut_rejoined (s : State) (o : Output) : (s.emitOut o).rejoined = s.rejoined := rfl
@[simp] theorem State.emitOut_cores (s : State) (o : Output) : (s.emitOut o).cores = s.cores := rfl
@[simp] theorem State.emitOut_homes (s : State) (o : Output) : (s.emitOut o).homes = s.homes := rfl
@[simp] theorem State.emitOut_clusters (s : State) (o : Output) : (s.emitOut o).clusters = s.clusters := rfl
@[simp] theorem State.emitOut_fns (s : State) (o : Output) : (s.emitOut o).fns = s.fns := rfl
@[simp] theorem State.emitOut_plat (s : State) (o : Output) : (s.emitOut o).plat = s.plat := rfl
@[simp] theorem State.emitOut_mem (s : State) (o : Output) : (s.emitOut o).mem = s.mem := rfl
@[simp] theorem State.emitOut_poisoned (s : State) (o : Output) : (s.emitOut o).poisoned = s.poisoned := rfl
@[simp] theorem State.emitOut_badTags (s : State) (o : Output) : (s.emitOut o).badTags = s.badTags := rfl
@[simp] theorem State.emitOut_drbg (s : State) (o : Output) : (s.emitOut o).drbg = s.drbg := rfl
@[simp] theorem State.emitOut_keySets (s : State) (o : Output) : (s.emitOut o).keySets = s.keySets := rfl
@[simp] theorem State.emitOut_digests (s : State) (o : Output) : (s.emitOut o).digests = s.digests := rfl
@[simp] theorem State.emitOut_aliasKey (s : State) (o : Output) : (s.emitOut o).aliasKey = s.aliasKey := rfl
@[simp] theorem State.emitOut_datum (s : State) (o : Output) : (s.emitOut o).datum = s.datum := rfl
@[simp] theorem State.emitOut_dev (s : State) (o : Output) : (s.emitOut o).dev = s.dev := rfl
@[simp] theorem State.emitOut_routes (s : State) (o : Output) : (s.emitOut o).routes = s.routes := rfl
@[simp] theorem State.emitOut_aqis (s : State) (o : Output) : (s.emitOut o).aqis = s.aqis := rfl
@[simp] theorem State.emitOut_slotTables (s : State) (o : Output) : (s.emitOut o).slotTables = s.slotTables := rfl
@[simp] theorem State.emitOut_wakes (s : State) (o : Output) : (s.emitOut o).wakes = s.wakes := rfl
@[simp] theorem State.emitOut_wakeAt (s : State) (o : Output) : (s.emitOut o).wakeAt = s.wakeAt := rfl
@[simp] theorem State.emitOut_pfQueue (s : State) (o : Output) : (s.emitOut o).pfQueue = s.pfQueue := rfl
@[simp] theorem State.emitOut_move (s : State) (o : Output) : (s.emitOut o).move = s.move := rfl
@[simp] theorem State.emitOut_hostBias (s : State) (o : Output) : (s.emitOut o).hostBias = s.hostBias := rfl
@[simp] theorem State.emitOut_flips (s : State) (o : Output) : (s.emitOut o).flips = s.flips := rfl
@[simp] theorem State.emitOut_snooped (s : State) (o : Output) : (s.emitOut o).snooped = s.snooped := rfl
@[simp] theorem State.emitOut_peerIncarn (s : State) (o : Output) : (s.emitOut o).peerIncarn = s.peerIncarn := rfl
@[simp] theorem State.emitOut_peerHeld (s : State) (o : Output) : (s.emitOut o).peerHeld = s.peerHeld := rfl
@[simp] theorem State.emitOut_peerPages (s : State) (o : Output) : (s.emitOut o).peerPages = s.peerPages := rfl
@[simp] theorem State.emitOut_peerReqs (s : State) (o : Output) : (s.emitOut o).peerReqs = s.peerReqs := rfl
@[simp] theorem State.emitOut_peerAsked (s : State) (o : Output) : (s.emitOut o).peerAsked = s.peerAsked := rfl
@[simp] theorem State.emitOut_atsPending (s : State) (o : Output) : (s.emitOut o).atsPending = s.atsPending := rfl
@[simp] theorem State.emitOut_stage (s : State) (o : Output) : (s.emitOut o).stage = s.stage := rfl
@[simp] theorem State.emitOut_bootErr (s : State) (o : Output) : (s.emitOut o).bootErr = s.bootErr := rfl
@[simp] theorem State.emitOut_ready (s : State) (o : Output) : (s.emitOut o).ready = s.ready := rfl
@[simp] theorem State.emitOut_degraded (s : State) (o : Output) : (s.emitOut o).degraded = s.degraded := rfl
@[simp] theorem State.emitOut_throttle (s : State) (o : Output) : (s.emitOut o).throttle = s.throttle := rfl
@[simp] theorem State.emitOut_pwrCap (s : State) (o : Output) : (s.emitOut o).pwrCap = s.pwrCap := rfl
@[simp] theorem State.emitOut_restartFn (s : State) (o : Output) : (s.emitOut o).restartFn = s.restartFn := rfl
@[simp] theorem State.emitOut_restartDone (s : State) (o : Output) : (s.emitOut o).restartDone = s.restartDone := rfl
@[simp] theorem State.emitOut_tdKeys (s : State) (o : Output) : (s.emitOut o).tdKeys = s.tdKeys := rfl
@[simp] theorem State.emitOut_tdScrub (s : State) (o : Output) : (s.emitOut o).tdScrub = s.tdScrub := rfl
@[simp] theorem State.emitOut_tdBusy (s : State) (o : Output) : (s.emitOut o).tdBusy = s.tdBusy := rfl
@[simp] theorem State.emitOut_tdParcels (s : State) (o : Output) : (s.emitOut o).tdParcels = s.tdParcels := rfl
@[simp] theorem State.emitOut_rekey (s : State) (o : Output) : (s.emitOut o).rekey = s.rekey := rfl
@[simp] theorem State.emitOut_capGen (s : State) (o : Output) : (s.emitOut o).capGen = s.capGen := rfl
@[simp] theorem State.emitOut_sliceErrors (s : State) (o : Output) : (s.emitOut o).sliceErrors = s.sliceErrors := rfl
@[simp] theorem State.emitOut_locked (s : State) (o : Output) : (s.emitOut o).locked = s.locked := rfl
@[simp] theorem State.emitOut_everLocked (s : State) (o : Output) : (s.emitOut o).everLocked = s.everLocked := rfl
@[simp] theorem State.emitOut_shareRing (s : State) (o : Output) : (s.emitOut o).shareRing = s.shareRing := rfl
@[simp] theorem State.emitOut_divided (s : State) (o : Output) : (s.emitOut o).divided = s.divided := rfl
@[simp] theorem State.emitOut_stalls (s : State) (o : Output) : (s.emitOut o).stalls = s.stalls := rfl
@[simp] theorem State.emitOut_buckets (s : State) (o : Output) : (s.emitOut o).buckets = s.buckets := rfl
@[simp] theorem State.emitOut_linkQueues (s : State) (o : Output) : (s.emitOut o).linkQueues = s.linkQueues := rfl
@[simp] theorem State.emitOut_records (s : State) (o : Output) : (s.emitOut o).records = s.records := rfl
@[simp] theorem State.emitOut_free (s : State) (o : Output) : (s.emitOut o).free = s.free := rfl
@[simp] theorem State.emitOut_steps (s : State) (o : Output) : (s.emitOut o).steps = s.steps := rfl
@[simp] theorem State.emitOut_nextId (s : State) (o : Output) : (s.emitOut o).nextId = s.nextId := rfl
@[simp] theorem State.emitOut_queue (s : State) (o : Output) : (s.emitOut o).queue = s.queue := rfl
@[simp] theorem State.emitOut_timers (s : State) (o : Output) : (s.emitOut o).timers = s.timers := rfl
@[simp] theorem State.emitOut_later (s : State) (o : Output) : (s.emitOut o).later = s.later := rfl
@[simp] theorem State.emitOut_sched (s : State) (o : Output) : (s.emitOut o).sched = s.sched := rfl
@[simp] theorem State.emitOut_act (s : State) (o : Output) : (s.emitOut o).act = s.act := rfl

-- State.emit
@[simp] theorem State.emit_strands (s : State) (a b c d : Nat) (m k : Option Nat) : (s.emit a b c d m k).strands = s.strands := rfl
@[simp] theorem State.emit_blocks (s : State) (a b c d : Nat) (m k : Option Nat) : (s.emit a b c d m k).blocks = s.blocks := rfl
@[simp] theorem State.emit_grids (s : State) (a b c d : Nat) (m k : Option Nat) : (s.emit a b c d m k).grids = s.grids := rfl
@[simp] theorem State.emit_jobs (s : State) (a b c d : Nat) (m k : Option Nat) : (s.emit a b c d m k).jobs = s.jobs := rfl
@[simp] theorem State.emit_arrayOps (s : State) (a b c d : Nat) (m k : Option Nat) : (s.emit a b c d m k).arrayOps = s.arrayOps := rfl
@[simp] theorem State.emit_cards (s : State) (a b c d : Nat) (m k : Option Nat) : (s.emit a b c d m k).cards = s.cards := rfl
@[simp] theorem State.emit_rowOps (s : State) (a b c d : Nat) (m k : Option Nat) : (s.emit a b c d m k).rowOps = s.rowOps := rfl
@[simp] theorem State.emit_gathered (s : State) (a b c d : Nat) (m k : Option Nat) : (s.emit a b c d m k).gathered = s.gathered := rfl
@[simp] theorem State.emit_bsus (s : State) (a b c d : Nat) (m k : Option Nat) : (s.emit a b c d m k).bsus = s.bsus := rfl
@[simp] theorem State.emit_refusals (s : State) (a b c d : Nat) (m k : Option Nat) : (s.emit a b c d m k).refusals = s.refusals := rfl
@[simp] theorem State.emit_bundles (s : State) (a b c d : Nat) (m k : Option Nat) : (s.emit a b c d m k).bundles = s.bundles := rfl
@[simp] theorem State.emit_bundleUses (s : State) (a b c d : Nat) (m k : Option Nat) : (s.emit a b c d m k).bundleUses = s.bundleUses := rfl
@[simp] theorem State.emit_names (s : State) (a b c d : Nat) (m k : Option Nat) : (s.emit a b c d m k).names = s.names := rfl
@[simp] theorem State.emit_nameWaits (s : State) (a b c d : Nat) (m k : Option Nat) : (s.emit a b c d m k).nameWaits = s.nameWaits := rfl
@[simp] theorem State.emit_versions (s : State) (a b c d : Nat) (m k : Option Nat) : (s.emit a b c d m k).versions = s.versions := rfl
@[simp] theorem State.emit_heldInstalls (s : State) (a b c d : Nat) (m k : Option Nat) : (s.emit a b c d m k).heldInstalls = s.heldInstalls := rfl
@[simp] theorem State.emit_rejoined (s : State) (a b c d : Nat) (m k : Option Nat) : (s.emit a b c d m k).rejoined = s.rejoined := rfl
@[simp] theorem State.emit_cores (s : State) (a b c d : Nat) (m k : Option Nat) : (s.emit a b c d m k).cores = s.cores := rfl
@[simp] theorem State.emit_homes (s : State) (a b c d : Nat) (m k : Option Nat) : (s.emit a b c d m k).homes = s.homes := rfl
@[simp] theorem State.emit_clusters (s : State) (a b c d : Nat) (m k : Option Nat) : (s.emit a b c d m k).clusters = s.clusters := rfl
@[simp] theorem State.emit_fns (s : State) (a b c d : Nat) (m k : Option Nat) : (s.emit a b c d m k).fns = s.fns := rfl
@[simp] theorem State.emit_plat (s : State) (a b c d : Nat) (m k : Option Nat) : (s.emit a b c d m k).plat = s.plat := rfl
@[simp] theorem State.emit_mem (s : State) (a b c d : Nat) (m k : Option Nat) : (s.emit a b c d m k).mem = s.mem := rfl
@[simp] theorem State.emit_poisoned (s : State) (a b c d : Nat) (m k : Option Nat) : (s.emit a b c d m k).poisoned = s.poisoned := rfl
@[simp] theorem State.emit_badTags (s : State) (a b c d : Nat) (m k : Option Nat) : (s.emit a b c d m k).badTags = s.badTags := rfl
@[simp] theorem State.emit_drbg (s : State) (a b c d : Nat) (m k : Option Nat) : (s.emit a b c d m k).drbg = s.drbg := rfl
@[simp] theorem State.emit_keySets (s : State) (a b c d : Nat) (m k : Option Nat) : (s.emit a b c d m k).keySets = s.keySets := rfl
@[simp] theorem State.emit_digests (s : State) (a b c d : Nat) (m k : Option Nat) : (s.emit a b c d m k).digests = s.digests := rfl
@[simp] theorem State.emit_aliasKey (s : State) (a b c d : Nat) (m k : Option Nat) : (s.emit a b c d m k).aliasKey = s.aliasKey := rfl
@[simp] theorem State.emit_datum (s : State) (a b c d : Nat) (m k : Option Nat) : (s.emit a b c d m k).datum = s.datum := rfl
@[simp] theorem State.emit_dev (s : State) (a b c d : Nat) (m k : Option Nat) : (s.emit a b c d m k).dev = s.dev := rfl
@[simp] theorem State.emit_routes (s : State) (a b c d : Nat) (m k : Option Nat) : (s.emit a b c d m k).routes = s.routes := rfl
@[simp] theorem State.emit_aqis (s : State) (a b c d : Nat) (m k : Option Nat) : (s.emit a b c d m k).aqis = s.aqis := rfl
@[simp] theorem State.emit_slotTables (s : State) (a b c d : Nat) (m k : Option Nat) : (s.emit a b c d m k).slotTables = s.slotTables := rfl
@[simp] theorem State.emit_wakes (s : State) (a b c d : Nat) (m k : Option Nat) : (s.emit a b c d m k).wakes = s.wakes := rfl
@[simp] theorem State.emit_wakeAt (s : State) (a b c d : Nat) (m k : Option Nat) : (s.emit a b c d m k).wakeAt = s.wakeAt := rfl
@[simp] theorem State.emit_pfQueue (s : State) (a b c d : Nat) (m k : Option Nat) : (s.emit a b c d m k).pfQueue = s.pfQueue := rfl
@[simp] theorem State.emit_move (s : State) (a b c d : Nat) (m k : Option Nat) : (s.emit a b c d m k).move = s.move := rfl
@[simp] theorem State.emit_hostBias (s : State) (a b c d : Nat) (m k : Option Nat) : (s.emit a b c d m k).hostBias = s.hostBias := rfl
@[simp] theorem State.emit_flips (s : State) (a b c d : Nat) (m k : Option Nat) : (s.emit a b c d m k).flips = s.flips := rfl
@[simp] theorem State.emit_snooped (s : State) (a b c d : Nat) (m k : Option Nat) : (s.emit a b c d m k).snooped = s.snooped := rfl
@[simp] theorem State.emit_peerIncarn (s : State) (a b c d : Nat) (m k : Option Nat) : (s.emit a b c d m k).peerIncarn = s.peerIncarn := rfl
@[simp] theorem State.emit_peerHeld (s : State) (a b c d : Nat) (m k : Option Nat) : (s.emit a b c d m k).peerHeld = s.peerHeld := rfl
@[simp] theorem State.emit_peerPages (s : State) (a b c d : Nat) (m k : Option Nat) : (s.emit a b c d m k).peerPages = s.peerPages := rfl
@[simp] theorem State.emit_peerReqs (s : State) (a b c d : Nat) (m k : Option Nat) : (s.emit a b c d m k).peerReqs = s.peerReqs := rfl
@[simp] theorem State.emit_peerAsked (s : State) (a b c d : Nat) (m k : Option Nat) : (s.emit a b c d m k).peerAsked = s.peerAsked := rfl
@[simp] theorem State.emit_atsPending (s : State) (a b c d : Nat) (m k : Option Nat) : (s.emit a b c d m k).atsPending = s.atsPending := rfl
@[simp] theorem State.emit_stage (s : State) (a b c d : Nat) (m k : Option Nat) : (s.emit a b c d m k).stage = s.stage := rfl
@[simp] theorem State.emit_bootErr (s : State) (a b c d : Nat) (m k : Option Nat) : (s.emit a b c d m k).bootErr = s.bootErr := rfl
@[simp] theorem State.emit_ready (s : State) (a b c d : Nat) (m k : Option Nat) : (s.emit a b c d m k).ready = s.ready := rfl
@[simp] theorem State.emit_degraded (s : State) (a b c d : Nat) (m k : Option Nat) : (s.emit a b c d m k).degraded = s.degraded := rfl
@[simp] theorem State.emit_throttle (s : State) (a b c d : Nat) (m k : Option Nat) : (s.emit a b c d m k).throttle = s.throttle := rfl
@[simp] theorem State.emit_pwrCap (s : State) (a b c d : Nat) (m k : Option Nat) : (s.emit a b c d m k).pwrCap = s.pwrCap := rfl
@[simp] theorem State.emit_restartFn (s : State) (a b c d : Nat) (m k : Option Nat) : (s.emit a b c d m k).restartFn = s.restartFn := rfl
@[simp] theorem State.emit_restartDone (s : State) (a b c d : Nat) (m k : Option Nat) : (s.emit a b c d m k).restartDone = s.restartDone := rfl
@[simp] theorem State.emit_tdKeys (s : State) (a b c d : Nat) (m k : Option Nat) : (s.emit a b c d m k).tdKeys = s.tdKeys := rfl
@[simp] theorem State.emit_tdScrub (s : State) (a b c d : Nat) (m k : Option Nat) : (s.emit a b c d m k).tdScrub = s.tdScrub := rfl
@[simp] theorem State.emit_tdBusy (s : State) (a b c d : Nat) (m k : Option Nat) : (s.emit a b c d m k).tdBusy = s.tdBusy := rfl
@[simp] theorem State.emit_tdParcels (s : State) (a b c d : Nat) (m k : Option Nat) : (s.emit a b c d m k).tdParcels = s.tdParcels := rfl
@[simp] theorem State.emit_rekey (s : State) (a b c d : Nat) (m k : Option Nat) : (s.emit a b c d m k).rekey = s.rekey := rfl
@[simp] theorem State.emit_capGen (s : State) (a b c d : Nat) (m k : Option Nat) : (s.emit a b c d m k).capGen = s.capGen := rfl
@[simp] theorem State.emit_sliceErrors (s : State) (a b c d : Nat) (m k : Option Nat) : (s.emit a b c d m k).sliceErrors = s.sliceErrors := rfl
@[simp] theorem State.emit_locked (s : State) (a b c d : Nat) (m k : Option Nat) : (s.emit a b c d m k).locked = s.locked := rfl
@[simp] theorem State.emit_everLocked (s : State) (a b c d : Nat) (m k : Option Nat) : (s.emit a b c d m k).everLocked = s.everLocked := rfl
@[simp] theorem State.emit_shareRing (s : State) (a b c d : Nat) (m k : Option Nat) : (s.emit a b c d m k).shareRing = s.shareRing := rfl
@[simp] theorem State.emit_divided (s : State) (a b c d : Nat) (m k : Option Nat) : (s.emit a b c d m k).divided = s.divided := rfl
@[simp] theorem State.emit_stalls (s : State) (a b c d : Nat) (m k : Option Nat) : (s.emit a b c d m k).stalls = s.stalls := rfl
@[simp] theorem State.emit_buckets (s : State) (a b c d : Nat) (m k : Option Nat) : (s.emit a b c d m k).buckets = s.buckets := rfl
@[simp] theorem State.emit_linkQueues (s : State) (a b c d : Nat) (m k : Option Nat) : (s.emit a b c d m k).linkQueues = s.linkQueues := rfl
@[simp] theorem State.emit_out (s : State) (a b c d : Nat) (m k : Option Nat) : (s.emit a b c d m k).out = s.out := rfl
@[simp] theorem State.emit_free (s : State) (a b c d : Nat) (m k : Option Nat) : (s.emit a b c d m k).free = s.free := rfl
@[simp] theorem State.emit_steps (s : State) (a b c d : Nat) (m k : Option Nat) : (s.emit a b c d m k).steps = s.steps := rfl
@[simp] theorem State.emit_nextId (s : State) (a b c d : Nat) (m k : Option Nat) : (s.emit a b c d m k).nextId = s.nextId := rfl
@[simp] theorem State.emit_queue (s : State) (a b c d : Nat) (m k : Option Nat) : (s.emit a b c d m k).queue = s.queue := rfl
@[simp] theorem State.emit_timers (s : State) (a b c d : Nat) (m k : Option Nat) : (s.emit a b c d m k).timers = s.timers := rfl
@[simp] theorem State.emit_later (s : State) (a b c d : Nat) (m k : Option Nat) : (s.emit a b c d m k).later = s.later := rfl
@[simp] theorem State.emit_sched (s : State) (a b c d : Nat) (m k : Option Nat) : (s.emit a b c d m k).sched = s.sched := rfl
@[simp] theorem State.emit_act (s : State) (a b c d : Nat) (m k : Option Nat) : (s.emit a b c d m k).act = s.act := rfl

-- Strand.setS
@[simp] theorem Strand.setS_core (y : Strand) (n : Nat) (x : Word) (m : Bool) : (y.setS n x m).core = y.core := rfl
@[simp] theorem Strand.setS_slot (y : Strand) (n : Nat) (x : Word) (m : Bool) : (y.setS n x m).slot = y.slot := rfl
@[simp] theorem Strand.setS_blk (y : Strand) (n : Nat) (x : Word) (m : Bool) : (y.setS n x m).blk = y.blk := rfl
@[simp] theorem Strand.setS_sid (y : Strand) (n : Nat) (x : Word) (m : Bool) : (y.setS n x m).sid = y.sid := rfl
@[simp] theorem Strand.setS_bid (y : Strand) (n : Nat) (x : Word) (m : Bool) : (y.setS n x m).bid = y.bid := rfl
@[simp] theorem Strand.setS_nstr (y : Strand) (n : Nat) (x : Word) (m : Bool) : (y.setS n x m).nstr = y.nstr := rfl
@[simp] theorem Strand.setS_sill (y : Strand) (n : Nat) (x : Word) (m : Bool) : (y.setS n x m).sill = y.sill := rfl
@[simp] theorem Strand.setS_prio (y : Strand) (n : Nat) (x : Word) (m : Bool) : (y.setS n x m).prio = y.prio := rfl
@[simp] theorem Strand.setS_em (y : Strand) (n : Nat) (x : Word) (m : Bool) : (y.setS n x m).em = y.em := rfl
@[simp] theorem Strand.setS_pm (y : Strand) (n : Nat) (x : Word) (m : Bool) : (y.setS n x m).pm = y.pm := rfl
@[simp] theorem Strand.setS_uc (y : Strand) (n : Nat) (x : Word) (m : Bool) : (y.setS n x m).uc = y.uc := rfl
@[simp] theorem Strand.setS_lr (y : Strand) (n : Nat) (x : Word) (m : Bool) : (y.setS n x m).lr = y.lr := rfl
@[simp] theorem Strand.setS_lc0 (y : Strand) (n : Nat) (x : Word) (m : Bool) : (y.setS n x m).lc0 = y.lc0 := rfl
@[simp] theorem Strand.setS_lc1 (y : Strand) (n : Nat) (x : Word) (m : Bool) : (y.setS n x m).lc1 = y.lc1 := rfl
@[simp] theorem Strand.setS_lh0 (y : Strand) (n : Nat) (x : Word) (m : Bool) : (y.setS n x m).lh0 = y.lh0 := rfl
@[simp] theorem Strand.setS_lh1 (y : Strand) (n : Nat) (x : Word) (m : Bool) : (y.setS n x m).lh1 = y.lh1 := rfl
@[simp] theorem Strand.setS_v (y : Strand) (n : Nat) (x : Word) (m : Bool) : (y.setS n x m).v = y.v := rfl
@[simp] theorem Strand.setS_lat (y : Strand) (n : Nat) (x : Word) (m : Bool) : (y.setS n x m).lat = y.lat := rfl
@[simp] theorem Strand.setS_gens (y : Strand) (n : Nat) (x : Word) (m : Bool) : (y.setS n x m).gens = y.gens := rfl
@[simp] theorem Strand.setS_ceil (y : Strand) (n : Nat) (x : Word) (m : Bool) : (y.setS n x m).ceil = y.ceil := rfl
@[simp] theorem Strand.setS_fl (y : Strand) (n : Nat) (x : Word) (m : Bool) : (y.setS n x m).fl = y.fl := rfl
@[simp] theorem Strand.setS_trapMode (y : Strand) (n : Nat) (x : Word) (m : Bool) : (y.setS n x m).trapMode = y.trapMode := rfl
@[simp] theorem Strand.setS_viewOn (y : Strand) (n : Nat) (x : Word) (m : Bool) : (y.setS n x m).viewOn = y.viewOn := rfl
@[simp] theorem Strand.setS_joined (y : Strand) (n : Nat) (x : Word) (m : Bool) : (y.setS n x m).joined = y.joined := rfl
@[simp] theorem Strand.setS_tpc (y : Strand) (n : Nat) (x : Word) (m : Bool) : (y.setS n x m).tpc = y.tpc := rfl
@[simp] theorem Strand.setS_tcause (y : Strand) (n : Nat) (x : Word) (m : Bool) : (y.setS n x m).tcause = y.tcause := rfl
@[simp] theorem Strand.setS_taddr (y : Strand) (n : Nat) (x : Word) (m : Bool) : (y.setS n x m).taddr = y.taddr := rfl
@[simp] theorem Strand.setS_tem (y : Strand) (n : Nat) (x : Word) (m : Bool) : (y.setS n x m).tem = y.tem := rfl
@[simp] theorem Strand.setS_tfk (y : Strand) (n : Nat) (x : Word) (m : Bool) : (y.setS n x m).tfk = y.tfk := rfl
@[simp] theorem Strand.setS_suspended (y : Strand) (n : Nat) (x : Word) (m : Bool) : (y.setS n x m).suspended = y.suspended := rfl
@[simp] theorem Strand.setS_vstamp (y : Strand) (n : Nat) (x : Word) (m : Bool) : (y.setS n x m).vstamp = y.vstamp := rfl
@[simp] theorem Strand.setS_vretry (y : Strand) (n : Nat) (x : Word) (m : Bool) : (y.setS n x m).vretry = y.vretry := rfl
@[simp] theorem Strand.setS_vem (y : Strand) (n : Nat) (x : Word) (m : Bool) : (y.setS n x m).vem = y.vem := rfl
@[simp] theorem Strand.setS_bnd (y : Strand) (n : Nat) (x : Word) (m : Bool) : (y.setS n x m).bnd = y.bnd := rfl
@[simp] theorem Strand.setS_rnd (y : Strand) (n : Nat) (x : Word) (m : Bool) : (y.setS n x m).rnd = y.rnd := rfl
@[simp] theorem Strand.setS_seed (y : Strand) (n : Nat) (x : Word) (m : Bool) : (y.setS n x m).seed = y.seed := rfl
@[simp] theorem Strand.setS_gnum (y : Strand) (n : Nat) (x : Word) (m : Bool) : (y.setS n x m).gnum = y.gnum := rfl
@[simp] theorem Strand.setS_ctxa (y : Strand) (n : Nat) (x : Word) (m : Bool) : (y.setS n x m).ctxa = y.ctxa := rfl
@[simp] theorem Strand.setS_ctxw (y : Strand) (n : Nat) (x : Word) (m : Bool) : (y.setS n x m).ctxw = y.ctxw := rfl
@[simp] theorem Strand.setS_batch (y : Strand) (n : Nat) (x : Word) (m : Bool) : (y.setS n x m).batch = y.batch := rfl
@[simp] theorem Strand.setS_tvec (y : Strand) (n : Nat) (x : Word) (m : Bool) : (y.setS n x m).tvec = y.tvec := rfl
@[simp] theorem Strand.setS_win (y : Strand) (n : Nat) (x : Word) (m : Bool) : (y.setS n x m).win = y.win := rfl
@[simp] theorem Strand.setS_cwin (y : Strand) (n : Nat) (x : Word) (m : Bool) : (y.setS n x m).cwin = y.cwin := rfl
@[simp] theorem Strand.setS_pc (y : Strand) (n : Nat) (x : Word) (m : Bool) : (y.setS n x m).pc = y.pc := rfl
@[simp] theorem Strand.setS_seq (y : Strand) (n : Nat) (x : Word) (m : Bool) : (y.setS n x m).seq = y.seq := rfl
@[simp] theorem Strand.setS_arrival (y : Strand) (n : Nat) (x : Word) (m : Bool) : (y.setS n x m).arrival = y.arrival := rfl
@[simp] theorem Strand.setS_wild (y : Strand) (n : Nat) (x : Word) (m : Bool) : (y.setS n x m).wild = y.wild := rfl
@[simp] theorem Strand.setS_undo (y : Strand) (n : Nat) (x : Word) (m : Bool) : (y.setS n x m).undo = y.undo := rfl
@[simp] theorem Strand.setS_fork (y : Strand) (n : Nat) (x : Word) (m : Bool) : (y.setS n x m).fork = y.fork := rfl
@[simp] theorem Strand.setS_pair (y : Strand) (n : Nat) (x : Word) (m : Bool) : (y.setS n x m).pair = y.pair := rfl
@[simp] theorem Strand.setS_chainPos (y : Strand) (n : Nat) (x : Word) (m : Bool) : (y.setS n x m).chainPos = y.chainPos := rfl
@[simp] theorem Strand.setS_chainHead (y : Strand) (n : Nat) (x : Word) (m : Bool) : (y.setS n x m).chainHead = y.chainHead := rfl
@[simp] theorem Strand.setS_chainFrees (y : Strand) (n : Nat) (x : Word) (m : Bool) : (y.setS n x m).chainFrees = y.chainFrees := rfl
@[simp] theorem Strand.setS_chainFlow (y : Strand) (n : Nat) (x : Word) (m : Bool) : (y.setS n x m).chainFlow = y.chainFlow := rfl
@[simp] theorem Strand.setS_h (y : Strand) (n : Nat) (x : Word) (m : Bool) : (y.setS n x m).h = y.h := rfl
@[simp] theorem Strand.setS_pending (y : Strand) (n : Nat) (x : Word) (m : Bool) : (y.setS n x m).pending = y.pending := rfl
@[simp] theorem Strand.setS_batches (y : Strand) (n : Nat) (x : Word) (m : Bool) : (y.setS n x m).batches = y.batches := rfl
@[simp] theorem Strand.setS_ibuf (y : Strand) (n : Nat) (x : Word) (m : Bool) : (y.setS n x m).ibuf = y.ibuf := rfl
@[simp] theorem Strand.setS_flight (y : Strand) (n : Nat) (x : Word) (m : Bool) : (y.setS n x m).flight = y.flight := rfl
@[simp] theorem Strand.setS_unacked (y : Strand) (n : Nat) (x : Word) (m : Bool) : (y.setS n x m).unacked = y.unacked := rfl
@[simp] theorem Strand.setS_wait (y : Strand) (n : Nat) (x : Word) (m : Bool) : (y.setS n x m).wait = y.wait := rfl
@[simp] theorem Strand.setS_waits (y : Strand) (n : Nat) (x : Word) (m : Bool) : (y.setS n x m).waits = y.waits := rfl
@[simp] theorem Strand.setS_lane (y : Strand) (n : Nat) (x : Word) (m : Bool) : (y.setS n x m).lane = y.lane := rfl
@[simp] theorem Strand.setS_turn (y : Strand) (n : Nat) (x : Word) (m : Bool) : (y.setS n x m).turn = y.turn := rfl
@[simp] theorem Strand.setS_yielded (y : Strand) (n : Nat) (x : Word) (m : Bool) : (y.setS n x m).yielded = y.yielded := rfl
@[simp] theorem Strand.setS_ended (y : Strand) (n : Nat) (x : Word) (m : Bool) : (y.setS n x m).ended = y.ended := rfl
@[simp] theorem Strand.setS_asideMark (y : Strand) (n : Nat) (x : Word) (m : Bool) : (y.setS n x m).asideMark = y.asideMark := rfl
@[simp] theorem Strand.setS_preempt (y : Strand) (n : Nat) (x : Word) (m : Bool) : (y.setS n x m).preempt = y.preempt := rfl
@[simp] theorem Strand.setS_regSince (y : Strand) (n : Nat) (x : Word) (m : Bool) : (y.setS n x m).regSince = y.regSince := rfl
@[simp] theorem Strand.setS_poisonTrap (y : Strand) (n : Nat) (x : Word) (m : Bool) : (y.setS n x m).poisonTrap = y.poisonTrap := rfl
@[simp] theorem Strand.setS_pbarKept (y : Strand) (n : Nat) (x : Word) (m : Bool) : (y.setS n x m).pbarKept = y.pbarKept := rfl
@[simp] theorem Strand.setS_plumbAt (y : Strand) (n : Nat) (x : Word) (m : Bool) : (y.setS n x m).plumbAt = y.plumbAt := rfl
@[simp] theorem Strand.setS_pendNx (y : Strand) (n : Nat) (x : Word) (m : Bool) : (y.setS n x m).pendNx = y.pendNx := rfl
@[simp] theorem Strand.setS_sleepId (y : Strand) (n : Nat) (x : Word) (m : Bool) : (y.setS n x m).sleepId = y.sleepId := rfl
@[simp] theorem Strand.setS_saveEntry (y : Strand) (n : Nat) (x : Word) (m : Bool) : (y.setS n x m).saveEntry = y.saveEntry := rfl
@[simp] theorem Strand.setS_cancelling (y : Strand) (n : Nat) (x : Word) (m : Bool) : (y.setS n x m).cancelling = y.cancelling := rfl
@[simp] theorem Strand.setS_asyncOp (y : Strand) (n : Nat) (x : Word) (m : Bool) : (y.setS n x m).asyncOp = y.asyncOp := rfl
@[simp] theorem Strand.setS_words (y : Strand) (n : Nat) (x : Word) (m : Bool) : (y.setS n x m).words = y.words := rfl
@[simp] theorem Strand.setS_carded (y : Strand) (n : Nat) (x : Word) (m : Bool) : (y.setS n x m).carded = y.carded := rfl
@[simp] theorem Strand.setS_barrier (y : Strand) (n : Nat) (x : Word) (m : Bool) : (y.setS n x m).barrier = y.barrier := rfl
@[simp] theorem Strand.setS_peerOk (y : Strand) (n : Nat) (x : Word) (m : Bool) : (y.setS n x m).peerOk = y.peerOk := rfl
@[simp] theorem Strand.setS_peerNo (y : Strand) (n : Nat) (x : Word) (m : Bool) : (y.setS n x m).peerNo = y.peerNo := rfl
@[simp] theorem Strand.setS_answer (y : Strand) (n : Nat) (x : Word) (m : Bool) : (y.setS n x m).answer = y.answer := rfl
@[simp] theorem Strand.setS_ask (y : Strand) (n : Nat) (x : Word) (m : Bool) : (y.setS n x m).ask = y.ask := rfl
@[simp] theorem Strand.setS_viewed (y : Strand) (n : Nat) (x : Word) (m : Bool) : (y.setS n x m).viewed = y.viewed := rfl
@[simp] theorem Strand.setS_parkOff (y : Strand) (n : Nat) (x : Word) (m : Bool) : (y.setS n x m).parkOff = y.parkOff := rfl
@[simp] theorem Strand.setS_job (y : Strand) (n : Nat) (x : Word) (m : Bool) : (y.setS n x m).job = y.job := rfl
@[simp] theorem Strand.setS_grid (y : Strand) (n : Nat) (x : Word) (m : Bool) : (y.setS n x m).grid = y.grid := rfl
@[simp] theorem Strand.setS_rowFlags (y : Strand) (n : Nat) (x : Word) (m : Bool) : (y.setS n x m).rowFlags = y.rowFlags := rfl
@[simp] theorem Strand.setS_rowMarks (y : Strand) (n : Nat) (x : Word) (m : Bool) : (y.setS n x m).rowMarks = y.rowMarks := rfl
@[simp] theorem Strand.setS_rowsOut (y : Strand) (n : Nat) (x : Word) (m : Bool) : (y.setS n x m).rowsOut = y.rowsOut := rfl

-- Strand.setV
@[simp] theorem Strand.setV_core (y : Strand) (n : Nat) (x : Option VReg) : (y.setV n x).core = y.core := rfl
@[simp] theorem Strand.setV_slot (y : Strand) (n : Nat) (x : Option VReg) : (y.setV n x).slot = y.slot := rfl
@[simp] theorem Strand.setV_blk (y : Strand) (n : Nat) (x : Option VReg) : (y.setV n x).blk = y.blk := rfl
@[simp] theorem Strand.setV_sid (y : Strand) (n : Nat) (x : Option VReg) : (y.setV n x).sid = y.sid := rfl
@[simp] theorem Strand.setV_bid (y : Strand) (n : Nat) (x : Option VReg) : (y.setV n x).bid = y.bid := rfl
@[simp] theorem Strand.setV_nstr (y : Strand) (n : Nat) (x : Option VReg) : (y.setV n x).nstr = y.nstr := rfl
@[simp] theorem Strand.setV_sill (y : Strand) (n : Nat) (x : Option VReg) : (y.setV n x).sill = y.sill := rfl
@[simp] theorem Strand.setV_prio (y : Strand) (n : Nat) (x : Option VReg) : (y.setV n x).prio = y.prio := rfl
@[simp] theorem Strand.setV_s (y : Strand) (n : Nat) (x : Option VReg) : (y.setV n x).s = y.s := rfl
@[simp] theorem Strand.setV_sm (y : Strand) (n : Nat) (x : Option VReg) : (y.setV n x).sm = y.sm := rfl
@[simp] theorem Strand.setV_em (y : Strand) (n : Nat) (x : Option VReg) : (y.setV n x).em = y.em := rfl
@[simp] theorem Strand.setV_pm (y : Strand) (n : Nat) (x : Option VReg) : (y.setV n x).pm = y.pm := rfl
@[simp] theorem Strand.setV_uc (y : Strand) (n : Nat) (x : Option VReg) : (y.setV n x).uc = y.uc := rfl
@[simp] theorem Strand.setV_lr (y : Strand) (n : Nat) (x : Option VReg) : (y.setV n x).lr = y.lr := rfl
@[simp] theorem Strand.setV_lc0 (y : Strand) (n : Nat) (x : Option VReg) : (y.setV n x).lc0 = y.lc0 := rfl
@[simp] theorem Strand.setV_lc1 (y : Strand) (n : Nat) (x : Option VReg) : (y.setV n x).lc1 = y.lc1 := rfl
@[simp] theorem Strand.setV_lh0 (y : Strand) (n : Nat) (x : Option VReg) : (y.setV n x).lh0 = y.lh0 := rfl
@[simp] theorem Strand.setV_lh1 (y : Strand) (n : Nat) (x : Option VReg) : (y.setV n x).lh1 = y.lh1 := rfl
@[simp] theorem Strand.setV_lat (y : Strand) (n : Nat) (x : Option VReg) : (y.setV n x).lat = y.lat := rfl
@[simp] theorem Strand.setV_gens (y : Strand) (n : Nat) (x : Option VReg) : (y.setV n x).gens = y.gens := rfl
@[simp] theorem Strand.setV_ceil (y : Strand) (n : Nat) (x : Option VReg) : (y.setV n x).ceil = y.ceil := rfl
@[simp] theorem Strand.setV_fl (y : Strand) (n : Nat) (x : Option VReg) : (y.setV n x).fl = y.fl := rfl
@[simp] theorem Strand.setV_trapMode (y : Strand) (n : Nat) (x : Option VReg) : (y.setV n x).trapMode = y.trapMode := rfl
@[simp] theorem Strand.setV_viewOn (y : Strand) (n : Nat) (x : Option VReg) : (y.setV n x).viewOn = y.viewOn := rfl
@[simp] theorem Strand.setV_joined (y : Strand) (n : Nat) (x : Option VReg) : (y.setV n x).joined = y.joined := rfl
@[simp] theorem Strand.setV_tpc (y : Strand) (n : Nat) (x : Option VReg) : (y.setV n x).tpc = y.tpc := rfl
@[simp] theorem Strand.setV_tcause (y : Strand) (n : Nat) (x : Option VReg) : (y.setV n x).tcause = y.tcause := rfl
@[simp] theorem Strand.setV_taddr (y : Strand) (n : Nat) (x : Option VReg) : (y.setV n x).taddr = y.taddr := rfl
@[simp] theorem Strand.setV_tem (y : Strand) (n : Nat) (x : Option VReg) : (y.setV n x).tem = y.tem := rfl
@[simp] theorem Strand.setV_tfk (y : Strand) (n : Nat) (x : Option VReg) : (y.setV n x).tfk = y.tfk := rfl
@[simp] theorem Strand.setV_suspended (y : Strand) (n : Nat) (x : Option VReg) : (y.setV n x).suspended = y.suspended := rfl
@[simp] theorem Strand.setV_vstamp (y : Strand) (n : Nat) (x : Option VReg) : (y.setV n x).vstamp = y.vstamp := rfl
@[simp] theorem Strand.setV_vretry (y : Strand) (n : Nat) (x : Option VReg) : (y.setV n x).vretry = y.vretry := rfl
@[simp] theorem Strand.setV_vem (y : Strand) (n : Nat) (x : Option VReg) : (y.setV n x).vem = y.vem := rfl
@[simp] theorem Strand.setV_bnd (y : Strand) (n : Nat) (x : Option VReg) : (y.setV n x).bnd = y.bnd := rfl
@[simp] theorem Strand.setV_rnd (y : Strand) (n : Nat) (x : Option VReg) : (y.setV n x).rnd = y.rnd := rfl
@[simp] theorem Strand.setV_seed (y : Strand) (n : Nat) (x : Option VReg) : (y.setV n x).seed = y.seed := rfl
@[simp] theorem Strand.setV_gnum (y : Strand) (n : Nat) (x : Option VReg) : (y.setV n x).gnum = y.gnum := rfl
@[simp] theorem Strand.setV_ctxa (y : Strand) (n : Nat) (x : Option VReg) : (y.setV n x).ctxa = y.ctxa := rfl
@[simp] theorem Strand.setV_ctxw (y : Strand) (n : Nat) (x : Option VReg) : (y.setV n x).ctxw = y.ctxw := rfl
@[simp] theorem Strand.setV_batch (y : Strand) (n : Nat) (x : Option VReg) : (y.setV n x).batch = y.batch := rfl
@[simp] theorem Strand.setV_tvec (y : Strand) (n : Nat) (x : Option VReg) : (y.setV n x).tvec = y.tvec := rfl
@[simp] theorem Strand.setV_win (y : Strand) (n : Nat) (x : Option VReg) : (y.setV n x).win = y.win := rfl
@[simp] theorem Strand.setV_cwin (y : Strand) (n : Nat) (x : Option VReg) : (y.setV n x).cwin = y.cwin := rfl
@[simp] theorem Strand.setV_pc (y : Strand) (n : Nat) (x : Option VReg) : (y.setV n x).pc = y.pc := rfl
@[simp] theorem Strand.setV_seq (y : Strand) (n : Nat) (x : Option VReg) : (y.setV n x).seq = y.seq := rfl
@[simp] theorem Strand.setV_arrival (y : Strand) (n : Nat) (x : Option VReg) : (y.setV n x).arrival = y.arrival := rfl
@[simp] theorem Strand.setV_wild (y : Strand) (n : Nat) (x : Option VReg) : (y.setV n x).wild = y.wild := rfl
@[simp] theorem Strand.setV_undo (y : Strand) (n : Nat) (x : Option VReg) : (y.setV n x).undo = y.undo := rfl
@[simp] theorem Strand.setV_fork (y : Strand) (n : Nat) (x : Option VReg) : (y.setV n x).fork = y.fork := rfl
@[simp] theorem Strand.setV_pair (y : Strand) (n : Nat) (x : Option VReg) : (y.setV n x).pair = y.pair := rfl
@[simp] theorem Strand.setV_chainPos (y : Strand) (n : Nat) (x : Option VReg) : (y.setV n x).chainPos = y.chainPos := rfl
@[simp] theorem Strand.setV_chainHead (y : Strand) (n : Nat) (x : Option VReg) : (y.setV n x).chainHead = y.chainHead := rfl
@[simp] theorem Strand.setV_chainFrees (y : Strand) (n : Nat) (x : Option VReg) : (y.setV n x).chainFrees = y.chainFrees := rfl
@[simp] theorem Strand.setV_chainFlow (y : Strand) (n : Nat) (x : Option VReg) : (y.setV n x).chainFlow = y.chainFlow := rfl
@[simp] theorem Strand.setV_h (y : Strand) (n : Nat) (x : Option VReg) : (y.setV n x).h = y.h := rfl
@[simp] theorem Strand.setV_pending (y : Strand) (n : Nat) (x : Option VReg) : (y.setV n x).pending = y.pending := rfl
@[simp] theorem Strand.setV_batches (y : Strand) (n : Nat) (x : Option VReg) : (y.setV n x).batches = y.batches := rfl
@[simp] theorem Strand.setV_ibuf (y : Strand) (n : Nat) (x : Option VReg) : (y.setV n x).ibuf = y.ibuf := rfl
@[simp] theorem Strand.setV_flight (y : Strand) (n : Nat) (x : Option VReg) : (y.setV n x).flight = y.flight := rfl
@[simp] theorem Strand.setV_unacked (y : Strand) (n : Nat) (x : Option VReg) : (y.setV n x).unacked = y.unacked := rfl
@[simp] theorem Strand.setV_wait (y : Strand) (n : Nat) (x : Option VReg) : (y.setV n x).wait = y.wait := rfl
@[simp] theorem Strand.setV_waits (y : Strand) (n : Nat) (x : Option VReg) : (y.setV n x).waits = y.waits := rfl
@[simp] theorem Strand.setV_lane (y : Strand) (n : Nat) (x : Option VReg) : (y.setV n x).lane = y.lane := rfl
@[simp] theorem Strand.setV_turn (y : Strand) (n : Nat) (x : Option VReg) : (y.setV n x).turn = y.turn := rfl
@[simp] theorem Strand.setV_yielded (y : Strand) (n : Nat) (x : Option VReg) : (y.setV n x).yielded = y.yielded := rfl
@[simp] theorem Strand.setV_ended (y : Strand) (n : Nat) (x : Option VReg) : (y.setV n x).ended = y.ended := rfl
@[simp] theorem Strand.setV_asideMark (y : Strand) (n : Nat) (x : Option VReg) : (y.setV n x).asideMark = y.asideMark := rfl
@[simp] theorem Strand.setV_preempt (y : Strand) (n : Nat) (x : Option VReg) : (y.setV n x).preempt = y.preempt := rfl
@[simp] theorem Strand.setV_regSince (y : Strand) (n : Nat) (x : Option VReg) : (y.setV n x).regSince = y.regSince := rfl
@[simp] theorem Strand.setV_poisonTrap (y : Strand) (n : Nat) (x : Option VReg) : (y.setV n x).poisonTrap = y.poisonTrap := rfl
@[simp] theorem Strand.setV_pbarKept (y : Strand) (n : Nat) (x : Option VReg) : (y.setV n x).pbarKept = y.pbarKept := rfl
@[simp] theorem Strand.setV_plumbAt (y : Strand) (n : Nat) (x : Option VReg) : (y.setV n x).plumbAt = y.plumbAt := rfl
@[simp] theorem Strand.setV_pendNx (y : Strand) (n : Nat) (x : Option VReg) : (y.setV n x).pendNx = y.pendNx := rfl
@[simp] theorem Strand.setV_sleepId (y : Strand) (n : Nat) (x : Option VReg) : (y.setV n x).sleepId = y.sleepId := rfl
@[simp] theorem Strand.setV_saveEntry (y : Strand) (n : Nat) (x : Option VReg) : (y.setV n x).saveEntry = y.saveEntry := rfl
@[simp] theorem Strand.setV_cancelling (y : Strand) (n : Nat) (x : Option VReg) : (y.setV n x).cancelling = y.cancelling := rfl
@[simp] theorem Strand.setV_asyncOp (y : Strand) (n : Nat) (x : Option VReg) : (y.setV n x).asyncOp = y.asyncOp := rfl
@[simp] theorem Strand.setV_words (y : Strand) (n : Nat) (x : Option VReg) : (y.setV n x).words = y.words := rfl
@[simp] theorem Strand.setV_carded (y : Strand) (n : Nat) (x : Option VReg) : (y.setV n x).carded = y.carded := rfl
@[simp] theorem Strand.setV_barrier (y : Strand) (n : Nat) (x : Option VReg) : (y.setV n x).barrier = y.barrier := rfl
@[simp] theorem Strand.setV_peerOk (y : Strand) (n : Nat) (x : Option VReg) : (y.setV n x).peerOk = y.peerOk := rfl
@[simp] theorem Strand.setV_peerNo (y : Strand) (n : Nat) (x : Option VReg) : (y.setV n x).peerNo = y.peerNo := rfl
@[simp] theorem Strand.setV_answer (y : Strand) (n : Nat) (x : Option VReg) : (y.setV n x).answer = y.answer := rfl
@[simp] theorem Strand.setV_ask (y : Strand) (n : Nat) (x : Option VReg) : (y.setV n x).ask = y.ask := rfl
@[simp] theorem Strand.setV_viewed (y : Strand) (n : Nat) (x : Option VReg) : (y.setV n x).viewed = y.viewed := rfl
@[simp] theorem Strand.setV_parkOff (y : Strand) (n : Nat) (x : Option VReg) : (y.setV n x).parkOff = y.parkOff := rfl
@[simp] theorem Strand.setV_job (y : Strand) (n : Nat) (x : Option VReg) : (y.setV n x).job = y.job := rfl
@[simp] theorem Strand.setV_grid (y : Strand) (n : Nat) (x : Option VReg) : (y.setV n x).grid = y.grid := rfl
@[simp] theorem Strand.setV_rowFlags (y : Strand) (n : Nat) (x : Option VReg) : (y.setV n x).rowFlags = y.rowFlags := rfl
@[simp] theorem Strand.setV_rowMarks (y : Strand) (n : Nat) (x : Option VReg) : (y.setV n x).rowMarks = y.rowMarks := rfl
@[simp] theorem Strand.setV_rowsOut (y : Strand) (n : Nat) (x : Option VReg) : (y.setV n x).rowsOut = y.rowsOut := rfl

-- Strand.setH
@[simp] theorem Strand.setH_core (y : Strand) (n : Nat) (x : Half) : (y.setH n x).core = y.core := rfl
@[simp] theorem Strand.setH_slot (y : Strand) (n : Nat) (x : Half) : (y.setH n x).slot = y.slot := rfl
@[simp] theorem Strand.setH_blk (y : Strand) (n : Nat) (x : Half) : (y.setH n x).blk = y.blk := rfl
@[simp] theorem Strand.setH_sid (y : Strand) (n : Nat) (x : Half) : (y.setH n x).sid = y.sid := rfl
@[simp] theorem Strand.setH_bid (y : Strand) (n : Nat) (x : Half) : (y.setH n x).bid = y.bid := rfl
@[simp] theorem Strand.setH_nstr (y : Strand) (n : Nat) (x : Half) : (y.setH n x).nstr = y.nstr := rfl
@[simp] theorem Strand.setH_sill (y : Strand) (n : Nat) (x : Half) : (y.setH n x).sill = y.sill := rfl
@[simp] theorem Strand.setH_prio (y : Strand) (n : Nat) (x : Half) : (y.setH n x).prio = y.prio := rfl
@[simp] theorem Strand.setH_s (y : Strand) (n : Nat) (x : Half) : (y.setH n x).s = y.s := rfl
@[simp] theorem Strand.setH_sm (y : Strand) (n : Nat) (x : Half) : (y.setH n x).sm = y.sm := rfl
@[simp] theorem Strand.setH_em (y : Strand) (n : Nat) (x : Half) : (y.setH n x).em = y.em := rfl
@[simp] theorem Strand.setH_pm (y : Strand) (n : Nat) (x : Half) : (y.setH n x).pm = y.pm := rfl
@[simp] theorem Strand.setH_uc (y : Strand) (n : Nat) (x : Half) : (y.setH n x).uc = y.uc := rfl
@[simp] theorem Strand.setH_lr (y : Strand) (n : Nat) (x : Half) : (y.setH n x).lr = y.lr := rfl
@[simp] theorem Strand.setH_lc0 (y : Strand) (n : Nat) (x : Half) : (y.setH n x).lc0 = y.lc0 := rfl
@[simp] theorem Strand.setH_lc1 (y : Strand) (n : Nat) (x : Half) : (y.setH n x).lc1 = y.lc1 := rfl
@[simp] theorem Strand.setH_lh0 (y : Strand) (n : Nat) (x : Half) : (y.setH n x).lh0 = y.lh0 := rfl
@[simp] theorem Strand.setH_lh1 (y : Strand) (n : Nat) (x : Half) : (y.setH n x).lh1 = y.lh1 := rfl
@[simp] theorem Strand.setH_v (y : Strand) (n : Nat) (x : Half) : (y.setH n x).v = y.v := rfl
@[simp] theorem Strand.setH_lat (y : Strand) (n : Nat) (x : Half) : (y.setH n x).lat = y.lat := rfl
@[simp] theorem Strand.setH_gens (y : Strand) (n : Nat) (x : Half) : (y.setH n x).gens = y.gens := rfl
@[simp] theorem Strand.setH_ceil (y : Strand) (n : Nat) (x : Half) : (y.setH n x).ceil = y.ceil := rfl
@[simp] theorem Strand.setH_fl (y : Strand) (n : Nat) (x : Half) : (y.setH n x).fl = y.fl := rfl
@[simp] theorem Strand.setH_trapMode (y : Strand) (n : Nat) (x : Half) : (y.setH n x).trapMode = y.trapMode := rfl
@[simp] theorem Strand.setH_viewOn (y : Strand) (n : Nat) (x : Half) : (y.setH n x).viewOn = y.viewOn := rfl
@[simp] theorem Strand.setH_joined (y : Strand) (n : Nat) (x : Half) : (y.setH n x).joined = y.joined := rfl
@[simp] theorem Strand.setH_tpc (y : Strand) (n : Nat) (x : Half) : (y.setH n x).tpc = y.tpc := rfl
@[simp] theorem Strand.setH_tcause (y : Strand) (n : Nat) (x : Half) : (y.setH n x).tcause = y.tcause := rfl
@[simp] theorem Strand.setH_taddr (y : Strand) (n : Nat) (x : Half) : (y.setH n x).taddr = y.taddr := rfl
@[simp] theorem Strand.setH_tem (y : Strand) (n : Nat) (x : Half) : (y.setH n x).tem = y.tem := rfl
@[simp] theorem Strand.setH_tfk (y : Strand) (n : Nat) (x : Half) : (y.setH n x).tfk = y.tfk := rfl
@[simp] theorem Strand.setH_suspended (y : Strand) (n : Nat) (x : Half) : (y.setH n x).suspended = y.suspended := rfl
@[simp] theorem Strand.setH_vstamp (y : Strand) (n : Nat) (x : Half) : (y.setH n x).vstamp = y.vstamp := rfl
@[simp] theorem Strand.setH_vretry (y : Strand) (n : Nat) (x : Half) : (y.setH n x).vretry = y.vretry := rfl
@[simp] theorem Strand.setH_vem (y : Strand) (n : Nat) (x : Half) : (y.setH n x).vem = y.vem := rfl
@[simp] theorem Strand.setH_bnd (y : Strand) (n : Nat) (x : Half) : (y.setH n x).bnd = y.bnd := rfl
@[simp] theorem Strand.setH_rnd (y : Strand) (n : Nat) (x : Half) : (y.setH n x).rnd = y.rnd := rfl
@[simp] theorem Strand.setH_seed (y : Strand) (n : Nat) (x : Half) : (y.setH n x).seed = y.seed := rfl
@[simp] theorem Strand.setH_gnum (y : Strand) (n : Nat) (x : Half) : (y.setH n x).gnum = y.gnum := rfl
@[simp] theorem Strand.setH_ctxa (y : Strand) (n : Nat) (x : Half) : (y.setH n x).ctxa = y.ctxa := rfl
@[simp] theorem Strand.setH_ctxw (y : Strand) (n : Nat) (x : Half) : (y.setH n x).ctxw = y.ctxw := rfl
@[simp] theorem Strand.setH_batch (y : Strand) (n : Nat) (x : Half) : (y.setH n x).batch = y.batch := rfl
@[simp] theorem Strand.setH_tvec (y : Strand) (n : Nat) (x : Half) : (y.setH n x).tvec = y.tvec := rfl
@[simp] theorem Strand.setH_win (y : Strand) (n : Nat) (x : Half) : (y.setH n x).win = y.win := rfl
@[simp] theorem Strand.setH_cwin (y : Strand) (n : Nat) (x : Half) : (y.setH n x).cwin = y.cwin := rfl
@[simp] theorem Strand.setH_pc (y : Strand) (n : Nat) (x : Half) : (y.setH n x).pc = y.pc := rfl
@[simp] theorem Strand.setH_seq (y : Strand) (n : Nat) (x : Half) : (y.setH n x).seq = y.seq := rfl
@[simp] theorem Strand.setH_arrival (y : Strand) (n : Nat) (x : Half) : (y.setH n x).arrival = y.arrival := rfl
@[simp] theorem Strand.setH_wild (y : Strand) (n : Nat) (x : Half) : (y.setH n x).wild = y.wild := rfl
@[simp] theorem Strand.setH_undo (y : Strand) (n : Nat) (x : Half) : (y.setH n x).undo = y.undo := rfl
@[simp] theorem Strand.setH_fork (y : Strand) (n : Nat) (x : Half) : (y.setH n x).fork = y.fork := rfl
@[simp] theorem Strand.setH_pair (y : Strand) (n : Nat) (x : Half) : (y.setH n x).pair = y.pair := rfl
@[simp] theorem Strand.setH_chainPos (y : Strand) (n : Nat) (x : Half) : (y.setH n x).chainPos = y.chainPos := rfl
@[simp] theorem Strand.setH_chainHead (y : Strand) (n : Nat) (x : Half) : (y.setH n x).chainHead = y.chainHead := rfl
@[simp] theorem Strand.setH_chainFrees (y : Strand) (n : Nat) (x : Half) : (y.setH n x).chainFrees = y.chainFrees := rfl
@[simp] theorem Strand.setH_chainFlow (y : Strand) (n : Nat) (x : Half) : (y.setH n x).chainFlow = y.chainFlow := rfl
@[simp] theorem Strand.setH_pending (y : Strand) (n : Nat) (x : Half) : (y.setH n x).pending = y.pending := rfl
@[simp] theorem Strand.setH_batches (y : Strand) (n : Nat) (x : Half) : (y.setH n x).batches = y.batches := rfl
@[simp] theorem Strand.setH_ibuf (y : Strand) (n : Nat) (x : Half) : (y.setH n x).ibuf = y.ibuf := rfl
@[simp] theorem Strand.setH_flight (y : Strand) (n : Nat) (x : Half) : (y.setH n x).flight = y.flight := rfl
@[simp] theorem Strand.setH_unacked (y : Strand) (n : Nat) (x : Half) : (y.setH n x).unacked = y.unacked := rfl
@[simp] theorem Strand.setH_wait (y : Strand) (n : Nat) (x : Half) : (y.setH n x).wait = y.wait := rfl
@[simp] theorem Strand.setH_waits (y : Strand) (n : Nat) (x : Half) : (y.setH n x).waits = y.waits := rfl
@[simp] theorem Strand.setH_lane (y : Strand) (n : Nat) (x : Half) : (y.setH n x).lane = y.lane := rfl
@[simp] theorem Strand.setH_turn (y : Strand) (n : Nat) (x : Half) : (y.setH n x).turn = y.turn := rfl
@[simp] theorem Strand.setH_yielded (y : Strand) (n : Nat) (x : Half) : (y.setH n x).yielded = y.yielded := rfl
@[simp] theorem Strand.setH_ended (y : Strand) (n : Nat) (x : Half) : (y.setH n x).ended = y.ended := rfl
@[simp] theorem Strand.setH_asideMark (y : Strand) (n : Nat) (x : Half) : (y.setH n x).asideMark = y.asideMark := rfl
@[simp] theorem Strand.setH_preempt (y : Strand) (n : Nat) (x : Half) : (y.setH n x).preempt = y.preempt := rfl
@[simp] theorem Strand.setH_regSince (y : Strand) (n : Nat) (x : Half) : (y.setH n x).regSince = y.regSince := rfl
@[simp] theorem Strand.setH_poisonTrap (y : Strand) (n : Nat) (x : Half) : (y.setH n x).poisonTrap = y.poisonTrap := rfl
@[simp] theorem Strand.setH_pbarKept (y : Strand) (n : Nat) (x : Half) : (y.setH n x).pbarKept = y.pbarKept := rfl
@[simp] theorem Strand.setH_plumbAt (y : Strand) (n : Nat) (x : Half) : (y.setH n x).plumbAt = y.plumbAt := rfl
@[simp] theorem Strand.setH_pendNx (y : Strand) (n : Nat) (x : Half) : (y.setH n x).pendNx = y.pendNx := rfl
@[simp] theorem Strand.setH_sleepId (y : Strand) (n : Nat) (x : Half) : (y.setH n x).sleepId = y.sleepId := rfl
@[simp] theorem Strand.setH_saveEntry (y : Strand) (n : Nat) (x : Half) : (y.setH n x).saveEntry = y.saveEntry := rfl
@[simp] theorem Strand.setH_cancelling (y : Strand) (n : Nat) (x : Half) : (y.setH n x).cancelling = y.cancelling := rfl
@[simp] theorem Strand.setH_asyncOp (y : Strand) (n : Nat) (x : Half) : (y.setH n x).asyncOp = y.asyncOp := rfl
@[simp] theorem Strand.setH_words (y : Strand) (n : Nat) (x : Half) : (y.setH n x).words = y.words := rfl
@[simp] theorem Strand.setH_carded (y : Strand) (n : Nat) (x : Half) : (y.setH n x).carded = y.carded := rfl
@[simp] theorem Strand.setH_barrier (y : Strand) (n : Nat) (x : Half) : (y.setH n x).barrier = y.barrier := rfl
@[simp] theorem Strand.setH_peerOk (y : Strand) (n : Nat) (x : Half) : (y.setH n x).peerOk = y.peerOk := rfl
@[simp] theorem Strand.setH_peerNo (y : Strand) (n : Nat) (x : Half) : (y.setH n x).peerNo = y.peerNo := rfl
@[simp] theorem Strand.setH_answer (y : Strand) (n : Nat) (x : Half) : (y.setH n x).answer = y.answer := rfl
@[simp] theorem Strand.setH_ask (y : Strand) (n : Nat) (x : Half) : (y.setH n x).ask = y.ask := rfl
@[simp] theorem Strand.setH_viewed (y : Strand) (n : Nat) (x : Half) : (y.setH n x).viewed = y.viewed := rfl
@[simp] theorem Strand.setH_parkOff (y : Strand) (n : Nat) (x : Half) : (y.setH n x).parkOff = y.parkOff := rfl
@[simp] theorem Strand.setH_job (y : Strand) (n : Nat) (x : Half) : (y.setH n x).job = y.job := rfl
@[simp] theorem Strand.setH_grid (y : Strand) (n : Nat) (x : Half) : (y.setH n x).grid = y.grid := rfl
@[simp] theorem Strand.setH_rowFlags (y : Strand) (n : Nat) (x : Half) : (y.setH n x).rowFlags = y.rowFlags := rfl
@[simp] theorem Strand.setH_rowMarks (y : Strand) (n : Nat) (x : Half) : (y.setH n x).rowMarks = y.rowMarks := rfl
@[simp] theorem Strand.setH_rowsOut (y : Strand) (n : Nat) (x : Half) : (y.setH n x).rowsOut = y.rowsOut := rfl

-- Strand.setWin
@[simp] theorem Strand.setWin_core (y : Strand) (n : Nat) (x : BitVec 16) : (y.setWin n x).core = y.core := rfl
@[simp] theorem Strand.setWin_slot (y : Strand) (n : Nat) (x : BitVec 16) : (y.setWin n x).slot = y.slot := rfl
@[simp] theorem Strand.setWin_blk (y : Strand) (n : Nat) (x : BitVec 16) : (y.setWin n x).blk = y.blk := rfl
@[simp] theorem Strand.setWin_sid (y : Strand) (n : Nat) (x : BitVec 16) : (y.setWin n x).sid = y.sid := rfl
@[simp] theorem Strand.setWin_bid (y : Strand) (n : Nat) (x : BitVec 16) : (y.setWin n x).bid = y.bid := rfl
@[simp] theorem Strand.setWin_nstr (y : Strand) (n : Nat) (x : BitVec 16) : (y.setWin n x).nstr = y.nstr := rfl
@[simp] theorem Strand.setWin_sill (y : Strand) (n : Nat) (x : BitVec 16) : (y.setWin n x).sill = y.sill := rfl
@[simp] theorem Strand.setWin_prio (y : Strand) (n : Nat) (x : BitVec 16) : (y.setWin n x).prio = y.prio := rfl
@[simp] theorem Strand.setWin_s (y : Strand) (n : Nat) (x : BitVec 16) : (y.setWin n x).s = y.s := rfl
@[simp] theorem Strand.setWin_sm (y : Strand) (n : Nat) (x : BitVec 16) : (y.setWin n x).sm = y.sm := rfl
@[simp] theorem Strand.setWin_em (y : Strand) (n : Nat) (x : BitVec 16) : (y.setWin n x).em = y.em := rfl
@[simp] theorem Strand.setWin_pm (y : Strand) (n : Nat) (x : BitVec 16) : (y.setWin n x).pm = y.pm := rfl
@[simp] theorem Strand.setWin_uc (y : Strand) (n : Nat) (x : BitVec 16) : (y.setWin n x).uc = y.uc := rfl
@[simp] theorem Strand.setWin_lr (y : Strand) (n : Nat) (x : BitVec 16) : (y.setWin n x).lr = y.lr := rfl
@[simp] theorem Strand.setWin_lc0 (y : Strand) (n : Nat) (x : BitVec 16) : (y.setWin n x).lc0 = y.lc0 := rfl
@[simp] theorem Strand.setWin_lc1 (y : Strand) (n : Nat) (x : BitVec 16) : (y.setWin n x).lc1 = y.lc1 := rfl
@[simp] theorem Strand.setWin_lh0 (y : Strand) (n : Nat) (x : BitVec 16) : (y.setWin n x).lh0 = y.lh0 := rfl
@[simp] theorem Strand.setWin_lh1 (y : Strand) (n : Nat) (x : BitVec 16) : (y.setWin n x).lh1 = y.lh1 := rfl
@[simp] theorem Strand.setWin_v (y : Strand) (n : Nat) (x : BitVec 16) : (y.setWin n x).v = y.v := rfl
@[simp] theorem Strand.setWin_lat (y : Strand) (n : Nat) (x : BitVec 16) : (y.setWin n x).lat = y.lat := rfl
@[simp] theorem Strand.setWin_gens (y : Strand) (n : Nat) (x : BitVec 16) : (y.setWin n x).gens = y.gens := rfl
@[simp] theorem Strand.setWin_ceil (y : Strand) (n : Nat) (x : BitVec 16) : (y.setWin n x).ceil = y.ceil := rfl
@[simp] theorem Strand.setWin_fl (y : Strand) (n : Nat) (x : BitVec 16) : (y.setWin n x).fl = y.fl := rfl
@[simp] theorem Strand.setWin_trapMode (y : Strand) (n : Nat) (x : BitVec 16) : (y.setWin n x).trapMode = y.trapMode := rfl
@[simp] theorem Strand.setWin_viewOn (y : Strand) (n : Nat) (x : BitVec 16) : (y.setWin n x).viewOn = y.viewOn := rfl
@[simp] theorem Strand.setWin_joined (y : Strand) (n : Nat) (x : BitVec 16) : (y.setWin n x).joined = y.joined := rfl
@[simp] theorem Strand.setWin_tpc (y : Strand) (n : Nat) (x : BitVec 16) : (y.setWin n x).tpc = y.tpc := rfl
@[simp] theorem Strand.setWin_tcause (y : Strand) (n : Nat) (x : BitVec 16) : (y.setWin n x).tcause = y.tcause := rfl
@[simp] theorem Strand.setWin_taddr (y : Strand) (n : Nat) (x : BitVec 16) : (y.setWin n x).taddr = y.taddr := rfl
@[simp] theorem Strand.setWin_tem (y : Strand) (n : Nat) (x : BitVec 16) : (y.setWin n x).tem = y.tem := rfl
@[simp] theorem Strand.setWin_tfk (y : Strand) (n : Nat) (x : BitVec 16) : (y.setWin n x).tfk = y.tfk := rfl
@[simp] theorem Strand.setWin_suspended (y : Strand) (n : Nat) (x : BitVec 16) : (y.setWin n x).suspended = y.suspended := rfl
@[simp] theorem Strand.setWin_vstamp (y : Strand) (n : Nat) (x : BitVec 16) : (y.setWin n x).vstamp = y.vstamp := rfl
@[simp] theorem Strand.setWin_vretry (y : Strand) (n : Nat) (x : BitVec 16) : (y.setWin n x).vretry = y.vretry := rfl
@[simp] theorem Strand.setWin_vem (y : Strand) (n : Nat) (x : BitVec 16) : (y.setWin n x).vem = y.vem := rfl
@[simp] theorem Strand.setWin_bnd (y : Strand) (n : Nat) (x : BitVec 16) : (y.setWin n x).bnd = y.bnd := rfl
@[simp] theorem Strand.setWin_rnd (y : Strand) (n : Nat) (x : BitVec 16) : (y.setWin n x).rnd = y.rnd := rfl
@[simp] theorem Strand.setWin_seed (y : Strand) (n : Nat) (x : BitVec 16) : (y.setWin n x).seed = y.seed := rfl
@[simp] theorem Strand.setWin_gnum (y : Strand) (n : Nat) (x : BitVec 16) : (y.setWin n x).gnum = y.gnum := rfl
@[simp] theorem Strand.setWin_ctxa (y : Strand) (n : Nat) (x : BitVec 16) : (y.setWin n x).ctxa = y.ctxa := rfl
@[simp] theorem Strand.setWin_ctxw (y : Strand) (n : Nat) (x : BitVec 16) : (y.setWin n x).ctxw = y.ctxw := rfl
@[simp] theorem Strand.setWin_batch (y : Strand) (n : Nat) (x : BitVec 16) : (y.setWin n x).batch = y.batch := rfl
@[simp] theorem Strand.setWin_tvec (y : Strand) (n : Nat) (x : BitVec 16) : (y.setWin n x).tvec = y.tvec := rfl
@[simp] theorem Strand.setWin_cwin (y : Strand) (n : Nat) (x : BitVec 16) : (y.setWin n x).cwin = y.cwin := rfl
@[simp] theorem Strand.setWin_pc (y : Strand) (n : Nat) (x : BitVec 16) : (y.setWin n x).pc = y.pc := rfl
@[simp] theorem Strand.setWin_seq (y : Strand) (n : Nat) (x : BitVec 16) : (y.setWin n x).seq = y.seq := rfl
@[simp] theorem Strand.setWin_arrival (y : Strand) (n : Nat) (x : BitVec 16) : (y.setWin n x).arrival = y.arrival := rfl
@[simp] theorem Strand.setWin_wild (y : Strand) (n : Nat) (x : BitVec 16) : (y.setWin n x).wild = y.wild := rfl
@[simp] theorem Strand.setWin_undo (y : Strand) (n : Nat) (x : BitVec 16) : (y.setWin n x).undo = y.undo := rfl
@[simp] theorem Strand.setWin_fork (y : Strand) (n : Nat) (x : BitVec 16) : (y.setWin n x).fork = y.fork := rfl
@[simp] theorem Strand.setWin_pair (y : Strand) (n : Nat) (x : BitVec 16) : (y.setWin n x).pair = y.pair := rfl
@[simp] theorem Strand.setWin_chainPos (y : Strand) (n : Nat) (x : BitVec 16) : (y.setWin n x).chainPos = y.chainPos := rfl
@[simp] theorem Strand.setWin_chainHead (y : Strand) (n : Nat) (x : BitVec 16) : (y.setWin n x).chainHead = y.chainHead := rfl
@[simp] theorem Strand.setWin_chainFrees (y : Strand) (n : Nat) (x : BitVec 16) : (y.setWin n x).chainFrees = y.chainFrees := rfl
@[simp] theorem Strand.setWin_chainFlow (y : Strand) (n : Nat) (x : BitVec 16) : (y.setWin n x).chainFlow = y.chainFlow := rfl
@[simp] theorem Strand.setWin_h (y : Strand) (n : Nat) (x : BitVec 16) : (y.setWin n x).h = y.h := rfl
@[simp] theorem Strand.setWin_pending (y : Strand) (n : Nat) (x : BitVec 16) : (y.setWin n x).pending = y.pending := rfl
@[simp] theorem Strand.setWin_batches (y : Strand) (n : Nat) (x : BitVec 16) : (y.setWin n x).batches = y.batches := rfl
@[simp] theorem Strand.setWin_ibuf (y : Strand) (n : Nat) (x : BitVec 16) : (y.setWin n x).ibuf = y.ibuf := rfl
@[simp] theorem Strand.setWin_flight (y : Strand) (n : Nat) (x : BitVec 16) : (y.setWin n x).flight = y.flight := rfl
@[simp] theorem Strand.setWin_unacked (y : Strand) (n : Nat) (x : BitVec 16) : (y.setWin n x).unacked = y.unacked := rfl
@[simp] theorem Strand.setWin_wait (y : Strand) (n : Nat) (x : BitVec 16) : (y.setWin n x).wait = y.wait := rfl
@[simp] theorem Strand.setWin_waits (y : Strand) (n : Nat) (x : BitVec 16) : (y.setWin n x).waits = y.waits := rfl
@[simp] theorem Strand.setWin_lane (y : Strand) (n : Nat) (x : BitVec 16) : (y.setWin n x).lane = y.lane := rfl
@[simp] theorem Strand.setWin_turn (y : Strand) (n : Nat) (x : BitVec 16) : (y.setWin n x).turn = y.turn := rfl
@[simp] theorem Strand.setWin_yielded (y : Strand) (n : Nat) (x : BitVec 16) : (y.setWin n x).yielded = y.yielded := rfl
@[simp] theorem Strand.setWin_ended (y : Strand) (n : Nat) (x : BitVec 16) : (y.setWin n x).ended = y.ended := rfl
@[simp] theorem Strand.setWin_asideMark (y : Strand) (n : Nat) (x : BitVec 16) : (y.setWin n x).asideMark = y.asideMark := rfl
@[simp] theorem Strand.setWin_preempt (y : Strand) (n : Nat) (x : BitVec 16) : (y.setWin n x).preempt = y.preempt := rfl
@[simp] theorem Strand.setWin_regSince (y : Strand) (n : Nat) (x : BitVec 16) : (y.setWin n x).regSince = y.regSince := rfl
@[simp] theorem Strand.setWin_poisonTrap (y : Strand) (n : Nat) (x : BitVec 16) : (y.setWin n x).poisonTrap = y.poisonTrap := rfl
@[simp] theorem Strand.setWin_pbarKept (y : Strand) (n : Nat) (x : BitVec 16) : (y.setWin n x).pbarKept = y.pbarKept := rfl
@[simp] theorem Strand.setWin_plumbAt (y : Strand) (n : Nat) (x : BitVec 16) : (y.setWin n x).plumbAt = y.plumbAt := rfl
@[simp] theorem Strand.setWin_pendNx (y : Strand) (n : Nat) (x : BitVec 16) : (y.setWin n x).pendNx = y.pendNx := rfl
@[simp] theorem Strand.setWin_sleepId (y : Strand) (n : Nat) (x : BitVec 16) : (y.setWin n x).sleepId = y.sleepId := rfl
@[simp] theorem Strand.setWin_saveEntry (y : Strand) (n : Nat) (x : BitVec 16) : (y.setWin n x).saveEntry = y.saveEntry := rfl
@[simp] theorem Strand.setWin_cancelling (y : Strand) (n : Nat) (x : BitVec 16) : (y.setWin n x).cancelling = y.cancelling := rfl
@[simp] theorem Strand.setWin_asyncOp (y : Strand) (n : Nat) (x : BitVec 16) : (y.setWin n x).asyncOp = y.asyncOp := rfl
@[simp] theorem Strand.setWin_words (y : Strand) (n : Nat) (x : BitVec 16) : (y.setWin n x).words = y.words := rfl
@[simp] theorem Strand.setWin_carded (y : Strand) (n : Nat) (x : BitVec 16) : (y.setWin n x).carded = y.carded := rfl
@[simp] theorem Strand.setWin_barrier (y : Strand) (n : Nat) (x : BitVec 16) : (y.setWin n x).barrier = y.barrier := rfl
@[simp] theorem Strand.setWin_peerOk (y : Strand) (n : Nat) (x : BitVec 16) : (y.setWin n x).peerOk = y.peerOk := rfl
@[simp] theorem Strand.setWin_peerNo (y : Strand) (n : Nat) (x : BitVec 16) : (y.setWin n x).peerNo = y.peerNo := rfl
@[simp] theorem Strand.setWin_answer (y : Strand) (n : Nat) (x : BitVec 16) : (y.setWin n x).answer = y.answer := rfl
@[simp] theorem Strand.setWin_ask (y : Strand) (n : Nat) (x : BitVec 16) : (y.setWin n x).ask = y.ask := rfl
@[simp] theorem Strand.setWin_viewed (y : Strand) (n : Nat) (x : BitVec 16) : (y.setWin n x).viewed = y.viewed := rfl
@[simp] theorem Strand.setWin_parkOff (y : Strand) (n : Nat) (x : BitVec 16) : (y.setWin n x).parkOff = y.parkOff := rfl
@[simp] theorem Strand.setWin_job (y : Strand) (n : Nat) (x : BitVec 16) : (y.setWin n x).job = y.job := rfl
@[simp] theorem Strand.setWin_grid (y : Strand) (n : Nat) (x : BitVec 16) : (y.setWin n x).grid = y.grid := rfl
@[simp] theorem Strand.setWin_rowFlags (y : Strand) (n : Nat) (x : BitVec 16) : (y.setWin n x).rowFlags = y.rowFlags := rfl
@[simp] theorem Strand.setWin_rowMarks (y : Strand) (n : Nat) (x : BitVec 16) : (y.setWin n x).rowMarks = y.rowMarks := rfl
@[simp] theorem Strand.setWin_rowsOut (y : Strand) (n : Nat) (x : BitVec 16) : (y.setWin n x).rowsOut = y.rowsOut := rfl

-- Readers after updates

@[simp] theorem strand_setStrand (s : State) (k j : Nat) (x : Strand) :
    (s.setStrand k x).strand j = if j = k then some x else s.strand j := Map.find_put ..

@[simp] theorem strand_updStrand (s : State) (k j : Nat) (f : Strand → Strand) :
    (s.updStrand k f).strand j = if j = k then (s.strand k).map f else s.strand j := Map.find_upd ..

@[simp] theorem core_updCore (s : State) (k j : Nat) (f : Core → Core) :
    (s.updCore k f).core j = if j = k then f (s.core k) else s.core j := Map.getD_updD ..

@[simp] theorem home_updHome (s : State) (k j : Nat) (f : Home → Home) :
    (s.updHome k f).home j = if j = k then f (s.home k) else s.home j := Map.getD_updD ..

@[simp] theorem cluster_updCluster (s : State) (k j : Nat) (f : Cluster → Cluster) :
    (s.updCluster k f).cluster j = if j = k then f (s.cluster k) else s.cluster j := Map.getD_updD ..

theorem fn_updFn (s : State) (k j : Nat) (f : Fn → Fn) :
    (s.updFn k f).fn j = if j = k then f (s.fn k) else s.fn j := by
  simp only [State.fn, State.updFn, Map.getD, Map.updD, Map.find_put]
  split <;> simp_all

/-- A block that is not there stays away. -/
theorem block_updBlock (s : State) (k j : Nat) (f : Block → Block) :
    (s.updBlock k f).block j = if j = k then ((s.blocks.find k).map f).getD .absent else s.block j := by
  simp only [State.block, State.updBlock, Map.getD, Map.find_upd]
  split <;> simp_all

/-- A grid that is not there stays away. -/
theorem grid_updGrid (s : State) (k j : Nat) (f : Grid → Grid) :
    (s.updGrid k f).grid j = if j = k then ((s.grids.find k).map f).getD .absent else s.grid j := by
  simp only [State.grid, State.updGrid, Map.getD, Map.find_upd]
  split <;> simp_all

-- The uniform registers (R37, R72)

theorem sreg_setS (y : Strand) (n m : Nat) (x : Word) (b : Bool) (h : m < 64) :
    (y.setS n x b).sreg m = if m = n then x else y.sreg m := by
  simp only [Strand.sreg, Strand.setS]
  by_cases e : m = n
  · subst e; simp [h]
  · have e' : n ≠ m := fun q => e q.symm
    simp [h, e, e']

theorem vreg_setV (y : Strand) (n m : Nat) (x : Option VReg) (h : m < 64) :
    (y.setV n x).vreg m = if m = n then x else y.vreg m := by
  simp only [Strand.vreg, Strand.setV]
  by_cases e : m = n
  · subst e; simp [h]
  · have e' : n ≠ m := fun q => e q.symm
    simp [h, e, e']

end Sys2Proof.Machine
end

