-- ==== Sys2Proof/Laws/Memory.lean ====
section
/-!
SUPPORT. Memory: every operation on it keeps the canonical form, a byte reads as it was last written, and no other byte
changes (log 1).
-/
set_option Elab.async false
namespace Sys2Proof.Machine

-- The canonical form

theorem cellsAbove_mono {a b : Nat} {m : List Host.Cell} (h : a ≤ b) (hm : cellsAbove b m = true) : cellsAbove a m = true := by
  cases m with
  | nil => rfl
  | cons p m =>
    obtain ⟨i, c⟩ := p
    simp only [cellsAbove, Bool.and_eq_true, decide_eq_true_eq] at hm ⊢
    exact ⟨⟨by omega, hm.1.2⟩, hm.2⟩

theorem wf_of_cellsAbove {a : Nat} {m : List Host.Cell} (h : cellsAbove a m = true) : Memory.wf m = true := by
  cases m with
  | nil => rfl
  | cons p m =>
    obtain ⟨i, c⟩ := p
    simp only [cellsAbove, Bool.and_eq_true] at h
    simp only [Memory.wf, Bool.and_eq_true]
    exact ⟨h.1.2, h.2⟩

theorem wf_tail {i : Nat} {c : Byte} {m : List Host.Cell} (h : Memory.wf ((i, c) :: m) = true) :
    c ≠ emptyByte ∧ cellsAbove i m = true := by
  simpa [Memory.wf] using h

/-- A byte below every listed address reads as the empty one. -/
theorem readCell_below {a c : Nat} {m : List Host.Cell} (h : cellsAbove a m = true) (hc : c ≤ a) : readCell m c = emptyByte := by
  cases m with
  | nil => rfl
  | cons p m =>
    obtain ⟨i, b⟩ := p
    simp only [cellsAbove, Bool.and_eq_true, decide_eq_true_eq] at h
    have h1 : ¬ i = c := by omega
    have h2 : c < i := by omega
    simp [readCell, h1, h2]

theorem cellsAbove_writeCell {a i : Nat} {b : Byte} {m : List Host.Cell} (hm : cellsAbove i m = true) (h : i < a) :
    cellsAbove i (writeCell m a b) = true := by
  induction m generalizing i with
  | nil => simp only [writeCell]; split <;> simp_all [cellsAbove]
  | cons p m ih =>
    obtain ⟨j, c⟩ := p
    simp only [cellsAbove, Bool.and_eq_true, decide_eq_true_eq] at hm
    simp only [writeCell]
    by_cases h1 : j = a
    · subst h1
      simp only [if_true]
      split
      · exact cellsAbove_mono (Nat.le_of_lt h) hm.2
      · simp_all [cellsAbove]
    · by_cases h2 : a < j
      · simp only [h1, h2, if_true, if_false]
        split
        · simp_all [cellsAbove]
        · simp_all [cellsAbove]
      · simp only [h1, h2, if_false, cellsAbove, Bool.and_eq_true, decide_eq_true_eq]
        exact ⟨hm.1, ih hm.2 (by omega)⟩

/-- Writing a byte keeps the canonical form. -/
theorem wf_writeCell {m : List Host.Cell} (a : Nat) (b : Byte) (h : Memory.wf m = true) : Memory.wf (writeCell m a b) = true := by
  cases m with
  | nil => simp only [writeCell]; split <;> simp_all [Memory.wf, cellsAbove]
  | cons p m =>
    obtain ⟨i, c⟩ := p
    obtain ⟨h1, h2⟩ := wf_tail h
    simp only [writeCell]
    by_cases e1 : i = a
    · subst e1
      simp only [if_true]
      split
      · exact wf_of_cellsAbove h2
      · simp_all [Memory.wf]
    · by_cases e2 : a < i
      · simp only [e1, e2, if_true, if_false]
        split
        · exact h
        · simp_all [Memory.wf, cellsAbove]
      · simp only [e1, e2, if_false, Memory.wf, Bool.and_eq_true]
        exact ⟨by simpa using h1, cellsAbove_writeCell h2 (by omega)⟩

/-- Writing bytes from an address on keeps it. -/
theorem wf_writeCells {m : List Host.Cell} (a : Nat) (bs : List Byte) (h : Memory.wf m = true) :
    Memory.wf (writeCells m a bs) = true := by
  induction bs generalizing m a with
  | nil => exact h
  | cons b bs ih => exact ih (a + 1) (wf_writeCell a b h)

/-- Writing bytes at given addresses keeps it. -/
theorem wf_writeAll {m : List Host.Cell} (l : List (Nat × Byte)) (h : Memory.wf m = true) : Memory.wf (writeAll m l) = true := by
  induction l generalizing m with
  | nil => exact h
  | cons p l ih => exact ih (wf_writeCell p.1 p.2 h)

theorem cellsAbove_filter {i : Nat} (f : Host.Cell → Bool) {m : List Host.Cell} (h : cellsAbove i m = true) :
    cellsAbove i (m.filter f) = true := by
  induction m generalizing i with
  | nil => rfl
  | cons p m ih =>
    obtain ⟨j, c⟩ := p
    simp only [cellsAbove, Bool.and_eq_true, decide_eq_true_eq] at h
    simp only [List.filter_cons]
    split
    · simp only [cellsAbove, Bool.and_eq_true, decide_eq_true_eq]; exact ⟨h.1, ih h.2⟩
    · exact ih (cellsAbove_mono (Nat.le_of_lt h.1.1) h.2)

/-- Removing the bytes of a range keeps it. -/
theorem wf_clearCells {m : List Host.Cell} (a n : Nat) (h : Memory.wf m = true) : Memory.wf (clearCells m a n) = true := by
  cases m with
  | nil => rfl
  | cons p m =>
    obtain ⟨i, c⟩ := p
    obtain ⟨h1, h2⟩ := wf_tail h
    simp only [clearCells, List.filter_cons]
    split
    · simp only [Memory.wf, Bool.and_eq_true]; exact ⟨by simpa using h1, cellsAbove_filter _ h2⟩
    · exact wf_of_cellsAbove (cellsAbove_filter _ h2)

-- Reading after writing

/-- A byte that has just been written reads as written, and every other byte as before. -/
theorem readCell_writeCell {m : List Host.Cell} (a c : Nat) (b : Byte) (h : Memory.wf m = true) :
    readCell (writeCell m a b) c = if c = a then b else readCell m c := by
  induction m with
  | nil =>
    by_cases e : c = a
    · subst e; simp only [writeCell, if_true]; split <;> simp_all [readCell]
    · have e' : ¬ a = c := fun q => e q.symm
      simp only [writeCell, e, if_false]; split <;> simp [readCell, e']
  | cons p m ih =>
    obtain ⟨j, d⟩ := p
    have h := wf_tail h
    simp only [writeCell]
    by_cases e1 : j = a
    · subst e1
      by_cases e : c = j
      · subst e
        simp only [if_true]
        by_cases hb : b = emptyByte
        · simp only [hb, if_true]; exact readCell_below h.2 (Nat.le_refl c)
        · simp [hb, readCell]
      · have e' : ¬ j = c := fun q => e q.symm
        simp only [if_true, e, if_false, readCell, e']
        by_cases hb : b = emptyByte
        · simp only [hb, if_true]
          by_cases hc : c < j
          · simp only [hc, if_true]; exact readCell_below h.2 (Nat.le_of_lt hc)
          · simp [hc]
        · simp [hb, readCell, e']
    · by_cases e2 : a < j
      · simp only [e1, e2, if_true, if_false]
        by_cases e : c = a
        · subst e
          simp only [if_true]
          by_cases hb : b = emptyByte
          · simp [hb, readCell, e1, e2]
          · simp [hb, readCell]
        · have e' : ¬ a = c := fun q => e q.symm
          simp only [e, if_false]
          by_cases hb : b = emptyByte
          · simp [hb]
          · simp only [hb, if_false, readCell, e']
            by_cases hc : c < a
            · have h1 : ¬ j = c := by omega
              have h2 : c < j := by omega
              simp [hc, h1, h2]
            · simp [hc]
      · simp only [e1, e2, if_false, readCell]
        rw [ih (wf_of_cellsAbove h.2)]
        by_cases e : c = a
        · subst e
          have h1 : ¬ c < j := by omega
          simp [e1, h1]
        · simp [e]

theorem readCell_writeCells {m : List Host.Cell} (a c : Nat) (bs : List Byte) (h : Memory.wf m = true) :
    readCell (writeCells m a bs) c = if h : a ≤ c ∧ c < a + bs.length then bs[c - a]'(by omega) else readCell m c := by
  induction bs generalizing m a with
  | nil =>
    have : ¬ (a ≤ c ∧ c < a + ([] : List Byte).length) := by simp only [List.length_nil]; omega
    simp only [writeCells, this, dif_neg, not_false_eq_true]
  | cons b bs ih =>
    simp only [writeCells]
    rw [ih (a + 1) (wf_writeCell a b h), readCell_writeCell a c b h]
    by_cases e : c = a
    · subst e
      have h1 : ¬ (c + 1 ≤ c ∧ c < c + 1 + bs.length) := by omega
      simp [h1]
    · by_cases h1 : a + 1 ≤ c ∧ c < a + 1 + bs.length
      · have h2 : a ≤ c ∧ c < a + (b :: bs).length := by simp; omega
        have h3 : c - a = (c - (a + 1)) + 1 := by omega
        simp only [h1, h2, dif_pos, h3, and_self, List.getElem_cons_succ]
      · have h2 : ¬ (a ≤ c ∧ c < a + (b :: bs).length) := by simp only [List.length_cons]; omega
        simp only [h1, h2, e, dif_neg, if_neg, not_false_eq_true]

/-- The last byte written at an address is what it reads as. -/
theorem readCell_writeAll {m : List Host.Cell} (l : List (Nat × Byte)) (c : Nat) (h : Memory.wf m = true) :
    readCell (writeAll m l) c = match l.reverse.find? fun p => p.1 == c with
      | some p => p.2
      | none => readCell m c := by
  induction l generalizing m with
  | nil => rfl
  | cons p l ih =>
    have e : writeAll m (p :: l) = writeAll (writeCell m p.1 p.2) l := rfl
    rw [e, ih (wf_writeCell p.1 p.2 h), readCell_writeCell _ _ _ h, List.reverse_cons, List.find?_append]
    cases l.reverse.find? fun p => p.1 == c with
    | some q => rfl
    | none =>
      by_cases e : c = p.1
      · subst e; simp
      · have : ¬ (p.1 = c) := fun q => e q.symm
        simp [e, this]

-- The machine's memory

theorem memoryOk_of_mem {s t : State} (e : t.mem = s.mem) (h : s.memoryOk) : t.memoryOk := by
  unfold State.memoryOk; rw [e]; exact h

theorem memory_wakeWatchers (s : State) (home line : Nat) : (wakeWatchers s home line).mem = s.mem := by
  have watch : ∀ (ws : List Watcher) (a : State), (ws.foldl (fun a w => a.send (.waitRecheck w.strand)) a).mem = a.mem := by
    intro ws
    induction ws with
    | nil => intro a; rfl
    | cons w ws ih => intro a; exact ih _
  have one : ∀ (h : Nat) (a : State), (wakeAt a h line).mem = a.mem := fun h a => watch _ _
  have all : ∀ (hs : List Nat) (a : State), (hs.foldl (fun a h => wakeAt a h line) a).mem = a.mem := by
    intro hs
    induction hs with
    | nil => intro a; rfl
    | cons h hs ih => intro a; exact (ih _).trans (one h a)
  unfold wakeWatchers
  split
  · exact all _ _
  · exact one _ _

theorem memory_noteMoved (s : State) (line : Nat) : (noteMoved s line).mem = s.mem := by
  unfold noteMoved
  split
  · rfl
  · split <;> rfl

theorem memory_emitL2 (s : State) (home code frame lo hi : Nat) : (emitL2 s home code frame lo hi).mem = s.mem := by
  unfold emitL2 emitExtent
  split <;> rfl

/-- Acknowledgements write nothing. -/
theorem memory_acks (l : List WinStore) (s : State) :
    (l.foldl (fun (a : State) x => a.send (.storeAck x.agent x.acc x.grid)) s).mem = s.mem := by
  induction l generalizing s with
  | nil => rfl
  | cons x l ih => exact ih _

/-- Writing a line back keeps the canonical form. -/
theorem memoryOk_l2Clean {s : State} (home line : Nat) (h : s.memoryOk) : (l2Clean s home line).memoryOk := by
  have key : ∀ (l : List (Nat × Byte)), Memory.wf (writeAll s.mem l) = true := fun l => wf_writeAll l h
  unfold l2Clean State.memoryOk
  simp only [State.updHome_mem]
  split <;> exact key _

/-- So does the end of a combine window. -/
theorem memoryOk_evictWindow {s : State} (home line : Nat) (h : s.memoryOk) : (evictWindow s home line).memoryOk := by
  unfold evictWindow
  split
  · exact h
  · refine memoryOk_of_mem (memory_wakeWatchers _ _ _) ?_
    refine memoryOk_of_mem (memory_acks _ _) ?_
    refine wf_writeAll _ ?_
    rw [memory_noteMoved]
    exact h

theorem memoryOk_l2DropLine {s : State} (home line : Nat) (h : s.memoryOk) : (l2DropLine s home line).memoryOk := by
  have hc := memoryOk_l2Clean home line h
  unfold l2DropLine
  have key : ∀ b : Bool, (if b then l2Clean s home line else evictWindow (l2Clean s home line) home line).memoryOk := by
    intro b
    cases b
    · exact memoryOk_evictWindow home line hc
    · exact hc
  refine memoryOk_of_mem (State.updHome_mem ..) ?_
  split
  · exact memoryOk_of_mem (memory_wakeWatchers _ _ _) (key _)
  · exact key _

/-- Lines that are dropped one after another. -/
theorem memoryOk_drops (home : Nat) (ls : List Nat) {s : State} (h : s.memoryOk) :
    (ls.foldl (fun a l => l2DropLine a home l) s).memoryOk := by
  induction ls generalizing s with
  | nil => exact h
  | cons l ls ih => exact ih (memoryOk_l2DropLine home l h)

theorem memoryOk_l2Drop {s : State} (home line : Nat) (h : s.memoryOk) : (l2Drop s home line).memoryOk := by
  have h1 := memoryOk_l2DropLine home line h
  unfold l2Drop
  generalize l2DropLine s home line = a at h1 ⊢
  simp only
  generalize splitPiece (a.home home).l2 l2Set 48 line = o
  cases o with
  | none => exact h1
  | some e => exact memoryOk_drops home _ (memoryOk_of_mem (memory_emitL2 ..) h1)

/-- So do the evictions of an L2. -/
theorem memoryOk_l2Evict {home : Nat} (keep more fuel set : Nat) {s : State} (h : s.memoryOk) :
    (l2Evict home keep more fuel set s).memoryOk := by
  induction fuel generalizing s with
  | zero => exact h
  | succ n ih =>
    simp only [l2Evict]
    split
    · split
      · exact h
      · exact ih (memoryOk_drops home _ (memoryOk_of_mem (memory_emitL2 ..) h))
    · exact h

theorem memory_checkTag (s : State) (line : Nat) : (checkTag s line).2.mem = s.mem := by
  unfold checkTag; split <;> rfl

theorem memoryOk_makeRoom {s : State} (home line : Nat) (h : s.memoryOk) : (makeRoom s home line).memoryOk := by
  unfold makeRoom
  split
  · exact h
  · exact memoryOk_l2Evict _ _ _ _ h

theorem memoryOk_l2Put {s : State} (home line : Nat) (cold : Bool) (h : s.memoryOk) : (l2Put s home line cold).memoryOk := by
  unfold l2Put
  refine memoryOk_l2Evict _ _ _ _ (memoryOk_of_mem ?_ h)
  split
  · exact State.updHome_mem ..
  · exact memory_emitL2 ..

/-- So does bringing a line into an L2. -/
theorem memoryOk_l2Fill {s : State} (home line : Nat) (cold : Bool) (h : s.memoryOk) : (l2Fill s home line cold).memoryOk := by
  have h1 := memoryOk_makeRoom home line h
  unfold l2Fill
  generalize makeRoom s home line = a at h1 ⊢
  simp only
  split
  · exact memoryOk_l2Put home line cold h1
  · exact h1

theorem memoryOk_l2Read {s : State} (home line : Nat) (cold : Bool) (h : s.memoryOk) : (l2Read s home line cold).memoryOk :=
  memoryOk_l2Fill home line cold (memoryOk_of_mem (memory_checkTag s line) h)

theorem memoryOk_memMerge {s : State} (line : Nat) (bs : List (Nat × Byte)) (mark : Bool) (h : s.memoryOk) :
    (memMerge s line bs mark).memoryOk :=
  wf_writeAll _ h

/-- So does a write that reaches a line's home. -/
theorem memoryOk_homeMerge {s : State} (home line : Nat) (bs : List (Nat × Byte)) (mark : Bool) (h : s.memoryOk) :
    (homeMerge s home line bs mark).memoryOk := by
  have key : ∀ a : State, a.memoryOk → (noteMoved (l2Read a home line false) line).memoryOk := fun a ha =>
    memoryOk_of_mem (memory_noteMoved _ _) (memoryOk_l2Read home line false ha)
  have same : ∀ (a : State) (f : Home → Home) (g : DirLine → DirLine),
      (wakeWatchers (updDir (a.updHome home f) home line g) home line).mem = a.mem := fun a f g => by
    rw [memory_wakeWatchers]; rfl
  have h1 := key { s with badTags := s.badTags.filter (· != line) } (memoryOk_of_mem rfl h)
  have h2 := key s h
  unfold homeMerge
  cases wholeLine bs
  all_goals
    simp only [Bool.false_eq_true, if_true, if_false]
    split
    · exact memoryOk_of_mem (same _ _ _) (by assumption)
    · exact memoryOk_of_mem (memory_wakeWatchers _ _ _) (memoryOk_memMerge line bs mark (by assumption))

end Sys2Proof.Machine
end

