-- ==== Sys2Proof/Laws/PerInstr.lean ====
section
/-!
SUPPORT. What is said of every instruction as syntax, one lemma per constructor.
-/
set_option Elab.async false
namespace Sys2Proof.Laws.Encoding

open Sys2Proof

/-- The form of an instruction names it: the tables that the decoder reads give the instruction back. -/
def Statement (i : Instr) : Prop :=
  match i.form with
  | .wide op f => Instr.ofOp op f = some i
  | .fork f => i = .fork f
  | .expr e => i = .vexpr e
  | .compact k c => Instr.ofCompact k c = some i
  | .event => encode i = 0

theorem nop : ∀ f, Statement (.nop f) := fun _ => rfl
theorem nopC : ∀ c, Statement (.nopC c) := fun _ => rfl
theorem mov : ∀ f, Statement (.mov f) := fun _ => rfl
theorem movC : ∀ c, Statement (.movC c) := fun _ => rfl
theorem movl : ∀ f, Statement (.movl f) := fun _ => rfl
theorem movh : ∀ f, Statement (.movh f) := fun _ => rfl
theorem add : ∀ f, Statement (.add f) := fun _ => rfl
theorem addC : ∀ c, Statement (.addC c) := fun _ => rfl
theorem sub : ∀ f, Statement (.sub f) := fun _ => rfl
theorem subC : ∀ c, Statement (.subC c) := fun _ => rfl
theorem mul : ∀ f, Statement (.mul f) := fun _ => rfl
theorem mulC : ∀ c, Statement (.mulC c) := fun _ => rfl
theorem mulh : ∀ f, Statement (.mulh f) := fun _ => rfl
theorem mulhC : ∀ c, Statement (.mulhC c) := fun _ => rfl
theorem div : ∀ f, Statement (.div f) := fun _ => rfl
theorem rem : ∀ f, Statement (.rem f) := fun _ => rfl
theorem and : ∀ f, Statement (.and f) := fun _ => rfl
theorem andC : ∀ c, Statement (.andC c) := fun _ => rfl
theorem or : ∀ f, Statement (.or f) := fun _ => rfl
theorem orC : ∀ c, Statement (.orC c) := fun _ => rfl
theorem xor : ∀ f, Statement (.xor f) := fun _ => rfl
theorem xorC : ∀ c, Statement (.xorC c) := fun _ => rfl
theorem andn : ∀ f, Statement (.andn f) := fun _ => rfl
theorem andnC : ∀ c, Statement (.andnC c) := fun _ => rfl
theorem shl : ∀ f, Statement (.shl f) := fun _ => rfl
theorem shlC : ∀ c, Statement (.shlC c) := fun _ => rfl
theorem shr : ∀ f, Statement (.shr f) := fun _ => rfl
theorem shrC : ∀ c, Statement (.shrC c) := fun _ => rfl
theorem sar : ∀ f, Statement (.sar f) := fun _ => rfl
theorem sarC : ∀ c, Statement (.sarC c) := fun _ => rfl
theorem rot : ∀ f, Statement (.rot f) := fun _ => rfl
theorem rotC : ∀ c, Statement (.rotC c) := fun _ => rfl
theorem clz : ∀ f, Statement (.clz f) := fun _ => rfl
theorem ctz : ∀ f, Statement (.ctz f) := fun _ => rfl
theorem popc : ∀ f, Statement (.popc f) := fun _ => rfl
theorem min : ∀ f, Statement (.min f) := fun _ => rfl
theorem minC : ∀ c, Statement (.minC c) := fun _ => rfl
theorem max : ∀ f, Statement (.max f) := fun _ => rfl
theorem maxC : ∀ c, Statement (.maxC c) := fun _ => rfl
theorem sel : ∀ f, Statement (.sel f) := fun _ => rfl
theorem bfx : ∀ f, Statement (.bfx f) := fun _ => rfl
theorem bfi : ∀ f, Statement (.bfi f) := fun _ => rfl
theorem cmp : ∀ f, Statement (.cmp f) := fun _ => rfl
theorem emget : ∀ f, Statement (.emget f) := fun _ => rfl
theorem emset : ∀ f, Statement (.emset f) := fun _ => rfl
theorem emand : ∀ f, Statement (.emand f) := fun _ => rfl
theorem emandn : ∀ f, Statement (.emandn f) := fun _ => rfl
theorem emor : ∀ f, Statement (.emor f) := fun _ => rfl
theorem ffs : ∀ f, Statement (.ffs f) := fun _ => rfl
theorem fork : ∀ f, Statement (.fork f) := fun _ => rfl
theorem loop : ∀ f, Statement (.loop f) := fun _ => rfl
theorem getid : ∀ f, Statement (.getid f) := fun _ => rfl
theorem time : ∀ f, Statement (.time f) := fun _ => rfl
theorem cget : ∀ f, Statement (.cget f) := fun _ => rfl
theorem cset : ∀ f, Statement (.cset f) := fun _ => rfl
theorem yield : ∀ f, Statement (.yield f) := fun _ => rfl
theorem vmov : ∀ f, Statement (.vmov f) := fun _ => rfl
theorem vmovC : ∀ c, Statement (.vmovC c) := fun _ => rfl
theorem vadd : ∀ f, Statement (.vadd f) := fun _ => rfl
theorem vaddC : ∀ c, Statement (.vaddC c) := fun _ => rfl
theorem vsub : ∀ f, Statement (.vsub f) := fun _ => rfl
theorem vsubC : ∀ c, Statement (.vsubC c) := fun _ => rfl
theorem vmul : ∀ f, Statement (.vmul f) := fun _ => rfl
theorem vmulC : ∀ c, Statement (.vmulC c) := fun _ => rfl
theorem vmulh : ∀ f, Statement (.vmulh f) := fun _ => rfl
theorem vmad : ∀ f, Statement (.vmad f) := fun _ => rfl
theorem vdiv : ∀ f, Statement (.vdiv f) := fun _ => rfl
theorem vrem : ∀ f, Statement (.vrem f) := fun _ => rfl
theorem vabs : ∀ f, Statement (.vabs f) := fun _ => rfl
theorem vneg : ∀ f, Statement (.vneg f) := fun _ => rfl
theorem vmin : ∀ f, Statement (.vmin f) := fun _ => rfl
theorem vminC : ∀ c, Statement (.vminC c) := fun _ => rfl
theorem vmax : ∀ f, Statement (.vmax f) := fun _ => rfl
theorem vmaxC : ∀ c, Statement (.vmaxC c) := fun _ => rfl
theorem vavg : ∀ f, Statement (.vavg f) := fun _ => rfl
theorem vand : ∀ f, Statement (.vand f) := fun _ => rfl
theorem vandC : ∀ c, Statement (.vandC c) := fun _ => rfl
theorem vor : ∀ f, Statement (.vor f) := fun _ => rfl
theorem vorC : ∀ c, Statement (.vorC c) := fun _ => rfl
theorem vxor : ∀ f, Statement (.vxor f) := fun _ => rfl
theorem vxorC : ∀ c, Statement (.vxorC c) := fun _ => rfl
theorem vandn : ∀ f, Statement (.vandn f) := fun _ => rfl
theorem vshl : ∀ f, Statement (.vshl f) := fun _ => rfl
theorem vshlC : ∀ c, Statement (.vshlC c) := fun _ => rfl
theorem vshr : ∀ f, Statement (.vshr f) := fun _ => rfl
theorem vshrC : ∀ c, Statement (.vshrC c) := fun _ => rfl
theorem vsar : ∀ f, Statement (.vsar f) := fun _ => rfl
theorem vsarC : ∀ c, Statement (.vsarC c) := fun _ => rfl
theorem vrot : ∀ f, Statement (.vrot f) := fun _ => rfl
theorem vclz : ∀ f, Statement (.vclz f) := fun _ => rfl
theorem vpopc : ∀ f, Statement (.vpopc f) := fun _ => rfl
theorem vbfx : ∀ f, Statement (.vbfx f) := fun _ => rfl
theorem vbfi : ∀ f, Statement (.vbfi f) := fun _ => rfl
theorem vcmp : ∀ f, Statement (.vcmp f) := fun _ => rfl
theorem vsel : ∀ f, Statement (.vsel f) := fun _ => rfl
theorem vcvt : ∀ f, Statement (.vcvt f) := fun _ => rfl
theorem vpack : ∀ f, Statement (.vpack f) := fun _ => rfl
theorem vunpack : ∀ f, Statement (.vunpack f) := fun _ => rfl
theorem vfadd : ∀ f, Statement (.vfadd f) := fun _ => rfl
theorem vfaddC : ∀ c, Statement (.vfaddC c) := fun _ => rfl
theorem vfsub : ∀ f, Statement (.vfsub f) := fun _ => rfl
theorem vfsubC : ∀ c, Statement (.vfsubC c) := fun _ => rfl
theorem vfmul : ∀ f, Statement (.vfmul f) := fun _ => rfl
theorem vfmulC : ∀ c, Statement (.vfmulC c) := fun _ => rfl
theorem vfma : ∀ f, Statement (.vfma f) := fun _ => rfl
theorem vfmin : ∀ f, Statement (.vfmin f) := fun _ => rfl
theorem vfmax : ∀ f, Statement (.vfmax f) := fun _ => rfl
theorem vfcmp : ∀ f, Statement (.vfcmp f) := fun _ => rfl
theorem vfcvt : ∀ f, Statement (.vfcvt f) := fun _ => rfl
theorem vfrcp : ∀ f, Statement (.vfrcp f) := fun _ => rfl
theorem vfrsq : ∀ f, Statement (.vfrsq f) := fun _ => rfl
theorem vfsqrt : ∀ f, Statement (.vfsqrt f) := fun _ => rfl
theorem vfdiv : ∀ f, Statement (.vfdiv f) := fun _ => rfl
theorem vfexp2 : ∀ f, Statement (.vfexp2 f) := fun _ => rfl
theorem vflog2 : ∀ f, Statement (.vflog2 f) := fun _ => rfl
theorem vfscl : ∀ f, Statement (.vfscl f) := fun _ => rfl
theorem vftbl : ∀ f, Statement (.vftbl f) := fun _ => rfl
theorem vexpr : ∀ f, Statement (.vexpr f) := fun _ => rfl
theorem vperm : ∀ f, Statement (.vperm f) := fun _ => rfl
theorem vshuf : ∀ f, Statement (.vshuf f) := fun _ => rfl
theorem vbcast : ∀ f, Statement (.vbcast f) := fun _ => rfl
theorem vrott : ∀ f, Statement (.vrott f) := fun _ => rfl
theorem vslide : ∀ f, Statement (.vslide f) := fun _ => rfl
theorem vscan : ∀ f, Statement (.vscan f) := fun _ => rfl
theorem vred : ∀ f, Statement (.vred f) := fun _ => rfl
theorem vballot : ∀ f, Statement (.vballot f) := fun _ => rfl
theorem vhad : ∀ f, Statement (.vhad f) := fun _ => rfl
theorem vqnt : ∀ f, Statement (.vqnt f) := fun _ => rfl
theorem vdqnt : ∀ f, Statement (.vdqnt f) := fun _ => rfl
theorem ld : ∀ f, Statement (.ld f) := fun _ => rfl
theorem st : ∀ f, Statement (.st f) := fun _ => rfl
theorem lda : ∀ f, Statement (.lda f) := fun _ => rfl
theorem stl : ∀ f, Statement (.stl f) := fun _ => rfl
theorem uld : ∀ f, Statement (.uld f) := fun _ => rfl
theorem ust : ∀ f, Statement (.ust f) := fun _ => rfl
theorem sld : ∀ f, Statement (.sld f) := fun _ => rfl
theorem sst : ∀ f, Statement (.sst f) := fun _ => rfl
theorem usld : ∀ f, Statement (.usld f) := fun _ => rfl
theorem usst : ∀ f, Statement (.usst f) := fun _ => rfl
theorem atom : ∀ f, Statement (.atom f) := fun _ => rfl
theorem cas : ∀ f, Statement (.cas f) := fun _ => rfl
theorem uatom : ∀ f, Statement (.uatom f) := fun _ => rfl
theorem ucas : ∀ f, Statement (.ucas f) := fun _ => rfl
theorem satom : ∀ f, Statement (.satom f) := fun _ => rfl
theorem fence : ∀ f, Statement (.fence f) := fun _ => rfl
theorem cflush : ∀ f, Statement (.cflush f) := fun _ => rfl
theorem cclean : ∀ f, Statement (.cclean f) := fun _ => rfl
theorem cpref : ∀ f, Statement (.cpref f) := fun _ => rfl
theorem cbias : ∀ f, Statement (.cbias f) := fun _ => rfl
theorem signal : ∀ f, Statement (.signal f) := fun _ => rfl
theorem wait : ∀ f, Statement (.wait f) := fun _ => rfl
theorem bbar : ∀ f, Statement (.bbar f) := fun _ => rfl
theorem fmtset : ∀ f, Statement (.fmtset f) := fun _ => rfl
theorem tclaim : ∀ f, Statement (.tclaim f) := fun _ => rfl
theorem trel : ∀ f, Statement (.trel f) := fun _ => rfl
theorem tld : ∀ f, Statement (.tld f) := fun _ => rfl
theorem tst : ∀ f, Statement (.tst f) := fun _ => rfl
theorem mma : ∀ f, Statement (.mma f) := fun _ => rfl
theorem mmas : ∀ f, Statement (.mmas f) := fun _ => rfl
theorem aclaim : ∀ f, Statement (.aclaim f) := fun _ => rfl
theorem arel : ∀ f, Statement (.arel f) := fun _ => rfl
theorem azero : ∀ f, Statement (.azero f) := fun _ => rfl
theorem ard : ∀ f, Statement (.ard f) := fun _ => rfl
theorem asave : ∀ f, Statement (.asave f) := fun _ => rfl
theorem aload : ∀ f, Statement (.aload f) := fun _ => rfl
theorem tsave : ∀ f, Statement (.tsave f) := fun _ => rfl
theorem tload : ∀ f, Statement (.tload f) := fun _ => rfl
theorem tstat : ∀ f, Statement (.tstat f) := fun _ => rfl
theorem cpy : ∀ f, Statement (.cpy f) := fun _ => rfl
theorem cpym : ∀ f, Statement (.cpym f) := fun _ => rfl
theorem gath : ∀ f, Statement (.gath f) := fun _ => rfl
theorem scat : ∀ f, Statement (.scat f) := fun _ => rfl
theorem nbl : ∀ f, Statement (.nbl f) := fun _ => rfl
theorem coll : ∀ f, Statement (.coll f) := fun _ => rfl
theorem cload : ∀ f, Statement (.cload f) := fun _ => rfl
theorem aclose : ∀ f, Statement (.aclose f) := fun _ => rfl
theorem await : ∀ f, Statement (.await f) := fun _ => rfl
theorem hwait : ∀ f, Statement (.hwait f) := fun _ => rfl
theorem htest : ∀ f, Statement (.htest f) := fun _ => rfl
theorem hcancel : ∀ f, Statement (.hcancel f) := fun _ => rfl
theorem hmov : ∀ f, Statement (.hmov f) := fun _ => rfl
theorem bopen : ∀ f, Statement (.bopen f) := fun _ => rfl
theorem bjoin : ∀ f, Statement (.bjoin f) := fun _ => rfl
theorem bst : ∀ f, Statement (.bst f) := fun _ => rfl
theorem ubst : ∀ f, Statement (.ubst f) := fun _ => rfl
theorem bclose : ∀ f, Statement (.bclose f) := fun _ => rfl
theorem babort : ∀ f, Statement (.babort f) := fun _ => rfl
theorem view : ∀ f, Statement (.view f) := fun _ => rfl
theorem vend : ∀ f, Statement (.vend f) := fun _ => rfl
theorem commit : ∀ f, Statement (.commit f) := fun _ => rfl
theorem trace : ∀ f, Statement (.trace f) := fun _ => rfl
theorem tctl : ∀ f, Statement (.tctl f) := fun _ => rfl
theorem parr : ∀ f, Statement (.parr f) := fun _ => rfl
theorem pwait : ∀ f, Statement (.pwait f) := fun _ => rfl
theorem pbar : ∀ f, Statement (.pbar f) := fun _ => rfl
theorem trap : ∀ f, Statement (.trap f) := fun _ => rfl
theorem tret : ∀ f, Statement (.tret f) := fun _ => rfl
theorem rgmap : ∀ f, Statement (.rgmap f) := fun _ => rfl
theorem rgfree : ∀ f, Statement (.rgfree f) := fun _ => rfl
theorem fnld : ∀ f, Statement (.fnld f) := fun _ => rfl
theorem fnswap : ∀ f, Statement (.fnswap f) := fun _ => rfl
theorem sleep : ∀ f, Statement (.sleep f) := fun _ => rfl
theorem brk : ∀ f, Statement (.brk f) := fun _ => rfl
theorem ropen : ∀ f, Statement (.ropen f) := fun _ => rfl
theorem rwrite : ∀ f, Statement (.rwrite f) := fun _ => rfl
theorem rvload : ∀ f, Statement (.rvload f) := fun _ => rfl
theorem radd : ∀ f, Statement (.radd f) := fun _ => rfl
theorem rmul : ∀ f, Statement (.rmul f) := fun _ => rfl
theorem rfma : ∀ f, Statement (.rfma f) := fun _ => rfl
theorem rmax : ∀ f, Statement (.rmax f) := fun _ => rfl
theorem rcvt : ∀ f, Statement (.rcvt f) := fun _ => rfl
theorem rgemv : ∀ f, Statement (.rgemv f) := fun _ => rfl
theorem rred : ∀ f, Statement (.rred f) := fun _ => rfl
theorem racc : ∀ f, Statement (.racc f) := fun _ => rfl
theorem rmove : ∀ f, Statement (.rmove f) := fun _ => rfl
theorem rfill : ∀ f, Statement (.rfill f) := fun _ => rfl
theorem rsync : ∀ f, Statement (.rsync f) := fun _ => rfl
theorem rstat : ∀ f, Statement (.rstat f) := fun _ => rfl
theorem issueOpportunity : ∀ lane, Statement (.issueOpportunity lane) := fun _ => rfl
theorem instructionLineArrival : ∀ strand win addr line, Statement (.instructionLineArrival strand win addr line) := fun _ _ _ _ => rfl
theorem memoryAccessComplete : ∀ r, Statement (.memoryAccessComplete r) := fun _ => rfl
theorem storeAck : ∀ agent acc grid, Statement (.storeAck agent acc grid) := fun _ _ _ => rfl
theorem preemptDelivery : ∀ strand, Statement (.preemptDelivery strand) := fun _ => rfl
theorem sleepExpiry : ∀ strand acc, Statement (.sleepExpiry strand acc) := fun _ _ => rfl
theorem plumbPhaseComplete : ∀ strand, Statement (.plumbPhaseComplete strand) := fun _ => rfl
theorem waitRecheck : ∀ strand, Statement (.waitRecheck strand) := fun _ => rfl
theorem signalArrival : ∀ r, Statement (.signalArrival r) := fun _ => rfl
theorem arrayOpStart : ∀ op, Statement (.arrayOpStart op) := fun _ => rfl
theorem arrayOpComplete : ∀ op, Statement (.arrayOpComplete op) := fun _ => rfl
theorem subnormalAssistDone : ∀ op, Statement (.subnormalAssistDone op) := fun _ => rfl
theorem jobStart : ∀ job, Statement (.jobStart job) := fun _ => rfl
theorem jobComplete : ∀ job, Statement (.jobComplete job) := fun _ => rfl
theorem collectiveStart : ∀ fn name remote, Statement (.collectiveStart fn name remote) := fun _ _ _ => rfl
theorem bsuExecute : ∀ op bsu, Statement (.bsuExecute op bsu) := fun _ _ => rfl
theorem homeLoadFill : ∀ r, Statement (.homeLoadFill r) := fun _ => rfl
theorem forwardedRequest : ∀ m r owner found, Statement (.forwardedRequest m r owner found) := fun _ _ _ _ => rfl
theorem homeOwnershipRequest : ∀ r, Statement (.homeOwnershipRequest r) := fun _ => rfl
theorem homeStoreArrival : ∀ r, Statement (.homeStoreArrival r) := fun _ => rfl
theorem combineWindowClose : ∀ home line number, Statement (.combineWindowClose home line number) := fun _ _ _ => rfl
theorem homeFarAtomic : ∀ r, Statement (.homeFarAtomic r) := fun _ => rfl
theorem l1Invalidation : ∀ m home copy, Statement (.l1Invalidation m home copy) := fun _ _ _ => rfl
theorem writebackArrival : ∀ m home copy mask data ack gone mark, Statement (.writebackArrival m home copy mask data ack gone mark) := fun _ _ _ _ _ _ _ _ => rfl
theorem bundleInstall : ∀ m r bundle opens, Statement (.bundleInstall m r bundle opens) := fun _ _ _ _ => rfl
theorem installAck : ∀ m agent acc grid, Statement (.installAck m agent acc grid) := fun _ _ _ _ => rfl
theorem viewLoadDecide : ∀ m who line v skip, Statement (.viewLoadDecide m who line v skip) := fun _ _ _ _ _ => rfl
theorem nameRegister : ∀ m who scope name act, Statement (.nameRegister m who scope name act) := fun _ _ _ _ _ => rfl
theorem joinMessage : ∀ m who bundle answer, Statement (.joinMessage m who bundle answer) := fun _ _ _ _ => rfl
theorem bundleCloseArrival : ∀ m who bundle kind lines, Statement (.bundleCloseArrival m who bundle kind lines) := fun _ _ _ _ _ => rfl
theorem commitNotice : ∀ m home bundle news, Statement (.commitNotice m home bundle news) := fun _ _ _ _ => rfl
theorem promotionAck : ∀ m home bundle, Statement (.promotionAck m home bundle) := fun _ _ _ => rfl
theorem dropNotice : ∀ m home bundle, Statement (.dropNotice m home bundle) := fun _ _ _ => rfl
theorem dropAck : ∀ m home bundle, Statement (.dropAck m home bundle) := fun _ _ _ => rfl
theorem stateQuery : ∀ m who bundle line v, Statement (.stateQuery m who bundle line v) := fun _ _ _ _ _ => rfl
theorem stateQueryReply : ∀ m who bundle line v stamp, Statement (.stateQueryReply m who bundle line v stamp) := fun _ _ _ _ _ _ => rfl
theorem abortedHoldExpiry : ∀ bundle, Statement (.abortedHoldExpiry bundle) := fun _ => rfl
theorem faultRecordWrite : ∀ cluster, Statement (.faultRecordWrite cluster) := fun _ => rfl
theorem faultInterruptTimer : ∀ fn number, Statement (.faultInterruptTimer fn number) := fun _ _ => rfl
theorem traceStallRelease : ∀ fn, Statement (.traceStallRelease fn) := fun _ => rfl
theorem blockBind : ∀ fn, Statement (.blockBind fn) := fun _ => rfl
theorem launchAgeTick : ∀ grid, Statement (.launchAgeTick grid) := fun _ => rfl
theorem priorityPreempt : ∀ grid, Statement (.priorityPreempt grid) := fun _ => rfl
theorem blockAdmit : ∀ core, Statement (.blockAdmit core) := fun _ => rfl
theorem blockLeave : ∀ block, Statement (.blockLeave block) := fun _ => rfl
theorem saveLimitExpiry : ∀ block core order, Statement (.saveLimitExpiry block core order) := fun _ _ _ => rfl
theorem blockRetire : ∀ block, Statement (.blockRetire block) := fun _ => rfl
theorem gridComplete : ∀ grid, Statement (.gridComplete grid) := fun _ => rfl
theorem clusterIdle : ∀ cluster, Statement (.clusterIdle cluster) := fun _ => rfl
theorem clusterWake : Statement .clusterWake := rfl
theorem powerStep : ∀ level, Statement (.powerStep level) := fun _ => rfl
theorem thermalTrip : ∀ die, Statement (.thermalTrip die) := fun _ => rfl
theorem clockAdjust : ∀ ahead units, Statement (.clockAdjust ahead units) := fun _ _ => rfl
theorem clockLock : ∀ locked, Statement (.clockLock locked) := fun _ => rfl
theorem laneRetired : ∀ core lane, Statement (.laneRetired core lane) := fun _ _ => rfl
theorem timingReplay : ∀ core persists, Statement (.timingReplay core persists) := fun _ _ => rfl
theorem uncorrectableError : ∀ lines parcel, Statement (.uncorrectableError lines parcel) := fun _ _ => rfl
theorem sharedLogicError : ∀ lines, Statement (.sharedLogicError lines) := fun _ => rfl
theorem clusterRecovery : ∀ cluster lost ok, Statement (.clusterRecovery cluster lost ok) := fun _ _ _ => rfl
theorem coldReset : ∀ dev err bad lanes, Statement (.coldReset dev err bad lanes) := fun _ _ _ _ => rfl
theorem pfFlr : Statement .pfFlr := rfl
theorem vfFlr : ∀ fn, Statement (.vfFlr fn) := fun _ => rfl
theorem vfEnableClear : Statement .vfEnableClear := rfl
theorem partitionRestart : ∀ fn, Statement (.partitionRestart fn) := fun _ => rfl
theorem parcelScrubDone : ∀ parcel ok, Statement (.parcelScrubDone parcel ok) := fun _ _ => rfl
theorem migrationDrainDone : ∀ packet, Statement (.migrationDrainDone packet) := fun _ => rfl
theorem migrationCopyRoundDone : ∀ packet, Statement (.migrationCopyRoundDone packet) := fun _ => rfl
theorem hostMemRead : ∀ addr tag, Statement (.hostMemRead addr tag) := fun _ _ => rfl
theorem hostMemWrite : ∀ addr bytes, Statement (.hostMemWrite addr bytes) := fun _ _ => rfl
theorem hostSnoop : ∀ line invalidate, Statement (.hostSnoop line invalidate) := fun _ _ => rfl
theorem atsInvalidateRequest : ∀ pasid page pages, Statement (.atsInvalidateRequest pasid page pages) := fun _ _ _ => rfl
theorem bisnpResponse : ∀ line data, Statement (.bisnpResponse line data) := fun _ _ => rfl
theorem biasFlipEnd : ∀ page, Statement (.biasFlipEnd page) := fun _ => rfl
theorem peerAccessRequest : ∀ m domain ask, Statement (.peerAccessRequest m domain ask) := fun _ _ _ => rfl
theorem peerAccessReply : ∀ m a, Statement (.peerAccessReply m a) := fun _ _ => rfl
theorem fabricLinkFailure : ∀ port, Statement (.fabricLinkFailure port) := fun _ => rfl
theorem peerReady : ∀ dev cluster incarn, Statement (.peerReady dev cluster incarn) := fun _ _ _ => rfl
theorem getVersion : ∀ fn, Statement (.getVersion fn) := fun _ => rfl
theorem getCapabilities : ∀ fn request, Statement (.getCapabilities fn request) := fun _ _ => rfl
theorem negotiateAlgorithms : ∀ fn request, Statement (.negotiateAlgorithms fn request) := fun _ _ => rfl
theorem getDigests : ∀ fn, Statement (.getDigests fn) := fun _ => rfl
theorem getCertificate : ∀ fn request, Statement (.getCertificate fn request) := fun _ _ => rfl
theorem challenge : ∀ fn request, Statement (.challenge fn request) := fun _ _ => rfl
theorem getMeasurements : ∀ fn request, Statement (.getMeasurements fn request) := fun _ _ => rfl
theorem keyExchange : ∀ fn request, Statement (.keyExchange fn request) := fun _ _ => rfl
theorem finish : ∀ fn, Statement (.finish fn) := fun _ => rfl
theorem endSession : ∀ fn, Statement (.endSession fn) := fun _ => rfl
theorem amend : ∀ fn a, Statement (.amend fn a) := fun _ _ => rfl
theorem getTdispVersion : ∀ fn, Statement (.getTdispVersion fn) := fun _ => rfl
theorem getTdispCapabilities : ∀ fn, Statement (.getTdispCapabilities fn) := fun _ => rfl
theorem lockInterfaceRequest : ∀ fn, Statement (.lockInterfaceRequest fn) := fun _ => rfl
theorem getDeviceInterfaceReport : ∀ fn, Statement (.getDeviceInterfaceReport fn) := fun _ => rfl
theorem getDeviceInterfaceState : ∀ fn, Statement (.getDeviceInterfaceState fn) := fun _ => rfl
theorem startInterfaceRequest : ∀ fn, Statement (.startInterfaceRequest fn) := fun _ => rfl
theorem stopInterfaceRequest : ∀ fn, Statement (.stopInterfaceRequest fn) := fun _ => rfl
theorem vfConfigWrite : ∀ write, Statement (.vfConfigWrite write) := fun _ => rfl
theorem tailWrite : ∀ fn q value, Statement (.tailWrite fn q value) := fun _ _ _ => rfl
theorem aqiArm : ∀ fn q value, Statement (.aqiArm fn q value) := fun _ _ _ => rfl
theorem aqiPause : ∀ fn q, Statement (.aqiPause fn q) := fun _ _ => rfl
theorem aqiResume : ∀ fn q, Statement (.aqiResume fn q) := fun _ _ => rfl
theorem aqiEnable : ∀ fn q, Statement (.aqiEnable fn q) := fun _ _ => rfl
theorem aqiDisable : ∀ fn q, Statement (.aqiDisable fn q) := fun _ _ => rfl
theorem packetStart : ∀ fn q, Statement (.packetStart fn q) := fun _ _ => rfl
theorem launch : ∀ packet, Statement (.launch packet) := fun _ => rfl
theorem copyPacket : ∀ packet, Statement (.copyPacket packet) := fun _ => rfl
theorem signalPacket : ∀ packet, Statement (.signalPacket packet) := fun _ => rfl
theorem waitPacket : ∀ packet, Statement (.waitPacket packet) := fun _ => rfl
theorem nblaunch : ∀ packet, Statement (.nblaunch packet) := fun _ => rfl
theorem biasToHost : ∀ packet, Statement (.biasToHost packet) := fun _ => rfl
theorem biasToDevice : ∀ packet, Statement (.biasToDevice packet) := fun _ => rfl
theorem traceSetRing : ∀ packet, Statement (.traceSetRing packet) := fun _ => rfl
theorem traceDetachRing : ∀ packet, Statement (.traceDetachRing packet) := fun _ => rfl
theorem traceSetShareRing : ∀ packet, Statement (.traceSetShareRing packet) := fun _ => rfl
theorem traceDetachShareRing : ∀ packet, Statement (.traceDetachShareRing packet) := fun _ => rfl
theorem qfence : ∀ packet, Statement (.qfence packet) := fun _ => rfl
theorem partitionCreate : ∀ packet, Statement (.partitionCreate packet) := fun _ => rfl
theorem partitionDestroy : ∀ packet, Statement (.partitionDestroy packet) := fun _ => rfl
theorem resize : ∀ packet, Statement (.resize packet) := fun _ => rfl
theorem migrate : ∀ packet, Statement (.migrate packet) := fun _ => rfl
theorem meter : ∀ packet, Statement (.meter packet) := fun _ => rfl
theorem invalidate : ∀ packet, Statement (.invalidate packet) := fun _ => rfl
theorem replay : ∀ packet, Statement (.replay packet) := fun _ => rfl
theorem s1InvalidatePage : ∀ fn value, Statement (.s1InvalidatePage fn value) := fun _ _ => rfl
theorem s1InvalidateAll : ∀ fn value, Statement (.s1InvalidateAll fn value) := fun _ _ => rfl
theorem s1InvalidateDone : ∀ fn, Statement (.s1InvalidateDone fn) := fun _ => rfl
theorem intrEntryUnmask : ∀ fn index, Statement (.intrEntryUnmask fn index) := fun _ _ => rfl
theorem scopepolWrite : ∀ fn value, Statement (.scopepolWrite fn value) := fun _ _ => rfl
theorem cscountClear : ∀ fn, Statement (.cscountClear fn) := fun _ => rfl
theorem aqibindWrite : ∀ fn q value, Statement (.aqibindWrite fn q value) := fun _ _ _ => rfl
theorem naqiWrite : ∀ fn value, Statement (.naqiWrite fn value) := fun _ _ => rfl
theorem frctlWrite : ∀ fn value, Statement (.frctlWrite fn value) := fun _ _ => rfl
theorem dhctlOvfClear : ∀ fn, Statement (.dhctlOvfClear fn) := fun _ => rfl
theorem errstatSharedClear : ∀ fn, Statement (.errstatSharedClear fn) := fun _ => rfl
theorem refusalCounterClear : ∀ slice bsu, Statement (.refusalCounterClear slice bsu) := fun _ _ => rfl
theorem routeTableWrite : ∀ word value, Statement (.routeTableWrite word value) := fun _ _ => rfl
theorem registerWrite : ∀ fn offset width value, Statement (.registerWrite fn offset width value) := fun _ _ _ _ => rfl
theorem invalidationAck : ∀ m home copy, Statement (.invalidationAck m home copy) := fun _ _ _ => rfl
theorem keysReplaced : ∀ parcel, Statement (.keysReplaced parcel) := fun _ => rfl
theorem correctableError : ∀ slice, Statement (.correctableError slice) := fun _ => rfl
theorem functionTableWriteDone : ∀ core strand, Statement (.functionTableWriteDone core strand) := fun _ _ => rfl

end Sys2Proof.Laws.Encoding
end

