-- ==== Sys2Proof/Laws/Run.lean ====
section
/-!
SUPPORT. One lemma for each way an instruction is run: what it answers when nothing stops it, and all that it can answer.
-/
set_option Elab.async false
namespace Sys2Proof.Machine

theorem awaitRegs_clear {st : Strand} {vs ss : List Nat} (h : inFlight st vs ss = false) :
    awaitRegs st vs ss = .ok () := by
  simp [awaitRegs, h]

theorem chainCheck_nil (st : Strand) : chainCheck st [] = .ok () := rfl

theorem vectorStart_nil (st : Strand) : vectorStart st [] = endChain st := rfl

/-- Freeing registers touches the vector registers only. -/
theorem freeRegs_em (st : Strand) (l : List Nat) : (freeRegs st l).em = st.em := by
  unfold freeRegs
  induction l generalizing st with
  | nil => rfl
  | cons a l ih => exact ih _

theorem freeRegs_fork (st : Strand) (l : List Nat) : (freeRegs st l).fork = st.fork := by
  unfold freeRegs
  induction l generalizing st with
  | nil => rfl
  | cons a l ih => exact ih _

theorem freeRegs_flight (st : Strand) (l : List Nat) : (freeRegs st l).flight = st.flight := by
  unfold freeRegs
  induction l generalizing st with
  | nil => rfl
  | cons a l ih => exact ih _

theorem endChain_em (st : Strand) : (endChain st).em = st.em := freeRegs_em _ _
theorem endChain_fork (st : Strand) : (endChain st).fork = st.fork := freeRegs_fork _ _
theorem endChain_flight (st : Strand) : (endChain st).flight = st.flight := freeRegs_flight _ _

/-- Freeing registers changes no other field. -/
theorem freeRegs_eq (st : Strand) (l : List Nat) : ∃ v, freeRegs st l = { st with v := v } := by
  unfold freeRegs
  induction l generalizing st with
  | nil => exact ⟨st.v, rfl⟩
  | cons a l ih => exact ih _

/-- Ending a chain changes the vector registers that it frees, and the chain's own fields. -/
theorem endChain_eq (st : Strand) :
    ∃ v, endChain st = { st with v := v, chainPos := 0, chainFrees := [], chainFlow := false } := by
  obtain ⟨v, h⟩ := freeRegs_eq st st.chainFrees
  exact ⟨v, by rw [endChain, h]⟩

/-- Nothing but an actor is needed to run at all. -/
theorem withActor_of {s : State} {k : Nat} {st : Strand} (h : Acts s k st) (f : Nat → Strand → Out) :
    withActor s f = f k st := by
  simp [withActor, h.1, h.2]

/-- A uniform instruction that no register in flight holds up makes its writes. -/
theorem runUniform_done {nx : Nx} {ss : List Nat} {f : State → Strand → Res (List UWrite)} {s : State} {k : Nat}
    {st : Strand} {ws : List UWrite} (h : Acts s k st) (hf : inFlight (uniformReader st) [] ss = false)
    (hw : f s (uniformReader st) = .ok ws) : runUniform nx ss f s = .next (uniformDone s k st nx ws) := by
  rw [runUniform, withActor_of h]
  simp [settle, awaitRegs_clear hf, hw, bind, Except.bind, pure, Except.pure]

/-- All that a uniform instruction can answer: its writes, or a stop. -/
theorem runUniform_cases {nx : Nx} {ss : List Nat} {f : State → Strand → Res (List UWrite)} {s t : State}
    (h : runUniform nx ss f s = .next t) :
    ∃ k st, Acts s k st ∧ ((∃ ws, f s (uniformReader st) = .ok ws ∧ t = uniformDone s k st nx ws)
      ∨ ∃ e, t = stopWith s k (uniformReader st) false e) := by
  rw [runUniform, withActor] at h
  split at h
  · cases h
  · rename_i k hk
    split at h
    · cases h
    · rename_i st hst
      refine ⟨k, st, ⟨hk, hst⟩, ?_⟩
      simp only [settle, bind, Except.bind, pure, Except.pure] at h
      cases ha : awaitRegs (uniformReader st) [] ss with
      | error e => rw [ha] at h; exact .inr ⟨e, by simpa using h.symm⟩
      | ok u =>
        rw [ha] at h
        cases hw : f s (uniformReader st) with
        | error e => simp only [hw] at h; exact .inr ⟨e, by simpa using h.symm⟩
        | ok ws => simp only [hw] at h; exact .inl ⟨ws, rfl, by simpa using h.symm⟩

/-- An instruction that ends a chain and is no uniform one. -/
theorem runPlain_done {nx : Nx} {ss : List Nat} {f : State → Nat → Strand → Res (State × Strand)} {s : State} {k : Nat}
    {st : Strand} {r : State × Strand} (h : Acts s k st) (hf : inFlight (endChain st) [] ss = false)
    (hw : f s k (endChain st) = .ok r) : runPlain nx ss f s = .next (retire r.1 k r.2 nx 0 st.em) := by
  rw [runPlain, withActor_of h]
  simp [settle, awaitRegs_clear hf, hw, bind, Except.bind, pure, Except.pure, endChain_em]

/-- A vector instruction that is ready makes its writes. -/
theorem runVector_done {f : Fields} {os : List Opd} {check : State → Strand → Res Unit} {body : State → Strand → VOut}
    {s : State} {k : Nat} {st : Strand} (h : Acts s k st)
    (hr : vectorReady s (vectorStart st os) f os check = .ok ()) :
    runVector f os check body s = .next (vectorDone s k (vectorStart st os) f os (body s (vectorStart st os))) := by
  rw [runVector, withActor_of h]
  simp [settle, hr, bind, Except.bind, pure, Except.pure]

/-- All that a vector instruction can answer: its writes, or a stop. -/
theorem runVector_cases {f : Fields} {os : List Opd} {check : State → Strand → Res Unit} {body : State → Strand → VOut}
    {s t : State} (h : runVector f os check body s = .next t) :
    ∃ k st, Acts s k st
      ∧ ((vectorReady s (vectorStart st os) f os check = .ok ()
          ∧ t = vectorDone s k (vectorStart st os) f os (body s (vectorStart st os)))
        ∨ ∃ e b, t = stopWith s k (vectorStart st os) b e) := by
  rw [runVector, withActor] at h
  split at h
  · cases h
  · rename_i k hk
    split at h
    · cases h
    · rename_i st hst
      refine ⟨k, st, ⟨hk, hst⟩, ?_⟩
      simp only [settle, bind, Except.bind, pure, Except.pure] at h
      cases hr : vectorReady s (vectorStart st os) f os check with
      | error e => rw [hr] at h; exact .inr ⟨e, _, by simpa using h.symm⟩
      | ok u => rw [hr] at h; exact .inl ⟨rfl, by simpa using h.symm⟩

/-- A part of a memory instruction that goes on. -/
theorem mbind_ok {α β : Type} {x : M α} {f : α → M β} {s s1 : State} {a : α} (h : x.run s = (.ok a, s1)) :
    (x >>= f).run s = (f a).run s1 := by
  change (StateT.bind (ExceptT.run x) (ExceptT.bindCont f)) s = _
  have h' : (ExceptT.run x) s = pure (Except.ok a, s1) := h
  simp only [StateT.bind, h', pure_bind]
  rfl

/-- A memory instruction whose body runs to its end. -/
theorem runMem_done {vs : List Opd} {body : Nat → Strand → M Unit} {s s1 : State} {k : Nat} {st : Strand}
    (h : Acts s k st) (hc : chainCheck (vectorStart st vs) (vs.flatMap latchesOf) = .ok ())
    (hb : (body k (vectorStart st vs)).run s = (.ok (), s1)) : runMem vs body s = .next s1 := by
  rw [runMem, withActor_of h]
  have hc' : chainCheck (chainEnter st (vs.flatMap latchesOf)) (vs.flatMap latchesOf) = .ok () := hc
  have hb' : (body k (chainEnter st (vs.flatMap latchesOf))).run s = (.ok (), s1) := hb
  simp only [hc', hb']

/-- All that a memory instruction can answer: what its body leaves, or how it stopped, in the state that the body had reached. -/
theorem runMem_cases {vs : List Opd} {body : Nat → Strand → M Unit} {s t : State} (h : runMem vs body s = .next t) :
    ∃ k st0, Acts s k st0 ∧
      let st := vectorStart st0 vs
      let inside := st.chainPos != 0
      (∃ e, chainCheck st (vs.flatMap latchesOf) = .error e ∧ t = stopWith s k st inside e)
      ∨ (body k st).run s = (.ok (), t)
      ∨ ∃ e s1, (body k st).run s = (.error e, s1) ∧ t = match e with
        | .stop (.wait w) => memWait s1 k ((s1.strand k).getD st) w (vs.flatMap latchesOf).isEmpty
        | .stop e => stopWith s1 k st inside e
        | .park ps => parkMem s1 k st (whoOf s1 st) inside ps
        | .askPeer ps => askPeers s1 k st ps := by
  rw [runMem, withActor] at h
  split at h
  · cases h
  · rename_i k hk
    split at h
    · cases h
    · rename_i st0 hst
      refine ⟨k, st0, ⟨hk, hst⟩, ?_⟩
      change (match chainCheck (vectorStart st0 vs) (vs.flatMap latchesOf) with
        | .error e => _ | .ok _ => _) = _ at h
      split at h
      · rename_i e he; exact .inl ⟨e, he, (Host.Outcome.next.inj h).symm⟩
      · refine .inr ?_
        change (match (body k (vectorStart st0 vs)).run s with
          | (.ok _, s1) => _ | (.error (.stop (.wait w)), s1) => _ | (.error (.stop e), s1) => _
          | (.error (.park ps), s1) => _ | (.error (.askPeer ps), s1) => _) = _ at h
        split at h
        · rename_i hb; left; rw [hb, ← Host.Outcome.next.inj h]
        · rename_i w s1 hb; exact .inr ⟨_, s1, hb, (Host.Outcome.next.inj h).symm⟩
        · rename_i e s1 hn hb
          refine .inr ⟨_, s1, hb, ?_⟩
          cases e with
          | wait w => exact absurd rfl (hn w)
          | trap c a => exact (Host.Outcome.next.inj h).symm
        · rename_i ps s1 hb; exact .inr ⟨_, s1, hb, (Host.Outcome.next.inj h).symm⟩
        · rename_i ps s1 hb; exact .inr ⟨_, s1, hb, (Host.Outcome.next.inj h).symm⟩

/-- The steps that most bodies begin with. -/
theorem mrun_get {s : State} : (get : M State).run s = (.ok s, s) := rfl

theorem mrun_lift {α : Type} {r : Res α} {a : α} {s : State} (h : r = .ok a) : (liftRes r).run s = (.ok a, s) := by
  subst h; rfl

theorem mrun_await {st : Strand} {vs ss : List Nat} {s : State} (h : inFlight st vs ss = false) :
    (liftRes (awaitRegs st vs ss)).run s = (.ok (), s) := mrun_lift (awaitRegs_clear h)

/-- One whose operands read no latch. -/
theorem runMem_done_nil {body : Nat → Strand → M Unit} {s s1 : State} {k : Nat} {st : Strand} (h : Acts s k st)
    (hb : (body k (endChain st)).run s = (.ok (), s1)) : runMem [] body s = .next s1 :=
  runMem_done h rfl hb

end Sys2Proof.Machine
end

