-- ==== Sys2Proof/Laws/Trap.lean ====
section
/-!
SUPPORT. What taking a trap, killing a block and completing an instruction leave alone (R85, R246, R259): memory, the homes, the
cores and the engines. And what the strand that completes an instruction holds.
-/
set_option Elab.async false
namespace Sys2Proof.Machine

/-- What no trap, no killing and no next address reaches. -/
def Apart (s t : State) : Prop :=
  t.mem = s.mem ∧ t.homes = s.homes ∧ t.cores = s.cores ∧ t.arrayOps = s.arrayOps ∧ t.act = s.act
  ∧ t.bundles = s.bundles ∧ t.versions = s.versions ∧ t.plat = s.plat

theorem Apart.refl (s : State) : Apart s s := ⟨rfl, rfl, rfl, rfl, rfl, rfl, rfl, rfl⟩

theorem Apart.trans {s t u : State} (h : Apart s t) (g : Apart t u) : Apart s u := by
  obtain ⟨h1, h2, h3, h4, h5, h6, h7, h8⟩ := h
  obtain ⟨g1, g2, g3, g4, g5, g6, g7, g8⟩ := g
  exact ⟨g1.trans h1, g2.trans h2, g3.trans h3, g4.trans h4, g5.trans h5, g6.trans h6, g7.trans h7, g8.trans h8⟩

theorem Apart.foldl {α : Type} {f : State → α → State} {l : List α} {s t : State} (h : Apart s t)
    (hf : ∀ a x, Apart a (f a x)) : Apart s (l.foldl f t) := by
  induction l generalizing t with
  | nil => exact h
  | cons x l ih => exact ih (h.trans (hf t x))

theorem apart_emitStrand (s : State) (k : Nat) (st : Strand) (c l : Nat) : Apart s (s.emitStrand k st c l) := by
  unfold State.emitStrand; split
  · exact .refl s
  · exact .refl s

theorem apart_updStrands (g : Strand → Strand) (l : List Nat) (s : State) :
    Apart s (l.foldl (fun a k => a.updStrand k g) s) :=
  .foldl (.refl s) fun _ _ => ⟨rfl, rfl, rfl, rfl, rfl, rfl, rfl, rfl⟩

theorem apart_killBlock (s : State) (b c : Nat) (again : Bool) : Apart s (killBlock s b c again) := by
  unfold killBlock
  split
  · exact .refl s
  · split
    · exact .refl s
    · rename_i blk _ _ _
      have h1 : Apart s (if again then s else s.updGrid blk.grid fun g => { g with cause := if g.cause = 0 then c else g.cause }) := by
        split <;> exact .refl s
      exact h1.trans ((apart_updStrands _ _ _).trans ⟨rfl, rfl, rfl, rfl, rfl, rfl, rfl, rfl⟩)

theorem apart_endSill (s : State) (j a b : Nat) : Apart s (endSill s j a b) := by
  unfold endSill
  split
  · exact .refl s
  · exact (apart_updStrands _ _ _).trans ⟨rfl, rfl, rfl, rfl, rfl, rfl, rfl, rfl⟩

theorem apart_stopPartition (s : State) (fn : Nat) : Apart s (stopPartition s fn) := by
  unfold stopPartition
  dsimp only
  refine .foldl (.foldl (.refl s) fun a p => ?_) fun _ _ => ⟨rfl, rfl, rfl, rfl, rfl, rfl, rfl, rfl⟩
  split
  · exact ⟨rfl, rfl, rfl, rfl, rfl, rfl, rfl, rfl⟩
  · exact apart_endSill ..

theorem apart_enterError (s : State) (fn a b : Nat) : Apart s (enterError s fn a b) := by
  unfold enterError
  split
  · exact .refl s
  · dsimp only
    refine .foldl (.trans ?_ (apart_stopPartition _ fn)) fun _ _ => ⟨rfl, rfl, rfl, rfl, rfl, rfl, rfl, rfl⟩
    exact .foldl ⟨rfl, rfl, rfl, rfl, rfl, rfl, rfl, rfl⟩ fun a p => apart_killBlock ..

theorem apart_killPoisoned (s : State) (b c d : Nat) : Apart s (killPoisoned s b c d) :=
  (apart_killBlock s b c false).trans (apart_enterError ..)

/-- A trap changes the strand, or kills its block or ends its job. -/
theorem apart_enterTrap (s : State) (k : Nat) (st : Strand) (c : Nat) (a b : Word) (m : Half) :
    Apart s (enterTrap s k st c a b m) := by
  have h : Apart s (s.setStrand k st) := .refl s
  unfold enterTrap
  dsimp only
  split
  · exact h.trans (apart_endSill ..)
  · split
    · exact h.trans (apart_killBlock ..)
    · split
      · split
        · exact h.trans (apart_killPoisoned ..)
        · exact h.trans (apart_killBlock ..)
      · split
        · split
          · exact h.trans (apart_killPoisoned ..)
          · exact h.trans (apart_killBlock ..)
        · exact Apart.trans (.refl _) (apart_emitStrand ..)

/-- Completing an instruction changes the strand, or takes an ILLEGAL FORK EXIT. -/
theorem apart_retire (s : State) (k : Nat) (st : Strand) (nx : Nx) (fl : Flags) (m : Half) :
    Apart s (retire s k st nx fl m) := by
  have ends : ∀ (y x : Strand) (c p : Nat) (e : Event), Apart s (((s.setStrand k y).emitStrand k x c p).send e) :=
    fun y x c p e => (apart_emitStrand (s.setStrand k y) k x c p).trans ⟨rfl, rfl, rfl, rfl, rfl, rfl, rfl, rfl⟩
  have go : ∀ y : Strand, Apart s (s.setStrand k y) := fun _ => ⟨rfl, rfl, rfl, rfl, rfl, rfl, rfl, rfl⟩
  unfold retire
  extract_lets ws st1 st2 undo r
  split
  · exact ends _ _ _ _ _
  · exact go _
  · split
    · exact apart_enterTrap ..
    · exact go _

theorem apart_requestPreempt (s : State) (full : Bool) (bs : List Nat) : Apart s (requestPreempt s full bs) := by
  unfold requestPreempt
  refine .foldl (.refl s) fun a b => ?_
  dsimp only
  split
  · exact .foldl ⟨rfl, rfl, rfl, rfl, rfl, rfl, rfl, rfl⟩ fun _ _ => ⟨rfl, rfl, rfl, rfl, rfl, rfl, rfl, rfl⟩
  · exact .refl a

theorem apart_registerPressure (s : State) (core : Nat) : Apart s (registerPressure s core) := by
  unfold registerPressure
  dsimp only
  split
  · exact .refl s
  · split
    · exact apart_requestPreempt ..
    · exact .refl s

/-- PREEMPT of a strand that has no place at its core's function table is a trap. -/
theorem apart_takePreempt (s : State) (k : Nat) (st : Strand) (a : Word) (h : (s.core st.core).table.waiting.contains k = false) :
    Apart s (takePreempt s k st a) := by
  unfold takePreempt leaveTable
  rw [h]
  exact apart_enterTrap ..

/-- A strand that waits changes itself, takes a PREEMPT that is pending, or asks other blocks for their registers (R167, R172). -/
theorem apart_block (s : State) (k : Nat) (st : Strand) (w : Wait) (h : (s.core st.core).table.waiting.contains k = false) :
    Apart s (block s k st w) := by
  have go : ∀ y : Strand, Apart s (s.setStrand k y) := fun _ => ⟨rfl, rfl, rfl, rfl, rfl, rfl, rfl, rfl⟩
  unfold block
  split
  · exact apart_takePreempt s k _ _ h
  · dsimp only
    split
    · exact (go _).trans (apart_registerPressure ..)
    · exact go _

/-- An instruction that does not complete traps or waits. -/
theorem apart_stopWith (s : State) (k : Nat) (st : Strand) (inside : Bool) (e : Stop)
    (h : (s.core st.core).table.waiting.contains k = false) : Apart s (stopWith s k st inside e) := by
  cases e with
  | trap c a => exact apart_enterTrap ..
  | wait w => exact apart_block s k st w h

/-- The strand of an instruction that completes outside a region (R85): it goes on as its selector says, or ends. -/
theorem retire_outside {s : State} {k : Nat} {st : Strand} {nx : Nx} {fl : Flags} {m : Half} (hp : st.pair = .none)
    (hr : inRegion st = false) :
    let st2 := { st.completed with fl := st.fl ||| fl }
    retire s k st nx fl m = match selectNext st2 nx with
      | (x, .ends) => ((s.setStrand k (endStrand x)).emitStrand k x 0x12 (pcBits x.pc)).send
          (if x.sill then .jobComplete x.job else .blockRetire x.blk)
      | (x, .onward) => s.setStrand k (goOn x)
      | (x, .goes n _) => s.setStrand k (goTo x n (st2.saveNext m)) := by
  have keep : ∀ (x : Strand) (nx : Nx), inRegion (selectNext x nx).1 = inRegion x := by
    intro x nx
    cases nx <;> simp only [selectNext]
    · split <;> rfl
    · rfl
  intro st2
  have h0 : inRegion st2 = false := hr
  have h2 : inRegion (selectNext st2 nx).1 = false := (keep st2 nx).trans h0
  have h3 : retire s k st nx fl m = match selectNext st2 nx with
      | (x, .ends) => ((s.setStrand k (endStrand x)).emitStrand k x 0x12 (pcBits x.pc)).send
          (if x.sill then .jobComplete x.job else .blockRetire x.blk)
      | (x, .onward) => s.setStrand k (goNext x (st2.saveNext m))
      | (x, .goes n d) => if d && leavesRegion st2 n
          then enterTrap s k (endChain st2) cIllegalForkExit (wrap64 n) st2.pc m
          else s.setStrand k (goFormed x n (st2.saveNext m)) := by
    unfold retire
    rw [hp]
    change (match (selectNext st2 nx).2 with
      | .ends => ((s.setStrand k (endStrand (selectNext st2 nx).1)).emitStrand k (selectNext st2 nx).1 0x12
          (pcBits (selectNext st2 nx).1.pc)).send
            (if (selectNext st2 nx).1.sill then .jobComplete (selectNext st2 nx).1.job else .blockRetire (selectNext st2 nx).1.blk)
      | .onward => s.setStrand k (goNext (selectNext st2 nx).1 (st2.saveNext m))
      | .goes n direct => if direct && leavesRegion st2 n
          then enterTrap s k (endChain st2) cIllegalForkExit (wrap64 n) st2.pc m
          else s.setStrand k (goFormed (selectNext st2 nx).1 n (st2.saveNext m))) = _
    cases selectNext st2 nx with
    | mk x g => cases g <;> rfl
  rw [h3]
  revert h2
  cases selectNext st2 nx with
  | mk x g =>
    intro h2
    cases g with
    | ends => rfl
    | onward => simp [goNext, h2]
    | goes n d => simp [goFormed, h2, leavesRegion, h0]

end Sys2Proof.Machine
end

