-- ==== Sys2Proof/Machine/Dram.lean ====
section
/-!
DEFINITION. What the DRAM of the stacks holds (R5, R372 to R374): each line encrypted under its slice's keys, with its side band of
integrity tag, bundle descriptor and ECC. `State.mem` holds the lines as the BSUs decrypt them (log 13).
-/
namespace Sys2Proof.Machine

/-- The memory slice of a line, and its module physical address (R363). -/
def sliceOfLine (line : Nat) : Nat := line / 2 ^ 26
/-- The key set in a slice's store; all zero before the first is drawn. -/
def keysOf (s : State) (slice : Nat) : KeySet := s.keySets.getD slice ⟨0, 0, 0⟩

/-- A line as the BSUs encrypt it (R373): the tweak is the module physical address over 128. -/
def sealLine (k : KeySet) (line : Nat) (x : Line) : Line := xtsLine k.k1 k.k2 line x
/-- A line as they decrypt it. -/
def unsealLine (k : KeySet) (line : Nat) (x : Line) : Line := xtsUnline k.k1 k.k2 line x

/-- The line that DRAM holds: the ciphertext of what the memory holds. -/
def dramLine (s : State) (line : Nat) : Line := sealLine (keysOf s (sliceOfLine line)) line (memLine s line)

/-- The integrity tag of a line's ciphertext (R374): the first 48 bits of the GMAC, whose IV names the slice and the line, over the
ciphertext, the 8-byte address and the slice. -/
def tagOf (k : KeySet) (line : Nat) (cipher : Line) : BitVec 48 :=
  let slice := sliceOfLine line
  let iv := highFirst 12 (slice * 2 ^ 88 + line % 2 ^ 48 * 2 ^ 40)
  BitVec.ofNat 48 (fromHigh ((gmac k.tag iv (lowFirst 128 cipher.toNat ++ lowFirst 8 (128 * line) ++ [slice % 256])).take 6))

/-- The side band of a line: 16 of the 128 bytes of its row (R5), which are the tag of 48 bits (R374), the bundle field of 2 bytes
(R327), and the ECC in what is left (DEDUCED, log 13). -/
structure SideBand where
  tag        : BitVec 48
  descriptor : BitVec 16
  ecc        : BitVec 64
  deriving DecidableEq, Repr

/-- The bundle field of a line (R327): the index of its version descriptor at its home, from 1 up in the order in which the lines stand
(log 13), or 0 when it has no second version. -/
def descriptorOf (s : State) (line : Nat) : BitVec 16 :=
  let held := (s.versions.filter fun v => v.2.second.isSome && homeFor v.1 == homeFor line).map (·.1)
  if held.contains line then BitVec.ofNat 16 (1 + held.idxOf line) else 0

/-- The side band that is stored with a line: its tag matches unless it has been corrupted (R374, R375), and its ECC is that of the line
or the pattern of a poisoned one (R413). -/
def sideBand (s : State) (line : Nat) : SideBand :=
  let x := dramLine s line
  let t := tagOf (keysOf s (sliceOfLine line)) line x
  let tag := if s.badTags.contains line then t ^^^ 1 else t
  ⟨tag, descriptorOf s line, if s.poisoned.contains line then Config.eccPoison else Config.eccOf x line tag (descriptorOf s line)⟩

/-- The side band of a line as its bytes lie in the row. -/
def SideBand.image (b : SideBand) : BitVec 128 := b.ecc ++ (b.descriptor ++ b.tag)

/-- The side band of a row: 128 bytes, of its eight lines (R5). -/
def rowSideBand (s : State) (row : Nat) : BitVec 1024 :=
  BitVec.ofNat 1024 (((upto 8).map fun i => (sideBand s (8 * row + i)).image.toNat * 2 ^ (128 * i)).foldl (· + ·) 0)

/-- Whether the tag of a line that DRAM holds matches it (R374). -/
def tagMatches (s : State) (line : Nat) : Bool :=
  (sideBand s line).tag == tagOf (keysOf s (sliceOfLine line)) line (dramLine s line)

/-- What a BSU reads of a line: decrypted, and whether its tag is right (R373, R374). -/
def readDram (s : State) (line : Nat) : Line × Bool := (unsealLine (keysOf s (sliceOfLine line)) line (dramLine s line), tagMatches s line)

end Sys2Proof.Machine
end

