-- ==== Sys2Proof/Tests/Witness.lean ====
section
/-!
SUPPORT. For each statement that has hypotheses, states and operands that meet them: one theorem for each statement, clause by
clause.
-/
set_option Elab.async false
namespace Sys2Proof.Tests
open Sys2Proof Sys2Proof.Machine

/-- Whether a result is one. -/
def good {α : Type} (r : Res α) : Bool := match r with | .ok _ => true | .error _ => false
theorem of_good {α : Type} {r : Res α} (h : good r = true) : ∃ a, r = .ok a := by
  cases r with
  | ok a => exact ⟨a, rfl⟩
  | error e => cases h
theorem of_good_unit {r : Res Unit} (h : good r = true) : r = .ok () := (of_good h).elim fun _ h => h

/-- Whether a result is a given one. -/
def gives {ε α : Type} [DecidableEq α] (r : Except ε α) (x : α) : Bool :=
  match r with | .ok y => decide (y = x) | .error _ => false
theorem of_gives {ε α : Type} [DecidableEq α] {r : Except ε α} {x : α} (h : gives r x = true) : r = .ok x := by
  cases r with
  | ok y => simpa [gives] using h
  | error e => cases h

/-- Whether a computation ends well in a state, with a result of a kind. -/
def runs {ε α : Type} (x : ExceptT ε (StateM State) α) (s : State) (q : α → Bool := fun _ => true) : Bool :=
  match (x.run s).1 with | .ok a => q a | .error _ => false
/-- A computation ends well in a state. -/
def Ends {ε α : Type} (x : ExceptT ε (StateM State) α) (s : State) (q : α → Bool) : Prop :=
  ∃ a s1, x.run s = (.ok a, s1) ∧ q a = true
theorem ends_of {ε α : Type} {x : ExceptT ε (StateM State) α} {s : State} {q : α → Bool} (h : runs x s q = true) :
    Ends x s q := by
  unfold runs at h
  generalize hx : x.run s = r at h
  obtain ⟨r, s1⟩ := r
  cases r with
  | ok a => exact ⟨a, s1, hx, h⟩
  | error e => cases h

/-- Whether a computation ends well, with a result and in a state of a kind. -/
def runsTo {ε α : Type} (x : ExceptT ε (StateM State) α) (s : State) (q : α → State → Bool) : Bool :=
  match x.run s with | (.ok a, t) => q a t | _ => false
/-- A computation ends well, with a result and in a state of a kind. -/
def EndsIn {ε α : Type} (x : ExceptT ε (StateM State) α) (s : State) (q : α → State → Bool) : Prop :=
  ∃ a t, x.run s = (.ok a, t) ∧ q a t = true
theorem endsIn_of {ε α : Type} {x : ExceptT ε (StateM State) α} {s : State} {q : α → State → Bool} (h : runsTo x s q = true) :
    EndsIn x s q := by
  unfold runsTo at h
  generalize hx : x.run s = r at h
  obtain ⟨r, t⟩ := r
  cases r with
  | ok a => exact ⟨a, t, hx, h⟩
  | error e => cases h

/-- Whether an outcome is a next state. -/
def goesOn (o : Out) : Bool := match o with | .next _ => true | _ => false
theorem next_of {o : Out} (h : goesOn o = true) : ∃ t, o = .next t := by
  cases o with
  | next t => exact ⟨t, rfl⟩
  | fault f => cases h
  | refused r => cases h

/-- A translation of a page for function 0, to the device page of the same number. -/
def leaf (page : Nat) : TlbEntry := ⟨0, 0, page, [], ⟨0, 0, 0, false, true, true, true, true, true, true, true, page, 65536 * page⟩⟩
/-- The strand that executes: at the address 0x10004, with vector registers 2 and 3 allocated. -/
def strand (g : Strand → Strand) : Strand := g (((placedStrand 32 0x800).setV 2 (some .zero)).setV 3 (some .zero))
/-- Its block: it holds the slots 0 to 3 and the accumulators 0 and 1, and has 64 KiB of scratchpad. -/
def block (g : Block → Block) : Block := g { Block.absent with
  strands := [0], launches := 1, reserved := 64, scratchSize := 65536, fmt := Vector.replicate 16 3 }
/-- Its core. -/
def core (g : Core → Core) : Core := g { Core.idle with
  tlb := (upto 4).map leaf, table := { Core.idle.table with owner := some 0 }
  slots := (upto 4).map fun n => (n, { Slot.free with owner := some 0 })
  accs := (upto 2).map fun n => (n, { Acc.free with owner := some 0 }) }
/-- The machine while that strand executes. -/
def world (g : Strand → Strand) (b : Block → Block) (c : Core → Core) : State :=
  { placeWord .reset 32 0x800 with
    strands := [(0, strand g)], act := some 0, blocks := [(0, block b)], cores := [(0, core c)]
    grids := [(0, { Grid.absent with plumb := 255 })] }
def here (g : Strand → Strand) : State := world g id id
/-- Three operands; everything else as it is most plainly. -/
def W (a b c : Spec) : Fields :=
  { nx := .next, nw := false, d := 1, a := ⟨a, false⟩, b := ⟨b, false⟩, c := ⟨c, false⟩, ty := .i32, m := 0, f := 0 }
/-- The operands of a compact form. -/
def C (t : BitVec 3) : CFields := ⟨t, 0, 1, 2, 3, false, false⟩
theorem acts (g : Strand → Strand) (b : Block → Block) (c : Core → Core) : Acts (world g b c) 0 (strand g) := ⟨rfl, rfl⟩
def no : Spec := .special 1

/-- The code that an instruction is decoded from, as the checks of decoding take it. -/
def codeOf (i : Instr) (op : Nat) : Except Reject Instr × Nat := (.ok i, op)
/-- What the lane's own strand meets: its line is buffered, its address and the line pass their checks. -/
abbrev AtLine (s : State) (st : Strand) (line : BitVec 512) : Prop :=
  heldBy s 0 = some (0, st) ∧ st.wait = .none ∧ st.turn = true ∧ addressOk st = true
  ∧ bufLine st (lineBase st.pc) = some ⟨lineBase st.pc, 0, line, 0⟩ ∧ st.arrival = .sequential ∧ lineFault line = none
  ∧ inChain st = false ∧ duePreempt st = false
theorem witness_StepRunsInstruction : let s := placeWord .reset 32 0x800
    let st := placedStrand 32 0x800
    let i := Instr.nopC ⟨0, 0, 0, 0, 0, false, false⟩
    AtLine s st (wordLine 32 0x800) ∧ pairBit (wordLine 32 0x800) 0 = false
    ∧ (startsOf (wordLine 32 0x800) 0).1.find? (fun x => x.1 == 0) = some (0, 1)
    ∧ decodeFault (contextFault s st) [codeOf i (bits (slotAt (wordLine 32 0x800) 0) 58 6)] = none
    ∧ decode (bits (slotAt (wordLine 32 0x800) 0) 0 32) = .ok i := by
  refine ⟨?_, ?_, ?_, ?_, of_gives (by decide +kernel)⟩ <;> decide +kernel

theorem witness_StepRunsInstruction_step : let s0 := placeWord .reset 32 0x800
    dueTimer (beginStep s0) = none ∧ (beginStep s0).queue = [] ∧ (∃ s, nextMover (beginStep s0) = some (0, s))
    ∧ dueEngine (beginStep s0) true = none :=
  ⟨rfl, rfl, ⟨_, rfl⟩, rfl⟩

/-- The first slot of `pairLine`: a compact `nop` and a `vadd`. -/
def pairSlot : Nat := 0x800 + 0x21440602012021 * 2 ^ 32
/-- A line whose first slot is that pair. -/
def pairLine : BitVec 512 := BitVec.ofNat 512 (2 ^ 11 + 2 ^ 6 + b2n (parity 96 pairSlot) + pairSlot * 2 ^ 32
  + ((wordLine 32 0x800).toNat / 2 ^ 128 * 2 ^ 128 + (wordLine 32 0x800).toNat % 32 / 2 * 2))
/-- The machine where the strand's line begins with the pair. -/
def atPair : State :=
  let s := placeWord .reset 32 0x800
  { s with strands := s.strands.map fun p => (p.1, { p.2 with ibuf := [⟨0x10000#64, 0, pairLine, 0⟩] }) }
theorem witness_StepRunsInstruction_pair : let st := { placedStrand 32 0x800 with ibuf := [⟨0x10000#64, 0, pairLine, 0⟩] }
    let i := Instr.nopC ⟨0, 0, 0, 0, 0, false, false⟩
    let j := Instr.vadd (W (.reg 2) (.reg 3) no)
    AtLine atPair st pairLine ∧ pairBit pairLine 0 = true ∧ (startsOf pairLine 0).1 = [(0, 1), (1, 2)]
    ∧ readsLatch i = false ∧ readsLatch j = false
    ∧ decodeFault (contextFault atPair st) [codeOf i (bits (slotAt pairLine 0) 58 6), codeOf j (bits (slotAt pairLine 0) 90 6)] = none
    ∧ isUniform i = true ∧ nxOf i = .next
    ∧ decode (bits (slotAt pairLine 0) 0 32) = .ok i ∧ decode (bits (slotAt pairLine 0) 32 64) = .ok j := by
  refine ⟨?_, ?_, ?_, ?_, ?_, ?_, ?_, ?_, of_gives (by decide +kernel), of_gives (by decide +kernel)⟩ <;> decide +kernel

theorem witness_DecodeEncode : (Instr.add (W (.reg 2) (.reg 3) no)).wf = true
    ∧ (Instr.add (W (.reg 2) (.reg 3) no)).form ≠ .event := by decide +kernel

theorem witness_StepTakesRecords : (placeWord .reset 32 0x800).recordsTaken ∧ ∃ t, step (placeWord .reset 32 0x800) = .next t :=
  ⟨rfl, next_of (by decide +kernel)⟩

theorem witness_TrapEntry : let st := strand fun x => { x with tvec := 0x20004#64 }
    (st.sill = false ∧ cBreakpoint ≠ cPoison) ∧ (st.trapMode = false ∧ st.tvec ≠ 0)
    ∧ ((strand fun x => { x with trapMode := true }).trapMode = true
      ∧ (strand fun x => { x with trapMode := true }).poisonTrap = false)
    ∧ (strand id).trapMode = false ∧ (strand id).tvec = 0 := by decide +kernel

theorem witness_NextAddress : ((strand id).pair = .none ∧ inRegion (strand id) = false)
    ∧ (let st := strand fun x => { x with fork := ⟨.aFirst, 0xFFF8#64, 5, 8, 1⟩, pc := 0x10008#64, seq := 0x1000C#64 }
      st.pair = .none ∧ inRegion st = true ∧ (st.seq.toNat : Int) = (regionBounds st.fork).2)
    ∧ (strand fun x => { x with pair := .apply [.uc true] }).pair = .apply [.uc true] := by decide +kernel

theorem witness_PackedElements : 7 < Ty.i8.lanes ∧ 0 < Ty.i64.lanes := by decide

theorem witness_CountsOfElements : let f := W (.reg 2) no no
    Acts (here id) 0 (strand id) ∧ inFlight (uniformReader (strand id)) [] (uRegs f true) = false
    ∧ uval (here id) (uniformReader (strand id)) f.ty f.a = .ok 0 := ⟨acts .., by decide +kernel, rfl⟩

theorem witness_FindFirst : let f := W (.reg 2) no no
    let st := strand fun x => x.setS 2 (1#64 <<< 63) false
    Acts (here fun x => x.setS 2 (1#64 <<< 63) false) 0 st ∧ inFlight (uniformReader st) [] (uRegs f true) = false
    ∧ uval (here fun x => x.setS 2 (1#64 <<< 63) false) (uniformReader st) f.ty f.a = .ok (1#64 <<< 63) :=
  ⟨acts .., by decide +kernel, of_gives (by decide +kernel)⟩

theorem witness_UniformFrame : (here id).strand 0 = some (strand id) ∧ (strand id).pair = .none ∧ inRegion (strand id) = false := by
  decide +kernel

theorem witness_VectorFrame : (here id).strand 0 = some (strand id) ∧ (strand id).pair = .none ∧ inRegion (strand id) = false := by
  decide +kernel

theorem witness_ScratchFrame : let b := block fun b => { b with scratch := [⟨5, 7⟩] }
    (world id (fun b => { b with scratch := [⟨5, 7⟩] }) id).blocks.find 0 = some b ∧ Memory.wf b.scratch = true := by
  decide +kernel

theorem witness_AccessFrame : (here id).strand 0 = some (strand id) := rfl

theorem witness_StoredBytes : 0 < 1 ∧ 65536 ≤ 65536 := by decide

/-- A home that holds line 0. -/
def homeWith0 : State := l2Fill State.reset 0 0 true
theorem witness_LineWrite : let c := (homeWith0.home 0).l2
    (lineWords 0).all (cachePresent c) = true
    ∧ l2Short homeWith0 0 (l2Set (0 / 8)) 1 = false ∧ homeWith0.badTags.contains 0 = false := by decide +kernel

theorem witness_VectorDestination : (W (.reg 2) no no).nw = false ∧ ({ W (.reg 2) no no with nw := true } : Fields).nw = true
    ∧ activeIn (strand id).em 31 = true ∧ activeIn 1#32 31 = false ∧ (strand id).vreg 2 = some .zero ∧ (strand id).vreg 4 = none
    ∧ (W no no (.bcast 4)).c.spec = .bcast 4 := by decide +kernel

theorem witness_CompletionFrame : (here id).strand 0 = some (strand id) ∧ (id (strand id)).pair = .none ∧ inRegion (strand id) = false := by
  decide +kernel

theorem witness_UniformArithmetic : ∀ n ∈ rangeFrom 16 16, let f := (C 0).expand n
    inFlight (uniformReader (strand id)) [] (uRegs f true) = false
    ∧ (∃ x, uval (here id) (uniformReader (strand id)) f.ty f.a = .ok x)
    ∧ ∃ y, uval (here id) (uniformReader (strand id)) f.ty f.b = .ok y := by
  have h : ∀ n ∈ rangeFrom 16 16, let f := (C 0).expand n
    inFlight (uniformReader (strand id)) [] (uRegs f true) = false
    ∧ good (uval (here id) (uniformReader (strand id)) f.ty f.a) = true
    ∧ good (uval (here id) (uniformReader (strand id)) f.ty f.b) = true := by decide +kernel
  exact fun n hn => ⟨(h n hn).1, of_good (h n hn).2.1, of_good (h n hn).2.2⟩

theorem witness_UniformMoves : let f := W (.reg 2) no no
    inFlight (uniformReader (strand id)) [] (uRegs f true) = false
    ∧ ∃ r, uread (here id) (uniformReader (strand id)) .i32 f.a = .ok r :=
  ⟨by decide +kernel, of_good (by decide +kernel)⟩

theorem witness_UniformSelect : let f := W (.reg 2) (.reg 3) (.imm 5)
    inFlight (uniformReader (strand id)) [] (uRegs f true) = false
    ∧ uread (here id) (uniformReader (strand id)) f.ty f.a = .ok (0, false)
    ∧ uread (here id) (uniformReader (strand id)) f.ty f.b = .ok (0, false)
    ∧ ∃ z, uval (here id) (uniformReader (strand id)) f.ty f.c = .ok z :=
  ⟨by decide +kernel, rfl, rfl, of_good (by decide +kernel)⟩

theorem witness_UniformMasksAndControl : let f := W (.reg 2) no no
    let g := fun x : Strand => x.setS 2 15#64 false
    let st := strand g
    Acts (here g) 0 st ∧ inFlight (uniformReader st) [] (uRegs f false) = false
    ∧ inFlight (uniformReader st) [] (uRegs f true) = false
    ∧ uval (here g) (uniformReader st) f.ty f.a = .ok 15 ∧ (15#64).toNat < 16
    ∧ contextFault (here g) (endChain st) 0x026 2 = false ∧ ∃ ws, cregWrite (uniformReader st) 2 15 = .ok ws :=
  ⟨acts .., by decide +kernel, by decide +kernel, of_gives (by decide +kernel), by decide, by decide +kernel, of_good (by decide +kernel)⟩

theorem witness_UniformMasksAndControl_fork : let f : ForkFields := ⟨2, 3, 4, 5⟩
    inFlight (endChain (strand id)) [] [2, 3] = false ∧ (∃ x, uval (here id) (endChain (strand id)) .i8 ⟨.reg f.a, false⟩ = .ok x)
    ∧ ∃ y, uval (here id) (endChain (strand id)) .i8 ⟨.reg f.b, false⟩ = .ok y :=
  ⟨by decide +kernel, of_good (by decide +kernel), of_good (by decide +kernel)⟩

/-- Whether a vector instruction is ready. -/
def vready (f : Fields) (os : List Opd) (check : State → Strand → Res Unit) : Bool :=
  good (vectorReady (here id) (vectorStart (strand id) os) f os check)
/-- It is ready. -/
abbrev VReady (f : Fields) (os : List Opd) (check : State → Strand → Res Unit) : Prop :=
  vectorReady (here id) (vectorStart (strand id) os) f os check = .ok ()
theorem vready_of {f : Fields} {os : List Opd} {check : State → Strand → Res Unit} (h : vready f os check = true) :
    VReady f os check := of_good_unit h

theorem witness_VectorTwoSource : ∀ n ∈ rangeFrom 2 11, let f := (C 0).expand n
    VReady f [f.a, f.b] (noMarks [f.a, f.b]) := by
  have h : ∀ n ∈ rangeFrom 2 11, let f := (C 0).expand n
    vready f [f.a, f.b] (noMarks [f.a, f.b]) = true := by decide +kernel
  exact fun n hn => vready_of (h n hn)

theorem witness_VectorOneAndThreeSource : let f := W (.reg 2) (.imm 3) (.reg 3)
    VReady f [f.a] (noMarks [f.a]) ∧ VReady f [f.a, f.b, f.c] (noMarks [f.a, f.b, f.c]) :=
  ⟨vready_of (by decide +kernel), vready_of (by decide +kernel)⟩

theorem witness_FloatArithmetic : (∀ n ∈ [13, 14, 15], let f := (C 0).expand n
    VReady f [f.a, f.b] (withMarks [f.a, f.b] noCheck))
    ∧ let f := (C 0).expand 13
      VReady f [f.a] (withMarks [f.a] noCheck) := by
  have h : ∀ n ∈ [13, 14, 15], let f := (C 0).expand n
    vready f [f.a, f.b] (withMarks [f.a, f.b] noCheck) = true := by decide +kernel
  exact ⟨fun n hn => vready_of (h n hn), vready_of (by decide +kernel)⟩

theorem witness_VectorCompare : let f := (C 0).expand 2
    VReady f [f.a, f.b] (noMarks [f.a, f.b])
    ∧ VReady f [f.a, f.b, f.c] (fun _ st => checkMarks st [f.c] (activeList st.em))
    ∧ let g := (C 0).expand 1
      VReady g [g.a] (fun _ _ => .ok ()) :=
  ⟨vready_of (by decide +kernel), vready_of (by decide +kernel), vready_of (by decide +kernel)⟩

theorem witness_FloatOthers : let f := { W (.reg 2) (.reg 3) (.imm 5) with ty := .f }
    VReady f [f.a] (withMarks [f.a] (fcvtCheck f))
    ∧ VReady f [f.a, f.b, f.c] (withMarks [f.a, f.b, f.c] noCheck)
    ∧ contextFault (here id) (vectorStart (strand id) [f.a, f.b, f.c]) 0x12D 0 = false
    ∧ VReady f [f.a] (withMarks [f.a] fun s st => checkFormat s st (f.f.toNat / 4))
    ∧ VReady f [f.a] (withMarks [f.a] fun s st => checkFormat s st f.srcFmt) :=
  ⟨vready_of (by decide +kernel), vready_of (by decide +kernel), by decide +kernel, vready_of (by decide +kernel)
  , vready_of (by decide +kernel)⟩

theorem witness_VectorCross : let f := W (.reg 2) (.reg 3) (.reg 2)
    VReady f [f.a, f.b] (fun _ st => checkMarks st [f.b] (activeList st.em))
    ∧ VReady f [f.a, f.b] (fun _ st => checkMarks st [f.b] [0])
    ∧ VReady f [f.a, f.b, f.c] (fun _ st => checkMarks st [f.b] [0])
    ∧ VReady f [f.a] (noMarks [f.a]) :=
  ⟨vready_of (by decide +kernel), vready_of (by decide +kernel), vready_of (by decide +kernel), vready_of (by decide +kernel)⟩

/-- A memory access at offset 256 of window 0. -/
def mf : Fields := W (.lit 256) no (.imm 7)
/-- The strand as a memory access starts. -/
def vs (vec : Bool) (os : List Opd) : Strand := vectorStart (strand id) (memVecs vec os)

theorem witness_MemoryLoads : ∀ vec lda : Bool, chainCheck (vs vec [mf.a, mf.b]) ((memVecs vec [mf.a, mf.b]).flatMap latchesOf) = .ok ()
    ∧ Ends (loadChecks mf vec lda 0 (vs vec [mf.a, mf.b])) (here id) fun r => r.2 == none := by
  have h : ∀ vec lda : Bool, gives (chainCheck (vs vec [mf.a, mf.b]) ((memVecs vec [mf.a, mf.b]).flatMap latchesOf)) () = true
    ∧ runs (loadChecks mf vec lda 0 (vs vec [mf.a, mf.b])) (here id) (fun r => r.2 == none) = true := by decide +kernel
  exact fun vec lda => ⟨of_gives (h vec lda).1, ends_of (h vec lda).2⟩

theorem witness_MemoryStores : ∀ vec stl : Bool, chainCheck (vs vec [mf.a, mf.b, mf.c]) ((memVecs vec [mf.a, mf.b, mf.c]).flatMap latchesOf) = .ok ()
    ∧ Ends (storeChecks mf vec stl (vs vec [mf.a, mf.b, mf.c])) (here id) (fun _ => true)
    ∧ restartableBlock (here id) (vs vec [mf.a, mf.b, mf.c]) = false := by
  have h : ∀ vec stl : Bool, gives (chainCheck (vs vec [mf.a, mf.b, mf.c]) ((memVecs vec [mf.a, mf.b, mf.c]).flatMap latchesOf)) () = true
    ∧ runs (storeChecks mf vec stl (vs vec [mf.a, mf.b, mf.c])) (here id) = true
    ∧ restartableBlock (here id) (vs vec [mf.a, mf.b, mf.c]) = false := by decide +kernel
  exact fun vec stl => ⟨of_gives (h vec stl).1, ends_of (h vec stl).2.1, (h vec stl).2.2⟩

/-- A bundle's record at this module. -/
def homeBundle (st : BundleState) : Bundle := ⟨0x00100001#32, 1, 0, none, 2, 0, 0, 0, st, 0, 0, [], [], [], [], [], false⟩
/-- The strand with that bundle. -/
def withBnd (x : Strand) : Strand := { x with bnd := 0x00100001#32 }
/-- The machine where the block is restartable and has that bundle. -/
def restartable (st : BundleState) : State :=
  { here withBnd with grids := [(0, { Grid.absent with restartable := true })], bundles := [(bundleKey 0x00100001#32, homeBundle st)] }
theorem witness_MemoryStores_restartable : let st := vectorStart (strand withBnd) [mf.a, mf.b, mf.c]
    (∀ x : BundleState, restartableBlock (restartable x) st = true)
    ∧ EndsIn (storeChecks mf true false st) (restartable .opened) (fun r t => !bundleDead t st.bnd && bundleDev st.bnd == t.dev
      && (admitLines t st.bnd ((partLines r.1).map (homeOfLine t st))).isSome && !(st.unacked.any fun u => (partLines r.1).contains u.line))
    ∧ EndsIn (storeChecks mf true false st) (restartable (.aborted 0)) fun _ t => bundleDead t st.bnd :=
  ⟨fun _ => rfl, endsIn_of (by decide +kernel), endsIn_of (by decide +kernel)⟩

/-- An atomic's operands. -/
def af : Fields := { mf with d := 2, b := ⟨.reg 3, false⟩, c := ⟨.reg 2, false⟩, f := 3 }
theorem witness_MemoryAtomics : ∀ vec cas : Bool, chainCheck (vectorStart (strand id) (atomicVecs af vec cas)) ((atomicVecs af vec cas).flatMap latchesOf) = .ok ()
    ∧ Ends (atomicChecks af vec cas (vectorStart (strand id) (atomicVecs af vec cas))) (here id) (fun _ => true) := by
  have h : ∀ vec cas : Bool, gives (chainCheck (vectorStart (strand id) (atomicVecs af vec cas)) ((atomicVecs af vec cas).flatMap latchesOf)) () = true
    ∧ runs (atomicChecks af vec cas (vectorStart (strand id) (atomicVecs af vec cas))) (here id) = true := by decide +kernel
  exact fun vec cas => ⟨of_gives (h vec cas).1, ends_of (h vec cas).2⟩

theorem witness_ScratchAccess : (∀ vec : Bool, Ends (scratchLoadChecks mf vec (vs vec [mf.a, mf.b])) (here id) (fun _ => true)
    ∧ Ends (scratchStoreChecks mf vec (vs vec [mf.a, mf.b, mf.c])) (here id) (fun _ => true))
    ∧ Ends (satomChecks mf (vectorStart (strand id) [mf.a, mf.b])) (here id) (fun _ => true) := by
  have h : ∀ vec : Bool, runs (scratchLoadChecks mf vec (vs vec [mf.a, mf.b])) (here id) = true
    ∧ runs (scratchStoreChecks mf vec (vs vec [mf.a, mf.b, mf.c])) (here id) = true := by decide +kernel
  exact ⟨fun vec => ⟨ends_of (h vec).1, ends_of (h vec).2⟩, ends_of (by decide +kernel)⟩

theorem witness_FencesAndSignals : let st := endChain (strand id)
    Ends (fenceChecks mf st) (here id) (fun _ => true) ∧ (∀ drop, Ends (cleanChecks mf drop st) (here id) fun _ => true)
    ∧ Ends (prefChecks mf st) (here id) (fun _ => true) ∧ Ends (biasChecks mf st) (here id) (fun _ => true)
    ∧ Ends (signalChecks mf st) (here id) (fun r => r.1.length == 1)
    ∧ st.trapMode = false ∧ st.flight = [] ∧ orderWaits st (some 2) false = .ok () :=
  ⟨ends_of (by decide +kernel), fun drop => ends_of (by cases drop <;> decide +kernel), ends_of (by decide +kernel)
  , ends_of (by decide +kernel), ends_of (by decide +kernel), rfl, rfl, rfl⟩

/-- A `wait` until a word is 0. -/
def wf0 : Fields := { mf with b := ⟨.imm 0, false⟩, c := ⟨.reg 2, false⟩ }
theorem witness_FencesAndSignals_wait : let st := endChain (strand id)
    Ends (waitChecks wf0 st) (here id) (fun r => match r with
      | ([p], b) => !isPeer p.ga && waitHolds wf0 (waitWord 0 0 p (here id)).2.1 b
        && runs (capScope (whoOf (here id) st).fn wf0.cScope p.off) (waitWord 0 0 p (here id)).1
      | _ => false) := ends_of (by decide +kernel)

/-- Window 0 leads to a page of peer 2, which has granted it; the peer has answered with the line. -/
def peerPages (c : Core) : Core := { c with tlb := [⟨0, 0, 0, [], ⟨0, 0, 0, false, true, true, true, true, true, true, true, peerBase 2 / 65536, peerBase 2⟩⟩] }
def peerWaits (x : Strand) : Strand := { x with peerOk := [(peerBase 2 / 65536, 0)], answer := some 0 }
def onPeer : State := { world peerWaits id peerPages with routes := [(2, 0x80)] }
theorem witness_FencesAndSignals_peer : let st := endChain (strand peerWaits)
    st.answer = some 0 ∧ EndsIn (waitChecks wf0 st) onPeer (fun r t => match r with
      | ([p], b) => isPeer p.ga && waitHolds wf0 (bits 0 (8 * (p.ga % 128)) 64) b
        && runs (capScope (whoOf onPeer st).fn wf0.cScope p.off) t
      | _ => false) := ⟨rfl, endsIn_of (by decide +kernel)⟩

/-- The plumb operands: tag 0, at the level of the block's core. -/
def pf0 : Fields := W (.imm 0) no no
theorem witness_PlumbNetwork : let st := endChain (strand id)
    awaitRegs st [] [1] = .ok () ∧ plumbChecks (here id) st pf0 = .ok ()
    ∧ Ends (plumbArrive 0 st pf0) (here id) (fun _ => true)
    ∧ Ends (pwaitChecks pf0 st) ((plumbArrive 0 st pf0).run (here id)).2 (fun p => p == 0)
    ∧ Ends (pbarArrive 0 st pf0) (here id) (fun _ => true) :=
  ⟨of_gives (by decide +kernel), of_gives (by decide +kernel), ends_of (by decide +kernel), ends_of (by decide +kernel)
  , ends_of (by decide +kernel)⟩
theorem witness_PlumbNetwork_complete : let st := endChain (strand id)
    let s1 := ((plumbArrive 0 st pf0).run (here id)).2
    phaseComplete s1 0 0 (plumbTag pf0) (plumbLevel pf0) 0 = true
    ∧ Ends (capScope (s1.grid 0).fn (plumbScope (plumbLevel pf0)) 0) s1 (fun _ => true) :=
  ⟨by decide +kernel, ends_of (by decide +kernel)⟩
theorem witness_PlumbNetwork_before : let g := fun x : Strand => x.setS 2 0xFFFFFFFF false
    Ends (pwaitChecks (W (.reg 2) no no) (endChain (strand g))) ((plumbArrive 0 (endChain (strand g)) pf0).run (here g)).2
      (fun p => p == 0xFFFFFFFF && decide (1 < (BitVec.ofNat 32 1 - p).toNat)) := ends_of (by decide +kernel)

theorem witness_TrapInstructions : let st := endChain (strand id)
    let f := W no no no
    inFlight st [] (memRegs false [f.a]) = false ∧ uval (here id) st .i8 f.a = .ok 0 ∧ field (0 : Word) 16 16 = 0 :=
  ⟨by decide +kernel, of_gives (by decide +kernel), by decide⟩

theorem witness_TrapInstructions_tret : let g := fun x : Strand => { x with trapMode := true, tpc := 0x10004#64 }
    let st := strand g
    st.trapMode = true ∧ st.saveEntry = false ∧ Ends (tretChecks (endChain st)) (here g) (fun _ => true)
    ∧ { st with saveEntry := true }.saveEntry = true ∧ orderWaits (endChain { st with saveEntry := true }) (some 9) false = .ok () :=
  ⟨rfl, rfl, ends_of (by decide +kernel), rfl, rfl⟩

theorem witness_RegistersAndTable : let st := endChain (strand id)
    let f := W no no no
    uval (here id) st .i8 f.a = .ok 0 ∧ inFlight st [] (f.d.toNat :: memRegs false [f.a]) = false
    ∧ inFlight st [] (memRegs false [f.a]) = false ∧ (st.flight.all fun p => !p.2.vector) = true
    ∧ Ends (fnldChecks (W (.lit 4096) (.imm 0) no) 0 st) (here id) (fun _ => true)
    ∧ Ends (fnswapChecks f 0 st) (here id) (fun _ => true) :=
  ⟨of_gives (by decide +kernel), by decide +kernel, by decide +kernel, by decide +kernel, ends_of (by decide +kernel)
  , ends_of (by decide +kernel)⟩

/-- With 1 in s2, and 3 in s3. -/
def regs (x : Strand) : Strand := (x.setS 2 1 false).setS 3 3 false
theorem witness_MatrixItems : let st := endChain (strand regs)
    let f := W (.reg 2) no no
    (∀ acc : Bool, Ends (claimChecks f acc st) (here regs) (fun _ => true)
      ∧ Ends (releaseChecks f acc st) (here regs) (fun _ => true))
    ∧ Ends (fmtsetChecks (W (.reg 3) no no) st) (here regs) (fun _ => true)
    ∧ inFlight st [] (engRegs f true) = false ∧ uval (here regs) st .i8 f.a = .ok 1
    ∧ ∃ r, tstatRead (here regs) st 1 (f.f.getLsbD 4) = .ok r := by
  refine ⟨fun acc => ?_, ends_of (by decide +kernel), by decide +kernel, of_gives (by decide +kernel), of_good (by decide +kernel)⟩
  cases acc <;> exact ⟨ends_of (by decide +kernel), ends_of (by decide +kernel)⟩

/-- An operation on the array: `D` is an accumulator, or a slot. -/
def onArray (d : BitVec 6) (a b c : Spec) : Fields := { W a b c with d := d }
/-- With the FP32 number 1 in s2 and 16,384 in s3. -/
def regs2 (x : Strand) : Strand := (x.setS 2 0x3F800000 false).setS 3 16384 false

theorem witness_ArrayOperations : let st := endChain (strand id)
    (arrayQueue (here id) st.core).length < 16 ∧ inFlight st [] (sRegsOf (onArray 0x20 (.reg 0) (.reg 1) no).c) = false
    ∧ (∃ p, prepMma (here id) st (onArray 0x20 (.reg 0) (.reg 1) no) none = .ok p)
    ∧ (∃ p, prepMmas (here regs2) (endChain (strand regs2)) (onArray 0 (.reg 0x20) (.reg 0x21) (.reg 2)) none = .ok p)
    ∧ ∃ p, prepAzero (here id) st (onArray 0x20 no no no) = .ok p :=
  ⟨by decide, by decide +kernel, of_good (by decide +kernel), of_good (by decide +kernel), of_good (by decide +kernel)⟩

theorem witness_ArrayOperations_memory : let st := endChain (strand id)
    (∀ load : Bool, Ends (tileChecks { onArray 1 (.lit 256) (.lit 128) no with ty := .x } load st) (here id) (fun _ => true))
    ∧ Ends (ardChecks (onArray 0x20 no (.reg 3) no) (endChain (strand regs2))) (here regs2) (fun _ => true)
    ∧ (∀ load acc : Bool, Ends (imageChecks (onArray (if acc then 0x20 else 0) no no no) load acc st) (here id) (fun _ => true)) := by
  have h : ∀ load : Bool, runs (tileChecks { onArray 1 (.lit 256) (.lit 128) no with ty := .x } load (endChain (strand id)))
      (here id) = true := by decide +kernel
  have i : ∀ load acc : Bool, runs (imageChecks (onArray (if acc then 0x20 else 0) no no no) load acc (endChain (strand id)))
      (here id) = true := by decide +kernel
  exact ⟨fun l => ends_of (h l), ends_of (by decide +kernel), fun l a => ends_of (i l a)⟩

/-- A job card at the start of the scratchpad, from its bytes that are not 0. -/
def cardIn (cs : List (Nat × Nat)) (b : Block) : Block := { b with scratch := cs.map fun c => ⟨c.1, BitVec.ofNat 8 c.2⟩ }
/-- The machine where the strand's block has that card; parcel 0 is its function's. -/
def withCard (cs : List (Nat × Nat)) : State := { world id (cardIn cs) id with plat := [(0, PlatEntry.reset)] }
/-- A card of each kind that is well formed. -/
def cards : List (Nat × List (Nat × Nat)) :=
  [(0x80, [(8, 128), (14, 1), (0x11, 16), (0x18, 128), (0x1E, 2), (0x40, 1), (0x44, 128)])
  , (0x81, [(8, 128), (14, 1), (0x18, 128), (0x1E, 10), (0x40, 1), (0x44, 128), (0x60, 0xa1), (0x61, 0x80), (0x62, 0x20), (0x64, 0x2), (0x65, 0x7c), (0x66, 0x1), (0x69, 1)])
  , (0x82, [(8, 4), (14, 1), (0x11, 16), (0x18, 4), (0x1E, 2), (0x21, 32), (0x28, 64), (0x2E, 1), (0x40, 1), (0x44, 4)])
  , (0x83, [(8, 4), (14, 1), (0x11, 16), (0x18, 4), (0x1E, 1), (0x21, 32), (0x28, 64), (0x2E, 2), (0x40, 1), (0x44, 4)])
  , (0x84, [(0x4A, 1)])
  , (0x85, [(8, 2), (14, 1), (0x11, 16), (0x18, 4), (0x1E, 2), (0x40, 1), (0x42, 8), (0x44, 1), (0x48, 2)])
  , (0x86, [(8, 64), (14, 1), (0x11, 16), (0x18, 64), (0x1E, 2)])]
theorem witness_CardInstructions : ∀ p ∈ cards, Ends (cardChecks (W no no no) p.1 0 (endChain (strand id))) (withCard p.2) (fun _ => true) := by
  have h : ∀ p ∈ cards, runs (cardChecks (W no no no) p.1 0 (endChain (strand id))) (withCard p.2) = true := by decide +kernel
  exact fun p hp => ends_of (h p hp)

/-- The block has one handle in use, of a job that has completed. -/
def withHandle (b : Block) : Block := { b with handles := [(0, ⟨1, 5, some 1, 0⟩)] }
theorem witness_HandleInstructions : let g := fun x : Strand => x.setH 1 0x10000#32
    let st := endChain (strand g)
    let f := W no no no
    let s := world g withHandle id
    inFlight st [] (engRegs f true) = false ∧ inFlight st [] (engRegs f false) = false ∧ handleOf s st f = .ok 0x10000
    ∧ handleSeen (here g) st 0x10000 = none ∧ handleSeen s st 0x10000 = some ⟨1, 5, some 1, 0⟩
    ∧ inFlight st [] [resOf f] = false ∧ batchFull st (openBatches s st) = false ∧ Ends (awaitChecks f st) s (fun _ => true)
    ∧ ({ f with f := 1 } : Fields).f.getLsbD 0 = true ∧ uval s st .i8 ({ f with f := 1 } : Fields).a = .ok 0
    ∧ field (0 : Word) 6 10 = 0 :=
  ⟨by decide +kernel, by decide +kernel, of_gives (by decide +kernel), by decide +kernel, by decide +kernel, by decide +kernel
  , by decide +kernel, ends_of (by decide +kernel), by decide, of_gives (by decide +kernel), by decide⟩

/-- The names 1 and 1 in s2 and s3; and the strand has joined a bundle. -/
def asks (x : Strand) : Strand := { (x.setS 2 1 false).setS 3 1 false with answer := some 0x80000001 }
def inBundle (x : Strand) : Strand := { x with joined := true, bnd := 0x00100001#32, answer := some 0 }
/-- Pages that hold bundled data. -/
def bunPages (c : Core) : Core := { c with tlb := c.tlb.map fun e => { e with leaf := { e.leaf with bun := true } } }
/-- The machine where the strand may store for its bundle. -/
def mayBundle (st : BundleState) : State := { world inBundle id bunPages with bundles := [(bundleKey 0x00100001#32, homeBundle st)] }
theorem witness_BundleInstructions : let f := W (.reg 2) (.reg 3) no
    let st := endChain (strand asks)
    Ends (bopenChecks f st) (here asks) (fun _ => true) ∧ Ends (bjoinChecks f st) (here asks) (fun _ => true)
    ∧ st.answer = some 0x80000001
    ∧ (∀ vec : Bool, let sv := vectorStart (strand inBundle) (memVecs vec [mf.a, mf.b, mf.c])
      chainCheck sv ((memVecs vec [mf.a, mf.b, mf.c]).flatMap latchesOf) = .ok ()
      ∧ EndsIn (bundledChecks mf vec sv) (mayBundle .opened) (fun r t => !bundleDead t sv.bnd && bundleDev sv.bnd == t.dev
        && (admitLines t sv.bnd ((partLines r.1).map (homeOfLine t sv))).isSome)
      ∧ EndsIn (bundledChecks mf vec sv) (mayBundle (.aborted 0)) fun _ t => bundleDead t sv.bnd)
    ∧ Ends (bcloseChecks (endChain (strand inBundle))) (here inBundle) (fun _ => true)
    ∧ (strand inBundle).joined = true ∧ restartableBlock (here inBundle) (endChain (strand inBundle)) = false
    ∧ (strand fun x => { inBundle x with answer := none }).ask = 0
    ∧ bundleDead (mayBundle (.aborted 0)) (strand inBundle).bnd = true := by
  have h : ∀ vec : Bool, let sv := vectorStart (strand inBundle) (memVecs vec [mf.a, mf.b, mf.c])
      gives (chainCheck sv ((memVecs vec [mf.a, mf.b, mf.c]).flatMap latchesOf)) () = true
      ∧ runsTo (bundledChecks mf vec sv) (mayBundle .opened) (fun r t => !bundleDead t sv.bnd && bundleDev sv.bnd == t.dev
        && (admitLines t sv.bnd ((partLines r.1).map (homeOfLine t sv))).isSome) = true
      ∧ runsTo (bundledChecks mf vec sv) (mayBundle (.aborted 0)) (fun _ t => bundleDead t sv.bnd) = true := by decide +kernel
  exact ⟨ends_of (by decide +kernel), ends_of (by decide +kernel), rfl
  , fun v => ⟨of_gives (h v).1, endsIn_of (h v).2.1, endsIn_of (h v).2.2⟩, ends_of (by decide +kernel), rfl, rfl, rfl, by decide +kernel⟩
theorem witness_BundleInstructions_commit : let st := endChain (strand withBnd)
    restartableBlock (restartable .opened) st = true ∧ st.trapMode = false ∧ st.flight = [] ∧ st.unacked = []
    ∧ orderWaits st (some 2) false = .ok () :=
  ⟨rfl, rfl, rfl, rfl, rfl⟩

theorem witness_ViewsAndTrace : let st := endChain (strand id)
    let f := W (.lit 64) no no
    f.a.spec = .lit 64 ∧ inFlight st [] (f.d.toNat :: memRegs false [f.a]) = false
    ∧ uval (here id) st f.ty f.a = .ok 0x0000004000000040 :=
  ⟨rfl, by decide +kernel, of_gives (by decide +kernel)⟩

/-- The strand on a sill core, with 1 in s3: the mask that names BSU 0. -/
def onSill (x : Strand) : Strand := { x.setS 3 1 false with sill := true, core := 512 }
/-- The machine while it executes; its slices are its function's. -/
def sill : State := { world onSill id id with cores := [(512, core id)], plat := [(0, PlatEntry.reset)] }
/-- Row operands. -/
def rf (op : Nat) : Fields := { W no (.reg 3) no with f := if op = 0x602 ∨ op = 0x60A then 0 else 32 }
/-- The row instructions. -/
def rowOps : List Nat := rangeFrom 0x600 13
theorem witness_RowInstructions : let st := endChain (strand onSill)
    (∀ op ∈ rowOps, Ends (do let r ← rowChecks op (rf op) st; rowAccepts op st r; pure r) sill fun r => r.mask != 0)
    ∧ (∀ op ∈ rowOps, Ends (rowChecks op { rf op with b := ⟨no, false⟩ } st) sill fun r => r.mask == 0)
    ∧ inFlight st [] [1] = false ∧ st.rowsOut = [] ∧ Ends (rstatChecks (rf 0x600) st) sill (fun _ => true) := by
  have h : ∀ op ∈ rowOps, runs (do let r ← rowChecks op (rf op) (endChain (strand onSill)); rowAccepts op (endChain (strand onSill)) r; pure r) sill
      (fun r => r.mask != 0) = true := by decide +kernel
  have i : ∀ op ∈ rowOps, runs (rowChecks op { rf op with b := ⟨no, false⟩ } (endChain (strand onSill))) sill
      (fun r => r.mask == 0) = true := by decide +kernel
  exact ⟨fun op ho => ends_of (h op ho), fun op ho => ends_of (i op ho), by decide +kernel, rfl, ends_of (by decide +kernel)⟩

/-- The machine after reset with nothing waiting. -/
def quiet : State := { State.reset with queue := [] }
/-- A load of line 0 by strand 0, of core 0. -/
def req : MemReq := ⟨.strand 0, 7, 0, 0, 0, 0, 0, 0, false, 0, false, none, false, .load, 0, 0⟩
/-- Its answer. -/
def rep (r : MemReq) : Reply := ⟨r, 0, false, 0, some 0⟩
/-- A job. -/
def job (p : JobPhase) (w : JobWork) : Job := ⟨0x80, 0x10000, 0, 0, 0, 0, w, [], [], none, p, false, 0, 0, 0, [], [], .idle, [], none, 0⟩
/-- The strand waits. -/
def waits (w : Wait) (x : Strand) : Strand := { x with wait := w, sleepId := 9 }

theorem witness_StrandEvents : (rep req).req.agent = .strand 0 ∧ (rep req).req.op = .load
    ∧ (rep { req with op := .atomic 0 .i32 0 1 }).req.op ≠ .load
    ∧ (here (waits .sleep)).strand 0 = some (strand (waits .sleep)) ∧ (strand (waits .sleep)).ended = false
    ∧ (strand (waits .sleep)).sleepId = 9 ∧ (strand (waits .sleep)).wait = .sleep := by decide +kernel
theorem witness_StrandEvents_preempt :
    ((here id).strand 0 = some (strand id) ∧ (strand id).ended = false ∧ (strand id).asideMark = false
      ∧ (strand id).trapMode = false ∧ waitsBefore (here id) 0 (strand id) = false)
    ∧ (let st := strand (waits .barrier)
      (here (waits .barrier)).strand 0 = some st ∧ st.ended = false ∧ st.asideMark = false ∧ st.trapMode = false
      ∧ waitsBefore (here (waits .barrier)) 0 st = true ∧ st.wait ≠ .sleep) := by decide +kernel
theorem witness_StrandEvents_acks : (∃ x, ({ quiet with jobs := [(3, { job .running (.copy 1 64 64 64) with acks := 1 })] }).jobs.find 3 = some x ∧ x.acks = 1)
    ∧ ({ quiet with peerReqs := [(7, (2, 0, req))] }).peerReqs.find 7 = some (2, 0, req) :=
  ⟨⟨_, rfl, rfl⟩, rfl⟩
theorem witness_StrandEvents_table : let g := fun c : Core => { c with table := { c.table with writing := some 0 } }
    let s := world (waits .table) id g
    (s.core 0).table.writing = some 0
    ∧ ∃ st, (tableNext (s.updCore 0 fun c => { c with table := { c.table with writing := none } }) 0).strand 0 = some st
      ∧ st.ended = false := ⟨rfl, strand (waits .table), rfl, rfl⟩

/-- A home whose line 0 has such a directory entry. -/
def dirWith (g : DirLine → DirLine) : State := updDir homeWith0 0 0 g
/-- A home that works on line 0, and one whose line states of the set of line 0 are all taken by lines that cores hold. -/
def busyHome : State := { quiet with homes := [(0, { Home.empty with busy := [(0, ⟨1, .recalled, []⟩)] })] }
def fullHome : State := { quiet with homes := [(0, { Home.empty with l2 := { Home.empty.l2 with
  lines := (rangeFrom 1 8).flatMap fun i => (upto 8).map fun l => (8 * (i + 2048 * i) + l, { DirLine.new with owner := some 3 }) } })] }
/-- A request of a kind that its home may take up. -/
abbrev HomeFree (s : State) : Prop := switchHolds s 0 0 = false ∧ busyLine s 0 0 = false ∧ heldAt s 0 0 = none ∧ otherHolder s 0 0 = none
  ∧ hasRoom (makeRoom s 0 0) 0 0 = true ∧ needSnoop (makeRoom s 0 0) 0 = false
theorem witness_HomeEvents : busyLine busyHome 0 0 = true ∧ switchHolds busyHome 0 (reqBundle busyHome (.homeLoadFill req)) = false
    ∧ (busyLine fullHome 0 0 = false ∧ hasRoom (makeRoom fullHome 0 0) 0 0 = false)
    ∧ (let s := { quiet with homes := [(0, { Home.empty with busy := [(5, ⟨1, .recalled, [.homeLoadFill req]⟩)] })] }
      busyLine s 0 0 = false ∧ heldAt s 0 0 = some 5)
    ∧ (let l := 2 ^ 63
      let s := updDir quiet 3 l id
      busyLine s 0 l = false ∧ heldAt s 0 l = none ∧ otherHolder s 0 l = some 3)
    ∧ (let s := { quiet with hostBias := [0] }
      busyLine s 0 0 = false ∧ hasRoom (makeRoom s 0 0) 0 0 = true ∧ needSnoop (makeRoom s 0 0) 0 = true)
    ∧ (HomeFree quiet ∧ (dirOf (l2Fill quiet 0 0 false) 0 0).owner = none
      ∧ req.fill = 0 ∧ pendingHere quiet 0 = false ∧ hostBiased quiet 0 = false
      ∧ ((dirOf (l2Fill quiet 0 0 false) 0 0).holders quiet).isEmpty = true)
    ∧ (let s := dirWith fun d => { d with owner := some 3 }
      HomeFree s ∧ (dirOf (l2Fill (makeRoom s 0 0) 0 0 false) 0 0).owner = some 3 ∧ 3 ≠ req.core)
    ∧ (let s := dirWith fun d => { d with owner := some 0 }
      HomeFree s ∧ (dirOf (l2Fill (makeRoom s 0 0) 0 0 false) 0 0).owner = some req.core)
    ∧ busyLine (closeWindow quiet 0 0) 0 0 = false
    ∧ (let s := dirWith fun d => { d with bounce := 2 }
      HomeFree s ∧ busyLine (closeWindow s 0 0) 0 0 = false
      ∧ opAtomic (.atomic 0 .i32 0 1) = true ∧ 2 ≤ (dirOf (closeWindow s 0 0) 0 0).bounce)
    ∧ ((dirOf (closeWindow quiet 0 0) 0 0).bounce < 2
      ∧ pendingHere (closeWindow quiet 0 0) 0 = false ∧ hostBiased (closeWindow quiet 0 0) 0 = false)
    ∧ ((dirOf quiet 0 0).owner = none ∧ req.closing = false ∧ isDevice (0 * 128) = true) := by decide +kernel

/-- Core 0 holds line 0 in its L1. -/
def inL1 (c : Core) : Core := { c with l1 := { c.l1 with lines := [(0, ⟨.s, false⟩)] } }
/-- A combine window on line 0 is open. -/
def windowed : State := { quiet with homes := [(0, { Home.empty with windows := [(0, ⟨4, []⟩)] })] }
theorem witness_CopyEvents : ((recv (world id id inL1) ⟨1, 0, 0⟩ 0).core 0).l1.lines.find 0 = some ⟨.s, false⟩
    ∧ isPeer (0 * 128) = false ∧ isPeer (2 ^ 64 * 128) = true
    ∧ ((recv (world id id fun c => { c with l1 := { c.l1 with lines := [(2 ^ 64, ⟨.m, false⟩)] } }) ⟨1, 0, 0⟩ 0).core 0).l1.lines.find (2 ^ 64)
      = some ⟨.m, false⟩
    ∧ dirtyWords ((recv (world id id inL1) ⟨1, 0, 0⟩ 0).core 0).l1 0 = [] ∧ (0 : Nat) ≠ 1023
    ∧ (windowed.home 0).windows.find 0 = some ⟨4, []⟩ ∧ (quiet.core 0).l1.lines.find 0 = none
    ∧ writebackComes quiet 0 0 0 = false
    ∧ writebackComes { quiet with queue := [(0, .writebackArrival ⟨1, 0, 0⟩ 0 0 0 15 0 false true false)] } 0 0 0 = true
    ∧ homeKnows quiet 0 0 0 = true ∧ homeKnows quiet 0 2048 0 = false := by decide +kernel
theorem witness_CopyEvents_dirty : let s := world id id fun c =>
      { c with l1 := { c.l1 with lines := [(0, ⟨.m, true⟩)] } }
    ((recv s ⟨1, 0, 0⟩ 0).core 0).l1.lines.find 0 = some ⟨.m, true⟩ := by decide +kernel

/-- An array operation that clears accumulator 0, and an `mma`. -/
def arrayOp (p : ArrayPhase) (w : ArrayWork) : ArrayOp :=
  ⟨9, 0x20, 0, 0, 0, 0, 0, 1, 0, w, false, none, [], p, 0, 0, none, none, .idle, 0⟩
def arrayWork : ArrayWork := .mma ⟨⟨0, 3, 0, 0, 0, 0⟩, ⟨0, 3, 0, 0, 0, 0⟩, 0, 0, 0, 0, false⟩ 0 1 0 true
/-- A card of a collective for two. -/
def collCard (rank : Nat) : JobWork := .coll 0 0 .i32 1 2 rank 7
/-- A row operation on BSU 0. -/
def rowOp (op : Nat) : RowOp :=
  ⟨op, 0, 0, 0, 512, 512, 0, 1, 1, .i32, false, 0, 0, 0, [], 0, false, 0, .idle, []⟩

/-- A job that runs strands on sill cores. -/
def sillJob : JobWork := .sill 0 0 1 0 [] (Vector.replicate 8 0)
theorem witness_EngineEvents : (let s := { quiet with arrayOps := [(3, arrayOp .queued (.azero 0))] }
      s.arrayOps.find 3 = some (arrayOp .queued (.azero 0)) ∧ arrayBusy s 0 = false
      ∧ nextArray s 0 0 false (arrayQueue s 0) = some 3)
    ∧ ((arrayOp .running (.azero 0)).phase = .running ∧ (arrayOp .running (.azero 0)).port.waiting = false
      ∧ (arrayOp .parked (.azero 0)).phase = .parked ∧ (arrayOp .running (.azero 0)).acks = 0
      ∧ { arrayOp .running (.azero 0) with acks := 1 }.acks ≠ 0)
    ∧ ((arrayOp (.assist 0) arrayWork).phase = .assist 0 ∧ (arrayOp (.assist 0) arrayWork).work = arrayWork)
    ∧ (let x := job .waiting (.copy 1 64 64 64)
      let s := { quiet with jobs := [(3, x)] }
      s.jobs.find 3 = some x ∧ x.phase = .waiting ∧ x.edges.all (opDone s) = true)
    ∧ (let x := job .waiting sillJob
      (startSill { quiet with jobs := [(3, x)] } 3 x).isSome = true ∧ x.sill.all (sillGone quiet) = true ∧ x.acks = 0)
    ∧ (job (.ended 1 0) (.copy 1 64 64 64)).phase = .ended 1 0
    ∧ ((job (.ended 1 0) (.code [])).phase = .ended 1 0 ∧ (job (.ended 1 0) (.code [])).work = .code [])
    ∧ (let s := { quiet with jobs := [(3, job .landed (collCard 0)), (4, job .landed (collCard 1))] }
      let cards := [(3, job .landed (collCard 0)), (4, job .landed (collCard 1))]
      collJobs s 0 7 = cards ∧ collAgree cards (job .landed (collCard 0)) [] = true
      ∧ ((collRanks cards []).foldl addNew []).length = (collRanks cards []).length
      ∧ (collKey (collCard 0)).2.2.2.2 ≤ (collRanks cards []).length)
    ∧ (let s := { quiet with jobs := [(3, job .landed (collCard 0))] }
      collJobs s 0 7 = [(3, job .landed (collCard 0))]
      ∧ (collRanks [(3, job .landed (collCard 0))] []).length < (collKey (collCard 0)).2.2.2.2)
    ∧ (let cards := [(3, job .landed (collCard 0)), (4, job .landed (collCard 0))]
      collJobs { quiet with jobs := cards } 0 7 = cards
      ∧ ((collRanks cards []).foldl addNew []).length ≠ (collRanks cards []).length)
    ∧ (∀ op ∈ rowOps, let s := { quiet with rowOps := [(3, rowOp op)] }
      s.rowOps.find 3 = some (rowOp op) ∧ bsuHead s 0 0 = some 3 ∧ (rowOp op).port.waiting = false) := by decide +kernel

/-- A bundle that is open, for two joiners. -/
def openBundle : Bundle := ⟨0x80000001#32, 1, 0, none, 2, 0, 0, 0, .opened, 0, 0, [], [], [], [], [], false⟩
/-- The machine that keeps its record, under the name that its record has; the strand waits for an answer. -/
def bundled : State := { here (fun x => { x with ask := 5 }) with bundles := [(bundleKey 0x80000001#32, openBundle)] }
theorem witness_NameEvents : let s := recv bundled ⟨1, 0, 0⟩ 0
    awaits s ⟨1, 0, 5, true⟩ = true ∧ nameFind s 0 1 = none
    ∧ (let s2 := { s with names := [(0, 1, 0x80000001#32)] }
      nameFind s2 0 1 = some 0x80000001#32)
    ∧ canJoin s 0x80000001#32 = true ∧ findBundle s 0x80000001#32 = some openBundle
    ∧ openBundle.st = .opened ∧ isOpen s 0x80000001#32 = true ∧ isOpen s 0x80000002#32 = false
    ∧ findBundle s 0x80000002#32 = none
    ∧ (admitLines s 0x80000001#32 [(1, 0)]).isSome = true
    ∧ (let t := { s with bundles := [(bundleKey 0x80000001#32, { openBundle with lines := number 0 (List.replicate 4096 0) })] }
      (admitLines t 0x80000001#32 [(4096, 0)]).isSome = false)
    ∧ (let b := { openBundle with joins := 2 }
      let t := { s with bundles := [(bundleKey 0x80000001#32, b)] }
      findBundle t 0x80000001#32 = some b ∧ canJoin t 0x80000001#32 = false) := by decide +kernel

/-- Line 0 has a pending version of that bundle, or another second version. -/
def secondVersion (v : Version) : State := { bundled with versions := [(0, ⟨0, some v⟩)] }
def pendingLine : State := secondVersion (.pending 0 0 false 0x80000001#32 1 1)
/-- Home 0 may take up an install for line 0. -/
abbrev MayInstall (s : State) : Prop := bundleDead s 0x80000001#32 = false ∧ busyLine s 0 0 = false ∧ s.rejoined = []
  ∧ switchHolds s 0 0x80000001#32 = false ∧ hasRoom (makeRoom s 0 0) 0 0 = true
theorem witness_VersionEvents : (let s := recv bundled ⟨1, 0, 0⟩ 0
      MayInstall s ∧ (versionsOf (makeRoom s 0 0) 0).second = none ∧ descriptors (makeRoom s 0 0) (homeFor 0) < 65535)
    ∧ (let s := recv pendingLine ⟨1, 0, 0⟩ 0
      MayInstall s ∧ (versionsOf (makeRoom s 0 0) 0).second = some (.pending 0 0 false 0x80000001#32 1 1))
    ∧ (let s := recv (secondVersion (.pending 0 0 false 0x80000002#32 1 1)) ⟨1, 0, 0⟩ 0
      MayInstall s ∧ (versionsOf (makeRoom s 0 0) 0).second = some (.pending 0 0 false 0x80000002#32 1 1) ∧ 0x80000002#32 ≠ 0x80000001#32)
    ∧ (let s := recv (secondVersion (.previous 0 false 1 1)) ⟨1, 0, 0⟩ 0
      MayInstall s ∧ (versionsOf (makeRoom s 0 0) 0).second = some (.previous 0 false 1 1))
    ∧ bundleDead (recv quiet ⟨1, 0, 0⟩ 0) 0x00100001#32 = true ∧ ([] : List (BitVec 32)).contains 0x00100001#32 = false
    ∧ (0 : Nat) ≠ noLine
    ∧ (let s := { bundled with rejoined := [(0, 1#32)] }
      bundleDead s 0x80000001#32 = false ∧ s.rejoined ≠ [])
    ∧ (let s := { fullHome with bundles := bundled.bundles }
      bundleDead s 0x80000001#32 = false ∧ busyLine s 0 0 = false ∧ hasRoom (makeRoom s 0 0) 0 0 = false)
    ∧ (126 : Nat) ≠ 127 ∧ (0 : Nat) ≠ 126 ∧ (0 : Nat) ≠ 127 := by decide +kernel
theorem witness_VersionEvents_switch : ∃ s, switchHolds s 0 0x80000001#32 = true ∧ switchHolds s 0 0 = true ∧ s.rejoined = []
    ∧ busyLine s 0 0 = false := by
  refine ⟨{ quiet with move := some ⟨5, 0, [], [⟨0, 0, 0, 0⟩], [], .switch⟩ }, ?_, ?_, rfl, ?_⟩ <;> decide +kernel

/-- A packet of a type, by its fields: offset and value. -/
def packetOf (kind : Nat) (fs : List (Nat × Nat)) : Grid :=
  { Grid.absent with kind := kind, body := fs.foldl (fun a p => a + p.2 * 2 ^ (8 * p.1)) kind }
/-- The machine with that packet, under the name 5. -/
def withPacket (x : Grid) : State := { quiet with grids := [(5, x)] }
/-- It has been taken and is not over. -/
abbrev Taken (s : State) (x : Grid) : Prop := s.grids.find 5 = some x ∧ x.isOver = false ∧ x.ended = none ∧ x.result = none

/-- Function 1 holds parcel 0; its tables map the GPA page 0 to the device page 5; its ring takes fault records. -/
def partition : State :=
  { quiet with
    fns := [(1, { Fn.reset false with s2root := 0x8000, frEn := true, hdmSize := 65536, domain := 3, naqi := 1 })]
    plat := [(0, { PlatEntry.reset with state := .assigned, owner := 1 })]
    mem := [⟨0x8000, 1⟩, ⟨0x8002, 1⟩, ⟨0x10000, 1⟩, ⟨0x10001, 0x80⟩, ⟨0x10002, 1⟩, ⟨0x18000, 0x0F⟩, ⟨0x18002, 5⟩] }

/-- A fault that function 1 has staged. -/
def staged : FaultEntry := ⟨1, 0, 0, 0, 1, 0, 0, 0, 1⟩
theorem witness_FaultEvents :
    ((({ partition with clusters := [(0, { Cluster.reset with staged := [staged] })] }).cluster 0).staged.find?
      (fun y => faultRingOpen partition y.fn) = some staged)
    ∧ (quiet.fn 1).frTimer = 0
    ∧ (let s := { quiet with atsPending := [(2, 3, 1, 0)] }
      s.atsPending.find? (fun p => p.1 == 2 && p.2.1 == 3 && p.2.2.1 == 1) = some (2, 3, 1, 0)
      ∧ performedBefore s (fun _ => true) 0 = true)
    ∧ (let x := packetOf 0x43 [(3, 1), (0x10, 1)]
      Taken (withPacket x) x ∧ x.step = 0 ∧ invalidateOk x = true)
    ∧ (let x := { packetOf 0x43 [(3, 1), (0x10, 1)] with step := 1 }
      Taken (withPacket x) x ∧ x.step ≠ 0 ∧ performedBefore (withPacket x) (· == x.at_ 3 1) (x.work.headD 0) = true)
    ∧ (let x := packetOf 0x44 [(2, 1), (3, 1)]
      Taken (withPacket x) x ∧ replayOk x = true)
    ∧ (let s := { partition with fns := [(1, { Fn.reset false with s1done := false })] }
      (s.fn 1).s1done = false ∧ performedBefore s (· == 1) (s.fn 1).s1mark = true) := by decide +kernel

theorem witness_UnitErrors : (quiet.home 0).busy = [] ∧ quiet.queue = [] ∧ copiesElsewhere quiet 0 [] = []
    ∧ copiesElsewhere (dirWith fun d => { d with owner := some 9 }) 0 [] ≠ [] := by decide +kernel

/-- Every line of page 0 has answered a flip. -/
def answered : State := { quiet with
  flips := [(0, [⟨true, [0], none, none⟩])]
  homes := [(0, { Home.empty with busy := (upto 32).map fun l => (l, ⟨1, .recalled, []⟩) })] }
/-- A trace ring at the start of window 0. -/
def aRing : Ring :=
  { pasid := 0, win := 0, off := 0, logN := 8, wr := 0, drops := 0, stallNs := 0, rd := 0, todo := [], lost := [], stalled := [], shown := (0, 0) }
theorem witness_TraceAndBias :
    (let x := packetOf 7 [(2, 1)];
      Taken (withPacket x) x ∧ x.step = 0 ∧ traceOk x = true)
    ∧ (let x := { packetOf 7 [(2, 1)] with step := 2, work := [0] }
      Taken (withPacket x) x ∧ x.step ≠ 0 ∧ x.port.waiting = false ∧ writtenUpTo (withPacket x) x.fn 0 = true ∧ x.at_ 2 1 % 2 = 1)
    ∧ (quiet.fn 1).ring = none
    ∧ (({ quiet with fns := [(1, { Fn.reset false with ring := some aRing })] }).fn 1).ring = some aRing
    ∧ (let x := { packetOf 6 [(0xC, 1)] with step := 2, work := [3] }
      Taken (withPacket x) x ∧ x.step = 2 ∧ x.work = [3] ∧ ((withPacket x).flips.any fun q => q.2.any fun g => g.packet == some 5) = false)
    ∧ (let x := packetOf 6 [(0xC, 1)]
      Taken (withPacket x) x ∧ x.step = 0 ∧ biasOk x = true ∧ x.at_ 0x18 8 + 4096 * x.at_ 0xC 4 ≤ 2 ^ 64)
    ∧ (let s := { quiet with flips := [(0, [⟨true, [], none, none⟩])] }
      headFlip s 0 = some ⟨true, [], none, none⟩)
    ∧ (headFlip answered 0 = some ⟨true, [0], none, none⟩ ∧ flipAnswered answered 0 = true)
    ∧ busyLine answered (homeFor 0) 0 = true ∧ (answered.flips.find (0 / 32)).isSome = true
    ∧ busyLine busyHome (homeFor 0) 0 = true ∧ (busyHome.flips.find (0 / 32)).isSome = false := by decide +kernel

/-- A launch of one block by function 1. -/
def launched : Grid := { Grid.absent with fn := 1 }
/-- The partition with that launch, whose AQI may bind 64 strands. -/
def ready : State := { partition with
  grids := [(2, launched)], aqis := [(64, { Aqi.reset with deficit := 64 })]
  clusters := [(0, { Cluster.reset with idle := false })] }
theorem rotate_one (c n : Nat) : rotate [c] n = [c] := by simp [rotate, Nat.mod_one]
theorem witness_SchedulerEvents_bind : let t := tidyFn (tidyTables ready) 1
    (t.fn 1).err = false
    ∧ (topLevel t 1).find? (fun p => p.2.aqi == turnFrom (topLevel t 1) (t.fn 1).turn) = some (2, launched)
    ∧ (∃ ps, (findPlace t 2 (nextBlocks t 2)).1 = some ps)
    ∧ launched.strands ≤ (t.aqi 1 (turnFrom (topLevel t 1) (t.fn 1).turn)).deficit := by
  refine ⟨by decide +kernel, by decide +kernel, ?_, by decide +kernel⟩
  have h : clusterOrder (tidyFn (tidyTables ready) 1) 2 [⟨0, none, false⟩] = ([0], (tidyFn (tidyTables ready) 1).draw.2) := by
    simp only [clusterOrder, show openClusters (tidyFn (tidyTables ready) 1) 2 = [0] by decide +kernel, rotate_one]
  have g : placeBlocks ((tidyFn (tidyTables ready) 1).grid 2)
      (fun c => min (16 - (bindsBefore (tidyFn (tidyTables ready) 1) (effPrio ((tidyFn (tidyTables ready) 1).grid 2)) c).length)
        ((bindRoom (tidyFn (tidyTables ready) 1) (effPrio ((tidyFn (tidyTables ready) 1).grid 2)) c).holds
          (needOf ((tidyFn (tidyTables ready) 1).grid 2) false))) [0] [⟨0, none, false⟩] = some [(0, ⟨0, none, false⟩)] := by
    decide +kernel
  refine ⟨[(0, ⟨0, none, false⟩)], ?_⟩
  rw [show nextBlocks (tidyFn (tidyTables ready) 1) 2 = [⟨0, none, false⟩] by decide +kernel]
  have q : ((tidyFn (tidyTables ready) 1).grid 2).cooperative = false := by decide +kernel
  simp only [findPlace, h, List.any_cons, List.any_nil, Bool.or_false, q, Bool.false_eq_true, if_false, g]

/-- The launch's block has been bound to core 0. -/
def bound : State := { ready with slotTables := [(0, [⟨2, 0, 0, 0, none⟩])] }
theorem witness_SchedulerEvents :
    (ready.grids.find 2 = some launched ∧ launched.live = true)
    ∧ (let g := { launched with waiting := some 0 }
      ({ ready with grids := [(2, g)] }).grids.find 2 = some g ∧ g.live = true ∧ g.waiting ≠ none ∧ (ready.fn g.fn).err = false)
    ∧ (let t := tidyTables bound
      bindsOf t 0 = [⟨2, 0, 0, 0, none⟩] ∧ groupHeads t ⟨2, 0, 0, 0, none⟩ = true ∧ groupAsleep t ⟨2, 0, 0, 0, none⟩ = []
      ∧ (admitAll t (groupMembers t ⟨2, 0, 0, 0, none⟩)).isSome = true)
    ∧ (let b := block fun b => { b with phase := .leaving }
      let s := world id (fun b => { b with phase := .leaving }) id
      s.blocks.find 0 = some b ∧ b.phase = .leaving)
    ∧ (block id).phase = .resident
    ∧ (let g := { launched with retired := 1 }
      let s := { ready with grids := [(2, g)] }
      s.grids.find 2 = some g ∧ g.isOver = false ∧ g.port.waiting = false ∧ g.ended = none ∧ outcomeOf s g = some (1, 0))
    ∧ (let g := { launched with ended := some 0, result := some (1, 0) }
      g.isOver = false ∧ g.port.waiting = false ∧ g.ended ≠ none)
    ∧ (let s := { ready with datum := msToDatum 1 }
      clusterBusy s 0 = false ∧ (s.cluster 0).idle = false ∧ (s.cluster 0).quiet + msToDatum 1 ≤ s.datum)
    ∧ ({ quiet with wakes := [3] }).wakes = [3] := by decide +kernel

theorem witness_ModuleEvents : quiet.everLocked = false ∧ ({ quiet with everLocked := true }).everLocked = true
    ∧ (1 ≤ 64 ∧ 64 ≤ 64) ∧ ({ quiet with pfQueue := [0] }).pfQueue.head? = some 0 ∧ quiet.pfQueue.head? ≠ some 0 := by decide

/-- The machine with a packet at the head of the PF's order, and parcel 3 free. -/
def pfTurn (x : Grid) : State := { withPacket x with
  pfQueue := [5], plat := partition.plat ++ [(3, { PlatEntry.reset with state := .free })], fns := partition.fns }
/-- A move of no pages, at a stage. -/
def move (p : MovePhase) : Move := ⟨5, 1, [], [], [], p⟩
theorem witness_ParcelEvents :
    (let x := packetOf 0x40 [(3, 2), (8, 8), (0x10, 0x8000)];
      Taken (pfTurn x) x ∧ x.step = 0 ∧ (pfTurn x).pfQueue.head? = some 5 ∧ createFails (pfTurn x) x = none)
    ∧ (let x := { packetOf 0x40 [(3, 2), (8, 8), (0x10, 0x8000)] with step := 3 }
      Taken (pfTurn x) x ∧ x.step = 3)
    ∧ (let x := packetOf 0x40 [(1, 1), (3, 1)]
      Taken (pfTurn x) x ∧ destroyFails (pfTurn x) x = none)
    ∧ (let x := packetOf 0x41 [(3, 1), (8, 8)]
      Taken (pfTurn x) x ∧ (remapList (pfTurn x) x).2 = false)
    ∧ (let x := packetOf 0x45 [(3, 1)]
      Taken (pfTurn x) x ∧ meterOk x = true)
    ∧ (let s := { quiet with move := some (move .drain) }
      s.move = some (move .drain) ∧ (move .drain).packet = 5 ∧ drainedParcels s (move .drain).remove = true)
    ∧ (move (.copy 1 [])).phase = .copy 1 []
    ∧ (let s := { quiet with move := some (move .switch) }
      moveBusy s (move .switch) = false ∧ remoteMoved s (move .switch) = [])
    ∧ ({ quiet with rekey := [4] }).rekey.contains 4 = true
    ∧ ((quiet.platOf 4).owner = 0 ∧ quiet.rekey.contains 4 = false ∧ (quiet.platOf 4).state = .erasing) := by decide +kernel
theorem witness_ParcelEvents_move : let x := packetOf 0x41 [(3, 1), (8, 8)]
    ∃ ps, moveCheck (chargeFar (pfTurn x) pf 4 hostBase (16 * x.at_ 0x20 4) false) x (remapList (pfTurn x) x).1 = .ok ps := by
  refine ⟨[], ?_⟩
  have none0 (n : Nat) : bitOf 0 n = false := by simp [bitOf]
  have rm : (packetOf 0x41 [(3, 1), (8, 8)]).at_ 0x10 8 = 0 := by decide +kernel
  have l : (remapList (pfTurn (packetOf 0x41 [(3, 1), (8, 8)])) (packetOf 0x41 [(3, 1), (8, 8)])).1 = [] := by decide +kernel
  simp only [l, moveCheck, rm, none0, Bool.false_and]
  rw [if_neg (by decide +kernel), if_neg (by decide +kernel), if_neg (by decide +kernel), if_neg (by decide +kernel)]
  simp [resolvePages]

theorem witness_PeerEvents : (let r := hdmXlate partition 0 false
      r.1 = some 0x50000 ∧ busyLine r.2 (homeFor (0x50000 / 128)) (0x50000 / 128) = false
      ∧ (dirOf r.2 (homeFor (0x50000 / 128)) (0x50000 / 128)).owner = none)
    ∧ (let s := updDir partition (homeFor (0x50000 / 128)) (0x50000 / 128) fun d => { d with owner := some 3 }
      let r := hdmXlate s 0 false
      r.1 = some 0x50000 ∧ (dirOf r.2 (homeFor (0x50000 / 128)) (0x50000 / 128)).owner = some 3)
    ∧ (hdmXlate quiet 0 false).1 = none
    ∧ (hdmXlate partition (128 * (5 / 128)) true).1 = some 0x50000
    ∧ (busyLine quiet (homeAt quiet 0) 0 = false ∧ (dirOf quiet (homeAt quiet 0) 0).owner = none
      ∧ (let s := dirWith fun d => { d with owner := some 3 }
        busyLine s (homeAt s 0) 0 = false ∧ (dirOf s (homeAt s 0) 0).owner = some 3))
    ∧ (let r : MemReq := { req with op := .store [] false }
      let s := recv partition ⟨2, 8, 0⟩ 8
      olderIncarn r.incarn (s.peerIncarn.getD (64 * 2 + clusterOf r.core) 0) = false
      ∧ (peerXlate s 2 3 (localOf (r.line * 128)) true false (.access r)).1 = some (some 0x50000)
      ∧ (peerXlate s 2 4 (localOf (r.line * 128)) true false (.access r)).1 = some none
      ∧ (peerXlate s 2 3 (localOf (0 * 65536)) true false (.page 0 0 true)).1 = some (some 0x50000)
      ∧ clusterOf r.core < 64 ∧ olderIncarn 0 1 = true)
    ∧ (let s := recv { quiet with peerAsked := [(2, .access req)] } ⟨2, 8, 0⟩ 8
      s.peerAsked.find? (fun p => p.1 == 2 && answersAsk (.ack req) p.2) = some (2, .access req)) := by decide +kernel

theorem witness_SecureEvents : ((0xFF : Nat) % 256 = 0xFF ∧ (0x20 : Nat) % 256 ≠ 0 ∧ (measurements quiet 1).filter (fun m => m.1 = 0x20) = [])
    ∧ (∀ x ∈ [Spdm.version, .capabilities, .algorithms, .handshake],
      (({ quiet with fns := [(1, { Fn.reset false with spdm := x })] }).fn 1).spdm = x)
    ∧ (({ quiet with fns := [(1, { Fn.reset false with session := 1 })] }).fn 1).session ≠ 0
    ∧ boundSession { Fn.reset false with session := 1, lockedBy := 1 } = true ∧ isInterface 1 = true ∧ isInterface 0 = false
    ∧ (∀ x ∈ [Tdisp.unlocked, .locked], (({ quiet with fns := [(1, { Fn.reset false with tdisp := x })] }).fn 1).tdisp = x)
    ∧ (⟨1, 0x41, 0, 0, 1, 0⟩ : Amendment).aseq = (quiet.fn 1).amendments + 1 := by decide

/-- AQI 0 of function 1 is in use, with one packet in its ring. -/
def aqiInUse : State := { partition with aqis := [(64, { Aqi.reset with valid := true, en := true, tail := 1 })] }
/-- The hub's TLB holds pages 0 to 3 of function 0. -/
def hubPages (s : State) : State := { s with clusters := [(256, { Cluster.reset with tlb := (upto 4).map leaf })] }
theorem witness_PacketEvents :
    (notifyOk aqiInUse 1 0 = true ∧ tailOk (aqiInUse.aqi 1 0) 1 = true ∧ tailOk (aqiInUse.aqi 1 0) 64 = true)
    ∧ (let s := { partition with aqis := [(64, { Aqi.reset with valid := true })] }
      (s.aqi 1 0).en = false ∧ (s.aqi 1 0).valid = true ∧ aqiExists s 1 0 = true)
    ∧ ((aqiInUse.aqi 1 0).en = true ∧ (aqiInUse.aqi 1 0).paused = false ∧ (aqiInUse.aqi 1 0).head ≠ (aqiInUse.aqi 1 0).tail
      ∧ (aqiInUse.aqi 1 0).hold = .none ∧ meterOpen ((fillBucket aqiInUse 1).fn 1) = true)
    ∧ (let x := packetOf 1 [(0x18, 256)]
      Taken (withPacket x) x ∧ x.port.waiting = false ∧ x.step = 0 ∧ launchFields x = true)
    ∧ (let x := packetOf 2 [(0xC, 64), (0x18, 256), (0x28, 512)]
      Taken (withPacket x) x ∧ copyOk x = true ∧ x.at_ 0x18 8 + x.at_ 0xC 4 ≤ 2 ^ 64 ∧ x.at_ 0x28 8 + x.at_ 0xC 4 ≤ 2 ^ 64)
    ∧ (let x := { packetOf 3 [(2, 1), (0x18, 256)] with fn := 1 }
      Taken (withPacket x) x ∧ nblaunchOk { withPacket x with plat := partition.plat } x = true)
    ∧ signalOk (packetOf 4 [(0x18, 256)]) = true ∧ waitOk (packetOf 5 [(0x18, 256)]) = true
    ∧ (let x := packetOf 8 []
      x.limitsOk [] = true ∧ earlierOpen (startPacket (withPacket x) 5 true) 5 x = false) := by decide +kernel

/-- Whether what the hub does ends in its present turn, with a result of a kind. -/
def done {α : Type} (r : EDone α × State) (q : α → Bool) : Bool := match r.1 with | .done a => q a | _ => false
/-- It does. -/
def Done {α : Type} (r : EDone α × State) (q : α → Bool) : Prop := ∃ a t, r = (.done a, t) ∧ q a = true
theorem done_of {α : Type} {r : EDone α × State} {q : α → Bool} (h : done r q = true) : Done r q := by
  obtain ⟨r, t⟩ := r
  cases r with
  | done a => exact ⟨a, t, rfl, h⟩
  | fault c o => cases h
  | later => cases h
theorem witness_PacketEvents_memory :
    (let x := packetOf 1 [(0x18, 256)];
      let s := hubPages (withPacket x)
      Done (engRun (hubEng s 5) (.launch 5) (holdAqi 5) (engRead (hubEng s 5) (x.at_ 8 2) (x.at_ 0x18 8) 128) s) fun d => !d.2)
    ∧ (let x := packetOf 4 [(0x18, 256)]
      let s := startPacket (hubPages (withPacket x)) 5 false
      Done (engRun (hubEng s 5) (.signalPacket 5) (fun _ => holdPacket 5)
        (engPages (hubEng s 5) true (x.at_ 8 2) (x.at_ 0x18 8) 8) s) fun _ => true)
    ∧ (let x := packetOf 5 [(0x18, 256)]
      let s := startPacket (hubPages (withPacket x)) 5 true
      Done (engRun (hubEng s 5) (.waitPacket 5) (fun _ => holdPacket 5)
        (engRead (hubEng s 5) (x.at_ 8 2) (x.at_ 0x18 8) 8) s) fun d => waitMet x (ofBytes d.1)) :=
  ⟨done_of (by decide +kernel), done_of (by decide +kernel), done_of (by decide +kernel)⟩

theorem witness_TraceAndBias_memory :
    (let x := { packetOf 7 [(0xC, 8), (0x18, 4096)] with step := 2, work := [0] };
      Ends (engWrite (hubEng (hubPages (withPacket x)) 5) (x.at_ 8 2) (x.at_ 0x18 8) (List.replicate 128 0) fun _ => false)
        (hubPages (withPacket x)) fun _ => x.at_ 2 1 % 2 == 0 && x.step != 0)
    ∧ (let x := { packetOf 6 [(0xC, 1)] with step := 1 }
      let s := { hubPages (withPacket x) with fns := [(0, { Fn.reset false with hdmSize := 65536 })] }
      (biasPages (hubEng s 5).who (x.at_ 8 2) [0] s).1 = some [0] ∧ (biasPages (hubEng s 5).who (x.at_ 8 2) [0] s).2.1 = none) :=
  ⟨ends_of (by decide +kernel), by decide +kernel, by decide +kernel⟩

theorem witness_RegisterEvents : isLocked quiet 1 = false ∧ (2 ≤ (9#32).toNat % 16 ∧ (9#32).toNat % 16 ≤ 9) ∧ 63 < 64
    ∧ ((64#32).toNat % 128 ≤ 64
      ∧ (partition.fns.filter fun p => p.1 != 2).foldl (fun t p => t + p.2.naqi) 0 + (64#32).toNat % 128 ≤ 1024)
    ∧ ({ quiet with ready := true }).ready = true ∧ quiet.ready = false := by decide +kernel
end Sys2Proof.Tests
end

