-- ==== Sys2Proof/Tests/Slice0.lean ====
section
/-!
SUPPORT. Tests: words written out from the encodings of R15 to R19 with what they decode to, ill-formed terms that the checks refuse,
and single steps whose results the spec states.
-/
set_option Elab.async false
namespace Sys2Proof.Tests
open Sys2Proof Sys2Proof.Machine

/-- R16, R32: `sub.i64 s5, s6, #-1`, SAT. -/
theorem test_decode_uniform_sub : decodeTableWord 64 0x43144FE060500A1 = some (.sub { nx := .next, nw := false, d := 5, a := ⟨.reg 6, false⟩, b := ⟨.imm 31, false⟩, c := ⟨.special 1, false⟩, ty := .i64, m := 0, f := 1 }) := by decide +kernel
/-- R29: `cmp.lt.n32 s1, s2, #literal` with an operand literal (R17). -/
theorem test_decode_uniform_cmp : decodeTableWord 96 0x186A0012944BE02810342 = some (.cmp { nx := .next, nw := false, d := 1, a := ⟨.reg 2, false⟩, b := ⟨.lit 0x186A0, false⟩, c := ⟨.special 1, false⟩, ty := .n32, m := 2, f := 0 }) := by decide +kernel
/-- R17, R26: `emand s3 ->ez L`: a target 6 parcels back. -/
theorem test_decode_uniform_brz : decodeTableWord 96 0xFFFFFFFA000144A2030003BA = some (.emand { nx := .brz 0xFFFFFFFA, nw := false, d := 0, a := ⟨.reg 3, false⟩, b := ⟨.special 1, false⟩, c := ⟨.special 1, false⟩, ty := .i8, m := 0, f := 0 }) := by decide +kernel
/-- R28, R30: `vfma.rtz.bf v7, v1, b2, s9`, the first source read for the last time, END. -/
theorem test_decode_vector_vfma : decodeTableWord 64 0x14A24830107242D = some (.vfma { nx := .endStrand, nw := false, d := 7, a := ⟨.reg 1, true⟩, b := ⟨.latch 1, false⟩, c := ⟨.bcast 9, false⟩, ty := .bf, m := 2, f := 0 }) := by decide +kernel
/-- R28: `vcvt.f.i16 v3, v4`: part 1, the source type in C. -/
theorem test_decode_vector_vcvt : decodeTableWord 64 0x5008C204032361 = some (.vcvt { nx := .next, nw := false, d := 3, a := ⟨.reg 4, false⟩, b := ⟨.imm 1, false⟩, c := ⟨.reg 2, false⟩, ty := .f, m := 0, f := 0 }) := by decide +kernel
/-- R24: `vand.b` with NW. -/
theorem test_decode_vector_nw : decodeTableWord 64 0x694404014021A1 = some (.vand { nx := .next, nw := true, d := 0, a := ⟨.reg 1, false⟩, b := ⟨.reg 2, false⟩, c := ⟨.special 1, false⟩, ty := .b, m := 0, f := 0 }) := by decide +kernel
/-- R31: `ld.b v4, win2:[v5 + 16]`, acquire at cluster scope, extent hint 1. -/
theorem test_decode_memory_ld : decodeTableWord 96 0x1025680CBE05846002 = some (.ld { nx := .next, nw := false, d := 4, a := ⟨.reg 5, false⟩, b := ⟨.lit 0x10, false⟩, c := ⟨.reg 3, false⟩, ty := .b, m := 2, f := 9 }) := by decide +kernel
/-- R31: `ust.i32 win1:[s5], s6`, release: the scope stands in D. -/
theorem test_decode_memory_ust : decodeTableWord 64 0x40A018A2050460A1 = some (.ust { nx := .next, nw := false, d := 4, a := ⟨.reg 5, false⟩, b := ⟨.special 1, false⟩, c := ⟨.reg 6, false⟩, ty := .i32, m := 1, f := 16 }) := by decide +kernel
/-- R31: `atom.max.i32 v4, [v5], v6` at system scope: the operation stands in C. -/
theorem test_decode_memory_atom : decodeTableWord 64 0x20A40C05046141 = some (.atom { nx := .next, nw := false, d := 4, a := ⟨.reg 5, false⟩, b := ⟨.reg 6, false⟩, c := ⟨.reg 41, false⟩, ty := .i32, m := 0, f := 0 }) := by decide +kernel
/-- R28: `mma acc1, ts2, ts3` with its format block at s4. -/
theorem test_decode_matrix_mma : decodeTableWord 64 0x1006022180A1 = some (.mma { nx := .next, nw := false, d := 33, a := ⟨.reg 2, false⟩, b := ⟨.reg 3, false⟩, c := ⟨.reg 4, false⟩, ty := .i8, m := 0, f := 0 }) := by decide +kernel
/-- R189: `tclaim s9, s4`: the result register stands in C. -/
theorem test_decode_matrix_tclaim : decodeTableWord 64 0x24A204008021 = some (.tclaim { nx := .next, nw := false, d := 0, a := ⟨.reg 4, false⟩, b := ⟨.special 1, false⟩, c := ⟨.reg 9, false⟩, ty := .i8, m := 0, f := 0 }) := by decide +kernel
/-- R28: `cpy h5, card at s7`, window 3. -/
theorem test_decode_engine_cpy : decodeTableWord 64 0x18144A207059001 = some (.cpy { nx := .next, nw := false, d := 5, a := ⟨.reg 7, false⟩, b := ⟨.special 1, false⟩, c := ⟨.special 1, false⟩, ty := .i8, m := 3, f := 0 }) := by decide +kernel
/-- R217: `hwait` of h2, the result in s8. -/
theorem test_decode_engine_hwait : decodeTableWord 64 0x20A251029121 = some (.hwait { nx := .next, nw := false, d := 2, a := ⟨.special 1, false⟩, b := ⟨.special 1, false⟩, c := ⟨.reg 8, false⟩, ty := .i8, m := 0, f := 0 }) := by decide +kernel
/-- R266: `bopen s1, s2, s3`. -/
theorem test_decode_bundle_bopen : decodeTableWord 64 0x144060201A001 = some (.bopen { nx := .next, nw := false, d := 1, a := ⟨.reg 2, false⟩, b := ⟨.reg 3, false⟩, c := ⟨.special 1, false⟩, ty := .i8, m := 0, f := 0 }) := by decide +kernel
/-- R275: `tctl s1, s2` with F = 2. -/
theorem test_decode_bundle_tctl : decodeTableWord 64 0x80144A20201A141 = some (.tctl { nx := .next, nw := false, d := 1, a := ⟨.reg 2, false⟩, b := ⟨.special 1, false⟩, c := ⟨.special 1, false⟩, ty := .i8, m := 0, f := 2 }) := by decide +kernel
/-- R225: `parr s4` with tag and level. -/
theorem test_decode_system_parr : decodeTableWord 64 0x144A25104B001 = some (.parr { nx := .next, nw := false, d := 4, a := ⟨.special 1, false⟩, b := ⟨.special 1, false⟩, c := ⟨.special 1, false⟩, ty := .i8, m := 0, f := 0 }) := by decide +kernel
/-- R238: `sleep s5`. -/
theorem test_decode_system_sleep : decodeTableWord 64 0x144A20500B121 = some (.sleep { nx := .next, nw := false, d := 0, a := ⟨.reg 5, false⟩, b := ⟨.special 1, false⟩, c := ⟨.special 1, false⟩, ty := .i8, m := 0, f := 0 }) := by decide +kernel
/-- R355: `radd.f` of BSU registers 1 and 2 into 3. -/
theorem test_decode_row_radd : decodeTableWord 96 0x12300517C0A5180C062 = some (.radd { nx := .next, nw := false, d := 0, a := ⟨.special 1, false⟩, b := ⟨.reg 5, false⟩, c := ⟨.lit 0x123, false⟩, ty := .f, m := 0, f := 0 }) := by decide +kernel
/-- R356: `rsync s6`. -/
theorem test_decode_row_rsync : decodeTableWord 64 0x144A25106C1A1 = some (.rsync { nx := .next, nw := false, d := 6, a := ⟨.special 1, false⟩, b := ⟨.special 1, false⟩, c := ⟨.special 1, false⟩, ty := .i8, m := 0, f := 0 }) := by decide +kernel
/-- R36: `vshr.n16 v1, v2, v3`, OP8 0x5B, both sources read for the last time. -/
theorem test_decode_compact_vshr : decodeTableWord 32 0xC30815B0 = some (.vshrC ⟨3, 0, 1, 2, 3, true, true⟩) := by decide +kernel
/-- R36: `mulh.i64 s60, s61, s62 ->ret`, OP8 0xFE. -/
theorem test_decode_compact_mulh : decodeTableWord 32 0x3EF7CFE8 = some (.mulhC ⟨6, 2, 60, 61, 62, false, false⟩) := by decide +kernel
/-- R18: region B 9 parcels on, the join 21. -/
theorem test_decode_fork : decodeTableWord 96 0x1500090000000A04000422 = some (.fork ⟨4, 5, 9, 21⟩) := by decide +kernel
/-- R19: token 0 stands lowest: A, B, add. -/
theorem test_decode_vexpr : decodeTableWord 96 0x42100514404010625C2 = some (.vexpr ⟨{ nx := .next, nw := false, d := 6, a := ⟨.reg 1, false⟩, b := ⟨.reg 2, false⟩, c := ⟨.special 1, false⟩, ty := .f, m := 0, f := 0 }, 0x421⟩) := by decide +kernel
/-- R35: an all-zero parcel names no instruction. -/
theorem test_refuse_zero : decodeTableWord 32 0x0 = none := by decide +kernel
/-- R32: OP11 0x028 names no instruction. -/
theorem test_refuse_op11 : decodeTableWord 64 0x144A251000501 = none := by decide +kernel
/-- R36: OP8 0x00 of operation 0 names no instruction. -/
theorem test_refuse_op8 : decodeTableWord 32 0x10 = none := by decide +kernel
/-- R27: type code 14 names no instruction. -/
theorem test_refuse_type : decodeTableWord 64 0x7144A251000081 = none := by decide +kernel
/-- R17: K in a W-form names no instruction. -/
theorem test_refuse_literal : decodeTableWord 64 0x21440602810081 = none := by decide +kernel

/-- The examples of the spec: `vfma.rne.f v8, v1!, v2, s3`; `fork s4, s5, other, done`; the `vexpr` after R119; `pbar.cgr s4, #5`; and
`trap #7`. -/
theorem test_decode_examples : decodeTableWord 64 0x00D20C0501082421 = some (.vfma
      { nx := .next, nw := false, d := 8, a := ⟨.reg 1, true⟩, b := ⟨.reg 2, false⟩, c := ⟨.bcast 3, false⟩, ty := .f, m := 1, f := 0 })
    ∧ decodeTableWord 96 0x000900060000000A04000422 = some (.fork ⟨4, 5, 6, 9⟩)
    ∧ decodeTableWord 96 0x009E732100500C04010625C2 = some (.vexpr ⟨
      { nx := .next, nw := false, d := 6, a := ⟨.reg 1, false⟩, b := ⟨.reg 2, false⟩, c := ⟨.reg 3, false⟩, ty := .f, m := 0, f := 0 }, 0x009E7321⟩)
    ∧ decodeTableWord 64 0x340144A25104B041 = some (.pbar
      { nx := .next, nw := false, d := 4, a := ⟨.special 1, false⟩, b := ⟨.special 1, false⟩, c := ⟨.special 1, false⟩, ty := .i8,
        m := 0, f := 13 })
    ∧ decodeTableWord 64 0x000144A26700B061 = some (.trap
      { nx := .next, nw := false, d := 0, a := ⟨.imm 7, false⟩, b := ⟨.special 1, false⟩, c := ⟨.special 1, false⟩, ty := .i8,
        m := 0, f := 0 }) := by decide +kernel

/-- A well-formed `add.i32 s1, s2, s3`, for the checks below to spoil. -/
def plain : Fields :=
  { nx := .next, nw := false, d := 1, a := ⟨.reg 2, false⟩, b := ⟨.reg 3, false⟩, c := ⟨.special 1, false⟩, ty := .i32, m := 0, f := 0 }
theorem test_wf_add : (Instr.add plain).wf = true ∧ (Instr.vadd { plain with nw := true, d := 0 }).wf = true := by decide +kernel
/-- R25: an unused D is 0. R20: a latch, a broadcast register and a used C are no operands of `add`; R23: no last reads there. -/
theorem test_wf_operands : (Instr.nop { plain with a := ⟨.special 1, false⟩, b := ⟨.special 1, false⟩ }).wf = false
    ∧ (Instr.add { plain with a := ⟨.latch 0, false⟩ }).wf = false ∧ (Instr.add { plain with b := ⟨.bcast 3, false⟩ }).wf = false
    ∧ (Instr.add { plain with c := ⟨.reg 4, false⟩ }).wf = false ∧ (Instr.add { plain with a := ⟨.reg 2, true⟩ }).wf = false := by
  decide +kernel
/-- R27, R28: the type, M and F that the entry lists. -/
theorem test_wf_modifiers : (Instr.add { plain with ty := .f }).wf = false ∧ (Instr.add { plain with m := 1 }).wf = false
    ∧ (Instr.add { plain with f := 2 }).wf = false ∧ (Instr.cmp { plain with m := 6 }).wf = false := by decide +kernel
/-- R24: NW only in the vector class and with D 0. -/
theorem test_wf_nw : (Instr.add { plain with nw := true, d := 0 }).wf = false ∧ (Instr.vadd { plain with nw := true }).wf = false := by
  decide +kernel
/-- R17: one literal, for an operand or for the target. -/
theorem test_wf_literal : (Instr.add { plain with a := ⟨.lit 1, false⟩, b := ⟨.lit 1, false⟩ }).wf = false
    ∧ (Instr.add { plain with a := ⟨.lit 1, false⟩, nx := .jump 4 }).wf = false
    ∧ (Instr.add { plain with nx := .jump 4 }).wf = true := by decide +kernel
/-- R86: `loop` goes on to the next address. R31: hint 7 is reserved, and an access that orders names a scope. R37: a control
register that may be written. R141: the 16-B `cas` names even registers. -/
theorem test_wf_extra : (Instr.loop { plain with d := 0, b := ⟨.special 1, false⟩, ty := .i8, nx := .loop }).wf = false
    ∧ (Instr.ld { plain with ty := .b, f := 7, c := ⟨.reg 0, false⟩ }).wf = false
    ∧ (Instr.ld { plain with ty := .b, f := 8, c := ⟨.reg 0, false⟩ }).wf = false
    ∧ (Instr.ld { plain with ty := .b, f := 8, c := ⟨.reg 2, false⟩ }).wf = true
    ∧ (Instr.cset { plain with d := 0, b := ⟨.special 1, false⟩, ty := .i8, f := 2 }).wf = false
    ∧ (Instr.cas { plain with ty := .b, d := 3, b := ⟨.reg 4, false⟩, c := ⟨.reg 0x12, false⟩ }).wf = false := by decide +kernel
/-- R35: a uniform alias has no last reads; the compact `nop` has only zeros; a single-source alias has no B. -/
theorem test_wf_compact : (Instr.addC ⟨4, 0, 1, 2, 3, true, false⟩).wf = false ∧ (Instr.nopC ⟨0, 0, 1, 0, 0, false, false⟩).wf = false
    ∧ (Instr.vmovC ⟨0, 0, 1, 2, 3, false, false⟩).wf = false ∧ (Instr.vmovC ⟨0, 0, 1, 2, 0, true, false⟩).wf = true := by decide +kernel
/-- R19, R119: a program that pops more than there is, that leaves two values, that goes on after its end; an operand that no
token names. -/
theorem test_wf_vexpr : let f := { plain with ty := .f }
    (Instr.vexpr ⟨f, 0x421⟩).wf = true ∧ (Instr.vexpr ⟨f, 0x41⟩).wf = false ∧ (Instr.vexpr ⟨f, 0x21⟩).wf = false
    ∧ (Instr.vexpr ⟨f, 0x1000421⟩).wf = false ∧ (Instr.vexpr ⟨f, 0x411⟩).wf = false
    ∧ (Instr.vexpr ⟨{ f with nx := .jump 0 }, 0x421⟩).wf = false ∧ (Instr.vexpr ⟨{ f with ty := .i32 }, 0x421⟩).wf = false := by
  decide +kernel
/-- R87: 3 < B < J ≤ 32,767. -/
theorem test_wf_fork : (Instr.fork ⟨1, 2, 4, 5⟩).wf = true ∧ (Instr.fork ⟨1, 2, 3, 5⟩).wf = false
    ∧ (Instr.fork ⟨1, 2, 5, 5⟩).wf = false ∧ (Instr.fork ⟨1, 2, 5, 32768⟩).wf = false := by decide +kernel

/-- Whether an instruction goes on, to a state whose executing strand is of a kind. -/
def leaves (i : Instr) (s : State) (p : Strand → Bool) : Bool :=
  match exec i s with
  | .next t => (match t.strand 0 with | some y => p y | none => false)
  | _ => false
/-- The strand with values in s2, s3 and s4. -/
def given (x y z : Word) (st : Strand) : Strand := ((st.setS 2 x false).setS 3 y false).setS 4 z false
/-- Three registers as sources, of a type. -/
def R3 (t : Ty) (m : BitVec 3) (f : BitVec 6) : Fields := { W (.reg 2) (.reg 3) (.reg 4) with ty := t, m := m, f := f }
/-- Three broadcast registers as sources of a vector instruction. -/
def B3 (t : Ty) (m : BitVec 3) (f : BitVec 6) : Fields := { W (.bcast 2) (.bcast 3) (.bcast 4) with ty := t, m := m, f := f }
/-- What an instruction leaves in s1, and in thread 5 of v1. -/
def s1Of (i : Instr) (x y z r : Word) : Bool := leaves i (here (given x y z)) fun st => st.sreg 1 == r
def v1Of (i : Instr) (x y z r : Word) : Bool :=
  leaves i (here (given x y z)) fun st => match st.vreg 1 with | some v => v.get 5 == r | none => false

/-- R158: the step runs the instruction that has been placed, and goes on to the next parcel. -/
theorem test_step : (match step (State.withFetchWord .reset 32 0x800) with
    | .next t => (match t.strand 0 with | some y => y.pc == 0x10008#64 | none => false)
    | _ => false) = true := by decide +kernel
/-- R46, R47, R77: elements do not carry into each other; saturation; the high half. -/
theorem test_add : s1Of (.add (R3 .n8 0 0)) 0x01FF 0x0101 0 0x0200 = true ∧ s1Of (.add (R3 .n8 0 1)) 0x01FF 0x0101 0 0x02FF = true := by
  decide +kernel
theorem test_sub_sat : s1Of (.sub (R3 .i16 0 1)) 0x8000 1 0 0x8000 = true ∧ s1Of (.sub (R3 .n16 0 1)) 0 1 0 0 = true := by decide +kernel
theorem test_mulh : s1Of (.mulh (R3 .i32 0 0)) 0xFFFFFFFF 2 0 0xFFFFFFFF = true ∧ s1Of (.mulh (R3 .n32 0 0)) 0xFFFFFFFF 2 0 1 = true := by
  decide +kernel
/-- R47: division by zero, the most negative number by −1, and the sign of a remainder. -/
theorem test_div : s1Of (.div (R3 .i64 0 0)) 7 0 0 (-1) = true ∧ s1Of (.div (R3 .i32 0 0)) 0x80000000 0xFFFFFFFF 0 0xFFFFFFFF80000000 = true := by
  decide +kernel
theorem test_rem : s1Of (.rem (R3 .i64 0 0)) (-7) 2 0 (-1) = true ∧ s1Of (.rem (R3 .i64 0 0)) 7 0 0 7 = true := by decide +kernel
/-- R78: the amount is taken modulo the width; `sar` copies the sign. -/
theorem test_shl : s1Of (.shl (R3 .i32 0 0)) 1 33 0 2 = true := by decide +kernel
theorem test_sar : s1Of (.sar (R3 .i8 0 0)) 0x80 7 0 0xFF = true := by decide +kernel
/-- R80, R81, R82, R84. -/
theorem test_cmp : leaves (.cmp (R3 .n32 2 0)) (here (given 1 0xFFFFFFFF 0)) (fun st => st.sreg 1 == 0xFFFFFFFF && st.uc) = true
    ∧ leaves (.cmp (R3 .i32 2 0)) (here (given 1 0xFFFFFFFF 0)) (fun st => st.sreg 1 == 0 && !st.uc) = true := by decide +kernel
theorem test_sel : s1Of (.sel (R3 .i64 2 0)) 11 22 (-1) 11 = true ∧ s1Of (.sel (R3 .i64 2 0)) 11 22 1 22 = true := by decide +kernel
theorem test_bfx : s1Of (.bfx (R3 .i64 0 0)) 0xF00 (8 + 4 * 256) 0 (-1) = true ∧ s1Of (.bfx (R3 .n64 0 0)) 0xF00 (8 + 4 * 256) 0 15 = true := by
  decide +kernel
theorem test_bfi : s1Of (.bfi (R3 .b 0 0)) 0xAB (8 + 8 * 256) 0x112233 0x11AB33 = true := by decide +kernel
theorem test_ffs : leaves (.ffs (R3 .b 0 0)) (here (given 0 0 0)) (fun st => st.sreg 1 == 64 && !st.uc) = true
    ∧ leaves (.ffs (R3 .b 0 0)) (here (given 0x8000000000000000 0 0)) (fun st => st.sreg 1 == 63 && st.uc) = true := by decide +kernel
/-- R76: the example of the entry. -/
theorem test_movh : leaves (.movh { W (.lit 0x01234567) no no with d := 2 }) (here (given 0x89ABCDEF 0 0))
    (fun st => st.sreg 2 == 0x0123456789ABCDEF) = true := by decide +kernel
/-- R83: `emset` stays within pm. -/
theorem test_emset : leaves (.emset (R3 .b 0 0)) (here fun st => { given 0xFF 0 0 st with pm := 0x0F#32 }) (fun st => st.em == 0x0F#32) = true := by
  decide +kernel
/-- R85, R86: LOOP with a counter above 1 goes to the head; with 1 it falls through and takes the outer level. -/
theorem test_loop : leaves (.nop { W no no no with d := 0, nx := .loop })
      (here fun st => { st with lc0 := 2, lh0 := 0x20004#64 }) (fun st => st.pc == 0x20004#64 && st.lc0 == 1) = true
    ∧ leaves (.nop { W no no no with d := 0, nx := .loop })
      (here fun st => { st with lc0 := 1, lc1 := 7, seq := 0x1000C#64 }) (fun st => st.pc == 0x1000C#64 && st.lc0 == 7 && st.lc1 == 0) = true := by
  decide +kernel
/-- R88, the fork worked through: region A runs first with its mask, and the other is kept. -/
theorem test_fork : leaves (.fork ⟨4, 5, 6, 9⟩) (here fun st => { (st.setS 4 0xFF false).setS 5 0xFFFFFF00 false with em := 0x0FFFFFFF#32, seq := 0x10010#64 })
    (fun st => st.em == 0xFF#32 && st.fork.mask == 0x0FFFFF00#32 && st.fork.phase == .aFirst && st.pc == st.fork.at_ + 12) = true := by
  decide +kernel

/-- R104: the average rounds up, or with the variant down. -/
theorem test_vavg : v1Of (.vavg (B3 .n8 0 0)) 1 2 0 2 = true ∧ v1Of (.vavg (B3 .n8 0 2)) 1 2 0 1 = true := by decide +kernel
theorem test_vmad : v1Of (.vmad (B3 .i32 0 0)) 3 5 7 22 = true := by decide +kernel
/-- R49, R52, R113: a tie goes to even; an overflow to infinity; the sum of opposites; 0 × ∞. -/
theorem test_vfadd : v1Of (.vfadd (B3 .f 0 0)) 0x3F800000 0x33800000 0 0x3F800000 = true
    ∧ v1Of (.vfadd (B3 .f 3 0)) 0x3F800000 0x33800000 0 0x3F800001 = true := by decide +kernel
theorem test_vfmul : v1Of (.vfmul (B3 .bf 0 0)) 0x7F7F 0x4000 0 0x7F80 = true
    ∧ leaves (.vfmul (B3 .h 0 0)) (here (given 0x7C00 0 0))
      (fun st => (match st.vreg 1 with | some v => v.get 0 == 0x7E00 | none => false) && st.fl == flagIV) = true := by decide +kernel
theorem test_vfdiv : leaves (.vfdiv (B3 .f 0 0)) (here (given 0xBF8000003F800000 0x3F80000000000000 0))
    (fun st => (match st.vreg 1 with | some v => v.get 0 == 0xBF8000007F800000 | none => false)) = true := by decide +kernel
theorem test_vfma : v1Of (.vfma (B3 .f 0 0)) 0x3F800001 0x3F800001 0xBF800002 0x28800000 = true := by decide +kernel
theorem test_vfmin : v1Of (.vfmin (B3 .f 0 0)) 0x80000000 0 0 0x80000000 = true ∧ v1Of (.vfmax (B3 .f 0 0)) 0x7FC00000 0x3F800000 0 0x3F800000 = true := by
  decide +kernel
theorem test_vfrsq : v1Of (.vfrsq (B3 .f 0 0)) 0x40800000 0 0 0x7F8000003F000000 = true := by decide +kernel
theorem test_vfexp2 : v1Of (.vfexp2 (B3 .f 0 0)) 0xC0000000 0 0 0x3F8000003E800000 = true := by decide +kernel
/-- R55: a NaN converts to 0, and what lies outside to the nearer bound. -/
theorem test_vcvt : v1Of (.vcvt { B3 .i32 0 0 with b := ⟨.imm 0, false⟩, c := ⟨.reg 10, false⟩ }) 0xFF8000007FC00000 0 0 0x8000000000000000 = true := by
  decide +kernel
/-- v2 with a value for each thread. -/
def threads (g : Nat → Word) (st : Strand) : Strand := st.setV 2 (some (VReg.ofFn fun t => (g t, false)))
/-- The example after R126: a pairwise tree, and a scan in order. -/
def sums (st : Strand) : Strand := { threads (fun t => if t = 0 then 0x3F800000 else 0x33800000) st with em := 0xF#32 }
def inThread (t n : Nat) (r : Word) (st : Strand) : Bool := match st.vreg n with | some v => v.get t == r | none => false
theorem test_vred : leaves (.vred { W (.reg 2) no (.reg 0) with ty := .f }) (here sums)
    (fun st => inThread 3 1 0x3F800001 st && inThread 4 1 0 st) = true := by decide +kernel
theorem test_vscan : leaves (.vscan { W (.reg 2) no (.reg 0) with ty := .f, f := 2 }) (here sums)
    (fun st => inThread 0 1 0x8000000080000000 st && inThread 3 1 0x3F800000 st) = true := by decide +kernel
/-- R123: a slide by one, with another register's last thread. -/
theorem test_vslide : leaves (.vslide { W (.reg 2) (.imm 1) (.reg 3) with ty := .b }) (here fun st => (threads (fun t => BitVec.ofNat 64 t) st).setV 3
      (some (VReg.ofFn fun t => (BitVec.ofNat 64 (100 + t), false))))
    (fun st => inThread 5 1 4 st && inThread 0 1 131 st) = true := by decide +kernel
/-- "Quantising into E2M1". -/
theorem test_vqnt : leaves (.vqnt { W (.reg 2) no (.reg 10) with ty := .x })
    (world (threads fun t => if t = 0 then 0x40A00000 else if t = 1 then 0xC0200000 else if t = 2 then 0x3E800000 else 0x3F800000)
      (fun b => { b with fmt := Vector.replicate 16 0x95#32 }) id)
    (fun st => st.fl == (flagUF ||| flagNX) && (match st.vreg 1 with
      | some v => v.get 0 % 256 == 6 && v.get 1 % 256 == 12 && v.get 2 % 256 == 0 && v.get 3 % 256 == 2 && (v.get 3 >>> 32) % 256 == 0x7F
      | none => false)) = true := by decide +kernel
/-- R60, R136: little-endian bytes; of stores of several threads to one place the last stands. -/
theorem test_sst : (match exec (.sst { W no no (.special 0) with d := 0, ty := .n16 }) (here id) with
    | .next t => readCell (t.block 0).scratch 0 == 31 && readCell (t.block 0).scratch 1 == 0
    | _ => false) = true := by decide +kernel
/-- R189: the n lowest free items. -/
theorem test_tclaim : leaves (.tclaim { W (.reg 2) no (.reg 5) with d := 0, ty := .i8, m := 2 }) (here (given 2 0 0))
    (fun st => st.sreg 5 == 0x30 && st.uc) = true := by decide +kernel
/-- The examples after R54. -/
theorem test_generator : srNext 1 = 0x42021#32 ∧ seedState 0 0 = 0x9E3779B9#32 := by decide
/-- R230, R245: `trap`. -/
theorem test_trap : leaves (.trap { W (.reg 2) no no with d := 0, ty := .i8 }) (here fun st => { given 7 0 0 st with tvec := 0x20004#64, seq := 0x1000C#64 })
    (fun st => st.trapMode && st.tcause == 0x30 && st.taddr == 7 && st.tpc == 0x1000C#64 && st.pc == 0x20004#64) = true := by decide +kernel
/-- R266: the name 0 is an ILLEGAL FIELD. -/
theorem test_bopen : leaves (.bopen { W no (.reg 3) no with ty := .i8 }) (here fun st => { st with tvec := 0x20004#64 })
    (fun st => st.trapMode && st.tcause.toNat == cIllegalField) = true := by decide +kernel

end Sys2Proof.Tests
end

/-!
PROOFS. No step stops (O6): a step's outcome is put together from the meanings of instructions, which answer a next state
for every strand that executes them, and from those of events, which answer one always; and what a lane hands over is such an
instruction, with a strand that executes it.
-/
namespace Sys2Proof.Machine

theorem completes_next (t : State) : Completes (.next t) := ⟨t, rfl⟩

-- The ways to run an instruction

/-- Some strand executes. -/
def HasActor (s : State) : Prop := ∃ k st, Acts s k st

section
variable {s : State} {f : Fields}

theorem settle_completes {k : Nat} {st : Strand} {inside : Bool} {r : Res State} : Completes (settle s k st inside r) := by
  fun_cases settle <;> exact completes_next _

theorem withActor_completes {g : Nat → Strand → Out} (h : HasActor s) (hg : ∀ k st, Completes (g k st)) :
    Completes (withActor s g) := by
  obtain ⟨k, st, hst⟩ := h
  rw [withActor_of hst]
  exact hg k st

theorem runUniform_completes {nx : Nx} {ss : List Nat} {g : State → Strand → Res (List UWrite)} (h : HasActor s) :
    Completes (runUniform nx ss g s) :=
  withActor_completes h fun _ _ => settle_completes

theorem runPlain_completes {nx : Nx} {ss : List Nat} {g : State → Nat → Strand → Res (State × Strand)} (h : HasActor s) :
    Completes (runPlain nx ss g s) :=
  withActor_completes h fun _ _ => settle_completes

theorem runVector_completes {os : List Opd} {check : State → Strand → Res Unit} {body : State → Strand → VOut}
    (h : HasActor s) : Completes (runVector f os check body s) :=
  withActor_completes h fun _ _ => settle_completes

/-- Whatever a body leaves, it ends as a completion, a stop, a parking or a question to peers. -/
theorem runMem_completes {vs : List Opd} {body : Nat → Strand → M Unit} (h : HasActor s) : Completes (runMem vs body s) := by
  refine withActor_completes h fun k st => ?_
  dsimp only
  split
  · exact completes_next _
  · split <;> exact completes_next _

theorem inContext_completes {op creg : Nat} {lat : List Nat} {body : State → Out} (h : HasActor s) (hb : Completes (body s)) :
    Completes (inContext op creg lat body s) := by
  refine withActor_completes h fun k st => ?_
  dsimp only
  split
  · exact completes_next _
  · exact hb

theorem uniform2_completes {op : Word → Word → Word} (h : HasActor s) : Completes (uniform2 f op s) :=
  runUniform_completes h

theorem uniform1_completes {op : Word → Word} (h : HasActor s) : Completes (uniform1 f op s) :=
  runUniform_completes h

theorem uniformMask_completes {op : Half → Half → Half → Half} (h : HasActor s) : Completes (uniformMask f op s) :=
  runUniform_completes h

theorem movHalf_completes {op : Word → Word → Word} (h : HasActor s) : Completes (movHalf f op s) :=
  runUniform_completes h

theorem perThread_completes {os : List Opd} {op : Word → Word → Word → Word} (h : HasActor s) :
    Completes (perThread f os op s) :=
  runVector_completes h

theorem vector1_completes {op : Word → Word} (h : HasActor s) : Completes (vector1 f op s) :=
  perThread_completes h

theorem vector2_completes {op : Word → Word → Word} (h : HasActor s) : Completes (vector2 f op s) :=
  perThread_completes h

theorem vector3_completes {op : Word → Word → Word → Word} (h : HasActor s) : Completes (vector3 f op s) :=
  perThread_completes h

theorem runCompare_completes {c : Word → Word → Nat → Bool} {fl : Word → Word → Flags} (h : HasActor s) :
    Completes (runCompare f c fl s) :=
  runVector_completes h

theorem runMove_completes {os counts : List Opd} {perStrand : Bool} {pick : Strand → Nat → Opd × Nat} (h : HasActor s) :
    Completes (runMove f os counts perStrand pick s) :=
  runVector_completes h

theorem runLanes_completes {os : List Opd} {check : State → Strand → Res Unit} {lane : State → Strand → Nat → Lane}
    (h : HasActor s) : Completes (runLanes f os check lane s) :=
  runVector_completes h

theorem floatOp_completes {os : List Opd} {op : Bool → Val → Val → Val → Val × Flags} (h : HasActor s) :
    Completes (floatOp f os op s) :=
  runLanes_completes h

theorem globalLoad_completes {vec lda : Bool} (h : HasActor s) : Completes (globalLoad f vec lda s) :=
  runMem_completes h

theorem globalStore_completes {vec stl : Bool} (h : HasActor s) : Completes (globalStore f vec stl s) :=
  runMem_completes h

theorem globalAtomic_completes {vec cas : Bool} (h : HasActor s) : Completes (globalAtomic f vec cas s) :=
  runMem_completes h

theorem scratchLoad_completes {vec : Bool} (h : HasActor s) : Completes (scratchLoad f vec s) :=
  runMem_completes h

theorem scratchStore_completes {vec : Bool} (h : HasActor s) : Completes (scratchStore f vec s) :=
  runMem_completes h

theorem bundledStore_completes {vec : Bool} (h : HasActor s) : Completes (bundledStore f vec s) :=
  runMem_completes h

theorem cleanRange_completes {drop : Bool} (h : HasActor s) : Completes (cleanRange f drop s) :=
  runMem_completes h

theorem claim_completes {acc : Bool} (h : HasActor s) : Completes (claim f acc s) :=
  runMem_completes h

theorem release_completes {acc : Bool} (h : HasActor s) : Completes (release f acc s) :=
  runMem_completes h

theorem issueArray_completes {code : Nat} {os : List Opd} {prep : State → Strand → Res Prepared} (h : HasActor s) :
    Completes (issueArray f code os prep s) :=
  runMem_completes h

theorem tileMove_completes {load : Bool} (h : HasActor s) : Completes (tileMove f load s) :=
  runMem_completes h

theorem imageMove_completes {code : Nat} {load acc : Bool} (h : HasActor s) : Completes (imageMove f code load acc s) :=
  runMem_completes h

theorem rowIssue_completes {op : Nat} (h : HasActor s) : Completes (rowIssue op f s) :=
  runMem_completes h

theorem cardJob_completes {code : Nat} (h : HasActor s) : Completes (cardJob f code s) :=
  runMem_completes h

end

/-- A compact instruction executes as the wide one that it names (R35). -/
theorem exec_compact {i : Instr} {k : Nat} {c : CFields} (h : i.form = .compact k c) (s : State) :
    ∃ j, j.form = .wide (compactOp k) (c.expand k) ∧ exec i s = exec j s := by
  cases i with
  | nopC => cases h; exact ⟨.nop _, rfl, rfl⟩
  | movC => cases h; exact ⟨.mov _, rfl, rfl⟩
  | addC => cases h; exact ⟨.add _, rfl, rfl⟩
  | subC => cases h; exact ⟨.sub _, rfl, rfl⟩
  | mulC => cases h; exact ⟨.mul _, rfl, rfl⟩
  | mulhC => cases h; exact ⟨.mulh _, rfl, rfl⟩
  | andC => cases h; exact ⟨.and _, rfl, rfl⟩
  | orC => cases h; exact ⟨.or _, rfl, rfl⟩
  | xorC => cases h; exact ⟨.xor _, rfl, rfl⟩
  | andnC => cases h; exact ⟨.andn _, rfl, rfl⟩
  | shlC => cases h; exact ⟨.shl _, rfl, rfl⟩
  | shrC => cases h; exact ⟨.shr _, rfl, rfl⟩
  | sarC => cases h; exact ⟨.sar _, rfl, rfl⟩
  | rotC => cases h; exact ⟨.rot _, rfl, rfl⟩
  | minC => cases h; exact ⟨.min _, rfl, rfl⟩
  | maxC => cases h; exact ⟨.max _, rfl, rfl⟩
  | vmovC => cases h; exact ⟨.vmov _, rfl, rfl⟩
  | vaddC => cases h; exact ⟨.vadd _, rfl, rfl⟩
  | vsubC => cases h; exact ⟨.vsub _, rfl, rfl⟩
  | vmulC => cases h; exact ⟨.vmul _, rfl, rfl⟩
  | vminC => cases h; exact ⟨.vmin _, rfl, rfl⟩
  | vmaxC => cases h; exact ⟨.vmax _, rfl, rfl⟩
  | vandC => cases h; exact ⟨.vand _, rfl, rfl⟩
  | vorC => cases h; exact ⟨.vor _, rfl, rfl⟩
  | vxorC => cases h; exact ⟨.vxor _, rfl, rfl⟩
  | vshlC => cases h; exact ⟨.vshl _, rfl, rfl⟩
  | vshrC => cases h; exact ⟨.vshr _, rfl, rfl⟩
  | vsarC => cases h; exact ⟨.vsar _, rfl, rfl⟩
  | vfaddC => cases h; exact ⟨.vfadd _, rfl, rfl⟩
  | vfsubC => cases h; exact ⟨.vfsub _, rfl, rfl⟩
  | vfmulC => cases h; exact ⟨.vfmul _, rfl, rfl⟩
  | _ => cases h

/-- An instruction that is no compact one answers a next state to a strand that executes it, by the way it is run. -/
theorem exec_completes_of_not_compact {i : Instr} {s : State} (h : HasActor s) (he : i.form ≠ .event)
    (hc : ∀ k c, i.form ≠ .compact k c) : Completes (exec i s) := by
  cases i with
  | nop | mov | sel | bfi | cmp | emget | ffs | loop | getid | time | cget | yield =>
    dsimp only [exec]; exact runUniform_completes h
  | add | sub | mul | mulh | div | rem | and | or | xor | andn | shl | shr | sar | rot | min | max | bfx =>
    dsimp only [exec]; exact uniform2_completes h
  | clz | ctz | popc => dsimp only [exec]; exact uniform1_completes h
  | emset | emand | emandn | emor => dsimp only [exec]; exact uniformMask_completes h
  | movl | movh => dsimp only [exec]; exact movHalf_completes h
  | cset => dsimp only [exec]; exact inContext_completes h (runUniform_completes h)
  | vmov | vsel | vballot | vscan | vred | vhad | vqnt => dsimp only [exec]; exact runVector_completes h
  | vabs | vneg | vclz | vpopc | vunpack => dsimp only [exec]; exact vector1_completes h
  | vadd | vsub | vmul | vmulh | vdiv | vrem | vmin | vmax | vavg | vand | vor | vxor | vandn | vshl | vshr | vsar | vrot
  | vbfx | vpack => dsimp only [exec]; exact vector2_completes h
  | vmad | vbfi | vperm => dsimp only [exec]; exact vector3_completes h
  | vcmp | vfcmp => dsimp only [exec]; exact runCompare_completes h
  | vshuf | vbcast | vrott | vslide => dsimp only [exec]; exact runMove_completes h
  | vfadd | vfsub | vfmul | vfma | vfdiv | vfrcp | vfrsq | vfsqrt | vfexp2 | vflog2 =>
    dsimp only [exec]; exact floatOp_completes h
  | vcvt | vfcvt | vfmin | vfmax | vfscl | vexpr | vdqnt => dsimp only [exec]; exact runLanes_completes h
  | vftbl => dsimp only [exec]; exact inContext_completes h (runLanes_completes h)
  | ld | lda | uld => dsimp only [exec]; exact globalLoad_completes h
  | st | stl | ust => dsimp only [exec]; exact globalStore_completes h
  | atom | cas | uatom | ucas => dsimp only [exec]; exact globalAtomic_completes h
  | sld | usld => dsimp only [exec]; exact scratchLoad_completes h
  | sst | usst => dsimp only [exec]; exact scratchStore_completes h
  | bst | ubst => dsimp only [exec]; exact bundledStore_completes h
  | cflush | cclean => dsimp only [exec]; exact cleanRange_completes h
  | tclaim | aclaim => dsimp only [exec]; exact claim_completes h
  | trel | arel => dsimp only [exec]; exact release_completes h
  | mma | mmas | azero => dsimp only [exec]; exact issueArray_completes h
  | tld | tst => dsimp only [exec]; exact tileMove_completes h
  | asave | aload | tsave | tload => dsimp only [exec]; exact imageMove_completes h
  | cpy | cpym | gath | scat | nbl | coll | cload => dsimp only [exec]; exact cardJob_completes h
  | ropen | rwrite | rvload | radd | rmul | rfma | rmax | rcvt | rgemv | rred | racc | rmove | rfill =>
    dsimp only [exec]; exact rowIssue_completes h
  | satom | fence | cpref | cbias | signal | wait | bbar | fmtset | ard | tstat | aclose | await | hwait | htest | hcancel
  | hmov | bopen | bjoin | bclose | babort | commit | parr | pwait | pbar | fnld | fnswap | rsync | rstat =>
    dsimp only [exec]; exact runMem_completes h
  | tret => dsimp only [exec, execTret]; exact runMem_completes h
  | rgmap | rgfree | view | vend | trace | tctl => dsimp only [exec]; exact runPlain_completes h
  | fork | trap | brk | sleep => dsimp only [exec]; exact withActor_completes h fun _ _ => settle_completes
  | nopC | movC | addC | subC | mulC | mulhC | andC | orC | xorC | andnC | shlC | shrC | sarC | rotC | minC | maxC | vmovC
  | vaddC | vsubC | vmulC | vminC | vmaxC | vandC | vorC | vxorC | vshlC | vshrC | vsarC | vfaddC | vfsubC | vfmulC =>
    exact absurd rfl (hc _ _)
  | _ => exact absurd rfl he

/-- An instruction answers a next state to a strand that executes it. -/
theorem exec_completes {i : Instr} {s : State} (h : HasActor s) (he : i.form ≠ .event) : Completes (exec i s) := by
  by_cases hc : ∃ k c, i.form = .compact k c
  · obtain ⟨k, c, hk⟩ := hc
    obtain ⟨j, hj, hx⟩ := exec_compact hk s
    rw [hx]
    exact exec_completes_of_not_compact h (by simp [hj]) (by simp [hj])
  · exact exec_completes_of_not_compact h he fun k c hk => hc ⟨k, c, hk⟩

section
variable (s : State)

-- The homes, the caches and the links

/-- A request at a home is served, set aside, or made to wait for what it needs. -/
theorem atHome_completes {s : State} {home line : Nat} {e : Event} {f : State → State} : Completes (atHome s home line e f) := by
  fun_cases atHome <;> exact completes_next _

@[simp] theorem execHomeLoadFill_completes (r) : Completes (execHomeLoadFill r s) :=
  atHome_completes

@[simp] theorem execHomeOwnershipRequest_completes (r) : Completes (execHomeOwnershipRequest r s) :=
  atHome_completes

@[simp] theorem execHomeFarAtomic_completes (r) : Completes (execHomeFarAtomic r s) :=
  atHome_completes

@[simp] theorem execSignalArrival_completes (r) : Completes (execSignalArrival r s) :=
  atHome_completes

@[simp] theorem execHomeStoreArrival_completes (r) : Completes (execHomeStoreArrival r s) := by
  fun_cases execHomeStoreArrival
  · exact atHome_completes
  · exact completes_next _

@[simp] theorem execMemoryAccessComplete_completes (r) : Completes (execMemoryAccessComplete r s) := by
  fun_cases execMemoryAccessComplete <;> exact completes_next _

@[simp] theorem execStoreAck_completes (agent) (acc) (grid) : Completes (execStoreAck agent acc grid s) := by
  fun_cases execStoreAck <;> exact completes_next _

@[simp] theorem execCombineWindowClose_completes (home) (line) (number) :
    Completes (execCombineWindowClose home line number s) := by
  fun_cases execCombineWindowClose <;> exact completes_next _

@[simp] theorem execForwardedRequest_completes (m) (r) (owner) (found) : Completes (execForwardedRequest m r owner found s) := by
  fun_cases execForwardedRequest <;> exact completes_next _

@[simp] theorem execL1Invalidation_completes (m) (home) (copy) : Completes (execL1Invalidation m home copy s) := by
  fun_cases execL1Invalidation <;> exact completes_next _

@[simp] theorem execInvalidationAck_completes (m) (home) (copy) : Completes (execInvalidationAck m home copy s) := by
  fun_cases execInvalidationAck <;> exact completes_next _

@[simp] theorem execWritebackArrival_completes (m) (home) (copy) (mask) (data) (ack) (gone) (mark) :
    Completes (execWritebackArrival m home copy mask data ack gone mark s) := by
  fun_cases execWritebackArrival <;> exact completes_next _

@[simp] theorem execInstallAck_completes (m agent acc grid) : Completes (execInstallAck m agent acc grid s) :=
  execStoreAck_completes ..

-- Strands and engines

@[simp] theorem execPreemptDelivery_completes (strand) : Completes (execPreemptDelivery strand s) := by
  fun_cases execPreemptDelivery <;> exact completes_next _

@[simp] theorem execSleepExpiry_completes (strand) (acc) : Completes (execSleepExpiry strand acc s) := by
  fun_cases execSleepExpiry <;> exact completes_next _

@[simp] theorem execFunctionTableWriteDone_completes (core) (strand) : Completes (execFunctionTableWriteDone core strand s) := by
  fun_cases execFunctionTableWriteDone <;> exact completes_next _

@[simp] theorem execArrayOpStart_completes (op) : Completes (execArrayOpStart op s) := by
  fun_cases execArrayOpStart <;> exact completes_next _

@[simp] theorem execSubnormalAssistDone_completes (op) : Completes (execSubnormalAssistDone op s) := by
  fun_cases execSubnormalAssistDone <;> exact completes_next _

@[simp] theorem execArrayOpComplete_completes (op) : Completes (execArrayOpComplete op s) := by
  fun_cases execArrayOpComplete <;> exact completes_next _

@[simp] theorem execJobStart_completes (job) : Completes (execJobStart job s) := by
  fun_cases execJobStart <;> exact completes_next _

@[simp] theorem execJobComplete_completes (job) : Completes (execJobComplete job s) := by
  fun_cases execJobComplete <;> exact completes_next _

@[simp] theorem execBsuExecute_completes (op) (bsu) : Completes (execBsuExecute op bsu s) := by
  fun_cases execBsuExecute <;> exact completes_next _

-- Bundles

@[simp] theorem execCommitNotice_completes (m) (home) (bundle) (news) : Completes (execCommitNotice m home bundle news s) := by
  fun_cases execCommitNotice <;> exact completes_next _

@[simp] theorem execDropNotice_completes (m) (home) (bundle) : Completes (execDropNotice m home bundle s) := by
  fun_cases execDropNotice <;> exact completes_next _

@[simp] theorem execBundleInstall_completes (m) (r) (aged) (opens) : Completes (execBundleInstall m r aged opens s) := by
  fun_cases execBundleInstall <;> exact completes_next _

@[simp] theorem execViewLoadDecide_completes (m) (who) (line) (v) (skip) : Completes (execViewLoadDecide m who line v skip s) := by
  fun_cases execViewLoadDecide <;> exact completes_next _

@[simp] theorem execStateQueryReply_completes (m) (who) (bundle) (line) (v) (stamp) :
    Completes (execStateQueryReply m who bundle line v stamp s) := by
  fun_cases execStateQueryReply <;> exact completes_next _

@[simp] theorem execNameRegister_completes (m) (who) (scope) (name) (act) :
    Completes (execNameRegister m who scope name act s) := by
  fun_cases execNameRegister <;> exact completes_next _

@[simp] theorem execJoinMessage_completes (m) (who) (bundle) (answer) : Completes (execJoinMessage m who bundle answer s) := by
  fun_cases execJoinMessage <;> exact completes_next _

@[simp] theorem execBundleCloseArrival_completes (m) (who) (bundle) (kind) (lines) :
    Completes (execBundleCloseArrival m who bundle kind lines s) := by
  fun_cases execBundleCloseArrival <;> exact completes_next _

-- The scheduler

@[simp] theorem execGridComplete_completes (grid) : Completes (execGridComplete grid s) := by
  fun_cases execGridComplete <;> exact completes_next _

@[simp] theorem execBlockBind_completes (fn) : Completes (execBlockBind fn s) := by
  fun_cases execBlockBind <;> exact completes_next _

@[simp] theorem execLaunchAgeTick_completes (grid) : Completes (execLaunchAgeTick grid s) := by
  fun_cases execLaunchAgeTick <;> exact completes_next _

@[simp] theorem execPriorityPreempt_completes (grid) : Completes (execPriorityPreempt grid s) := by
  fun_cases execPriorityPreempt <;> exact completes_next _

@[simp] theorem execBlockAdmit_completes (core) : Completes (execBlockAdmit core s) := by
  fun_cases execBlockAdmit <;> exact completes_next _

@[simp] theorem execBlockRetire_completes (block) : Completes (execBlockRetire block s) := by
  fun_cases execBlockRetire <;> exact completes_next _

@[simp] theorem execBlockLeave_completes (block) : Completes (execBlockLeave block s) := by
  fun_cases execBlockLeave <;> exact completes_next _

@[simp] theorem execSaveLimitExpiry_completes (block) (core) (order) : Completes (execSaveLimitExpiry block core order s) := by
  fun_cases execSaveLimitExpiry <;> exact completes_next _

@[simp] theorem execClusterIdle_completes (cluster) : Completes (execClusterIdle cluster s) := by
  fun_cases execClusterIdle <;> exact completes_next _

@[simp] theorem execClusterWake_completes : Completes (execClusterWake s) := by
  fun_cases execClusterWake <;> exact completes_next _

-- Bias, the host and peers

@[simp] theorem execBiasFlipEnd_completes (page) : Completes (execBiasFlipEnd page s) := by
  fun_cases execBiasFlipEnd <;> exact completes_next _

@[simp] theorem execBisnpResponse_completes (line) (data) : Completes (execBisnpResponse line data s) := by
  fun_cases execBisnpResponse <;> exact completes_next _

@[simp] theorem execHostMemRead_completes (addr) (tag) : Completes (execHostMemRead addr tag s) := by
  fun_cases execHostMemRead <;> exact completes_next _

@[simp] theorem execHostSnoop_completes (line) (invalidate) : Completes (execHostSnoop line invalidate s) := by
  fun_cases execHostSnoop <;> exact completes_next _

@[simp] theorem execPeerAccessRequest_completes (m domain ask) : Completes (execPeerAccessRequest m domain ask s) := by
  unfold execPeerAccessRequest
  dsimp only
  split
  · split <;> exact completes_next _
  · split
    · exact completes_next _
    · split <;> exact completes_next _

@[simp] theorem execPeerAccessReply_completes (m a) : Completes (execPeerAccessReply m a s) := by
  unfold execPeerAccessReply
  dsimp only
  split
  · exact completes_next _
  · exact completes_next _
  · split <;> exact completes_next _

-- Packets and their queues

@[simp] theorem execPacketStart_completes (fn) (q) : Completes (execPacketStart fn q s) := by
  fun_cases execPacketStart <;> exact completes_next _

@[simp] theorem execLaunch_completes (packet) : Completes (execLaunch packet s) := by
  fun_cases execLaunch <;> exact completes_next _

@[simp] theorem execCopyPacket_completes (packet) : Completes (execCopyPacket packet s) := by
  fun_cases execCopyPacket <;> exact completes_next _

@[simp] theorem execNblaunch_completes (packet) : Completes (execNblaunch packet s) := by
  fun_cases execNblaunch <;> exact completes_next _

@[simp] theorem execSignalPacket_completes (packet) : Completes (execSignalPacket packet s) := by
  fun_cases execSignalPacket <;> exact completes_next _

@[simp] theorem execWaitPacket_completes (packet) : Completes (execWaitPacket packet s) := by
  fun_cases execWaitPacket <;> exact completes_next _

@[simp] theorem execQfence_completes (packet) : Completes (execQfence packet s) := by
  fun_cases execQfence <;> exact completes_next _

@[simp] theorem execReplay_completes (packet) : Completes (execReplay packet s) := by
  fun_cases execReplay <;> exact completes_next _

@[simp] theorem execInvalidate_completes (packet) : Completes (execInvalidate packet s) := by
  fun_cases execInvalidate <;> exact completes_next _

@[simp] theorem execTailWrite_completes (fn) (q) (value) : Completes (execTailWrite fn q value s) := by
  fun_cases execTailWrite <;> exact completes_next _

@[simp] theorem execAqiArm_completes (fn) (q) (value) : Completes (execAqiArm fn q value s) := by
  fun_cases execAqiArm <;> exact completes_next _

@[simp] theorem execAqiPause_completes (fn) (q) : Completes (execAqiPause fn q s) := by
  fun_cases execAqiPause <;> exact completes_next _

@[simp] theorem execAqiResume_completes (fn) (q) : Completes (execAqiResume fn q s) := by
  fun_cases execAqiResume <;> exact completes_next _

@[simp] theorem execAqiEnable_completes (fn) (q) : Completes (execAqiEnable fn q s) := by
  fun_cases execAqiEnable <;> exact completes_next _

@[simp] theorem execAqiDisable_completes (fn) (q) : Completes (execAqiDisable fn q s) := by
  fun_cases execAqiDisable <;> exact completes_next _

-- Translation, faults and errors

@[simp] theorem execS1InvalidateDone_completes (fn) : Completes (execS1InvalidateDone fn s) := by
  fun_cases execS1InvalidateDone <;> exact completes_next _

@[simp] theorem execAtsInvalidateRequest_completes (pasid) (page) (pages) :
    Completes (execAtsInvalidateRequest pasid page pages s) := by
  fun_cases execAtsInvalidateRequest <;> exact completes_next _

@[simp] theorem execFaultRecordWrite_completes (cluster) : Completes (execFaultRecordWrite cluster s) := by
  fun_cases execFaultRecordWrite <;> exact completes_next _

@[simp] theorem execFaultInterruptTimer_completes (fn) (number) : Completes (execFaultInterruptTimer fn number s) := by
  fun_cases execFaultInterruptTimer <;> exact completes_next _

@[simp] theorem execTimingReplay_completes (core) (persists) : Completes (execTimingReplay core persists s) := by
  fun_cases execTimingReplay <;> exact completes_next _

@[simp] theorem execClusterRecovery_completes (cluster) (lost) (ok) : Completes (execClusterRecovery cluster lost ok s) := by
  fun_cases execClusterRecovery <;> exact completes_next _

-- Parcels

@[simp] theorem execKeysReplaced_completes (parcel) : Completes (execKeysReplaced parcel s) := by
  fun_cases execKeysReplaced <;> exact completes_next _

@[simp] theorem execParcelScrubDone_completes (parcel) (ok) : Completes (execParcelScrubDone parcel ok s) := by
  fun_cases execParcelScrubDone <;> exact completes_next _

@[simp] theorem execPartitionDestroy_completes (packet) : Completes (execPartitionDestroy packet s) := by
  fun_cases execPartitionDestroy <;> exact completes_next _

@[simp] theorem execMigrationDrainDone_completes (packet) : Completes (execMigrationDrainDone packet s) := by
  fun_cases execMigrationDrainDone <;> exact completes_next _

@[simp] theorem execMigrationCopyRoundDone_completes (packet) : Completes (execMigrationCopyRoundDone packet s) := by
  fun_cases execMigrationCopyRoundDone <;> exact completes_next _

/-- A packet about the plat is performed when its turn comes. -/
theorem platPacket_completes {s : State} {packet : Nat} {f : Grid → State} : Completes (platPacket packet s f) := by
  fun_cases platPacket <;> exact completes_next _

theorem movePacket_completes (packet : Nat) : Completes (movePacket packet s) :=
  platPacket_completes

@[simp] theorem execResize_completes (packet) : Completes (execResize packet s) :=
  movePacket_completes s packet

@[simp] theorem execMigrate_completes (packet) : Completes (execMigrate packet s) :=
  movePacket_completes s packet

@[simp] theorem execMeter_completes (packet) : Completes (execMeter packet s) :=
  platPacket_completes

@[simp] theorem execPartitionCreate_completes (packet) : Completes (execPartitionCreate packet s) := by
  fun_cases execPartitionCreate
  · exact completes_next _
  · exact completes_next _
  · exact platPacket_completes

-- Identity and locking

theorem afterAlgorithms_completes {s : State} {fn : Nat} {answer : State → State} : Completes (afterAlgorithms fn s answer) := by
  fun_cases afterAlgorithms <;> exact completes_next _

@[simp] theorem execGetDigests_completes (fn) : Completes (execGetDigests fn s) :=
  afterAlgorithms_completes

@[simp] theorem execGetCertificate_completes (fn request) : Completes (execGetCertificate fn request s) :=
  afterAlgorithms_completes

@[simp] theorem execChallenge_completes (fn request) : Completes (execChallenge fn request s) :=
  afterAlgorithms_completes

@[simp] theorem execGetMeasurements_completes (fn request) : Completes (execGetMeasurements fn request s) :=
  afterAlgorithms_completes

@[simp] theorem execKeyExchange_completes (fn request) : Completes (execKeyExchange fn request s) :=
  afterAlgorithms_completes

@[simp] theorem execGetCapabilities_completes (fn) (_request) : Completes (execGetCapabilities fn _request s) := by
  fun_cases execGetCapabilities <;> exact completes_next _

@[simp] theorem execNegotiateAlgorithms_completes (fn) (_request) : Completes (execNegotiateAlgorithms fn _request s) := by
  fun_cases execNegotiateAlgorithms <;> exact completes_next _

@[simp] theorem execFinish_completes (fn) : Completes (execFinish fn s) := by
  fun_cases execFinish <;> exact completes_next _

@[simp] theorem execEndSession_completes (fn) : Completes (execEndSession fn s) := by
  fun_cases execEndSession <;> exact completes_next _

@[simp] theorem execAmend_completes (fn) (a) : Completes (execAmend fn a s) := by
  fun_cases execAmend <;> exact completes_next _

@[simp] theorem execLockInterfaceRequest_completes (fn) : Completes (execLockInterfaceRequest fn s) := by
  fun_cases execLockInterfaceRequest <;> exact completes_next _

@[simp] theorem execGetDeviceInterfaceReport_completes (fn) : Completes (execGetDeviceInterfaceReport fn s) := by
  fun_cases execGetDeviceInterfaceReport <;> exact completes_next _

@[simp] theorem execGetDeviceInterfaceState_completes (fn) : Completes (execGetDeviceInterfaceState fn s) := by
  fun_cases execGetDeviceInterfaceState <;> exact completes_next _

@[simp] theorem execStartInterfaceRequest_completes (fn) : Completes (execStartInterfaceRequest fn s) := by
  fun_cases execStartInterfaceRequest <;> exact completes_next _

@[simp] theorem execStopInterfaceRequest_completes (fn) : Completes (execStopInterfaceRequest fn s) := by
  fun_cases execStopInterfaceRequest <;> exact completes_next _

-- The module

@[simp] theorem execClockAdjust_completes (ahead) (units) : Completes (execClockAdjust ahead units s) := by
  fun_cases execClockAdjust <;> exact completes_next _

@[simp] theorem execColdReset_completes (dev) (err) (bad) (lanes) : Completes (execColdReset dev err bad lanes s) := by
  fun_cases execColdReset <;> exact completes_next _

@[simp] theorem execVfFlr_completes (fn) : Completes (execVfFlr fn s) := by
  fun_cases execVfFlr <;> exact completes_next _

@[simp] theorem execPartitionRestart_completes (fn) : Completes (execPartitionRestart fn s) := by
  fun_cases execPartitionRestart <;> exact completes_next _

-- Registers

@[simp] theorem execScopepolWrite_completes (fn) (value) : Completes (execScopepolWrite fn value s) := by
  fun_cases execScopepolWrite <;> exact completes_next _

@[simp] theorem execAqibindWrite_completes (fn) (q) (value) : Completes (execAqibindWrite fn q value s) := by
  fun_cases execAqibindWrite <;> exact completes_next _

@[simp] theorem execNaqiWrite_completes (fn) (value) : Completes (execNaqiWrite fn value s) := by
  fun_cases execNaqiWrite <;> exact completes_next _

theorem intrWrite_completes (fn i off v : Nat) : Completes (intrWrite s fn i off v) := by
  fun_cases intrWrite <;> exact completes_next _

theorem ownWrite_completes (fn off width : Nat) (value : Word) : Completes (ownWrite fn off width value s) := by
  fun_cases ownWrite
  case case10 => exact intrWrite_completes ..
  all_goals exact completes_next _

theorem faultBlockWrite_completes (fn off width v : Nat) : Completes (faultBlockWrite fn off width v s) := by
  fun_cases faultBlockWrite <;> exact completes_next _

theorem schedBlockWrite_completes (fn off v : Nat) : Completes (schedBlockWrite fn off v s) := by
  fun_cases schedBlockWrite <;> exact completes_next _

theorem controlBlockWrite_completes (fn off v : Nat) : Completes (controlBlockWrite fn off v s) := by
  fun_cases controlBlockWrite
  case case1 => exact execScopepolWrite_completes ..
  case case4 => exact execNaqiWrite_completes ..
  case case8 => exact execAqibindWrite_completes ..
  all_goals exact completes_next _

theorem pfWrite_completes (off width v : Nat) : Completes (pfWrite off width v s) := by
  fun_cases pfWrite
  case case1 => exact faultBlockWrite_completes ..
  case case10 => exact schedBlockWrite_completes ..
  case case12 => exact controlBlockWrite_completes ..
  all_goals exact completes_next _

theorem notifyWrite_completes (fn q off width v : Nat) : Completes (notifyWrite fn q off width v s) := by
  fun_cases notifyWrite
  case case2 => exact execTailWrite_completes ..
  case case3 => exact execAqiArm_completes ..
  case case4 => exact execAqiPause_completes ..
  case case5 => exact execAqiResume_completes ..
  all_goals exact completes_next _

@[simp] theorem execRegisterWrite_completes (fn offset width value) : Completes (execRegisterWrite fn offset width value s) := by
  fun_cases execRegisterWrite
  · exact completes_next _
  · exact notifyWrite_completes ..
  · exact pfWrite_completes ..
  · exact ownWrite_completes ..

-- Every event

/-- An event answers a next state from every state: the first of them without looking at it, the others as the lemmas above say. -/
theorem perform_completes (e : Event) : Completes (perform e s) := by
  cases e with
  | issueOpportunity | instructionLineArrival | plumbPhaseComplete | waitRecheck | collectiveStart | promotionAck | dropAck
  | stateQuery | abortedHoldExpiry | traceStallRelease | powerStep | thermalTrip | clockLock | laneRetired
  | uncorrectableError | sharedLogicError | pfFlr | vfEnableClear | hostMemWrite | fabricLinkFailure | peerReady | getVersion
  | getTdispVersion | getTdispCapabilities | vfConfigWrite | biasToHost | biasToDevice | traceSetRing | traceDetachRing
  | traceSetShareRing | traceDetachShareRing | s1InvalidatePage | s1InvalidateAll | intrEntryUnmask | cscountClear
  | frctlWrite | dhctlOvfClear | errstatSharedClear | refusalCounterClear | routeTableWrite | correctableError =>
    exact completes_next _
  | _ => simp [perform]

end

-- What a lane hands over

theorem form_of_op11 {i : Instr} {op : Nat} (h : i.op11 = some op) : i.form ≠ .event := by
  intro he
  simp [Instr.op11, he] at h

/-- What decoding passes names an opcode, so no event is among it. -/
theorem form_of_decodeFault {ctx : Nat → Nat → Bool} {l : List (Except Reject Instr × Nat)} (h : decodeFault ctx l = none)
    {ds : List (Except Reject Instr)} (hds : l.map Prod.fst = ds) {i : Instr} (hi : .ok i ∈ ds) : i.form ≠ .event := by
  subst hds
  obtain ⟨r, hr, hri⟩ := List.mem_map.mp hi
  cases ho : i.op11 with
  | some op => exact form_of_op11 ho
  | none =>
    have hany : (l.any fun x => (opOf x.1).isNone) = true := List.any_eq_true.mpr ⟨r, hr, by simp [hri, opOf, ho]⟩
    simp [decodeFault, hany] at h

@[simp] theorem strands_emitStrand (s : State) (k : Nat) (st : Strand) (code low : Nat) :
    (s.emitStrand k st code low).strands = s.strands := by
  unfold State.emitStrand
  split <;> rfl

/-- The strand that a lane has made ready executes. -/
theorem acts_prepare (s : State) (k : Nat) (st : Strand) (base : Word) (off p : Nat) :
    Acts (prepare s k st base off p) k
      { bufUse st base with seq := seqAfter base.toNat off p, turn := false, undo := none, arrival := .sequential } :=
  ⟨rfl, by simp [prepare, State.strand, State.setStrand]⟩

theorem Acts.updStrand {s : State} {k : Nat} {st : Strand} (h : Acts s k st) (g : Strand → Strand) :
    Acts (s.updStrand k g) k (g st) :=
  ⟨h.1, by simp [h.2]⟩

theorem Acts.hasActor {s : State} {k : Nat} {st : Strand} (h : Acts s k st) : HasActor s := ⟨k, st, h⟩

/-- What a lane hands over can be executed: a strand executes, and no instruction of it is an event. -/
def Fetched.Ready : Fetched → Prop
  | .done _ => True
  | .one t i => HasActor t ∧ i.form ≠ .event
  | .pair t u n => HasActor t ∧ u.form ≠ .event ∧ n.form ≠ .event

theorem decodeStep_ready (s : State) (lane k : Nat) (st : Strand) (base : Word) (l : BitVec 512) :
    (decodeStep s lane k st base l).Ready := by
  fun_cases decodeStep
  case case5 hd i hi => exact ⟨(acts_prepare ..).hasActor, form_of_decodeFault hd hi (by simp)⟩
  case case8 hd i j hij u n _ _ =>
    have hform : i.form ≠ .event ∧ j.form ≠ .event :=
      ⟨form_of_decodeFault hd hij (by simp), form_of_decodeFault hd hij (by simp)⟩
    refine ⟨((acts_prepare ..).updStrand _).hasActor, ?_⟩
    by_cases hu : isUniform i = true
    · simpa [u, n, hu] using hform
    · simpa [u, n, hu] using hform.symm
  all_goals trivial

theorem fetchStep_ready (s : State) (lane k : Nat) (st : Strand) : (fetchStep s lane k st).Ready := by
  fun_cases fetchStep
  case case5 => exact decodeStep_ready ..
  case case7 => exact decodeStep_ready ..
  all_goals trivial

theorem laneStep_ready (s : State) (lane : Nat) : (laneStep s lane).Ready := by
  fun_cases laneStep
  case case4 => exact fetchStep_ready ..
  all_goals trivial

-- The step

theorem runOne_completes {k : Nat} {before : ForkPhase} {i : Instr} {s : State} (h : HasActor s) (hi : i.form ≠ .event) :
    Completes (runOne k before i s) := by
  obtain ⟨t, ht⟩ := exec_completes h hi
  rw [runOne, ht]
  exact completes_next _

/-- The second member of a pair executes for the strand that the first has left. -/
theorem runPair_completes {k : Nat} {before : ForkPhase} {u n : Instr} {s : State} (h : HasActor s) (hu : u.form ≠ .event)
    (hn : n.form ≠ .event) : Completes (runPair k before u n s) := by
  obtain ⟨t, ht⟩ := exec_completes h hu
  rw [runPair, ht]
  dsimp only
  split
  · rename_i st hst
    split
    · exact runOne_completes ⟨k, st, rfl, hst⟩ hn
    · exact completes_next _
  · exact completes_next _

theorem takeTurn_completes (s : State) (lane : Nat) : Completes (takeTurn s lane) := by
  have h := laneStep_ready s lane
  unfold takeTurn
  cases hl : laneStep s lane with
  | done t => exact completes_next _
  | one t i =>
    rw [hl] at h
    exact runOne_completes h.1 h.2
  | pair t u n =>
    rw [hl] at h
    exact runPair_completes h.1 h.2.1 h.2.2

theorem closeStep_completes {s : State} {e : Option Event} {o : Out} (h : Completes o) : Completes (closeStep s e o) := by
  obtain ⟨t, rfl⟩ := h
  exact completes_next _

theorem runEvent_completes (e : Event) (s : State) : Completes (runEvent e s) := by
  fun_cases runEvent
  · exact completes_next _
  · exact closeStep_completes (perform_completes s e)

theorem runMessage_completes (t : Nat) (e : Event) (s : State) : Completes (runMessage t e s) := by
  fun_cases runMessage
  · exact runEvent_completes ..
  · exact closeStep_completes (completes_next _)

/-- Settles O6: whichever of a timer, a message, an engine and a lane has the step, it answers a next state. -/
theorem stepCompletes : Obligations.StepCompletes := by
  intro s
  fun_cases step
  · exact runEvent_completes ..
  · exact runMessage_completes ..
  · exact runEvent_completes ..
  · exact completes_next _
  · exact runEvent_completes ..
  · exact closeStep_completes (takeTurn_completes ..)

end Sys2Proof.Machine

/-!
PROOFS. The encoding: the spec's own words (O3), and an instruction that decoding does not give back (O4).
-/
namespace Sys2Proof.Machine

/-- Settles O3: decoding computes each of the words. -/
theorem decodeWords : Obligations.DecodeWords := by
  unfold Obligations.DecodeWords
  refine ⟨?nopC, ?nopCWithA, ?vaddC, ?vmul, ?add, ?zero⟩ <;> rfl

/-- A `bbar` that has a reserved operand for its code. Its well-formedness looks at the operand's code only, and operand code 2 is
register 2. -/
def bbarOfReserved : Instr := .bbar ⟨.next, false, 0, .none, .none, ⟨.rsv 2, false⟩, .i8, 0, 0⟩

theorem decode_encode_bbarOfReserved :
    decode (encode bbarOfReserved) = .ok (.bbar ⟨.next, false, 0, .none, .none, ⟨.reg 2, false⟩, .i8, 0, 0⟩) := by
  rfl

/-- Refutes O4: `Instr.wf` admits a `bbar` whose code is the reserved operand 2, and decoding its bits gives the `bbar` whose
code is register 2. -/
theorem not_decodeEncode : ¬ Obligations.DecodeEncode := by
  intro h
  have hsame := h bbarOfReserved (by decide) (by decide)
  rw [decode_encode_bbarOfReserved] at hsame
  exact absurd (Except.ok.inj hsame) (by decide)

end Sys2Proof.Machine

/-!
PROOFS. What a vector instruction leaves (O12): bits of numbers, the registers and marks that the accessors read back after a write,
and then the parts of `vectorWrite` in their order.
-/
namespace Sys2Proof.Machine

-- Bits of numbers

theorem bitOf_eq_testBit (x i : Nat) : bitOf x i = x.testBit i := by
  rw [bitOf, Nat.testBit_eq_decide_div_mod_eq]
  rfl

theorem mem_rangeFrom {a n j : Nat} : j ∈ rangeFrom a n ↔ a ≤ j ∧ j < a + n := by
  induction n generalizing a with
  | zero => simp [rangeFrom]
  | succ n ih => simp only [rangeFrom, List.mem_cons, ih]; omega

@[simp] theorem mem_upto {n j : Nat} : j ∈ upto n ↔ j < n := by
  simp [upto, mem_rangeFrom]

/-- A power of two that is added to a number without its bit sets that bit. -/
theorem testBit_add_two_pow {m i : Nat} (h : m.testBit i = false) (j : Nat) :
    (m + 2 ^ i).testBit j = (decide (j = i) || m.testBit j) := by
  have hr : m % 2 ^ i < 2 ^ i := Nat.mod_lt _ (Nat.two_pow_pos i)
  have heven : m / 2 ^ i % 2 = 0 := by simpa [Nat.testBit_eq_decide_div_mod_eq] using h
  have hm : m.testBit j = (2 ^ i * (m / 2 ^ i) + m % 2 ^ i).testBit j := by rw [Nat.div_add_mod]
  have hadd : m + 2 ^ i = 2 ^ i * (m / 2 ^ i + 1) + m % 2 ^ i := by
    rw [Nat.mul_add, Nat.mul_one, Nat.add_right_comm, Nat.div_add_mod]
  rw [hm, hadd, Nat.testBit_two_pow_mul_add _ hr, Nat.testBit_two_pow_mul_add _ hr]
  rcases Nat.lt_trichotomy j i with hji | rfl | hij
  · simp [hji, Nat.ne_of_lt hji]
  · simp [Nat.testBit_zero]; omega
  · obtain ⟨d, rfl⟩ := Nat.exists_eq_add_of_lt hij
    have hhalf : (m / 2 ^ i + 1) / 2 = m / 2 ^ i / 2 := by omega
    have hd : i + d + 1 - i = d + 1 := by omega
    simp [hd, Nat.testBit_add_one, hhalf, show ¬ i + d + 1 < i by omega, show ¬ i + d + 1 = i by omega]

theorem testBit_maskOf (l : List Nat) (j : Nat) : (maskOf l).testBit j = decide (j ∈ l) := by
  induction l with
  | nil => simp [maskOf]
  | cons i l ih =>
    simp only [maskOf, bitOf_eq_testBit]
    split
    next hi =>
      by_cases hj : j = i
      · simp [hj, hi]
      · simp [ih, hj]
    next hi =>
      rw [testBit_add_two_pow (by simpa using hi), ih]
      simp

theorem bits_putBits_same (x lo n v : Nat) : bits (putBits x lo n v) lo n = v % 2 ^ n := by
  have hv : v % 2 ^ n < 2 ^ n := Nat.mod_lt _ (Nat.two_pow_pos n)
  have hput : putBits x lo n v = x % 2 ^ lo + 2 ^ lo * (2 ^ n * (x / 2 ^ lo / 2 ^ n) + v % 2 ^ n) := by
    have hx := Nat.div_add_mod x (2 ^ lo)
    have hq := Nat.div_add_mod (x / 2 ^ lo) (2 ^ n)
    have hcut : x = x % 2 ^ lo + 2 ^ lo * (2 ^ n * (x / 2 ^ lo / 2 ^ n)) + bits x lo n * 2 ^ lo := by
      rw [bits]
      calc x = x % 2 ^ lo + 2 ^ lo * (x / 2 ^ lo) := by omega
        _ = x % 2 ^ lo + 2 ^ lo * (2 ^ n * (x / 2 ^ lo / 2 ^ n) + x / 2 ^ lo % 2 ^ n) := by rw [hq]
        _ = _ := by rw [Nat.mul_add, Nat.mul_comm (2 ^ lo) (x / 2 ^ lo % 2 ^ n), Nat.add_assoc]
    rw [putBits, Nat.sub_eq_of_eq_add hcut, Nat.mul_add, Nat.mul_comm (2 ^ lo) (v % 2 ^ n), Nat.add_assoc]
  rw [bits, hput, Nat.add_mul_div_left _ _ (Nat.two_pow_pos lo), Nat.div_eq_of_lt (Nat.mod_lt _ (Nat.two_pow_pos lo)),
    Nat.zero_add, Nat.mul_add_mod, Nat.mod_eq_of_lt hv]

-- Registers and latches

theorem VReg.get_ofFn (f : Nat → Word × Bool) {t : Nat} (h : t < 32) : (VReg.ofFn f).get t = (f t).1 := by
  simp [VReg.get, VReg.ofFn, h]

theorem VReg.marked_ofFn (f : Nat → Word × Bool) {t : Nat} (h : t < 32) : (VReg.ofFn f).marked t = (f t).2 := by
  rw [VReg.marked, VReg.ofFn, BitVec.getLsbD_ofNat, testBit_maskOf]
  simp [h]

theorem smark_setS_same (y : Strand) {n : Nat} (x : Word) (b : Bool) (h : n < 64) : (y.setS n x b).smark n = b := by
  have hbit := bits_putBits_same y.sm.toNat n 1 (b2n b)
  simp only [Strand.smark, Strand.setS, BitVec.getLsbD_ofNat, Nat.testBit_eq_decide_div_mod_eq, h]
  cases b <;> simp_all [bits, b2n]

@[simp] theorem pushLatch_latch_zero (st : Strand) (r : VReg) : (pushLatch st r).latch 0 = r := rfl
@[simp] theorem pushLatch_latch_one (st : Strand) (r : VReg) : (pushLatch st r).latch 1 = st.latch 0 := rfl
@[simp] theorem pushLatch_latch_two (st : Strand) (r : VReg) : (pushLatch st r).latch 2 = st.latch 1 := rfl
@[simp] theorem pushLatch_latch_three (st : Strand) (r : VReg) : (pushLatch st r).latch 3 = st.latch 2 := rfl

@[simp] theorem pushLatch_vreg (st : Strand) (r : VReg) (n : Nat) : (pushLatch st r).vreg n = st.vreg n := rfl

theorem vreg_congr {y w : Strand} (h : y.v = w.v) (n : Nat) : y.vreg n = w.vreg n := by
  rw [Strand.vreg, Strand.vreg, h]

theorem latch_congr {y w : Strand} (h : y.lat = w.lat) (n : Nat) : y.latch n = w.latch n := by
  rw [Strand.latch, Strand.latch, h]

-- The merged result

theorem mergeActive_active {em : Half} {t : Nat} (ht : t < 32) (ha : activeIn em t = true) (old : Option VReg)
    (val : Nat → Word × Bool) :
    (mergeActive em old val).get t = (val t).1 ∧ (mergeActive em old val).marked t = (val t).2 := by
  simp [mergeActive, VReg.get_ofFn _ ht, VReg.marked_ofFn _ ht, ha]

theorem mergeActive_inactive {em : Half} {t : Nat} (ht : t < 32) (ha : activeIn em t = false) (o : VReg)
    (val : Nat → Word × Bool) :
    (mergeActive em (some o) val).get t = o.get t ∧ (mergeActive em (some o) val).marked t = o.marked t := by
  simp [mergeActive, VReg.get_ofFn _ ht, VReg.marked_ofFn _ ht, ha]

theorem mergeActive_inactive_none {em : Half} {t : Nat} (ht : t < 32) (ha : activeIn em t = false)
    (val : Nat → Word × Bool) : (mergeActive em none val).get t = 0 ∧ (mergeActive em none val).marked t = false := by
  simp [mergeActive, VReg.get_ofFn _ ht, VReg.marked_ofFn _ ht, ha]

-- The destination and the latches

/-- What `writeVector` gives b1, which D receives too without NW. -/
def vectorResult (st : Strand) (f : Fields) (val : Nat → Word × Bool) : VReg :=
  mergeActive st.em (if f.nw then none else st.vreg f.d.toNat) val

theorem writeVector_of_nw {f : Fields} (h : f.nw = true) (st : Strand) (val : Nat → Word × Bool) :
    writeVector st f val = pushLatch st (vectorResult st f val) := by
  simp [writeVector, vectorResult, h]

theorem writeVector_of_not_nw {f : Fields} (h : f.nw = false) (st : Strand) (val : Nat → Word × Bool) :
    writeVector st f val =
      pushLatch (st.setV f.d.toNat (some (vectorResult st f val))) (vectorResult st f val) := by
  simp [writeVector, vectorResult, h]

theorem writeVector_latches (st : Strand) (f : Fields) (val : Nat → Word × Bool) :
    let w := writeVector st f val
    w.latch 0 = vectorResult st f val ∧ w.latch 1 = st.latch 0 ∧ w.latch 2 = st.latch 1 ∧ w.latch 3 = st.latch 2 := by
  cases h : f.nw with
  | true => rw [writeVector_of_nw h]; exact ⟨rfl, rfl, rfl, rfl⟩
  | false => rw [writeVector_of_not_nw h]; exact ⟨rfl, rfl, rfl, rfl⟩

theorem writeVector_vreg_self {f : Fields} (h : f.nw = false) (st : Strand) (val : Nat → Word × Bool) :
    (writeVector st f val).vreg f.d.toNat = some (vectorResult st f val) := by
  rw [writeVector_of_not_nw h, pushLatch_vreg, vreg_setV _ _ _ _ f.d.isLt, if_pos rfl]

theorem writeVector_vreg_of_ne {f : Fields} {n : Nat} (hn : n < 64) (hd : n ≠ f.d.toNat) (st : Strand)
    (val : Nat → Word × Bool) : (writeVector st f val).vreg n = st.vreg n := by
  cases h : f.nw with
  | true => rw [writeVector_of_nw h]; rfl
  | false => rw [writeVector_of_not_nw h, pushLatch_vreg, vreg_setV _ _ _ _ hn, if_neg hd]

/-- Besides the destination and the latches, `writeVector` leaves the strand. -/
theorem writeVector_frame (st : Strand) (f : Fields) (val : Nat → Word × Bool) :
    ∃ v lat, writeVector st f val = { st with v := v, lat := lat } := by
  cases h : f.nw with
  | true => exact ⟨_, _, writeVector_of_nw h st val⟩
  | false => exact ⟨_, _, writeVector_of_not_nw h st val⟩

-- The whole of what an instruction leaves

/-- The strand with the destination, the latches and the generators written. -/
def vectorWritten (st : Strand) (f : Fields) (r : VOut) : Strand := writeVector { st with gens := r.gens } f r.val

/-- That strand with the last reads marked. -/
def markVectorReads (st : Strand) (f : Fields) (os : List Opd) (r : VOut) : Strand :=
  markLastReads (vectorWritten st f r) os (if f.nw then none else some f.d.toNat)

theorem chainMember_eq (st : Strand) (c : Bool) :
    ∃ pos head, chainMember st c = { st with chainPos := pos, chainHead := head } := by
  cases c <;> exact ⟨_, _, rfl⟩

/-- With a mask and a mask destination, the mask goes there; the rest is the chain's bookkeeping. -/
theorem vectorWrite_of_mask {f : Fields} {r : VOut} {m : Half} {n : BitVec 6} (hm : r.mask = some m)
    (hc : f.c.spec = .bcast n) (st : Strand) (os : List Opd) : ∃ frees pos head, vectorWrite st f os r =
      { (vectorWritten st f r).setS n.toNat (m.setWidth 64) false with
        chainFrees := frees, chainPos := pos, chainHead := head } := by
  obtain ⟨pos, head, hx⟩ := chainMember_eq ((markVectorReads st f os r).setS n.toNat (m.setWidth 64) false)
    (!(os.flatMap latchesOf).isEmpty)
  refine ⟨(markVectorReads st f os r).chainFrees, pos, head, ?_⟩
  simp only [vectorWrite, hm, hc]
  exact hx

/-- Without them, all but the chain's bookkeeping stands. -/
theorem vectorWrite_of_no_mask {f : Fields} {r : VOut} (h : r.mask = none ∨ ∀ n, f.c.spec ≠ .bcast n) (st : Strand)
    (os : List Opd) : ∃ frees pos head, vectorWrite st f os r =
      { vectorWritten st f r with chainFrees := frees, chainPos := pos, chainHead := head } := by
  obtain ⟨pos, head, hx⟩ := chainMember_eq (markVectorReads st f os r) (!(os.flatMap latchesOf).isEmpty)
  refine ⟨(markVectorReads st f os r).chainFrees, pos, head, ?_⟩
  refine Eq.trans ?_ hx
  rw [vectorWrite]
  split
  next hm hc => exact absurd hc (h.resolve_left (by simp [hm]) _)
  next => rfl

/-- What the mask destination does not touch. -/
theorem vectorWrite_kept (st : Strand) (f : Fields) (os : List Opd) (r : VOut) :
    let y := vectorWrite st f os r
    y.v = (vectorWritten st f r).v ∧ y.lat = (vectorWritten st f r).lat
    ∧ y.em = st.em ∧ y.uc = st.uc ∧ y.gens = r.gens ∧ y.h = st.h ∧ y.lr = st.lr ∧ y.fl = st.fl := by
  obtain ⟨v, lat, hw⟩ := writeVector_frame { st with gens := r.gens } f r.val
  by_cases h : ∃ m n, r.mask = some m ∧ f.c.spec = .bcast n
  · obtain ⟨m, n, hm, hc⟩ := h
    obtain ⟨_, _, _, hy⟩ := vectorWrite_of_mask hm hc st os
    rw [hy, vectorWritten, hw]
    exact ⟨rfl, rfl, rfl, rfl, rfl, rfl, rfl, rfl⟩
  · have hno : r.mask = none ∨ ∀ n, f.c.spec ≠ .bcast n := by
      cases hm : r.mask with
      | none => exact .inl rfl
      | some m => exact .inr fun n hc => h ⟨m, n, hm, hc⟩
    obtain ⟨_, _, _, hy⟩ := vectorWrite_of_no_mask hno st os
    rw [hy, vectorWritten, hw]
    exact ⟨rfl, rfl, rfl, rfl, rfl, rfl, rfl, rfl⟩

theorem vectorWritten_uniform (st : Strand) (f : Fields) (r : VOut) :
    (vectorWritten st f r).s = st.s ∧ (vectorWritten st f r).sm = st.sm := by
  obtain ⟨v, lat, hw⟩ := writeVector_frame { st with gens := r.gens } f r.val
  rw [vectorWritten, hw]
  exact ⟨rfl, rfl⟩

theorem sreg_congr {y w : Strand} (h : y.s = w.s) (n : Nat) : y.sreg n = w.sreg n := by
  rw [Strand.sreg, Strand.sreg, h]

/-- The mask destination receives the mask, and the other uniform registers stand. -/
theorem vectorWrite_mask {f : Fields} {r : VOut} {m : Half} {n : BitVec 6} (hm : r.mask = some m) (hc : f.c.spec = .bcast n)
    (st : Strand) (os : List Opd) :
    let y := vectorWrite st f os r
    y.sreg n.toNat = m.setWidth 64 ∧ y.smark n.toNat = false ∧ ∀ j, j < 64 → j ≠ n.toNat → y.sreg j = st.sreg j := by
  obtain ⟨_, _, _, hy⟩ := vectorWrite_of_mask hm hc st os
  have hreg (j : Nat) : (vectorWrite st f os r).sreg j =
      ((vectorWritten st f r).setS n.toNat (m.setWidth 64) false).sreg j := by rw [hy]; rfl
  have hmark : (vectorWrite st f os r).smark n.toNat =
      ((vectorWritten st f r).setS n.toNat (m.setWidth 64) false).smark n.toNat := by rw [hy]; rfl
  refine ⟨?_, ?_, fun j hj hne => ?_⟩
  · rw [hreg, sreg_setS _ _ _ _ _ n.isLt, if_pos rfl]
  · rw [hmark, smark_setS_same _ _ _ n.isLt]
  · rw [hreg, sreg_setS _ _ _ _ _ hj, if_neg hne, sreg_congr (vectorWritten_uniform st f r).1]

/-- D without NW: the results of the active threads, and in the others what D held. -/
theorem vectorResult_merges {f : Fields} (h : f.nw = false) (st : Strand) (val : Nat → Word × Bool) {t : Nat} (ht : t < 32) :
    let v := vectorResult st f val
    (activeIn st.em t = true → v.get t = (val t).1 ∧ v.marked t = (val t).2)
    ∧ (activeIn st.em t = false → (∀ o, st.vreg f.d.toNat = some o → v.get t = o.get t ∧ v.marked t = o.marked t)
      ∧ (st.vreg f.d.toNat = none → v.get t = 0 ∧ v.marked t = false)) := by
  simp only [vectorResult, h]
  refine ⟨fun ha => mergeActive_active ht ha _ _, fun ha => ⟨fun o ho => ?_, fun hn => ?_⟩⟩
  · simpa [ho] using mergeActive_inactive ht ha o val
  · simpa [hn] using mergeActive_inactive_none ht ha val

/-- With NW: the results of the active threads, and zero in the others. -/
theorem vectorResult_of_nw {f : Fields} (h : f.nw = true) (st : Strand) (val : Nat → Word × Bool) {t : Nat} (ht : t < 32) :
    let v := vectorResult st f val
    (activeIn st.em t = true → v.get t = (val t).1 ∧ v.marked t = (val t).2)
    ∧ (activeIn st.em t = false → v.get t = 0 ∧ v.marked t = false) := by
  simp only [vectorResult, h]
  exact ⟨fun ha => mergeActive_active ht ha _ _, fun ha => mergeActive_inactive_none ht ha _⟩

/-- Settles O12: the destination and the latches are those of `writeVector`, which the mask destination and the chain's
bookkeeping leave. -/
theorem vectorDestination : Obligations.VectorDestination := by
  intro st f os r
  obtain ⟨hv, hlat, hrest⟩ := vectorWrite_kept st f os r
  obtain ⟨hb1, hb2, hb3, hb4⟩ := writeVector_latches { st with gens := r.gens } f r.val
  have hlatch (n : Nat) : (vectorWrite st f os r).latch n = (vectorWritten st f r).latch n := latch_congr hlat n
  have hvreg (n : Nat) : (vectorWrite st f os r).vreg n = (vectorWritten st f r).vreg n := vreg_congr hv n
  refine ⟨fun hnw => ⟨_, (hvreg _).trans (writeVector_vreg_self hnw _ _), (hlatch 0).trans hb1,
      fun t ht => vectorResult_merges hnw { st with gens := r.gens } r.val ht⟩,
    fun hnw => ⟨?_, fun t ht => ?_⟩, (hlatch 1).trans hb2, (hlatch 2).trans hb3, (hlatch 3).trans hb4,
    fun n hn hd => (hvreg n).trans (writeVector_vreg_of_ne hn hd _ _),
    fun m n hm hc => vectorWrite_mask hm hc st os, fun hm => ?_, hrest⟩
  · rw [hv, vectorWritten, writeVector_of_nw hnw]
    rfl
  · rw [(hlatch 0).trans hb1]
    exact vectorResult_of_nw hnw { st with gens := r.gens } r.val ht
  · obtain ⟨_, _, _, hy⟩ := vectorWrite_of_no_mask (.inl hm) st os
    rw [hy]
    exact vectorWritten_uniform st f r

end Sys2Proof.Machine

/-!
PROOFS. A step runs the instruction that its lane decodes (O2): what stands at the strand's address, what decoding hands over, the
fetch that reaches decoding, and the step around it.
-/
namespace Sys2Proof.Machine

-- What stands at an address

theorem addressOk_offset {st : Strand} (h : addressOk st = true) : 4 ≤ st.pc.toNat % 64 := by
  simp only [addressOk, Bool.and_eq_true, beq_iff_eq, bne_iff_ne] at h
  omega

section
variable {l : BitVec 512} {off : Nat} (hoff : 4 ≤ off)
include hoff

theorem instrsAt_single {q : Nat × Nat} (hp : pairBit l ((off - 4) / 12) = false)
    (hq : (startsOf l ((off - 4) / 12)).1.find? (fun x => x.1 == (off - 4) % 12 / 4) = some q) :
    instrsAt l off = some ([decodeWithF l ((off - 4) / 12) q.1 q.2], q.1 + q.2) := by
  simp only [instrsAt, if_neg (Nat.not_lt.mpr hoff), hp, hq]
  rfl

theorem instrsAt_pair {q q2 : Nat × Nat} (hp : pairBit l ((off - 4) / 12) = true) (h0 : (off - 4) % 12 = 0)
    (hq : (startsOf l ((off - 4) / 12)).1 = [q, q2]) :
    instrsAt l off = some
      ([decodeWithF l ((off - 4) / 12) q.1 q.2, decodeWithF l ((off - 4) / 12) q2.1 q2.2], 3) := by
  simp [instrsAt, Nat.not_lt.mpr hoff, hp, hq, h0]

end

/-- A part that decodes, with its field F. -/
theorem decodeWithF_of_ok {l : BitVec 512} {n : Nat} {q : Nat × Nat} {i : Instr}
    (h : decode (bits (slotAt l n) (32 * q.1) (32 * q.2)) = .ok i) :
    decodeWithF l n q.1 q.2 = (.ok i, bits (slotAt l n) (32 * q.1 + 58) 6) := by
  rw [← h]
  rfl

-- What decoding hands over

section
variable {s : State} {lane k : Nat} {st : Strand} {base : Word} {l : BitVec 512}

theorem decodeStep_one {i : Instr} {x p : Nat} (hi : instrsAt l (st.pc.toNat % 64) = some ([(.ok i, x)], p))
    (hchain : inChain st = true → readsLatch i = true) (hpre : duePreempt st = true → readsLatch i = true)
    (hf : decodeFault (contextFault s st) [(.ok i, x)] = none) :
    decodeStep s lane k st base l = .one (prepare s k st base (st.pc.toNat % 64) p) i := by
  have h1 : (!readsLatch i && duePreempt st) = false := by
    cases h : duePreempt st <;> simp_all
  have h2 : (inChain st && !readsLatch i) = false := by
    cases h : inChain st <;> simp_all
  simp [decodeStep, hi, h1, h2, hf]

theorem decodeStep_pair {i j : Instr} {x y p : Nat}
    (hi : instrsAt l (st.pc.toNat % 64) = some ([(.ok i, x), (.ok j, y)], p))
    (hli : readsLatch i = false) (hlj : readsLatch j = false) (hchain : inChain st = false) (hpre : duePreempt st = false)
    (hf : decodeFault (contextFault s st) [(.ok i, x), (.ok j, y)] = none)
    (hnx : nxOf (if isUniform i then i else j) = .next) :
    decodeStep s lane k st base l =
      .pair ((prepare s k st base (st.pc.toNat % 64) p).updStrand k fun x => { x with pair := .gather })
        (if isUniform i then i else j) (if isUniform i then j else i) := by
  simp [decodeStep, hi, hli, hlj, hchain, hpre, hf, hnx]

-- The fetch

/-- An arrival that fetching lets pass: on the sequential path, by a return from a trap, or at a parcel marked as a target. -/
def Arrives (st : Strand) (l : BitVec 512) : Prop :=
  st.arrival = .sequential ∨ st.arrival = .tret
    ∨ ((∃ a, st.arrival = .target a) ∧ l.getLsbD (11 + (st.pc.toNat % 64 - 4) / 4) = true)

/-- The strand that is decoded for: that of the lane, but for how it arrived, which `prepare` writes anyway. -/
theorem fetchStep_decodes {b : BufLine} (ha : addressOk st = true) (hb : bufLine st (lineBase st.pc) = some b)
    (harr : Arrives st b.line) (hl : lineFault b.line = none) :
    ∃ arrival undo, fetchStep s lane k st =
      decodeStep s lane k { st with arrival := arrival, undo := undo } (lineBase st.pc) b.line := by
  have hplain (h : st.arrival = .sequential ∨ st.arrival = .tret) :
      fetchStep s lane k st = decodeStep s lane k st (lineBase st.pc) b.line := by
    rcases h with h | h <;> simp [fetchStep, ha, hb, h, hl]
  rcases harr with h | h | ⟨⟨a, h⟩, hm⟩
  · exact ⟨st.arrival, st.undo, hplain (.inl h)⟩
  · exact ⟨st.arrival, st.undo, hplain (.inr h)⟩
  · exact ⟨.sequential, none, by simp [fetchStep, ha, hb, h, hl, hm]⟩

theorem laneStep_of_held (hh : heldBy s lane = some (k, st)) (hw : st.wait = .none) (ht : st.turn = true) :
    laneStep s lane = fetchStep s lane k st := by
  simp [laneStep, hh, hw, ht]

end

-- The step around it

theorem step_takes_turn {s0 s : State} {lane : Nat} (hd : dueTimer (beginStep s0) = none) (hq : (beginStep s0).queue = [])
    (hm : nextMover (beginStep s0) = some (lane, s)) (he : dueEngine (beginStep s0) true = none) :
    step s0 = closeStep (beginStep s0) none (takeTurn s lane) := by
  simp only [step, hd, hq, hm, he]

theorem Acts.actOf {t : State} {k : Nat} {st : Strand} (h : Acts t k st) : actOf t = k := by
  simp [Machine.actOf, h.1]

theorem Acts.phaseOf {t : State} {k : Nat} {st : Strand} (h : Acts t k st) : phaseOf t = st.fork.phase := by
  simp [Machine.phaseOf, h.actOf, h.2]

theorem takeTurn_one {s t : State} {lane k : Nat} {st : Strand} {i : Instr} (hl : laneStep s lane = .one t i)
    (h : Acts t k st) : takeTurn s lane = runOne k st.fork.phase i t := by
  simp only [takeTurn, hl, h.actOf, h.phaseOf]

theorem takeTurn_pair {s t : State} {lane k : Nat} {st : Strand} {u n : Instr} (hl : laneStep s lane = .pair t u n)
    (h : Acts t k st) : takeTurn s lane = runPair k st.fork.phase u n t := by
  simp only [takeTurn, hl, h.actOf, h.phaseOf]

/-- Settles O2: the fetch reaches decoding, decoding hands over what stands at the address, and the step runs what was handed
over. -/
theorem stepRunsInstruction : Obligations.StepRunsInstruction := by
  intro s k lane st b q i off n t hheld hwait hturn haddr hbuf harr hline part code turns
  have hoff : 4 ≤ off := addressOk_offset haddr
  obtain ⟨arrival, undo, hfetch⟩ := fetchStep_decodes (s := s) (lane := lane) (k := k) haddr hbuf harr hline
  have hlane := (laneStep_of_held hheld hwait hturn).trans hfetch
  constructor
  · intro hpair hfind hpart hchain hpre hfault
    have hat : instrsAt b.line off = some ([code i q], q.1 + q.2) := by
      rw [instrsAt_single hoff hpair hfind, decodeWithF_of_ok hpart]
    have hone : laneStep s lane = .one t i := hlane.trans (decodeStep_one hat hchain hpre hfault)
    refine ⟨hone, fun s0 hd hq hm he => ?_⟩
    rw [step_takes_turn hd hq hm he, takeTurn_one hone (acts_prepare ..)]
    rfl
  · intro q2 j hpair h0 hstarts hpart hpart2 hli hlj hchain hpre hfault u w t2 hnx
    have hat : instrsAt b.line off = some ([code i q, code j q2], 3) := by
      rw [instrsAt_pair hoff hpair h0 hstarts, decodeWithF_of_ok hpart, decodeWithF_of_ok hpart2]
    have htwo : laneStep s lane = .pair t2 u w := hlane.trans (decodeStep_pair hat hli hlj hchain hpre hfault hnx)
    refine ⟨htwo, fun s0 hd hq hm he => ?_⟩
    rw [step_takes_turn hd hq hm he, takeTurn_pair htwo ((acts_prepare ..).updStrand _)]
    rfl

end Sys2Proof.Machine

/-!
PROOFS. Elements of a word (O9): what a list of codes packs into, the code that an element of the word reads back as, and the exact
integer that a code stands for.
-/
namespace Sys2Proof

theorem Ty.width_mul_lanes (t : Ty) : t.width * t.lanes = 64 := by cases t <;> rfl

theorem Ty.width_pos (t : Ty) : 0 < t.width := by cases t <;> decide

end Sys2Proof

namespace Sys2Proof.Machine

-- Packed codes (R46)

theorem rangeFrom_eq_range' (a n : Nat) : rangeFrom a n = List.range' a n := by
  induction n generalizing a with
  | zero => rfl
  | succ n ih => rw [rangeFrom, List.range'_succ, ih]

theorem upto_eq_range (n : Nat) : upto n = List.range n := by
  rw [upto, rangeFrom_eq_range', List.range_eq_range']

theorem packCodes_lt (w : Nat) (cs : List Nat) : packCodes w cs < 2 ^ (w * cs.length) := by
  induction cs with
  | nil => simp [packCodes]
  | cons c cs ih =>
    have hc : c % 2 ^ w < 2 ^ w := Nat.mod_lt _ (Nat.two_pow_pos w)
    calc packCodes w (c :: cs) < 2 ^ w + 2 ^ w * packCodes w cs := Nat.add_lt_add_right hc _
      _ = 2 ^ w * (packCodes w cs + 1) := by rw [Nat.mul_add, Nat.mul_one, Nat.add_comm]
      _ ≤ 2 ^ w * 2 ^ (w * cs.length) := Nat.mul_le_mul_left _ ih
      _ = 2 ^ (w * (c :: cs).length) := by rw [← Nat.pow_add, List.length_cons, Nat.mul_succ, Nat.add_comm]

/-- The elements do not carry into each other. -/
theorem bits_packCodes (w : Nat) (cs : List Nat) (k : Nat) (h : k < cs.length) :
    bits (packCodes w cs) (w * k) w = cs[k] % 2 ^ w := by
  induction cs generalizing k with
  | nil => cases h
  | cons c cs ih =>
    have hc : c % 2 ^ w < 2 ^ w := Nat.mod_lt _ (Nat.two_pow_pos w)
    cases k with
    | zero => simp [bits, packCodes]
    | succ k =>
      have hdrop : packCodes w (c :: cs) / 2 ^ (w * (k + 1)) = packCodes w cs / 2 ^ (w * k) := by
        rw [packCodes, Nat.mul_succ, Nat.add_comm (w * k), Nat.pow_add, ← Nat.div_div_eq_div_mul,
          Nat.add_mul_div_left _ _ (Nat.two_pow_pos w), Nat.div_eq_of_lt hc, Nat.zero_add]
      rw [bits, hdrop]
      exact ih k (Nat.lt_of_succ_lt_succ h)

theorem field_wordOf {w : Nat} {cs : List Nat} (hfit : w * cs.length ≤ 64) {k : Nat} (hk : k < cs.length) :
    field (wordOf w cs) (w * k) w = cs[k] % 2 ^ w := by
  have hlt : packCodes w cs < 2 ^ 64 := Nat.lt_of_lt_of_le (packCodes_lt w cs) (Nat.pow_le_pow_right (by decide) hfit)
  rw [field, wordOf, BitVec.toNat_ofNat, Nat.mod_eq_of_lt hlt, bits_packCodes]

theorem elemCode_elements (t : Ty) (g : Nat → Nat) {k : Nat} (h : k < t.lanes) :
    elemCode t (elements t g) k = g k % 2 ^ t.width := by
  have hlen : ((List.range t.lanes).map g).length = t.lanes := by simp
  rw [elemCode, elements, upto_eq_range, field_wordOf (Nat.le_of_eq (by rw [hlen, t.width_mul_lanes])) (by rwa [hlen])]
  simp only [List.getElem_map, List.getElem_range]

-- Integers as codes (R47)

theorem wrapNat_cast (w : Nat) (x : Int) : (wrapNat w x : Int) = x % ((2 ^ w : Nat) : Int) :=
  Int.toNat_of_nonneg (Int.emod_nonneg _ (Int.natCast_ne_zero.mpr (Nat.ne_of_gt (Nat.two_pow_pos w))))

theorem wrapNat_lt (w : Nat) (x : Int) : wrapNat w x < 2 ^ w := by
  have h := Int.emod_lt_of_pos x (Int.natCast_pos.mpr (Nat.two_pow_pos w))
  rw [← wrapNat_cast] at h
  exact Int.ofNat_lt.mp h

/-- Two's complement reads an integer of its range back. -/
theorem signed_wrapNat {w : Nat} (hw : 0 < w) {x : Int} (hlo : -((2 ^ (w - 1) : Nat) : Int) ≤ x) (hhi : x < ((2 ^ (w - 1) : Nat) : Int)) :
    signed w (wrapNat w x) = x := by
  have hhalf : 2 ^ w = 2 * 2 ^ (w - 1) := by rw [← Nat.pow_succ', Nat.succ_eq_add_one, Nat.sub_add_cancel hw]
  have hcast := wrapNat_cast w x
  simp only [signed, Nat.mod_eq_of_lt (wrapNat_lt w x)]
  rw [hhalf] at hcast ⊢
  generalize 2 ^ (w - 1) = n at *
  by_cases hx : 0 ≤ x
  · rw [Int.emod_eq_of_lt hx (by omega)] at hcast
    rw [if_pos (by omega), hcast]
  · rw [← Int.add_emod_right, Int.emod_eq_of_lt (by omega) (by omega)] at hcast
    rw [if_neg (by omega), hcast]
    omega

theorem tyLo_le_tyHi (t : Ty) : tyLo t ≤ tyHi t := by cases t <;> decide

/-- An integer of the type's range is read back from its code. -/
theorem elemInt_of_code {t : Ty} {x : Word} {k : Nat} {z : Int} (hcode : elemCode t x k = wrapNat t.width z) (hlo : tyLo t ≤ z)
    (hhi : z ≤ tyHi t) : elemInt t x k = z := by
  rw [elemInt, hcode]
  cases hs : t.isSigned with
  | true =>
    simp only [tyLo, tyHi, hs, if_true] at hlo hhi
    exact signed_wrapNat t.width_pos hlo (Int.lt_of_le_sub_one hhi)
  | false =>
    simp only [tyLo, tyHi, hs, Bool.false_eq_true, if_false] at hlo hhi
    rw [if_neg (by decide), wrapNat_cast, Int.emod_eq_of_lt hlo (Int.lt_of_le_sub_one hhi)]

-- Packed results (R77, R104)

/-- A reduced result is already a code of its element. -/
theorem elemCode_packed2 (t : Ty) (sat : Bool) (op : Int → Int → Int) (x y : Word) {k : Nat} (h : k < t.lanes) :
    elemCode t (packed2 t sat op x y) k = reduceTy t sat (op (elemInt t x k) (elemInt t y k)) := by
  rw [packed2, elemCode_elements t _ h]
  cases sat <;> exact Nat.mod_eq_of_lt (wrapNat_lt ..)

/-- Settles O9: the element's code is the reduced result, which with SAT lies in the range that the code is read back in. -/
theorem packedElements : Obligations.PackedElements := by
  intro t op g x y k hk
  refine ⟨elemCode_elements t g hk, ?_, ?_⟩
  · rw [elemCode_packed2 t false op x y hk]
    exact wrapNat_cast ..
  · exact elemInt_of_code (elemCode_packed2 t true op x y hk) (Int.le_max_left ..)
      (Int.max_le.mpr ⟨tyLo_le_tyHi t, Int.min_le_left ..⟩)

end Sys2Proof.Machine

/-!
PROOFS. The stores of a scratchpad store (O15): the bytes of a number, the one block that the stores reach, and the bytes of its
scratchpad after them.
-/
namespace Sys2Proof.Machine

-- Bytes of a number

@[simp] theorem length_bytesFrom (x i n : Nat) : (bytesFrom x i n).length = n := by
  induction n generalizing i with
  | zero => rfl
  | succ n ih => rw [bytesFrom, List.length_cons, ih]

theorem getElem_bytesFrom (x i n j : Nat) (h : j < (bytesFrom x i n).length) : (bytesFrom x i n)[j] = byteOf x (i + j) := by
  induction n generalizing i j with
  | zero => cases h
  | succ n ih =>
    cases j with
    | zero => rfl
    | succ j => simp only [bytesFrom, List.getElem_cons_succ, ih, Nat.add_assoc, Nat.add_comm 1]

@[simp] theorem length_toBytes (n x : Nat) : (toBytes n x).length = n := length_bytesFrom ..

theorem getElem_toBytes (n x j : Nat) (h : j < (toBytes n x).length) : (toBytes n x)[j] = byteOf x j := by
  simp only [toBytes, getElem_bytesFrom, Nat.zero_add]

-- One store (R133)

section
variable {b : Block} (hb : Memory.wf b.scratch = true) (a : Nat) (bs : List Byte) (mark : Bool)
include hb

theorem wf_scratchWrite : Memory.wf (scratchWrite b a bs mark).scratch = true := wf_writeCells a bs hb

theorem readCell_scratchWrite_of_outside {c : Nat} (hc : c < a ∨ a + bs.length ≤ c) :
    readCell (scratchWrite b a bs mark).scratch c = readCell b.scratch c :=
  (readCell_writeCells a c bs hb).trans (dif_neg (by omega))

theorem readCell_scratchWrite_inside {i : Nat} (hi : i < bs.length) :
    readCell (scratchWrite b a bs mark).scratch (a + i) = bs[i] := by
  have hin : a ≤ a + i ∧ a + i < a + bs.length := by omega
  simp only [scratchWrite, readCell_writeCells a (a + i) bs hb, dif_pos hin, Nat.add_sub_cancel_left]

end

-- The stores of all threads (R136)

section
variable (f : Fields) (blk : Nat) (data : Nat → Word × Bool)

/-- One thread's store into the block, as `scratchPut` makes it. -/
def threadStore (b : Block) (p : Nat × Nat) : Block :=
  scratchWrite b p.2 (toBytes (accessSize f.ty) (data p.1).1.toNat) (data p.1).2

theorem scratchPut_cons (p : Nat × Nat) (as : List (Nat × Nat)) (s : State) :
    scratchPut f blk (p :: as) data s = scratchPut f blk as data (s.updBlock blk fun b => threadStore f data b p) := rfl

@[simp] theorem scratchPut_mem (as : List (Nat × Nat)) (s : State) : (scratchPut f blk as data s).mem = s.mem := by
  induction as generalizing s with
  | nil => rfl
  | cons p as ih => rw [scratchPut_cons, ih, State.updBlock_mem]

@[simp] theorem scratchPut_strands (as : List (Nat × Nat)) (s : State) : (scratchPut f blk as data s).strands = s.strands := by
  induction as generalizing s with
  | nil => rfl
  | cons p as ih => rw [scratchPut_cons, ih, State.updBlock_strands]

theorem scratchPut_block_of_ne {j : Nat} (hj : j ≠ blk) (as : List (Nat × Nat)) (s : State) :
    (scratchPut f blk as data s).block j = s.block j := by
  induction as generalizing s with
  | nil => rfl
  | cons p as ih => rw [scratchPut_cons, ih, block_updBlock, if_neg hj]

/-- The block that is written holds the stores, thread after thread. -/
theorem scratchPut_block_self {b : Block} (as : List (Nat × Nat)) {s : State} (h : s.blocks.find blk = some b) :
    (scratchPut f blk as data s).block blk = as.foldl (threadStore f data) b := by
  induction as generalizing s b with
  | nil => simp [scratchPut, State.block, Map.getD, h]
  | cons p as ih =>
    rw [scratchPut_cons, List.foldl_cons]
    exact ih (by simp [State.updBlock, Map.find_upd, h])

variable {b : Block} (hb : Memory.wf b.scratch = true)
include hb

theorem wf_threadStores (as : List (Nat × Nat)) : Memory.wf (as.foldl (threadStore f data) b).scratch = true := by
  induction as generalizing b with
  | nil => exact hb
  | cons p as ih => exact ih (wf_scratchWrite hb ..)

theorem readCell_threadStores_of_outside {c : Nat} (as : List (Nat × Nat))
    (hc : ∀ p ∈ as, c < p.2 ∨ p.2 + accessSize f.ty ≤ c) :
    readCell (as.foldl (threadStore f data) b).scratch c = readCell b.scratch c := by
  induction as generalizing b with
  | nil => rfl
  | cons p as ih =>
    obtain ⟨hp, has⟩ := List.forall_mem_cons.mp hc
    exact (ih (wf_scratchWrite hb ..) has).trans (readCell_scratchWrite_of_outside hb _ _ _ (by rwa [length_toBytes]))

theorem readCell_threadStore_inside (p : Nat × Nat) {i : Nat} (hi : i < accessSize f.ty) :
    readCell (threadStore f data b p).scratch (p.2 + i) = byteOf (data p.1).1.toNat i := by
  rw [threadStore, readCell_scratchWrite_inside hb _ _ _ (by rwa [length_toBytes]), getElem_toBytes]

end

/-- Settles O15: the stores reach one block, and of its scratchpad the bytes of each store. -/
theorem scratchFrame : Obligations.ScratchFrame := by
  intro f blk as data s b hfind hwf
  dsimp only
  rw [scratchPut_block_self f blk data as hfind]
  refine ⟨fun a => ?_, scratchPut_strands .., fun j hj => scratchPut_block_of_ne f blk data hj as s,
    wf_threadStores f data hwf as, fun a ha => readCell_threadStores_of_outside f data hwf as ha, ?_⟩
  · rw [State.byteAt, State.byteAt, scratchPut_mem]
  · rintro p rfl i hi
    exact readCell_threadStore_inside f data hwf p hi

end Sys2Proof.Machine

/-!
PROOFS. The frame of a vector instruction (O14): what its writes leave of the strand, what a next address outside a region leaves
of it, and the state around it.
-/
namespace Sys2Proof.Machine

-- What the writes leave (R98, R100, R168)

/-- A vector instruction writes vector registers, latches, generators and uniform registers, and keeps its chain's books. -/
theorem vectorWrite_frame (st : Strand) (f : Fields) (os : List Opd) (r : VOut) :
    ∃ v lat gens regs marks frees pos head, vectorWrite st f os r =
      { st with v := v, lat := lat, gens := gens, s := regs, sm := marks,
                chainFrees := frees, chainPos := pos, chainHead := head } := by
  obtain ⟨v, lat, hw⟩ := writeVector_frame { st with gens := r.gens } f r.val
  have hwritten : vectorWritten st f r = { st with gens := r.gens, v := v, lat := lat } := hw
  by_cases h : ∃ m n, r.mask = some m ∧ f.c.spec = .bcast n
  · obtain ⟨m, n, hm, hc⟩ := h
    obtain ⟨frees, pos, head, hy⟩ := vectorWrite_of_mask hm hc st os
    rw [hy, hwritten]
    exact ⟨v, lat, r.gens, _, _, frees, pos, head, rfl⟩
  · have hno : r.mask = none ∨ ∀ n, f.c.spec ≠ .bcast n := by
      cases hm : r.mask with
      | none => exact .inl rfl
      | some m => exact .inr fun n hc => h ⟨m, n, hm, hc⟩
    obtain ⟨frees, pos, head, hy⟩ := vectorWrite_of_no_mask hno st os
    rw [hy, hwritten]
    exact ⟨v, lat, r.gens, st.s, st.sm, frees, pos, head, rfl⟩

-- The strand after a next address (R85)

/-- y holds x's registers, but for the vector registers, the generators, the flags, `lr` and the loop registers. -/
structure KeepsRegisters (x y : Strand) : Prop where
  lat : y.lat = x.lat
  s : y.s = x.s
  sm : y.sm = x.sm
  em : y.em = x.em
  pm : y.pm = x.pm
  uc : y.uc = x.uc
  h : y.h = x.h
  tpc : y.tpc = x.tpc
  tcause : y.tcause = x.tcause
  taddr : y.taddr = x.taddr
  tem : y.tem = x.tem
  tfk : y.tfk = x.tfk
  win : y.win = x.win
  trapMode : y.trapMode = x.trapMode
  viewOn : y.viewOn = x.viewOn

theorem KeepsRegisters.trans {x y z : Strand} (h : KeepsRegisters x y) (g : KeepsRegisters y z) : KeepsRegisters x z :=
  ⟨g.lat.trans h.lat, g.s.trans h.s, g.sm.trans h.sm, g.em.trans h.em, g.pm.trans h.pm, g.uc.trans h.uc, g.h.trans h.h,
    g.tpc.trans h.tpc, g.tcause.trans h.tcause, g.taddr.trans h.taddr, g.tem.trans h.tem, g.tfk.trans h.tfk,
    g.win.trans h.win, g.trapMode.trans h.trapMode, g.viewOn.trans h.viewOn⟩

/-- y holds x's loop registers. -/
structure KeepsLoops (x y : Strand) : Prop where
  lc0 : y.lc0 = x.lc0
  lc1 : y.lc1 = x.lc1
  lh0 : y.lh0 = x.lh0
  lh1 : y.lh1 = x.lh1

theorem KeepsLoops.trans {x y z : Strand} (h : KeepsLoops x y) (g : KeepsLoops y z) : KeepsLoops x z :=
  ⟨g.lc0.trans h.lc0, g.lc1.trans h.lc1, g.lh0.trans h.lh0, g.lh1.trans h.lh1⟩

/-- A selector writes `lr` by CALL alone, and the loop registers by LOOP alone. -/
theorem selectNext_frame (x : Strand) (nx : Nx) :
    let y := (selectNext x nx).1
    KeepsRegisters x y ∧ y.fl = x.fl ∧ ((∀ o, nx ≠ .call o) → y.lr = x.lr) ∧ (nx ≠ .loop → KeepsLoops x y) := by
  cases nx with
  | loop =>
    simp only [selectNext]
    split
    · exact ⟨by constructor <;> rfl, rfl, fun _ => rfl, fun h => absurd rfl h⟩
    · exact ⟨by constructor <;> rfl, rfl, fun _ => rfl, fun h => absurd rfl h⟩
  | call o => exact ⟨by constructor <;> rfl, rfl, fun h => absurd rfl (h o), fun _ => by constructor <;> rfl⟩
  | _ => exact ⟨by constructor <;> rfl, rfl, fun _ => rfl, fun _ => by constructor <;> rfl⟩

theorem selectNext_keeps_v (x : Strand) (nx : Nx) :
    (selectNext x nx).1.v = x.v ∧ (selectNext x nx).1.chainFrees = x.chainFrees := by
  cases nx with
  | loop => by_cases h : x.lc0.toNat ≤ 1 <;> simp [selectNext, h]
  | _ => exact ⟨rfl, rfl⟩

theorem selectNext_eq_ends_iff (x : Strand) (nx : Nx) : (selectNext x nx).2 = .ends ↔ nx = .endStrand := by
  cases nx with
  | loop | brz | bru => simp only [selectNext, reduceCtorEq]; split <;> simp
  | _ => simp [selectNext]

/-- The strand that goes where its selector leads, outside a region. -/
def follow (undo : Undo) : Strand × Goto → Strand
  | (x, .ends) => endStrand x
  | (x, .onward) => goOn x
  | (x, .goes n _) => goTo x n undo

theorem follow_frame (undo : Undo) (p : Strand × Goto) :
    let y := follow undo p
    KeepsRegisters p.1 y ∧ y.fl = p.1.fl ∧ y.lr = p.1.lr ∧ KeepsLoops p.1 y := by
  obtain ⟨x, g⟩ := p
  cases g with
  | ends =>
    obtain ⟨v, h⟩ := endChain_eq x
    dsimp only [follow, endStrand]
    rw [h]
    exact ⟨by constructor <;> rfl, rfl, rfl, by constructor <;> rfl⟩
  | onward | goes => exact ⟨by constructor <;> rfl, rfl, rfl, by constructor <;> rfl⟩

theorem follow_v (undo : Undo) (p : Strand × Goto) :
    (follow undo p).v = if p.2 = .ends then (endChain p.1).v else p.1.v := by
  obtain ⟨x, g⟩ := p
  cases g <;> rfl

/-- What a chain's end leaves in the vector registers comes from them and from the chain's last reads. -/
theorem endChain_v_congr {x y : Strand} (hv : x.v = y.v) (hf : x.chainFrees = y.chainFrees) :
    (endChain x).v = (endChain y).v := by
  have hfree (l : List Nat) : ∀ x y : Strand, x.v = y.v → (freeRegs x l).v = (freeRegs y l).v := by
    induction l with
    | nil => exact fun _ _ h => h
    | cons n l ih => exact fun x y h => ih _ _ (congrArg (·.setIfInBounds n none) h)
  simpa [endChain, hf] using hfree y.chainFrees x y hv

/-- The strand whose instruction has completed, with the flags that it raised (R50). -/
def flagged (st : Strand) (fl : Flags) : Strand := { st.completed with fl := st.fl ||| fl }

theorem flagged_frame (st : Strand) (fl : Flags) :
    let y := flagged st fl
    KeepsRegisters st y ∧ y.fl = st.fl ||| fl ∧ y.lr = st.lr ∧ KeepsLoops st y := by
  rw [flagged, Strand.completed, Strand.unkept]
  exact ⟨by constructor <;> rfl, rfl, rfl, by constructor <;> rfl⟩

theorem flagged_keeps_v (st : Strand) (fl : Flags) :
    (flagged st fl).v = st.v ∧ (flagged st fl).chainFrees = st.chainFrees := by
  rw [flagged, Strand.completed, Strand.unkept]
  exact ⟨rfl, rfl⟩

/-- The strand after its instruction's completion, outside a region (R85). -/
def nextStrand (st : Strand) (nx : Nx) (fl : Flags) (m : Half) : Strand :=
  follow ((flagged st fl).saveNext m) (selectNext (flagged st fl) nx)

theorem nextStrand_v (st : Strand) (nx : Nx) (fl : Flags) (m : Half) :
    (nextStrand st nx fl m).v = if nx = .endStrand then (endChain st).v else st.v := by
  obtain ⟨hv, hfrees⟩ := selectNext_keeps_v (flagged st fl) nx
  obtain ⟨hstv, hstfrees⟩ := flagged_keeps_v st fl
  simp only [nextStrand, follow_v, selectNext_eq_ends_iff, endChain_v_congr (hv.trans hstv) (hfrees.trans hstfrees), hv, hstv]

/-- Completing adds the flags, and the selector writes what it may. -/
theorem nextStrand_frame (st : Strand) (nx : Nx) (fl : Flags) (m : Half) :
    let y := nextStrand st nx fl m
    KeepsRegisters st y ∧ y.fl = st.fl ||| fl ∧ ((∀ o, nx ≠ .call o) → y.lr = st.lr)
    ∧ (nx ≠ .loop → KeepsLoops st y) := by
  obtain ⟨hdone, hdoneFl, hdoneLr, hdoneLoops⟩ := flagged_frame st fl
  obtain ⟨hsel, hselFl, hselLr, hselLoops⟩ := selectNext_frame (flagged st fl) nx
  obtain ⟨hgo, hgoFl, hgoLr, hgoLoops⟩ := follow_frame ((flagged st fl).saveNext m) (selectNext (flagged st fl) nx)
  exact ⟨(hdone.trans hsel).trans hgo, (hgoFl.trans hselFl).trans hdoneFl,
    fun h => (hgoLr.trans (hselLr h)).trans hdoneLr, fun h => (hdoneLoops.trans (hselLoops h)).trans hgoLoops⟩

-- The state around it

/-- A strand's record goes to the trace alone. -/
theorem emitStrand_frame (s : State) (k : Nat) (st : Strand) (code low : Nat) :
    ∃ records, s.emitStrand k st code low = { s with records := records } := by
  unfold State.emitStrand
  split
  · exact ⟨s.records, rfl⟩
  · exact ⟨_, rfl⟩

section
variable {s : State} {k : Nat} {st : Strand} {nx : Nx} {fl : Flags} {m : Half}

/-- Outside a region the instruction's strand goes on; an ending one sends a message and leaves a record too. -/
theorem retire_outside_frame (hp : st.pair = .none) (hr : inRegion st = false) :
    ∃ queue records, retire s k st nx fl m =
      { s.setStrand k (nextStrand st nx fl m) with queue := queue, records := records } := by
  rw [retire_outside hp hr, nextStrand, flagged]
  cases selectNext { st.completed with fl := st.fl ||| fl } nx with
  | mk x g =>
    cases g with
    | ends =>
      obtain ⟨records, h⟩ := emitStrand_frame (s.setStrand k (endStrand x)) k x 0x12 (pcBits x.pc)
      simp only [h]
      exact ⟨_, _, rfl⟩
    | onward | goes => exact ⟨_, _, rfl⟩

/-- So besides the strand nothing of the machine that instructions work on changes. -/
theorem retire_outside_keeps (hp : st.pair = .none) (hr : inRegion st = false) :
    let t := retire s k st nx fl m
    OthersKept s t k ∧ t.blocks = s.blocks ∧ t.jobs = s.jobs ∧ t.arrayOps = s.arrayOps ∧ t.cores = s.cores
    ∧ t.strand k = some (nextStrand st nx fl m) := by
  obtain ⟨queue, records, h⟩ := retire_outside_frame (s := s) (k := k) (nx := nx) (fl := fl) (m := m) hp hr
  rw [h]
  exact ⟨fun j hj => (strand_setStrand ..).trans (if_neg hj), rfl, rfl, rfl, rfl, (strand_setStrand ..).trans (if_pos rfl)⟩

end

/-- Settles O14: no completion reaches memory; outside a region the strand that the writes leave follows its selector. -/
theorem vectorFrame : Obligations.VectorFrame := by
  intro s k st f os r _ hpair t
  have hmem : t.mem = s.mem := (apart_retire ..).1
  refine ⟨fun a => by rw [State.byteAt, State.byteAt, hmem], fun hregion => ?_⟩
  obtain ⟨v, lat, gens, regs, marks, frees, pos, head, hw⟩ := vectorWrite_frame st f os r
  obtain ⟨hothers, hblocks, hjobs, hops, hcores, hstrand⟩ := retire_outside_keeps (s := s) (k := k)
    (st := vectorWrite st f os r) (nx := f.nx) (fl := r.fl) (m := st.em) (by rw [hw]; exact hpair) (by rw [hw]; exact hregion)
  obtain ⟨hk, hfl, hlr, hloops⟩ := nextStrand_frame (vectorWrite st f os r) f.nx r.fl st.em
  refine ⟨hothers, hblocks, hjobs, hops, hcores, _, hstrand, nextStrand_v .., hk.lat, hk.s, hk.sm, ?_⟩
  generalize nextStrand (vectorWrite st f os r) f.nx r.fl st.em = y at hk hfl hlr hloops
  rw [hw] at hk hfl hlr hloops
  exact ⟨hfl, hk.em, hk.pm, hk.uc, hk.h, hk.tpc, hk.tcause, hk.taddr, hk.tem, hk.tfk, hk.win, hk.trapMode, hk.viewOn, hlr,
    fun h => ⟨(hloops h).lc0, (hloops h).lc1, (hloops h).lh0, (hloops h).lh1⟩⟩

end Sys2Proof.Machine

/-!
PROOFS. Vector instructions complete (O24, O26 to O29): what each way to run one answers when its registers are ready and its checks
pass, and then each instruction by the way that it is run.
-/
namespace Sys2Proof.Machine

-- The ways to run a vector instruction

section
variable {s : State} {k : Nat} {st : Strand} {f : Fields} {os : List Opd}

theorem perThread_done {op : Word → Word → Word → Word} (h : Acts s k st)
    (hr : vectorReady s (vectorStart st os) f os (noMarks os) = .ok ()) :
    perThread f os op s = .next (vectorDone s k (vectorStart st os) f os (threadOut f op (vectorStart st os))) :=
  runVector_done h hr

theorem vector2_done {op : Word → Word → Word} (h : Acts s k st)
    (hr : vectorReady s (vectorStart st [f.a, f.b]) f [f.a, f.b] (noMarks [f.a, f.b]) = .ok ()) :
    vector2 f op s = .next (vectorDone s k (vectorStart st [f.a, f.b]) f [f.a, f.b]
      (threadOut f (fun x y _ => op x y) (vectorStart st [f.a, f.b]))) :=
  perThread_done h hr

theorem runLanes_done {check : State → Strand → Res Unit} {lane : State → Strand → Nat → Lane} (h : Acts s k st)
    (hr : vectorReady s (vectorStart st os) f os (withMarks os check) = .ok ()) :
    runLanes f os check lane s = .next (vectorDone s k (vectorStart st os) f os (lanesOut lane s (vectorStart st os))) :=
  runVector_done h hr

theorem floatOp_done {op : Bool → Val → Val → Val → Val × Flags} (h : Acts s k st)
    (hr : vectorReady s (vectorStart st os) f os (withMarks os noCheck) = .ok ()) :
    floatOp f os op s =
      .next (vectorDone s k (vectorStart st os) f os (lanesOut (floatLane f op) s (vectorStart st os))) :=
  runLanes_done h hr

theorem runCompare_done {c : Word → Word → Nat → Bool} {fl : Word → Word → Flags} (h : Acts s k st)
    (hr : vectorReady s (vectorStart st [f.a, f.b]) f [f.a, f.b] (noMarks [f.a, f.b]) = .ok ()) :
    runCompare f c fl s = .next (vectorDone s k (vectorStart st [f.a, f.b]) f [f.a, f.b]
      (compareOut f c fl (vectorStart st [f.a, f.b]))) :=
  runVector_done h hr

theorem runMove_done {counts : List Opd} {perStrand : Bool} {pick : Strand → Nat → Opd × Nat} (h : Acts s k st)
    (hr : vectorReady s (vectorStart st os) f os
      (fun _ st => checkMarks st counts (if perStrand then [0] else activeList st.em)) = .ok ()) :
    runMove f os counts perStrand pick s =
      .next (vectorDone s k (vectorStart st os) f os (moveOut pick (vectorStart st os))) :=
  runVector_done h hr

/-- A strand that no context fault stops runs the body. -/
theorem inContext_done {op creg : Nat} {lat : List Nat} {body : State → Out} (h : Acts s k st)
    (hc : contextFault s (chainEnter st lat) op creg = false) : inContext op creg lat body s = body s := by
  rw [inContext, withActor_of h]
  simp [hc]

end

/-- Settles O24: each runs as a function of two sources, and a compact one as the wide one that it expands to. -/
theorem vectorTwoSource : Obligations.VectorTwoSource := by
  intro f s k st0 h hr
  have wide (op : Word → Word → Word) := vector2_done (op := op) h hr
  dsimp only [exec]
  refine ⟨wide _, ?vaddC, wide _, ?vsubC, wide _, ?vmulC, wide _, wide _, wide _, wide _, ?vminC, wide _, ?vmaxC, wide _,
    wide _, ?vandC, wide _, ?vorC, wide _, ?vxorC, wide _, wide _, ?vshlC, wide _, ?vshrC, wide _, ?vsarC, wide _, wide _, wide _⟩
  case vaddC | vsubC | vmulC | vminC | vmaxC | vandC | vorC | vxorC | vshlC | vshrC | vsarC =>
    intro c hc
    dsimp only [execVaddC, execVsubC, execVmulC, execVminC, execVmaxC, execVandC, execVorC, execVxorC, execVshlC, execVshrC,
      execVsarC]
    rw [← hc]
    exact wide _

/-- Settles O26: each runs by its function of a thread's elements, and a compact one as the wide one that it expands to. -/
theorem floatArithmetic : Obligations.FloatArithmetic := by
  intro f s k st0 h
  dsimp only [exec]
  refine ⟨fun hr => ?twoSource, fun hr => ?oneSource⟩
  case twoSource =>
    have wide (lane : State → Strand → Nat → Lane) := runLanes_done (lane := lane) h hr
    refine ⟨wide _, ?vfaddC, wide _, ?vfsubC, wide _, ?vfmulC, wide _, wide _, wide _, wide _⟩
    case vfaddC | vfsubC | vfmulC =>
      intro c hc
      dsimp only [execVfaddC, execVfsubC, execVfmulC]
      rw [← hc]
      exact wide _
  case oneSource =>
    have wide (lane : State → Strand → Nat → Lane) := runLanes_done (lane := lane) h hr
    exact ⟨wide _, wide _, wide _, wide _, wide _, wide _⟩

/-- Settles O27: the compares write masks, `vsel` selects, and `vmov` reads its operand with its marks, its compact form too. -/
theorem vectorCompare : Obligations.VectorCompare := by
  intro f s k st0 h
  dsimp only [exec]
  refine ⟨fun hr => ⟨runCompare_done h hr, runCompare_done h hr⟩, fun hr => runVector_done h hr, fun hr => ?vmov⟩
  case vmov =>
    have wide (body : State → Strand → VOut) := runVector_done (body := body) h hr
    refine ⟨wide _, fun c hc => ?vmovC⟩
    rw [execVmovC, ← hc]
    exact wide _

/-- Settles O28: each runs with the check of its entry, and `vftbl` in its context. -/
theorem floatOthers : Obligations.FloatOthers := by
  intro f s k st0 h
  dsimp only [exec]
  refine ⟨fun hr => runLanes_done h hr, fun hr => floatOp_done h hr, fun hc hr => ?vftbl, fun _ hr => runLanes_done h hr,
    fun hr => runVector_done h hr, fun hr => runLanes_done h hr⟩
  case vftbl =>
    rw [execVftbl, inContext_done h hc]
    exact runLanes_done h hr

/-- Settles O29: the moves read their counts in the active threads or once for the strand, and the others see all threads. -/
theorem vectorCross : Obligations.VectorCross := by
  intro f s k st0 h
  dsimp only [exec]
  refine ⟨fun hr => runMove_done (perStrand := false) h hr, fun hr => ?counted, fun hr => runMove_done (perStrand := true) h hr,
    fun hr => ?gathered⟩
  case counted => exact ⟨runMove_done (perStrand := true) h hr, runMove_done (perStrand := true) h hr⟩
  case gathered => exact ⟨runVector_done h hr, runVector_done h hr, runVector_done h hr, runVector_done h hr⟩

end Sys2Proof.Machine

/-!
PROOFS. The events that let strands go on (O45): what each of them answers, and for PREEMPT one rule for each way that it finds its
strand.
-/
namespace Sys2Proof.Machine

-- Replies and acknowledgements

section
variable {s : State} {k : Nat}

/-- A strand's access takes a reply's data and goes on, and the machine then looks whether a sill strand's job has ended (R163). -/
theorem execMemoryAccessComplete_strand {r : Reply} (ha : r.req.agent = .strand k) :
    execMemoryAccessComplete r s = .next (sillLooks (accessGoesOn r.req k
      (if r.req.op = .load then deliverLoad r k (replyInstall r s) else deliverAtomic r k (replyInstall r s))) k) := by
  simp only [execMemoryAccessComplete, ha]

/-- What no strand asked for reaches the L1 alone (R296). -/
theorem execMemoryAccessComplete_no_strand {r : Reply} (ha : ∀ j, r.req.agent ≠ .strand j) :
    execMemoryAccessComplete r s = .next (replyInstall r s) := by
  unfold execMemoryAccessComplete
  split
  · next j hj => exact absurd hj (ha j)
  · rfl

/-- A job whose last store is acknowledged counts none, and has come to its end. -/
theorem execStoreAck_job_last {x : Job} {acc grid : Nat} (hx : s.jobs.find k = some x) (hacks : x.acks = 1) :
    execStoreAck (.job k) acc grid s
      = .next ((s.updJob k fun x => { x with acks := x.acks - 1 }).send (.jobComplete k)) := by
  simp [execStoreAck, State.updJob, Map.find_upd, hx, hacks]

/-- The peer that is acknowledged is the one that the acknowledgement names. -/
theorem execStoreAck_peer {acc grid d dev home : Nat} {q : MemReq} (hq : s.peerReqs.find acc = some (dev, home, q)) :
    execStoreAck (.peer d) acc grid s
      = .next ({ s with peerReqs := s.peerReqs.del acc }.emitOut (.answer d home (.ack q))) := by
  simp only [execStoreAck, hq]

end

-- PREEMPT (R251)

section
variable {s : State} {k : Nat} {st : Strand} (hs : s.strand k = some st)
include hs

/-- A strand that has ended, or that is set aside, gets no PREEMPT. -/
theorem execPreemptDelivery_gone (hgone : st.ended = true ∨ st.asideMark = true) : execPreemptDelivery k s = .next s := by
  rcases hgone with h | h <;> simp [execPreemptDelivery, hs, h]

variable (hended : st.ended = false) (haside : st.asideMark = false)
include hended haside

/-- In trap mode, or once its instruction has had an effect, a strand has PREEMPT pending. -/
theorem execPreemptDelivery_pending (hlater : st.trapMode = true ∨ waitsBefore s k st = false) :
    execPreemptDelivery k s = .next (s.setStrand k { st with preempt := true }) := by
  rcases hlater with h | h <;> simp [execPreemptDelivery, hs, hended, haside, h]

variable (htrap : st.trapMode = false) (hwaits : waitsBefore s k st = true)
include htrap hwaits

/-- A strand whose instruction has had no effect takes PREEMPT in its place. -/
theorem execPreemptDelivery_waiting (hsleep : st.wait ≠ .sleep) :
    let t := takePreempt (dropQueued s st) k { st with preempt := true, asyncOp := none } (restartPc st)
    execPreemptDelivery k s = .next (if st.wait = .trace then holdEnd t st.blk else t) := by
  simp [execPreemptDelivery, hs, hended, haside, htrap, hwaits, hsleep]

/-- A sleeping strand completes its `sleep`, and takes PREEMPT after it unless that has ended it or trapped (R238). -/
theorem execPreemptDelivery_sleeping (hsleep : st.wait = .sleep) {y : Strand}
    (hy : (retire s k { st with preempt := true } st.pendNx 0 st.em).strand k = some y) :
    let t := retire s k { st with preempt := true } st.pendNx 0 st.em
    execPreemptDelivery k s = .next (if y.ended || y.trapMode then t else takePreempt t k y y.pc) := by
  simp only [execPreemptDelivery, hs]
  rw [if_neg (by simp [hended, haside]), if_neg (by simp [htrap, hwaits]), if_pos hsleep, apply_ite Host.Outcome.next]
  simp only [hy]

end

-- The end of a sleep and of a write of the function table

theorem execSleepExpiry_expired {s : State} {k acc : Nat} {st : Strand} (hs : s.strand k = some st) (hwait : st.wait = .sleep)
    (hid : st.sleepId = acc) (hended : st.ended = false) :
    execSleepExpiry k acc s = .next (retire s k st st.pendNx 0 st.em) := by
  simp [execSleepExpiry, hs, hwait, hid, hended]

/-- The strand that wrote the table goes on in the state in which the next one in the order may start (R236). -/
theorem execFunctionTableWriteDone_writer {s t : State} {core k : Nat} {st : Strand}
    (hwriter : (s.core core).table.writing = some k)
    (ht : t = tableNext (s.updCore core fun c => { c with table := { c.table with writing := none } }) core)
    (hs : t.strand k = some st) (hended : st.ended = false) :
    execFunctionTableWriteDone core k s = .next (retire t k st st.pendNx 0 st.em) := by
  subst ht
  simp [execFunctionTableWriteDone, hwriter, hs, hended]

/-- Settles O45: each event is performed by its meaning, and the cases of a reply, an acknowledgement and PREEMPT by the rules above. -/
theorem strandEvents : Obligations.StrandEvents := by
  intro s k st r lane acc grid win ad ln
  dsimp only [exec]
  refine ⟨rfl, rfl, fun ha hop => ?load, fun ha hop => ?atomic, execMemoryAccessComplete_no_strand, rfl, rfl, rfl,
    fun x hx hacks t ht => ?job, fun _ _ _ hq _ => execStoreAck_peer hq, rfl, execPreemptDelivery_gone,
    fun hs hended haside => ⟨execPreemptDelivery_pending hs hended haside, fun htrap hwaits =>
      ⟨execPreemptDelivery_waiting hs hended haside htrap hwaits,
        fun hsleep _ hy => execPreemptDelivery_sleeping hs hended haside htrap hwaits hsleep hy⟩⟩,
    execSleepExpiry_expired, fun _ _ => execFunctionTableWriteDone_writer⟩
  case load => rw [execMemoryAccessComplete_strand ha, if_pos hop]
  case atomic => rw [execMemoryAccessComplete_strand ha, if_neg hop]
  case job =>
    rw [execStoreAck_job_last hx hacks] at ht
    cases ht
    simp [State.send, State.updJob, Map.find_upd, hx, hacks]

end Sys2Proof.Machine

/-!
PROOFS. Matrix instructions (O38, O39): what a claim, a release, `fmtset`, `tstat` and the issue of an array operation answer once
their checks have passed.
-/
namespace Sys2Proof.Machine

-- Parts of a memory instruction

theorem mrun_modify (g : State → State) (s : State) : (modify g : M Unit).run s = (.ok (), g s) := rfl

theorem mrun_finishMem (k : Nat) (nx : Nx) (st : Strand) (g : Strand → Strand) (s : State) :
    (finishMem k nx st g).run s = (.ok (), memRetire k nx st g s) := rfl

section
variable {f : Fields} {s s1 : State} {k : Nat} {st0 : Strand} (h : Acts s k st0)
include h

/-- An instruction that checks, then writes, then goes on. -/
theorem runMem_checks_writes {α : Type} {checks : Strand → M α} {writes : Nat → Strand → α → State → State} {nx : Nx}
    {out : Strand → α → Strand → Strand} {a : α} (hc : (checks (endChain st0)).run s = (.ok a, s1)) :
    runMem [] (fun k st => do
      let a ← checks st
      modify (writes k st a)
      finishMem k nx st (out st a)) s
      = .next (memRetire k nx (endChain st0) (out (endChain st0) a) (writes k (endChain st0) a s1)) := by
  refine runMem_done_nil h ?_
  rw [mbind_ok hc, mbind_ok (mrun_modify ..), mrun_finishMem]

-- Items (R189 to R192)

theorem claim_done {acc : Bool} {g : Nat} (hc : (claimChecks f acc (endChain st0)).run s = (.ok g, s1)) :
    claim f acc s = .next (memRetire k f.nx (endChain st0)
      (fun x => { x.setS (resOf f) (BitVec.ofNat 64 g) false with uc := g != 0 }) (giveItems (endChain st0) acc g s1)) :=
  runMem_checks_writes h hc

theorem release_done {acc : Bool} {m : Nat} (hc : (releaseChecks f acc (endChain st0)).run s = (.ok m, s1)) :
    release f acc s = .next (memRetire k f.nx (endChain st0) id
      (releaseItems s1 (endChain st0).core (endChain st0).blk acc m)) :=
  runMem_checks_writes h hc

theorem execFmtset_done {v : Half} (hc : (fmtsetChecks f (endChain st0)).run s = (.ok v, s1)) :
    execFmtset f s = .next (memRetire k f.nx (endChain st0) id
      (s1.updBlock (endChain st0).blk fun b => { b with fmt := b.fmt.setIfInBounds (f.f.toNat % 16) v })) :=
  runMem_checks_writes h hc

/-- The registers that `tstat` names are free of data in flight, and what it reads and clears is known. -/
theorem execTstat_done {a : Word} {r : Nat × State} (hregs : inFlight (endChain st0) [] (engRegs f true) = false)
    (ha : uval s (endChain st0) .i8 f.a = .ok a) (hr : tstatRead s (endChain st0) a.toNat (f.f.getLsbD 4) = .ok r) :
    execTstat f s = .next (memRetire k f.nx (endChain st0)
      (fun x => x.setS (resOf f) (BitVec.ofNat 64 r.1) false) r.2) := by
  refine runMem_done_nil h ?_
  rw [mbind_ok mrun_get, mbind_ok (mrun_await hregs), mbind_ok (mrun_lift ha), mbind_ok (mrun_lift hr)]
  rfl

end

/-- Settles O38: each is a check, a write and the strand's going on, but `tstat`, whose checks read the state alone. -/
theorem matrixItems : Obligations.MatrixItems := by
  intro f s s1 k st0 acc g v a r h
  refine ⟨fun hc => ?claims, fun hc => ?releases, execFmtset_done h, execTstat_done h⟩
  case claims => cases acc <;> exact claim_done h hc
  case releases => cases acc <;> exact release_done h hc

-- The array queue (R186, R188)

theorem arrayRoom_ok {s : State} {st : Strand} (hroom : (arrayQueue s st.core).length < 16) :
    (arrayRoom st).run s = (.ok (), s) := by
  rw [arrayRoom, mbind_ok mrun_get, if_neg (Nat.not_le.mpr hroom)]
  rfl

theorem enterArray_ok {k : Nat} {f : Fields} {s : State} {st : Strand} {code win : Nat} {sync : Bool} {p : Prepared}
    (hroom : (arrayQueue s st.core).length < 16) :
    (enterArray k f st code win sync p).run s
      = (.ok (), arrayIssued k f st sync (putArray k st code f.d.toNat win sync none p s)) := by
  rw [enterArray, mbind_ok (arrayRoom_ok hroom), mrun_modify]

theorem jobRoom_ok {s : State} {st : Strand} (hroom : (s.jobs.filter fun p => p.2.blk == st.blk).length < 64) :
    (jobRoom st).run s = (.ok (), s) := by
  rw [jobRoom, mbind_ok mrun_get, if_neg (Nat.not_le.mpr hroom)]
  rfl

theorem issueJob_ok {k d code : Nat} {s : State} {st : Strand} {regions : List (Option Region)} {work : JobWork}
    (hroom : (s.jobs.filter fun p => p.2.blk == st.blk).length < 64) :
    (issueJob k st d code regions work).run s
      = (.ok (putJob k st d code regions work s).1, (putJob k st d code regions work s).2) := by
  rw [issueJob, mbind_ok (jobRoom_ok hroom), mbind_ok mrun_get]
  rfl

section
variable {f : Fields} {s s1 : State} {k : Nat} {st0 : Strand} {p : Prepared} (h : Acts s k st0)
include h

/-- An array operation whose checks need no memory. -/
theorem issueArray_done {code : Nat} {os : List Opd} {prep : State → Strand → Res Prepared}
    (hregs : inFlight (endChain st0) [] (os.flatMap sRegsOf) = false) (hp : prep s (endChain st0) = .ok p)
    (hroom : (arrayQueue s (endChain st0).core).length < 16) :
    issueArray f code os prep s = .next (arrayIssued k f (endChain st0) false
      (putArray k (endChain st0) code f.d.toNat 0 false none p s)) := by
  refine runMem_done_nil h ?_
  rw [mbind_ok mrun_get, mbind_ok (mrun_await hregs), mbind_ok (mrun_lift hp), enterArray_ok hroom]

/-- An array operation whose checks look at its footprint in memory. -/
theorem runMem_enterArray {code : Nat} {checks : Strand → M Prepared}
    (hp : (checks (endChain st0)).run s = (.ok p, s1)) (hroom : (arrayQueue s1 (endChain st0).core).length < 16) :
    runMem [] (fun k st => do
      let p ← checks st
      enterArray k f st code (st.window f.m.toNat).toNat false p) s
      = .next (arrayIssued k f (endChain st0) false
        (putArray k (endChain st0) code f.d.toNat ((endChain st0).window f.m.toNat).toNat false none p s1)) := by
  refine runMem_done_nil h ?_
  rw [mbind_ok hp, enterArray_ok hroom]

theorem execArd_done (hp : (ardChecks f (endChain st0)).run s = (.ok p, s1))
    (hroom : (arrayQueue s1 (endChain st0).core).length < 16) :
    execArd f s = .next (arrayIssued k f (endChain st0) false
      (putArray k (endChain st0) 0x0A f.d.toNat ((endChain st0).window f.m.toNat).toNat false none p s1)) :=
  runMem_enterArray h hp hroom

theorem imageMove_done {code : Nat} {load acc : Bool} (hp : (imageChecks f load acc (endChain st0)).run s = (.ok p, s1))
    (hroom : (arrayQueue s1 (endChain st0).core).length < 16) :
    imageMove f code load acc s = .next (arrayIssued k f (endChain st0) false
      (putArray k (endChain st0) code f.d.toNat ((endChain st0).window f.m.toNat).toNat false none p s1)) :=
  runMem_enterArray h hp hroom

variable {rows : Rows} {load : Bool} (hp : (tileChecks f load (endChain st0)).run s = (.ok (p, rows), s1))
include hp

/-- A tile move without `.async` enters the array queue, and its strand waits (R193). -/
theorem tileMove_sync (hsync : f.f.getLsbD 4 = false) (hroom : (arrayQueue s1 (endChain st0).core).length < 16) :
    tileMove f load s = .next (arrayIssued k f (endChain st0) true
      (putArray k (endChain st0) (if load then 0x03 else 0x04) f.d.toNat ((endChain st0).window f.m.toNat).toNat true none
        p s1)) := by
  refine runMem_done_nil h ?_
  rw [mbind_ok mrun_get, mbind_ok hp]
  simp only [hsync, Bool.false_eq_true, if_false]
  exact enterArray_ok hroom

/-- With `.async` it is a job of the copy engine (R193). -/
theorem tileMove_async (hasync : f.f.getLsbD 4 = true)
    (hroom : (s1.jobs.filter fun q => q.2.blk == (endChain st0).blk).length < 64) :
    let j := tileJob f load s (endChain st0) rows
    tileMove f load s = .next (memRetire k f.nx (endChain st0) id
      (putJob k (endChain st0) (f.c.spec.code % 16) (if load then 0x03 else 0x04) j.1 j.2 s1).2) := by
  refine runMem_done_nil h ?_
  rw [mbind_ok mrun_get, mbind_ok hp]
  simp only [hasync, if_true]
  rw [mbind_ok (issueJob_ok hroom), mrun_finishMem]

end

theorem inFlight_nil (st : Strand) : inFlight st [] [] = false := by simp [inFlight]

/-- Settles O39: once the checks have passed, room in the queue (or among the block's jobs) is all that an operation needs. -/
theorem arrayOperations : Obligations.ArrayOperations := by
  intro f s s1 k st0 p rows load acc h st win enters
  refine ⟨fun hroom hregs => ?multiply, fun hroom hp => ?azero, fun hp => ⟨fun hsync hroom => ?sync, fun hasync hroom => ?async⟩,
    fun hp hroom => ?ard, fun hp hroom => ?image⟩
  case multiply =>
    have hc : inFlight st [] ([f.c].flatMap sRegsOf) = false := by simpa using hregs
    exact ⟨fun hp => issueArray_done (prep := fun s st => prepMma s st f none) h hc hp hroom,
      fun hp => issueArray_done (prep := fun s st => prepMmas s st f none) h hc hp hroom⟩
  case azero => exact issueArray_done (prep := fun s st => prepAzero s st f) h (inFlight_nil st) hp hroom
  case sync => cases load <;> exact tileMove_sync h hp hsync hroom
  case async => cases load <;> exact tileMove_async h hp hasync hroom
  case ard => exact execArd_done h hp hroom
  case image => cases acc <;> cases load <;> exact imageMove_done h hp hroom

end Sys2Proof.Machine

/-!
PROOFS. The events of the engines (O48): what the array, a job, a collective and a BSU answer in each of the states that the
statement names.
-/
namespace Sys2Proof.Machine

-- The array (R186, R201)

section
variable {s : State} {op : Nat} {o : ArrayOp} (ho : s.arrayOps.find op = some o)
include ho

theorem execArrayOpStart_queued (hphase : o.phase = .queued) (hfree : arrayBusy s o.core = false)
    (hnext : nextArray s 0 0 false (arrayQueue s o.core) = some op) : execArrayOpStart op s = .next (arrayBegin s op o) := by
  simp [execArrayOpStart, ho, hphase, hfree, hnext]

theorem execArrayOpStart_running (hphase : o.phase = .running) (hport : o.port.waiting = false) :
    execArrayOpStart op s = .next (arrayWork s op o) := by
  simp [execArrayOpStart, ho, hphase, hport]

theorem execArrayOpStart_parked (hphase : o.phase = .parked) :
    execArrayOpStart op s
      = .next (arrayWork (s.updArray op fun y => { y with phase := .running }) op { o with phase := .running }) := by
  simp only [execArrayOpStart, ho, hphase]

theorem execArrayOpComplete_acked (hacks : o.acks = 0) : execArrayOpComplete op s = .next (arrayDone s op o) := by
  simp only [execArrayOpComplete, ho, if_pos hacks]

/-- Until its stores are acknowledged an operation stays in the queue. -/
theorem execArrayOpComplete_unacked (hacks : o.acks ≠ 0) :
    execArrayOpComplete op s = .next (s.updArray op fun y => { y with phase := .settling }) := by
  simp only [execArrayOpComplete, ho, if_neg hacks]

theorem execSubnormalAssistDone_assist {n ta tb acc : Nat} {fb : FmtBlock} {ovr : Bool} (hphase : o.phase = .assist n)
    (hwork : o.work = .mma fb ta tb acc ovr) : execSubnormalAssistDone op s = .next (assistDone s op o acc) := by
  simp only [execSubnormalAssistDone, ho, hphase, hwork]

end

-- Jobs (R206, R208, R214)

section
variable {s : State} {job : Nat} {x : Job} (hx : s.jobs.find job = some x)
include hx

theorem execJobStart_waiting (hphase : x.phase = .waiting) (hedges : x.edges.all (opDone s) = true)
    (hclose : ∀ b, x.work ≠ .close b) (hsill : ∀ e c n sl ar b, x.work ≠ .sill e c n sl ar b) :
    execJobStart job s = .next (runJob (jobStarted x (s.updJob job fun y => { y with phase := .running })) job
      { x with phase := .running }) := by
  simp only [execJobStart, hx, hphase, hedges, Bool.not_true, Bool.false_eq_true, if_false]

theorem execJobStart_waiting_sill (hphase : x.phase = .waiting) (hedges : x.edges.all (opDone s) = true)
    {e c n sl ar b} (hwork : x.work = .sill e c n sl ar b) {t : State} (ht : startSill s job x = some t) :
    execJobStart job s = .next (jobStarted x t) := by
  simp [execJobStart, hx, hphase, hedges, hwork, ht]

theorem execJobStart_running (hphase : x.phase = .running) (hport : x.port.waiting = false)
    (hsill : ∀ e c n sl ar b, x.work ≠ .sill e c n sl ar b) : execJobStart job s = .next (runJob s job x) := by
  simp only [execJobStart, hx, hphase, hport, Bool.false_eq_true, if_false]

end

-- A job that has come to its end, and an `nbl` at work, complete once no strand that they have started is left (R206, R207, R214).

section
variable {s : State} {job : Nat} {x : Job} (hx : s.jobs.find job = some x) (hgone : x.sill.all (sillGone s) = true)

include hgone in
theorem no_strand_left : (x.sill.any fun k => !sillGone s k) = false := by
  rw [← List.not_all_eq_any_not, hgone]
  rfl

include hx hgone

theorem execJobComplete_ended {status cause : Nat} (hphase : x.phase = .ended status cause) (hacks : x.acks = 0)
    (hcode : ∀ b, x.work ≠ .code b) :
    execJobComplete job s = .next (completeJob (tellPeers (removeSill s job x) x .leaves) job status cause) := by
  simp [execJobComplete, hx, hphase, hacks, no_strand_left hgone]

theorem execJobComplete_ended_code {status cause : Nat} (hphase : x.phase = .ended status cause) (hacks : x.acks = 0)
    {b : List Word} (hcode : x.work = .code b) :
    execJobComplete job s = .next (completeJob (tellPeers (dropCode (removeSill s job x) (s.grid x.grid).fn (x.region 1)
      x.moved x.buf) x .leaves) job status cause) := by
  simp [execJobComplete, hx, hphase, hacks, no_strand_left hgone, hcode]

theorem execJobComplete_sill (hphase : x.phase = .running) {e c n sl ar b} (hwork : x.work = .sill e c n sl ar b) :
    execJobComplete job s = .next (completeJob (removeSill s job x) job 1 0) := by
  simp [execJobComplete, hx, hphase, no_strand_left hgone, hwork]

end

-- Collectives (R215)

/-- Whether the cards that have come fit together: they agree, and no rank is repeated. -/
def collFits (cards : List (Nat × Job)) (x : Job) (far : List RemoteCard) : Bool :=
  let ranks := collRanks cards far
  collAgree cards x far && (ranks.foldl addNew []).length == ranks.length

section
variable {s : State} {fn : Nat} {name : Word} {c : Nat × Job} {cs : List (Nat × Job)} (hcards : collJobs s fn name = c :: cs)
include hcards

/-- The three ways that a look at a collective can go, once one of its cards has come. The cards of peers are those that their news
has brought (log 10). -/
theorem collLook_eq : collLook name s fn =
    let cards := c :: cs
    let far := collFar s fn name
    if collFits cards c.2 far = false then
      dropGathered ((collOpen s fn name).foldl (fun b p => endJob b p.1 3 cIllegalField) s) fn name
    else if (collRanks cards far).length < (collKey c.2.work).2.2.2.2 then s
    else dropGathered (collRun fn cards c.2 far s) fn name := by
  simp only [collLook, hcards, collFits, Bool.and_eq_false_iff, bne, Bool.or_eq_true, Bool.not_eq_true']

theorem collLook_complete (hfits : collFits (c :: cs) c.2 (collFar s fn name) = true)
    (hall : (collKey c.2.work).2.2.2.2 ≤ (collRanks (c :: cs) (collFar s fn name)).length) :
    collLook name s fn = dropGathered (collRun fn (c :: cs) c.2 (collFar s fn name) s) fn name := by
  simp [collLook_eq hcards, hfits, Nat.not_lt.mpr hall]

theorem collLook_incomplete (hfits : collFits (c :: cs) c.2 (collFar s fn name) = true)
    (hfew : (collRanks (c :: cs) (collFar s fn name)).length < (collKey c.2.work).2.2.2.2) :
    collLook name s fn = s := by
  simp [collLook_eq hcards, hfits, hfew]

theorem collLook_differ (hfits : collFits (c :: cs) c.2 (collFar s fn name) = false) :
    collLook name s fn
      = dropGathered ((collOpen s fn name).foldl (fun b p => endJob b p.1 3 cIllegalField) s) fn name := by
  simp [collLook_eq hcards, hfits]

end

-- A BSU (R350, R356)

/-- The context in which a BSU reads memory for a row instruction. -/
def bsuEng (op : Nat) (o : RowOp) : Eng := ⟨⟨o.fn, 0, clusterOf o.home, none⟩, .bsu op, o.port, o.grid, o.core⟩

/-- What a BSU whose read does not complete leaves of its port. -/
def bsuHold (op : Nat) (_ : Bool) (p : Port) (t : State) : State := t.updRow op fun y => { y with port := p }

section
variable {s : State} {op bsu : Nat} {o : RowOp} (ho : s.rowOps.find op = some o) (hhead : bsuHead s o.slice bsu = some op)
  (hport : o.port.waiting = false)

include hhead hport in
theorem bsu_not_held_up : ¬ (bsuHead s o.slice bsu ≠ some op ∨ o.port.waiting = true) := by
  simp [hhead, hport]

include ho hhead hport

/-- Reading a row, a BSU is done when the read is. -/
theorem execBsuExecute_ropen (hop : o.op = 0x600) {u : Unit} {t : State}
    (ht : engRun (bsuEng op o) (.bsuExecute op bsu) (bsuHold op) (bsuOpen (bsuEng op o) o bsu) s = (.done u, t)) :
    execBsuExecute op bsu s = .next (bsuDone op o [bsu] 0 ((t.bsu o.slice bsu).rowMark o.rd != 0) t) := by
  unfold bsuEng bsuHold at ht
  simp [execBsuExecute, ho, hhead, hport, hop, ht]

theorem execBsuExecute_rvload (hop : o.op = 0x602) (hmem : o.f0 = false) {b : Bool} {t : State}
    (ht : engRun (bsuEng op o) (.bsuExecute op bsu) (bsuHold op) (bsuLoad (bsuEng op o) op o bsu) s = (.done b, t)) :
    execBsuExecute op bsu s = .next (bsuDone op o [bsu] 0 b t) := by
  unfold bsuEng bsuHold at ht
  simp [execBsuExecute, ho, hhead, hport, hop, hmem, ht]

theorem execBsuExecute_rwrite (hop : o.op = 0x601) :
    execBsuExecute op bsu s = .next (bsuDone op o [bsu] 0 ((s.bsu o.slice bsu).rowMark o.ra != 0) (bsuWrite op o bsu s)) := by
  simp [execBsuExecute, ho, hhead, hport, hop]

theorem execBsuExecute_racc (hop : o.op = 0x60A) :
    execBsuExecute op bsu s = .next (bsuDone op o [bsu] 0 false (bsuAcc op o bsu s)) := by
  simp [execBsuExecute, ho, hhead, hport, hop]

/-- A rotation is performed once it is at the heads of the queues of all its BSUs. -/
theorem execBsuExecute_rotate (hop : o.op = 0x60B) (hrot : o.f0 = true)
    (hheads : (ones 16 o.mask).all (fun k => bsuHead s o.slice k == some op) = true) :
    let r := bsuRotate o (ones 16 o.mask) s
    execBsuExecute op bsu s = .next (bsuDone op o (ones 16 o.mask) 0 r.2 r.1) := by
  simp only [execBsuExecute, ho, if_neg (bsu_not_held_up hhead hport), hop, hrot, hheads, and_self, if_true]
  rfl

/-- The rest need the BSU's own state alone. -/
theorem execBsuExecute_compute (hmemory : o.op ∉ [0x600, 0x601, 0x60A]) (hload : ¬ (o.op = 0x602 ∧ o.f0 = false))
    (hrot : ¬ (o.op = 0x60B ∧ o.f0 = true)) :
    let r := bsuCompute o (s.bsu o.slice bsu)
    execBsuExecute op bsu s = .next (bsuDone op o [bsu] r.2.1 r.2.2 (s.updBsu o.slice bsu fun _ => r.1)) := by
  simp only [List.mem_cons, List.not_mem_nil, or_false, not_or] at hmemory
  obtain ⟨hopen, hwrite, hacc⟩ := hmemory
  simp only [execBsuExecute, ho, if_neg (bsu_not_held_up hhead hport), if_neg hload, if_neg hrot]

end

/-- Settles O48: each event is performed by the rule of the state that it finds. How peers bring news of their cards is the model's
own choice (log 10). -/
theorem engineEvents : Obligations.EngineEvents := by
  intro s op job bsu a x o
  refine ⟨fun ha => ?array, fun hx => ?jobs, fun fn name remote js hjs => ?collective, fun ho hhead hport => ?row⟩
  case array =>
    exact ⟨execArrayOpStart_queued ha, execArrayOpStart_running ha, execArrayOpStart_parked ha, execArrayOpComplete_acked ha,
      execArrayOpComplete_unacked ha, fun _ _ _ _ _ _ => execSubnormalAssistDone_assist ha⟩
  case jobs =>
    refine ⟨fun hphase hedges hclose => ⟨execJobStart_waiting hx hphase hedges hclose, ?nbl⟩, execJobStart_running hx,
      fun hgone hacks => ⟨fun _ _ hphase => execJobComplete_ended hx hgone hphase hacks,
        fun _ _ _ hphase => execJobComplete_ended_code hx hgone hphase hacks, ?nblEnds⟩⟩
    case nbl =>
      rintro ⟨e, c, n, sl, ar, w, hwork⟩ t
      exact execJobStart_waiting_sill hx hphase hedges hwork
    case nblEnds =>
      rintro hphase ⟨e, c, n, sl, ar, w, hwork⟩
      exact execJobComplete_sill hx hgone hphase hwork
  case collective =>
    exact ⟨fun hfits hall => congrArg Host.Outcome.next (collLook_complete hjs hfits hall),
      fun hfits hfew => congrArg Host.Outcome.next (collLook_incomplete hjs hfits hfew),
      fun hfits => congrArg Host.Outcome.next (collLook_differ hjs hfits)⟩
  case row =>
    exact ⟨fun _ hop ⟨_, ht⟩ => execBsuExecute_ropen ho hhead hport hop ht,
      fun _ _ hop hmem => execBsuExecute_rvload ho hhead hport hop hmem, execBsuExecute_rwrite ho hhead hport,
      execBsuExecute_racc ho hhead hport, execBsuExecute_rotate ho hhead hport, execBsuExecute_compute ho hhead hport⟩

end Sys2Proof.Machine

/-!
PROOFS. Card instructions and handle instructions (O40, O41): what each answers once its checks have passed and what it waits for has
come.
-/
namespace Sys2Proof.Machine

-- Cards (R204)

/-- The seven card instructions differ in the code of their jobs alone. -/
theorem exec_card {f : Fields} {i : Instr} {code : Nat}
    (hi : (i, code) ∈ [(Instr.cpy f, 0x80), (.cpym f, 0x81), (.gath f, 0x82), (.scat f, 0x83), (.nbl f, 0x84), (.coll f, 0x85),
      (.cload f, 0x86)]) (s : State) : exec i s = cardJob f code s := by
  simp only [List.mem_cons, List.not_mem_nil, or_false, Prod.mk.injEq] at hi
  obtain ⟨rfl, rfl⟩ | ⟨rfl, rfl⟩ | ⟨rfl, rfl⟩ | ⟨rfl, rfl⟩ | ⟨rfl, rfl⟩ | ⟨rfl, rfl⟩ | ⟨rfl, rfl⟩ := hi <;> rfl

section
variable {f : Fields} {s s1 : State} {k : Nat} {st0 : Strand} {w : Half} {e : HandleEntry} {a : Word} (h : Acts s k st0)
include h

theorem cardJob_done {code : Nat} {c : CardRead} (hc : (cardChecks f code k (endChain st0)).run s = (.ok c, s1)) :
    cardJob f code s = .next (memRetire k f.nx (endChain st0) id (cardStart f code k (endChain st0) c s1)) := by
  refine runMem_done_nil h ?_
  rw [mbind_ok hc, mbind_ok (mrun_modify ..), mrun_finishMem]

-- `hwait` and `htest` (R217)

/-- A handle instruction begins by waiting for its registers and reading its handle. -/
theorem runMem_handle {res : Bool} {hd : Half} (hregs : inFlight (endChain st0) [] (engRegs f res) = false)
    (hh : handleOf s (endChain st0) f = .ok hd) {body : State → Nat → Strand → Half → M Unit}
    (hbody : (body s k (endChain st0) hd).run s = (.ok (), s1)) :
    runMem [] (fun k st => do
      let s ← get
      liftRes (awaitRegs st [] (engRegs f res))
      let hd ← liftRes (handleOf s st f)
      body s k st hd) s = .next s1 := by
  refine runMem_done_nil h ?_
  rw [mbind_ok mrun_get, mbind_ok (mrun_await hregs), mbind_ok (mrun_lift hh), hbody]

section
variable {hd : Half} (hregs : inFlight (endChain st0) [] (engRegs f true) = false) (hh : handleOf s (endChain st0) f = .ok hd)
include hregs hh

/-- A handle that names no entry, a stale one among them, reads 0. -/
theorem execHwait_stale (hseen : handleSeen s (endChain st0) hd = none) :
    execHwait f s = .next (memRetire k f.nx (endChain st0) (handleResult f none) s) := by
  refine runMem_handle h hregs hh ?_
  simp only [hseen, mrun_finishMem]

theorem execHwait_complete (hseen : handleSeen s (endChain st0) hd = some e) (hdone : e.done = some w) :
    execHwait f s = .next (memRetire k f.nx (endChain st0) (handleResult f (some w)) s) := by
  refine runMem_handle h hregs hh ?_
  simp only [hseen, hdone, mrun_finishMem]

theorem execHtest_done :
    execHtest f s = .next (memRetire k f.nx (endChain st0)
      (handleResult f ((handleEntry (s.block (endChain st0).blk) hd).bind fun e => e.done)) s) :=
  runMem_handle h hregs hh (mrun_finishMem ..)

end

-- `hcancel` (R218)

section
variable {hd : Half} (hregs : inFlight (endChain st0) [] (engRegs f false) = false) (hh : handleOf s (endChain st0) f = .ok hd)
include hregs hh

theorem execHcancel_stale (hseen : handleSeen s (endChain st0) hd = none) :
    execHcancel f s = .next (memRetire k f.nx (endChain st0) (cancelDone false) s) := by
  refine runMem_handle h hregs hh ?_
  simp only [hseen, mrun_finishMem]

/-- Nothing is asked of a job that has completed; the low byte of its word says whether it was stopped (R206). -/
theorem execHcancel_complete (hseen : handleSeen s (endChain st0) hd = some e) (hdone : e.done = some w) :
    execHcancel f s = .next (memRetire k f.nx (endChain st0)
      (cancelDone ((endChain st0).cancelling == some e.job && w.toNat % 256 == 2)) s) := by
  refine runMem_handle h hregs hh ?_
  simp only [hseen, hdone]
  cases s.jobs.find e.job <;> rfl

end

-- `hmov` (R219)

theorem execHmov_write (hdir : f.f.getLsbD 0 = true) (hregs : inFlight (endChain st0) [] (engRegs f false) = false)
    (ha : uval s (endChain st0) .i8 f.a = .ok a) (hreserved : field a 6 10 = 0) :
    execHmov f s = .next (memRetire k f.nx (endChain st0) (fun x => x.setH (f.d.toNat % 16) (a.setWidth 32)) s) := by
  refine runMem_done_nil h ?_
  rw [mbind_ok mrun_get, if_pos hdir, mbind_ok (mrun_await hregs), mbind_ok (mrun_lift ha), if_neg (not_not_intro hreserved)]
  rfl

theorem execHmov_read (hdir : f.f.getLsbD 0 = false) (hregs : inFlight (endChain st0) [] [resOf f] = false) :
    execHmov f s = .next (memRetire k f.nx (endChain st0)
      (fun x => x.setS (resOf f) (((endChain st0).handle (f.d.toNat % 16)).setWidth 64) false) s) := by
  refine runMem_done_nil h ?_
  rw [mbind_ok mrun_get, if_neg (ne_true_of_eq_false hdir), mbind_ok (mrun_await hregs), mrun_finishMem]

-- Batches (R220, R221)

theorem execAclose_done (hroom : batchFull (endChain st0) (openBatches s (endChain st0)) = false) :
    execAclose f s = .next (memRetire k f.nx (endChain st0)
      (closeBatch (endChain st0) (openBatches s (endChain st0))) s) := by
  refine runMem_done_nil h ?_
  rw [mbind_ok mrun_get, if_neg (ne_true_of_eq_false hroom)]
  rfl

theorem execAwait_done (hc : (awaitChecks f (endChain st0)).run s = (.ok (), s1)) :
    execAwait f s = .next (memRetire k f.nx (endChain st0) id s1) := by
  refine runMem_done_nil h ?_
  rw [mbind_ok hc, mrun_finishMem]

end

/-- Settles O40: the seven instructions are one operation, which checks its card, enters the job and goes on. -/
theorem cardInstructions : Obligations.CardInstructions := by
  intro f s s1 k st0 i code c h hi st hc
  rw [exec_card hi, cardJob_done h hc]

/-- Settles O41: a handle instruction that need not wait has its result from the entry that its handle names. -/
theorem handleInstructions : Obligations.HandleInstructions := by
  intro f s s1 k st0 hd w e a h st
  refine ⟨fun hregs hh => ?waits, fun hregs hh => ?cancels, execHmov_write h, execHmov_read h, execAclose_done h,
    execAwait_done h⟩
  case waits => exact ⟨execHwait_stale h hregs hh, execHwait_complete h hregs hh, execHtest_done h hregs hh⟩
  case cancels => exact ⟨execHcancel_stale h hregs hh, execHcancel_complete h hregs hh⟩

end Sys2Proof.Machine

/-!
PROOFS. The scheduler's events (O54): what each answers in each of the states that the statement names.
-/
namespace Sys2Proof.Machine

-- Binding and pre-emption (R424, R425, R429)

/-- The group binds at the cost of its strands, once its launch is at the head of the turn's AQI and it has places. -/
theorem execBlockBind_binds {s t : State} {fn grid q : Nat} {g : Grid} {ps : List (Nat × Unbound)}
    (ht : tidyFn (tidyTables s) fn = t) (hq : turnFrom (topLevel t fn) (t.fn fn).turn = q) (herr : (t.fn fn).err = false)
    (hturn : (topLevel t fn).find? (fun p => p.2.aqi == q) = some (grid, g))
    (hplace : (findPlace t grid (nextBlocks t grid)).1 = some ps) (hdeficit : ps.length * g.strands ≤ (t.aqi fn q).deficit) :
    execBlockBind fn s = .next (bindGroup (findPlace t grid (nextBlocks t grid)).2 fn q grid (ps.length * g.strands)
      (nextBlocks t grid) ps) := by
  simp [execBlockBind, ht, hq, herr, hturn, hplace, hdeficit]

section
variable {s : State} {grid : Nat} {g : Grid} (hg : s.grids.find grid = some g)
include hg

theorem execLaunchAgeTick_live (hlive : g.live = true) : execLaunchAgeTick grid s = .next (ageLaunch s grid g) := by
  simp only [execLaunchAgeTick, hg, if_pos hlive]

theorem execPriorityPreempt_waiting (hlive : g.live = true) (hwaits : g.waiting ≠ none) (herr : (s.fn g.fn).err = false) :
    execPriorityPreempt grid s = .next (preemptFor s grid g) := by
  simp [execPriorityPreempt, hg, hlive, hwaits, herr]

-- The end of a grid (R432, R433)

variable (hover : g.isOver = false) (hport : g.port.waiting = false)
include hover hport

theorem execGridComplete_ends {o : Nat × Nat} (hended : g.ended = none) (ho : outcomeOf s g = some o) :
    let s1 := s.updGrid grid fun y => { y with result := some o, ended := some s.datum }
    execGridComplete grid s = .next ((if g.kind = 1 ∧ o.1 ≠ 2 then s1.emit g.fn (hubSrc 0) 0x96 g.seqNo else s1).post
      (.gridComplete grid)) := by
  simp [execGridComplete, hg, hover, hport, hended, ho]

theorem execGridComplete_records (hended : g.ended ≠ none) (hqueue : s.queue = []) :
    execGridComplete grid s = .next (writeRecord s grid g (g.result.getD (1, 0))) := by
  obtain ⟨d, hd⟩ := Option.ne_none_iff_exists'.mp hended
  simp [execGridComplete, hg, hover, hport, hd, hqueue]

end

-- Admission (R428)

theorem execBlockAdmit_admits {s t u : State} {core : Nat} {r : Bind} {rs : List Bind} (ht : tidyTables s = t)
    (hfirst : bindsOf t core = r :: rs) (hheads : groupHeads t r = true) (hawake : groupAsleep t r = [])
    (hall : admitAll t (groupMembers t r) = some u) :
    execBlockAdmit core s = .next ((groupCores t r).foldl (fun a c => a.post (.blockAdmit c))
      (u.send (.blockBind (t.grid r.grid).fn))) := by
  simp [execBlockAdmit, ht, hfirst, hheads, hawake, hall]

-- Blocks that leave or retire (R222, R254, R258)

section
variable {s : State} {block : Nat} {b : Block} (hb : s.blocks.find block = some b)
include hb

theorem execBlockLeave_leaving (hphase : b.phase = .leaving) : execBlockLeave block s = .next (leaveBlock s block b) := by
  simp only [execBlockLeave, hb, if_pos hphase]

/-- The limit is the one that was set when the block was admitted to the core where it still is. -/
theorem execSaveLimitExpiry_leaving (hphase : b.phase = .leaving) :
    let left := saveLimit s (s.grid b.grid).fn - saveTime s b
    execSaveLimitExpiry block b.core b.admitted s = .next (if left = 0 then killBlock s block cSaveLimit
      else s.after left (.saveLimitExpiry block b.core b.admitted)) := by
  simp [execSaveLimitExpiry, hb, hphase, apply_ite Host.Outcome.next]

theorem execBlockRetire_resident (hphase : b.phase = .resident) :
    execBlockRetire block s = .next (retireBlock s block b) := by
  simp only [execBlockRetire, hb, hphase]

end

-- Clusters (R434)

theorem execClusterIdle_stops {s : State} {cl : Nat} (hbusy : clusterBusy s cl = false) (hidle : (s.cluster cl).idle = false)
    (hquiet : (s.cluster cl).quiet + msToDatum 1 ≤ s.datum) :
    execClusterIdle cl s = .next ((s.updCluster cl fun c => { c with timer := false }).updCluster cl fun c =>
      { c with idle := true }) := by
  simp [execClusterIdle, hbusy, hidle, hquiet]

theorem execClusterWake_next {s : State} {cl : Nat} {cls : List Nat} (hwakes : s.wakes = cl :: cls) :
    execClusterWake s = .next (wakeNext s cl cls) := by
  simp only [execClusterWake, hwakes]

/-- Settles O54: each event is performed by the rule of the state that it finds. -/
theorem schedulerEvents : Obligations.SchedulerEvents := by
  intro s fn grid core block cl g b r ps
  refine ⟨execBlockBind_binds rfl rfl, fun hg hlive => ?waits, fun _ _ => execBlockAdmit_admits rfl, fun hb => ?blocks,
    fun hg hover hport => ?ends, execClusterIdle_stops, fun _ => execClusterWake_next⟩
  case waits => exact ⟨execLaunchAgeTick_live hg hlive, execPriorityPreempt_waiting hg hlive⟩
  case blocks =>
    exact ⟨fun hphase => ⟨execBlockLeave_leaving hb hphase, execSaveLimitExpiry_leaving hb hphase⟩,
      execBlockRetire_resident hb⟩
  case ends =>
    exact ⟨fun hended _ => execGridComplete_ends hg hover hport hended, execGridComplete_records hg hover hport⟩

end Sys2Proof.Machine

/-!
PROOFS. The system instructions (O35, O36, O37): the plumb network, traps and their return, the register map, the function table and
`sleep`, each of a strand whose checks have passed.
-/
namespace Sys2Proof.Machine

-- What does not belong to one instruction

@[simp] theorem endChain_pc (st : Strand) : (endChain st).pc = st.pc := by
  obtain ⟨v, hv⟩ := endChain_eq st
  rw [hv]

@[simp] theorem endChain_seq (st : Strand) : (endChain st).seq = st.seq := by
  obtain ⟨v, hv⟩ := endChain_eq st
  rw [hv]

@[simp] theorem endChain_trapMode (st : Strand) : (endChain st).trapMode = st.trapMode := by
  obtain ⟨v, hv⟩ := endChain_eq st
  rw [hv]

@[simp] theorem endChain_saveEntry (st : Strand) : (endChain st).saveEntry = st.saveEntry := by
  obtain ⟨v, hv⟩ := endChain_eq st
  rw [hv]

theorem need_ok {c : Bool} {cause : Nat} (hc : c = true) : need c cause = .ok () := by
  rw [need, if_pos hc]

section
variable {f : Fields} {s s1 s2 : State} {k : Nat} {st0 : Strand} {a : Word} {fork : Fork} (h : Acts s k st0)
include h

/-- An instruction that ends a chain, reads its operand A and answers a state. -/
theorem withActor_operand {body : Nat → Strand → Word → Res State} {t : State}
    (hregs : inFlight (endChain st0) [] (memRegs false [f.a]) = false) (ha : uval s (endChain st0) .i8 f.a = .ok a)
    (hbody : body k (endChain st0) a = .ok t) :
    (withActor s fun k st0 =>
      settle s k (endChain st0) false do
        awaitRegs (endChain st0) [] (memRegs false [f.a])
        let a ← uval s (endChain st0) .i8 f.a
        body k (endChain st0) a) = .next t := by
  rw [withActor_of h, awaitRegs_clear hregs, ha]
  exact congrArg (settle s k (endChain st0) false) hbody

-- The plumb network (R225 to R229)

omit h in
/-- A phase behind the strand's first arrival, and one that every participant has arrived in, holds nobody (R226). -/
theorem plumbAwait_complete {st : Strand} {p : Half} (hdone :
    let b := s.block st.blk
    let own := (s.grid b.grid).arrivals.getD (plumbKey b.bid st.sid (plumbTag f) (plumbLevel f)) 0
    let back := (BitVec.ofNat 32 own - p).toNat
    own < back ∨ phaseComplete s b.grid b.bid (plumbTag f) (plumbLevel f) (own - back) = true) :
    (plumbAwait k st f p).run s = (.ok (), s) := by
  rw [plumbAwait, mbind_ok mrun_get, if_neg]
  · rfl
  · rw [Bool.and_eq_true, decide_eq_true_eq, Bool.not_eq_true']
    rintro ⟨hback, hopen⟩
    rcases hdone with hbefore | hcomplete
    · exact absurd hback (Nat.not_le.mpr hbefore)
    · exact absurd hcomplete (ne_true_of_eq_false hopen)

theorem execParr_done {p : Half} (hregs : awaitRegs (endChain st0) [] [f.d.toNat] = .ok ())
    (hc : plumbChecks s (endChain st0) f = .ok ()) (hp : (plumbArrive k (endChain st0) f).run s = (.ok p, s1)) :
    execParr f s = .next (memRetire k f.nx (endChain st0) (fun x => x.setS f.d.toNat (p.setWidth 64) false) s1) := by
  refine runMem_done_nil h ?_
  rw [mbind_ok mrun_get, mbind_ok (mrun_lift hregs), mbind_ok (mrun_lift hc), mbind_ok hp, mrun_finishMem]

theorem execPwait_done {p : Half} {sc : Nat} (hp : (pwaitChecks f (endChain st0)).run s = (.ok p, s1))
    (hwait : (plumbAwait k (endChain st0) f p).run s1 = (.ok (), s1))
    (hsc : (capScope (s1.grid (s1.block (endChain st0).blk).grid).fn (plumbScope (plumbLevel f)) 0).run s1 = (.ok sc, s2)) :
    execPwait f s
      = .next (memRetire k f.nx (endChain st0) (fun x => { x with plumbAt := none, viewOn := false }) s2) := by
  refine runMem_done_nil h ?_
  rw [mbind_ok hp, mbind_ok hwait, mbind_ok mrun_get, mbind_ok hsc, mrun_finishMem]

theorem execPbar_done {p : Half} (hp : (pbarArrive k (endChain st0) f).run s = (.ok p, s1))
    (hwait : (plumbAwait k (endChain st0) f p).run s1 = (.ok (), s1)) :
    execPbar f s
      = .next (memRetire k f.nx (endChain st0) (fun x => { x with plumbAt := none, pbarKept := none, viewOn := false }) s1) := by
  refine runMem_done_nil h ?_
  rw [mbind_ok hp, mbind_ok hwait, mrun_finishMem]

-- Traps and the return (R230 to R232, R253)

section
variable (hregs : inFlight (endChain st0) [] (memRegs false [f.a]) = false) (ha : uval s (endChain st0) .i8 f.a = .ok a)
include hregs ha

theorem execTrap_done :
    execTrap f s
      = .next (enterTrap s k (endChain st0).unkept cSoftwareTrap st0.seq (BitVec.ofNat 64 (field a 0 32)) st0.em) := by
  rw [← endChain_seq st0, ← endChain_em st0]
  exact withActor_operand (body := fun k st a =>
    .ok (enterTrap s k st.unkept cSoftwareTrap st.seq (BitVec.ofNat 64 (field a 0 32)) st.em)) h hregs ha rfl

theorem execBrk_done (hcode : field a 16 16 = 0) :
    execBrk f s
      = .next (enterTrap s k (endChain st0).unkept cBreakpoint st0.pc (BitVec.ofNat 64 (field a 0 16)) st0.em) := by
  rw [← endChain_pc st0, ← endChain_em st0]
  refine withActor_operand (body := fun k st a => do
    need (field a 16 16 == 0) cIllegalField
    return enterTrap s k st.unkept cBreakpoint st.pc (BitVec.ofNat 64 (field a 0 16)) st.em) h hregs ha ?_
  rw [need_ok (beq_iff_eq.mpr hcode)]
  rfl

-- `sleep` (R238)

theorem execSleep_done :
    execSleep f s = .next (if field a 0 32 = 0
      then retire s k { endChain st0 with yielded := true } f.nx 0 (endChain st0).em
      else sleepFor f k (endChain st0) (field a 0 32) s) := by
  refine withActor_operand (body := fun k st a =>
    if field a 0 32 = 0 then .ok (retire s k { st with yielded := true } f.nx 0 st.em)
    else .ok (sleepFor f k st (field a 0 32) s)) h hregs ha ?_
  exact (apply_ite Except.ok _ _ _).symm

end

section
variable (hmode : st0.trapMode = true)
include hmode

/-- In trap mode `tret` returns, or on the save entry sets its strand aside. -/
theorem execTret_trapMode {t : State} (hbody : (if st0.saveEntry = true then setAside k (endChain st0) else do
      let fork ← tretChecks (endChain st0)
      modify (tretDone k (endChain st0) fork)).run s = (.ok (), t)) : execTret f s = .next t := by
  rw [execTret]
  refine runMem_done_nil h ?_
  simpa only [endChain_trapMode, hmode, endChain_saveEntry, Bool.not_true, Bool.false_eq_true, if_false] using hbody

theorem execTret_done (hsave : st0.saveEntry = false) (hc : (tretChecks (endChain st0)).run s = (.ok fork, s1)) :
    execTret f s = .next (tretDone k (endChain st0) fork s1) := by
  refine execTret_trapMode h hmode ?_
  rw [if_neg (ne_true_of_eq_false hsave), mbind_ok hc, mrun_modify]

/-- The strand that is set aside has first ordered all that it has sent (R253, R257). -/
theorem execTret_setAside (hsave : st0.saveEntry = true) (horder : orderWaits (endChain st0) (some 9) false = .ok ()) :
    execTret f s = .next ((setAside k (endChain st0)).run s).2 := by
  refine execTret_trapMode h hmode ?_
  rw [if_pos hsave, setAside, mbind_ok (mrun_lift horder)]
  rfl

end

-- The register map and the function table (R233 to R237)

theorem execRgmap_done (hregs : inFlight (endChain st0) [] (f.d.toNat :: memRegs false [f.a]) = false)
    (ha : uval s (endChain st0) .i8 f.a = .ok a) (hsel : a = 0 ∨ a = 1)
    (hflight : ((endChain st0).flight.all fun p => !p.2.vector) = true) :
    execRgmap f s = .next (retire s k ((endChain st0).setS f.d.toNat (rgmapValue s (endChain st0) a) false) f.nx 0
      (endChain st0).em) := by
  have hnone : ((endChain st0).flight.any fun p => p.2.vector) = false := by simpa using hflight
  rw [endChain_em]
  refine runPlain_done (r := (s, (endChain st0).setS f.d.toNat (rgmapValue s (endChain st0) a) false)) h hregs ?_
  have hneed : need (a == 0 || a == 1) cIllegalField = .ok () := need_ok (by simpa using hsel)
  rw [ha]
  simp only [bind, Except.bind, hneed, hnone]
  rfl

theorem execRgfree_done (hregs : inFlight (endChain st0) [] (memRegs false [f.a]) = false)
    (ha : uval s (endChain st0) .i8 f.a = .ok a)
    (hflight : ((endChain st0).flight.any fun p =>
      p.2.vector && (a.getLsbD p.2.d || (p.2.pair && a.getLsbD (p.2.d + 1)))) = false) :
    execRgfree f s = .next (retire s k (freeRegs (endChain st0) (ones 64 a.toNat)) f.nx 0 (endChain st0).em) := by
  rw [endChain_em]
  refine runPlain_done (r := (s, freeRegs (endChain st0) (ones 64 a.toNat))) h hregs ?_
  rw [ha]
  simp only [bind, Except.bind, hflight]
  rfl

theorem execFnld_done {ad : Nat} (hc : (fnldChecks f k (endChain st0)).run s = (.ok ad, s1)) :
    execFnld f s = .next (fnldStart f k (endChain st0) ad s1) := by
  refine runMem_done_nil h ?_
  rw [mbind_ok hc, mrun_modify]

/-- The bank that is written to the register is the one that becomes active (R237). -/
theorem execFnswap_done (hc : (fnswapChecks f k (endChain st0)).run s = (.ok (), s1)) :
    execFnswap f s = .next (memRetire k f.nx (endChain st0)
      (fun x => x.setS f.d.toNat (BitVec.ofNat 64 (1 - (s1.core (endChain st0).core).table.active)) false)
      (swapBanks k (endChain st0).core s1)) := by
  refine runMem_done_nil h ?_
  rw [mbind_ok hc, mbind_ok mrun_get, mbind_ok (mrun_modify ..), mrun_finishMem]

end

/-- Settles O35: `parr` goes on once it has arrived; `pwait` and `pbar` go on from a phase that holds nobody. -/
theorem plumbNetwork : Obligations.PlumbNetwork := by
  intro f s s1 s2 k st0 p sc h
  exact ⟨execParr_done h, fun hp hdone => execPwait_done h hp (plumbAwait_complete hdone),
    fun hp hdone => execPbar_done h hp (plumbAwait_complete hdone)⟩

/-- Settles O36: `trap` and `brk` read their code and enter; what `tret` does depends on the entry that it returns from. -/
theorem trapInstructions : Obligations.TrapInstructions := by
  intro f s s1 k st0 a fork h
  exact ⟨fun hregs ha => ⟨execTrap_done h hregs ha, execBrk_done h hregs ha⟩, execTret_done (f := f) h,
    execTret_setAside (f := f) h⟩

/-- Settles O37: `rgmap`, `rgfree` and `sleep` need their operand; `fnld` and `fnswap` have their turn at the table by their checks. -/
theorem registersAndTable : Obligations.RegistersAndTable := by
  intro f s s1 k st0 a ad h
  exact ⟨fun ha => ⟨fun hregs => execRgmap_done h hregs ha, fun hregs => execRgfree_done h hregs ha,
    fun hregs => execSleep_done h hregs ha⟩, execFnld_done h, execFnswap_done h⟩

end Sys2Proof.Machine

/-!
PROOFS. Taking a trap and the errors of units (O7, O52): the ways that a trap can go when it is not one of poison, and what a cluster's
recovery answers once nothing is on its way to the cluster.
-/
namespace Sys2Proof.Machine

-- Taking a trap (R246 to R249)

/-- A strand that is replaced and leaves a record changes no other strand, no memory and no operation in progress. -/
theorem setStrand_emitStrand_keeps {s t : State} {k code low : Nat} {st y : Strand}
    (ht : t = (s.setStrand k y).emitStrand k st code low) :
    SameMemory s t ∧ OthersKept s t k ∧ t.strand k = some y ∧ t.jobs = s.jobs ∧ t.arrayOps = s.arrayOps := by
  obtain ⟨records, h⟩ := emitStrand_frame (s.setStrand k y) k st code low
  rw [ht, h]
  exact ⟨fun _ => rfl, fun j hj => (strand_setStrand ..).trans (if_neg hj), (strand_setStrand ..).trans (if_pos rfl), rfl, rfl⟩

section
variable {s : State} {k cause : Nat} {st : Strand} {tpc taddr : Word} {tem : Half} (hsill : st.sill = false) (hcause : cause ≠ cPoison)
include hsill hcause

theorem enterTrap_in_trapMode (hmode : st.trapMode = true) (hpoison : st.poisonTrap = false) :
    enterTrap s k st cause tpc taddr tem = killBlock (s.setStrand k st) st.blk cDoubleFault := by
  simp [enterTrap, hsill, hcause, hmode, hpoison]

theorem enterTrap_without_handler (hmode : st.trapMode = false) (htvec : st.tvec = 0) :
    enterTrap s k st cause tpc taddr tem = killBlock (s.setStrand k st) st.blk cause := by
  simp [enterTrap, hsill, hcause, hmode, htvec]

end

/-- Settles O7: a trap that is handled replaces its strand and leaves a record; the others kill the block. -/
theorem trapEntry : Obligations.TrapEntry := by
  intro s k st cause tpc taddr tem hsill hcause t
  refine ⟨fun hmode htvec => ?handled, enterTrap_in_trapMode hsill hcause, enterTrap_without_handler hsill hcause⟩
  case handled =>
    -- The strand is the model's own: it stands in the last branch, past a sill strand's, poison's, trap mode's and a missing handler's.
    obtain ⟨hmem, hothers, hstrand, hjobs, hops⟩ := setStrand_emitStrand_keeps (t := t) (s := s) (k := k) (st := st)
      ((if_neg (ne_true_of_eq_false hsill)).trans <| (if_neg (by simp [hcause])).trans <|
        (if_neg (ne_true_of_eq_false hmode)).trans (if_neg htvec))
    refine ⟨hmem, hothers, _, hstrand, rfl, BitVec.toNat_ofNat .., rfl, rfl, rfl, rfl, rfl, fun hview hflight => ?suspended, rfl, rfl,
      rfl, rfl, rfl, rfl, rfl, rfl, rfl, rfl, rfl, rfl, rfl, rfl, rfl, rfl, rfl, hjobs, hops⟩
    case suspended => simp [hview, hflight]

-- Recovering a cluster (R417)

section
variable {s : State} {cl : Nat} {lost : List Nat} {ok : Bool} (hbusy : (s.home cl).busy = []) (hqueue : s.queue = [])
include hbusy hqueue

theorem execClusterRecovery_alone (hcopies : copiesElsewhere s cl lost = []) :
    execClusterRecovery cl lost ok s = .next (recoverCluster s cl lost ok) := by
  simp [execClusterRecovery, hbusy, hqueue, hcopies]

theorem execClusterRecovery_recalls (hcopies : copiesElsewhere s cl lost ≠ []) :
    execClusterRecovery cl lost ok s = .next (((copiesElsewhere s cl lost).foldl
      (fun a l => beginTx a cl l.1 l.2 .recalled []) s).post (.clusterRecovery cl lost ok)) := by
  rw [execClusterRecovery, if_neg (by simp [hbusy, hqueue])]
  split
  · exact absurd ‹_› hcopies
  · rfl

end

/-- Settles O52: each error is performed by its meaning, whatever the state; a recovery depends on the copies that others hold. That
these are recalled before the cluster recovers is the model's own choice (log 33). -/
theorem unitErrors : Obligations.UnitErrors := by
  intro s core lane slice cl lines spots parcel ok
  exact ⟨rfl, rfl, rfl, rfl, rfl, rfl,
    fun hbusy hqueue => ⟨execClusterRecovery_alone hbusy hqueue, execClusterRecovery_recalls hbusy hqueue⟩⟩

end Sys2Proof.Machine

/-!
PROOFS. Bundle instructions and views (O42, O43): what a strand whose checks have passed goes on with, and what `view` changes beside
the view that it opens.
-/
namespace Sys2Proof.Machine

-- The bundle instructions (R266 to R270, R273)

/-- A store to an ABORTED bundle is discarded (R268). -/
theorem performBundled_dead {k : Nat} {st : Strand} {ps : List Part} {data : Nat → Word × Bool} {s : State}
    (hacked : (st.unacked.any fun u => (partLines ps).contains u.line) = false) (hdead : bundleDead s st.bnd = true) :
    (performBundled k st ps data).run s = (.ok (), s) := by
  rw [performBundled, mbind_ok mrun_get]
  simp only [hacked, hdead, Bool.false_eq_true, if_false, if_true]
  rfl

/-- The lines that the record admits go to their homes: a record here is asked at once, one of another module has nothing to be asked
or has answered. -/
theorem performBundled_admitted {k : Nat} {st : Strand} {ps : List Part} {data : Nat → Word × Bool} {s s1 : State}
    (hacked : (st.unacked.any fun u => (partLines ps).contains u.line) = false) (hlive : bundleDead s st.bnd = false)
    (hadmits : bundleDev st.bnd = s.dev ∨ newLines s st.bnd ((partLines ps).map (homeOfLine s st)) = [] ∨ st.answer = some 1)
    (hs1 : admitLines s st.bnd ((partLines ps).map (homeOfLine s st)) = some s1) :
    (performBundled k st ps data).run s = (.ok (), installLines k st ps data s1) := by
  rw [performBundled, mbind_ok mrun_get]
  simp only [hacked, hlive, Bool.false_eq_true, if_false]
  rcases hadmits with hhere | hnone | hyes
  · simp [hhere, hs1]
    rfl
  · simp [hnone, hs1]
    rfl
  · simp [hyes, hs1]
    rfl

theorem arriveBarrier_commit {k d : Nat} {st : Strand} {nx : Nx} {s : State} (hmode : st.trapMode = false)
    (hflight : st.flight = []) (hunacked : st.unacked = []) (horder : orderWaits st (some 2) false = .ok ()) :
    (arriveBarrier k st nx (some d)).run s
      = (.ok (), barrierArrived k st nx (some d) (implicitScope s (whoOf s st).fn 7)) := by
  simp only [arriveBarrier, hmode, hflight, hunacked, horder]
  rfl

section
variable {f : Fields} {s s1 : State} {k x : Nat} {st0 : Strand} (h : Acts s k st0)
include h

section
variable (hans : (endChain st0).answer = some x)
include hans

theorem execBopen_answered {q : Nat × Nat × Half} (hc : (bopenChecks f (endChain st0)).run s = (.ok q, s1)) :
    execBopen f s = .next (memRetire k f.nx (endChain st0) (bopenAnswer f x) s1) := by
  refine runMem_done_nil h ?_
  rw [mbind_ok hc]
  simp only [hans, mrun_finishMem]

theorem execBjoin_answered {name : Nat} (hc : (bjoinChecks f (endChain st0)).run s = (.ok name, s1)) :
    execBjoin f s = .next (memRetire k f.nx (endChain st0) (bjoinAnswer f x) s1) := by
  refine runMem_done_nil h ?_
  rw [mbind_ok hc]
  simp only [hans, mrun_finishMem]

end

/-- A bundled store goes on once its lines are performed. -/
theorem bundledStore_done {vec : Bool} {r : List Part × MemOpnds} {t : State}
    (hchain : let os := memVecs vec [f.a, f.b, f.c]
      chainCheck (vectorStart st0 os) (os.flatMap latchesOf) = .ok ())
    (hc : (bundledChecks f vec (vectorStart st0 (memVecs vec [f.a, f.b, f.c]))).run s = (.ok r, s1))
    (hp : (performBundled k (vectorStart st0 (memVecs vec [f.a, f.b, f.c])) r.1 r.2.data).run s1 = (.ok (), t)) :
    exec (if vec then .bst f else .ubst f) s
      = .next (memRetire k f.nx (vectorStart st0 (memVecs vec [f.a, f.b, f.c])) (storeEnd vec [f.a, f.b, f.c]) t) := by
  have hstore : exec (if vec then .bst f else .ubst f) s = bundledStore f vec s := by cases vec <;> rfl
  rw [hstore]
  refine runMem_done h hchain ?_
  rw [mbind_ok hc, mbind_ok hp, mrun_finishMem]

theorem execBclose_done (hc : (bcloseChecks (endChain st0)).run s = (.ok (), s1)) :
    execBclose f s = .next (memRetire k f.nx (endChain st0) leaveBundle (closeStart f k (endChain st0) s1)) := by
  refine runMem_done_nil h ?_
  rw [mbind_ok hc, mbind_ok (mrun_modify ..), mrun_finishMem]

section
variable (hjoined : (endChain st0).joined = true) (hblock : restartableBlock s (endChain st0) = false)
include hjoined hblock

theorem execBabort_answered (hans : (endChain st0).answer = some x) :
    execBabort f s = .next (memRetire k f.nx (endChain st0) leaveBundle s) := by
  refine runMem_done_nil h ?_
  rw [mbind_ok mrun_get]
  simp only [hjoined, hblock, hans]
  rfl

/-- Nothing is waited for when this module knows that the bundle is ABORTED. -/
theorem execBabort_dead (hans : (endChain st0).answer = none) (hask : (endChain st0).ask = 0)
    (hdead : bundleDead s (endChain st0).bnd = true) :
    execBabort f s = .next (memRetire k f.nx (endChain st0) leaveBundle (sendTo s (bundleDev (endChain st0).bnd)
      (.bundleCloseArrival (s.mail (coreDie (endChain st0).core)) noAsker (endChain st0).bnd .aborts []))) := by
  refine runMem_done_nil h ?_
  rw [mbind_ok mrun_get]
  simp only [hjoined, hblock, hans, hask, hdead]
  rfl

end

theorem execCommit_done (hblock : restartableBlock s (endChain st0) = true) (hmode : (endChain st0).trapMode = false)
    (hflight : (endChain st0).flight = []) (hunacked : (endChain st0).unacked = [])
    (horder : orderWaits (endChain st0) (some 2) false = .ok ()) :
    execCommit f s = .next (barrierArrived k (endChain st0) f.nx (some f.d.toNat)
      (implicitScope s (whoOf s (endChain st0)).fn 7)) := by
  refine runMem_done_nil h ?_
  rw [mbind_ok mrun_get, hblock]
  exact arriveBarrier_commit hmode hflight hunacked horder

end

/-- Settles O42: an instruction that has its answer, or that needs none, goes on from its checks. -/
theorem bundleInstructions : Obligations.BundleInstructions := by
  intro f s s1 s2 k st0 q name x h st
  refine ⟨fun hc hans => execBopen_answered h hans hc, fun hc hans => execBjoin_answered h hans hc,
    fun vec ps o hchain hc hacked => ?stores, execBclose_done h, fun hjoined hblock => ?aborts, execCommit_done h⟩
  case stores =>
    exact ⟨fun hdead => bundledStore_done h hchain hc (performBundled_dead hacked hdead),
      fun hlive hadmits hs2 => bundledStore_done h hchain hc (performBundled_admitted hacked hlive hadmits hs2)⟩
  case aborts => exact ⟨execBabort_answered h hjoined hblock, execBabort_dead h hjoined hblock⟩

-- `view` (R271, R272)

/-- Whether the access of strand k that would end a view is still in flight. -/
def endsViewLater (k : Nat) : Out → Bool
  | .next t => (t.strand k).any fun st => st.flight.any fun p => p.2.endsView
  | _ => false

/-- An acquire load from a bundled page, made inside a view: the view that is open ends when its data have come (R272). -/
def acquireInFlight : Access :=
  { writes := false, vector := false, d := 0, pair := false, ty := .i32, old := .zero, old2 := .zero, active := 1, pieces := []
    todo := [], wanting := [0], alters := false, frees := [], acquire := true, endsView := true }

/-- A strand that executes while its acquire load is in flight. -/
def acquirer : Strand := { Strand.init with viewOn := true, flight := [(1, acquireInFlight)] }

/-- The machine after reset, but that the strand executes. -/
def whileAcquiring : State := { State.reset with strands := [(0, acquirer)], act := some 0 }

/-- A `view` whose retry is the next word. -/
def viewFields : Fields := ⟨.next, false, 0, ⟨.lit 4, false⟩, .none, .none, .i8, 0, 0⟩

theorem endsViewLater_execView : endsViewLater 0 (exec (.view viewFields) whileAcquiring) = false := by rfl

/-- Refutes O43: the statement keeps all that the strand has in flight, but `view` ends the view that was open, so that an acquire load
in flight no longer has a view to end. -/
theorem not_viewsAndTrace : ¬ Obligations.ViewsAndTrace := by
  intro h
  obtain ⟨hview, -⟩ := h viewFields whileAcquiring 0 acquirer 4 0 ⟨rfl, rfl⟩
  have hends := endsViewLater_execView
  rw [hview rfl] at hends
  exact absurd hends (by decide)

end Sys2Proof.Machine

/-!
PROOFS. Names, joins and closes (O49): what each message does, by what it finds where it arrives.
-/
namespace Sys2Proof.Machine

-- Names (R266, R267, R324)

section
variable {s s0 : State} {m : Mail} {who : Asker} {scope name core need : Nat} {retry h : BitVec 32}

section
variable (hs0 : recv s m (coreDie core) = s0) (hawaits : awaits s0 who = true)
include hs0 hawaits

theorem execNameRegister_openHere_free (hfree : nameFind s0 scope name = none) :
    execNameRegister m who scope name (.openHere core need retry) s
      = .next (openHere s0 who scope name core need retry) := by
  simp [execNameRegister, actDie, hs0, hawaits, hfree]

theorem execNameRegister_openHere_taken (htaken : nameFind s0 scope name ≠ none) :
    execNameRegister m who scope name (.openHere core need retry) s = .next (answerStrand s0 (coreDie core) who 1) := by
  obtain ⟨g, hg⟩ := Option.ne_none_iff_exists'.mp htaken
  simp [execNameRegister, actDie, hs0, hawaits, hg]

theorem execNameRegister_age {stamp : Option Nat} :
    execNameRegister m who scope name (.age core need retry stamp) s
      = .next (openWith s0 who scope name core need (if stamp.isSome then retry else 0) (stamp.getD s0.datum)) := by
  simp only [execNameRegister, actDie, hs0, hawaits, Bool.not_true, Bool.false_eq_true, if_false]

end

section
variable (hs0 : recv s m (nameDie name) = s0)
include hs0

theorem execNameRegister_register_free (hfree : nameFind s0 scope name = none) :
    execNameRegister m who scope name (.register h retry) s = .next (sendTo (addName s0 scope name h) m.dev
      (.nameRegister (s0.mail (nameDie name)) who scope name (.registered h retry true))) := by
  simp [execNameRegister, actDie, hs0, hfree]

theorem execNameRegister_register_taken (htaken : nameFind s0 scope name ≠ none) :
    execNameRegister m who scope name (.register h retry) s = .next (sendTo s0 m.dev
      (.nameRegister (s0.mail (nameDie name)) who scope name (.registered h retry false))) := by
  obtain ⟨g, hg⟩ := Option.ne_none_iff_exists'.mp htaken
  simp [execNameRegister, actDie, hs0, hg]

theorem execNameRegister_lookUp_found (hfound : nameFind s0 scope name = some h) :
    execNameRegister m who scope name .lookUp s = .next (sendTo s0 m.dev
      (.nameRegister (s0.mail (nameDie name)) who scope name (.found h))) := by
  simp only [execNameRegister, actDie, hs0, hfound]

/-- Of a name that nobody has registered a strand that waits is told later. -/
theorem execNameRegister_lookUp_free (hfree : nameFind s0 scope name = none) :
    execNameRegister m who scope name .lookUp s = .next (if who.waits
      then { s0 with nameWaits := s0.nameWaits ++ [(scope, name, who)] }
      else sendTo s0 m.dev (.nameRegister (s0.mail (nameDie name)) who scope name (.found 0))) := by
  simp only [execNameRegister, actDie, hs0, hfree, apply_ite Host.Outcome.next]

end

-- Joins (R267, R334)

section
variable (hs0 : recv s m (keyDie who.strand) = s0)
include hs0

theorem execNameRegister_found_some (hawaits : awaits s0 who = true) (hsome : h ≠ 0) :
    execNameRegister m who scope name (.found h) s
      = .next (sendTo s0 (bundleDev h) (.joinMessage (s0.mail (keyDie who.strand)) who h none)) := by
  simp only [execNameRegister, actDie, hs0, hawaits, Bool.not_true, Bool.false_eq_true, if_false, if_neg hsome]

theorem execNameRegister_found_none (hawaits : awaits s0 who = true) :
    execNameRegister m who scope name (.found 0) s = .next (answerStrand s0 (keyDie who.strand) who 0) := by
  simp [execNameRegister, actDie, hs0, hawaits]

theorem execJoinMessage_joined {stamp : Nat} (hawaits : awaits s0 who = true) :
    execJoinMessage m who h (some (some stamp)) s
      = .next (answerJoined (keepAway s0 h stamp) (keyDie who.strand) who h) := by
  simp [execJoinMessage, hs0, hawaits]

/-- A place that the strand no longer waits for is given back. -/
theorem execJoinMessage_joined_late {stamp : Nat} (hgone : awaits s0 who = false) :
    execJoinMessage m who h (some (some stamp)) s
      = .next (sendTo s0 (bundleDev h) (.bundleCloseArrival (s0.mail (keyDie who.strand)) noAsker h .unjoin [])) := by
  simp [execJoinMessage, hs0, hgone]

end

section
variable {b : Bundle}

theorem serveJoin_gone (hb : findBundle s h = none) : serveJoin s who h = tellJoin s who h none := by
  simp only [serveJoin, hb]

variable (hb : findBundle s h = some b)
include hb

theorem serveJoin_joins (hcan : canJoin s h = true) :
    serveJoin s who h = tellJoin (countJoin s who.dev h) who h (some b.stamp) := by
  simp only [serveJoin, hb, if_pos hcan]

theorem serveJoin_waits (hfull : canJoin s h = false) (hopen : b.st = .opened) (hwaits : who.waits = true) :
    serveJoin s who h = updBundle s h fun x => { x with asked := x.asked ++ [who] } := by
  simp [serveJoin, hb, hfull, hopen, hwaits]

theorem serveJoin_refused (hfull : canJoin s h = false) (hnot : b.st ≠ .opened ∨ who.waits = false) :
    serveJoin s who h = tellJoin s who h none := by
  have hstays : ¬ (b.st = .opened ∧ who.waits = true) := fun ⟨hopen, hwaits⟩ =>
    hnot.elim (absurd hopen) fun hno => Bool.false_ne_true (hno.symm.trans hwaits)
  simp only [serveJoin, hb, hfull, Bool.false_eq_true, if_false, if_neg hstays]

end

-- Closes (R268 to R270, R325)

/-- What a record's home tells a joiner that waits for an answer. -/
def replyClose (m : Mail) (who : Asker) (h : BitVec 32) (a : State) (n : Nat) : State :=
  if who.token = 0 then a else sendTo a m.dev (.bundleCloseArrival (a.mail (bundleDie h)) who h (.answered n) [])

section
variable {lines : List (Nat × Nat)} (hs0 : recv s m (bundleDie h) = s0)
include hs0

theorem execBundleCloseArrival_closes {b : Bundle} (hb : findBundle s0 h = some b) :
    execBundleCloseArrival m who h .closes lines s = .next (closeHere s0 m.dev b) := by
  simp only [execBundleCloseArrival, hs0, hb]

/-- The module of the joiner hears that the handles end ABORTED. -/
theorem execBundleCloseArrival_closes_gone (hb : findBundle s0 h = none) :
    execBundleCloseArrival m who h .closes lines s = .next (if m.dev = s0.dev then endCloses s0 h 4 0
      else sendTo s0 m.dev (.dropNotice (s0.mail (bundleDie h)) 127 h)) := by
  simp only [execBundleCloseArrival, hs0, hb]

/-- What is still to come of a bundle that is not OPEN has no effect, which the answer 2 says. -/
theorem execBundleCloseArrival_admits_not_open (hclosed : isOpen s0 h = false) :
    execBundleCloseArrival m who h .admits lines s = .next (replyClose m who h s0 2) := by
  simp only [execBundleCloseArrival, hs0, hclosed, Bool.not_false, if_true]
  rfl

theorem execBundleCloseArrival_admits_room (hopen : isOpen s0 h = true) {t : State} (ht : admitLines s0 h lines = some t) :
    execBundleCloseArrival m who h .admits lines s = .next (replyClose m who h t 1) := by
  simp only [execBundleCloseArrival, hs0, hopen, ht, Bool.not_true, Bool.false_eq_true, if_false]
  rfl

theorem execBundleCloseArrival_admits_full (hopen : isOpen s0 h = true) (hfull : admitLines s0 h lines = none) :
    execBundleCloseArrival m who h .admits lines s = .next (replyClose m who h s0 0) := by
  simp only [execBundleCloseArrival, hs0, hopen, hfull, Bool.not_true, Bool.false_eq_true, if_false]
  rfl

end

end

/-- Settles O49: every message is performed by what it finds when it arrives: whether the strand still waits, whether the name is
registered, and whether the record is there and OPEN. What one module tells another, the home number 127 included, is the model's own
choice (log 18). -/
theorem nameEvents : Obligations.NameEvents := by
  intro s m who scope name core need retry h b stamp lines
  refine ⟨fun hawaits => ?opens, ⟨rfl, rfl⟩, ?names, fun ok => rfl, fun hawaits => ?found, fun hgone t => ?late, rfl, ?record,
    fun n => rfl, rfl⟩
  case opens =>
    exact ⟨execNameRegister_openHere_free rfl hawaits, execNameRegister_openHere_taken rfl hawaits,
      execNameRegister_age rfl hawaits⟩
  case names =>
    refine ⟨execNameRegister_register_free rfl, execNameRegister_register_taken rfl,
      fun g => execNameRegister_lookUp_found rfl, fun hfree => ?free, rfl⟩
    case free =>
      have hlook := execNameRegister_lookUp_free (who := who) rfl hfree
      exact ⟨fun hno => hlook.trans (by simp [hno]), fun hyes => hlook.trans (by simp [hyes])⟩
  case found =>
    exact ⟨execNameRegister_found_some (scope := scope) rfl hawaits, execNameRegister_found_none (scope := scope) rfl hawaits,
      fun t => execJoinMessage_joined rfl hawaits⟩
  case late => exact execJoinMessage_joined_late rfl hgone
  case record =>
    refine ⟨fun hb => ⟨fun hcan => ?joins, fun hfull hopen hwaits => ?waits, fun hfull hnot => ?refused⟩, fun hb => ?gone,
      execBundleCloseArrival_closes rfl, execBundleCloseArrival_closes_gone rfl, rfl, rfl, rfl, ?admits⟩
    case joins => exact congrArg Host.Outcome.next (serveJoin_joins hb hcan)
    case waits => exact congrArg Host.Outcome.next (serveJoin_waits hb hfull hopen hwaits)
    case refused => exact congrArg Host.Outcome.next (serveJoin_refused hb hfull hnot)
    case gone => exact congrArg Host.Outcome.next (serveJoin_gone hb)
    case admits =>
      exact ⟨execBundleCloseArrival_admits_not_open rfl, fun hopen => ⟨fun _ => execBundleCloseArrival_admits_room rfl hopen,
        execBundleCloseArrival_admits_full rfl hopen⟩⟩

end Sys2Proof.Machine

/-!
PROOFS. What reset leaves (O1), and the trace records of a step (O5).
-/
namespace Sys2Proof.Machine

/-- Settles O1: every value is read off the state right after reset, whose memory holds no byte (log 1). -/
theorem resetValues : Obligations.ResetValues := by
  refine ⟨by decide, rfl, by decide, by decide, rfl, fun a => rfl, rfl, rfl⟩

/-- The PF's ring of 256 places at 4 KiB of its window 0, full. -/
def fullRing : Ring :=
  { win := 0, pasid := 0, off := 4096, logN := 8, wr := 256, drops := 0, stallNs := 0, rd := 0, todo := [], lost := []
    stalled := [], shown := (0, 0) }

/-- The hub's TLB entry of the ring's page: page 0 of the PF is page 0 of device memory. -/
def ringPage : TlbEntry :=
  { fn := pf, pasid := 0, page := 0, via := []
    leaf := { tgt := 0, dev := 0, kind := 0, bun := false, r := true, w := true, x := false, r2 := true, w2 := true, x2 := false
              d2 := true, gpa := 0, base := 0 } }

/-- An interrupt of function 1 that waits at the host port, where it takes all the tokens that function 1 has. -/
def lastTokens : Waiting := { fn := 1, hops := [(hopOf 8 0, 4096)], sent := 0, cargo := .output (.interrupt 1 0 0 0) }

/-- The machine after reset, but that a message waits for tokens, and that the PF, which traces events of class 12, has a full ring
whose header lies in a line with an integrity tag that does not match. -/
def meteredAndFull : State :=
  { State.reset with
    queue := [], linkQueues := [lastTokens], badTags := [32], plat := [(0, { PlatEntry.reset with owner := pf })]
    clusters := [(256, { Cluster.reset with tlb := [ringPage] })]
    fns := [(1, { Fn.reset false with meters := [(8, 1)] }),
      (pf, { Fn.reset true with trcw := 2 ^ 16 + 2 ^ 12, ring := some fullRing })] }

/-- The records that wait in the state that a step answers. -/
def recordsLeft : Out → List TraceRec
  | .next t => t.records
  | _ => []

/-- The step that pumps the links has taken METER LIMIT, and leaves the record of the integrity failure. -/
theorem recordsLeft_step : (recordsLeft (step meteredAndFull)).isEmpty = false := by decide +kernel

/-- Refutes O5: a message that has waited takes the last of its function's tokens before the step proper begins, and METER LIMIT finds the
PF's ring full. Looking at RDIDX anew then finds the header's line corrupted, and the record of that is taken by nothing in this step. -/
theorem not_stepTakesRecords : ¬ Obligations.StepTakesRecords := by
  intro h
  obtain ⟨t, ht⟩ := stepCompletes meteredAndFull
  have hleft := recordsLeft_step
  have hnone : t.records = [] := h meteredAndFull t rfl ht
  rw [ht, recordsLeft, hnone] at hleft
  exact absurd hleft (by decide)

end Sys2Proof.Machine

/-!
PROOFS. Register writes (O60): what each write with a row of its own does where it is taken, and REGISTER_WRITE before and after READY.
-/
namespace Sys2Proof.Machine

section
variable {s : State} {fn : Nat}

theorem execScopepolWrite_taken {w : BitVec 32} (hopen : isLocked s fn = false) (hlow : 2 ≤ w.toNat % 16)
    (hhigh : w.toNat % 16 ≤ 9) : execScopepolWrite fn w s
      = .next (s.updFn fn fun f => { f with cap := w.toNat % 16, capFault := bitOf w.toNat 4, capCount := 0 }) := by
  have hrange : ¬ (w.toNat % 16 < 2 ∨ 9 < w.toNat % 16) := by omega
  simp only [execScopepolWrite, hopen, Bool.false_eq_true, if_false, if_neg hrange]

theorem execAqibindWrite_taken {q : Nat} {w : BitVec 32} (hq : q < 64) : execAqibindWrite fn q w s
      = .next (aqiPump (s.updAqi fn q fun a =>
          { a with valid := bitOf w.toNat 31, revoked := bitOf w.toNat 30, pasid := w.toNat % 2 ^ 20 }) fn q) := by
  simp only [execAqibindWrite, if_neg (Nat.not_le.mpr hq)]

/-- The AQIs of the other functions. -/
def otherAqis (s : State) (fn : Nat) : Nat := (s.fns.filter fun p => p.1 != fn).foldl (fun t p => t + p.2.naqi) 0

theorem execNaqiWrite_taken {w : BitVec 32} (hown : w.toNat % 128 ≤ 64) (hall : otherAqis s fn + w.toNat % 128 ≤ 1024) :
    execNaqiWrite fn w s = .next ((upto (w.toNat % 128)).foldl (fun a q => aqiPump a fn q)
      (s.updFn fn fun f => { f with naqi := w.toNat % 128 })) := by
  have hfits : ¬ (64 < w.toNat % 128 ∨ 1024 < otherAqis s fn + w.toNat % 128) := by omega
  exact if_neg hfits

/-- Every write before READY is ignored (R465). -/
theorem execRegisterWrite_not_ready {off width : Nat} {v : BitVec 64} (h : s.ready = false) :
    execRegisterWrite fn off width v s = .next s := by
  simp only [execRegisterWrite, h, true_or, if_true]

/-- S1ROOT stands at offset 0 of every function, the PF among them (R443). -/
theorem execRegisterWrite_s1root {v : BitVec 64} (h : s.ready = true) :
    execRegisterWrite fn 0 8 v s = .next (s.updFn fn fun f => { f with s1root := bits v.toNat 16 36 * 65536 }) := by
  simp [execRegisterWrite, h, ownWrite]

end

/-- Settles O60: each write is taken where its own conditions hold, and none before READY (log 40). Of the registers that have no row of
their own the statement names S1ROOT. -/
theorem registerEvents : Obligations.RegisterEvents := by
  intro s fn q i slice bsu w v
  exact ⟨rfl, execScopepolWrite_taken, rfl, execAqibindWrite_taken, execNaqiWrite_taken, rfl, execRegisterWrite_s1root,
    fun h _ _ => execRegisterWrite_not_ready h⟩

end Sys2Proof.Machine

/-!
PROOFS. SPDM and TDISP (O58): what a request answers in its turn and out of it, by the state of the connection, of the session and of the
interface.
-/
namespace Sys2Proof.Machine

section
variable {s : State} {fn n : Nat}

-- The connection (R382)

theorem afterAlgorithms_open {answer : State → State} (h : (s.fn fn).spdm = .algorithms ∨ (s.fn fn).spdm = .handshake) :
    afterAlgorithms fn s answer = .next (answer s) := by
  rcases h with h | h <;> simp only [afterAlgorithms, h]

theorem afterAlgorithms_early {answer : State → State} (halg : (s.fn fn).spdm ≠ .algorithms)
    (hhand : (s.fn fn).spdm ≠ .handshake) : afterAlgorithms fn s answer = .next (secureError s fn) := by
  unfold afterAlgorithms
  split
  · contradiction
  · contradiction
  · rfl

-- Measurements (R384)

/-- The measurements that a request names: by their index, or all of them. -/
def askedMeasurements (s : State) (fn n : Nat) : List (Nat × Nat) :=
  (measurements s fn).filter fun m => n % 256 = 0xFF ∨ m.1 = n % 256

theorem askedMeasurements_eq : askedMeasurements s fn n =
    if n % 256 = 0xFF then measurements s fn else (measurements s fn).filter fun m => m.1 == n % 256 := by
  unfold askedMeasurements
  split
  next hall => exact List.filter_eq_self.mpr fun _ _ => decide_eq_true (Or.inl hall)
  next hone => exact List.filter_congr fun p _ => decide_eq_decide.mpr (or_iff_right hone)

/-- What the answer says: how many there are, or those that are asked for. -/
def toldMeasurements (s : State) (fn n : Nat) : List Nat :=
  if n % 256 = 0 then [(measurements s fn).length] else (askedMeasurements s fn n).flatMap fun m => [m.1, m.2]

section
variable (h : (s.fn fn).spdm = .algorithms ∨ (s.fn fn).spdm = .handshake)
include h

theorem execGetMeasurements_found (hfound : n % 256 = 0 ∨ askedMeasurements s fn n ≠ []) :
    execGetMeasurements fn n s = .next (if bitOf n 8 then signedAnswer s fn 0xE0 (toldMeasurements s fn n)
      else secureAnswer s fn 0xE0 (toldMeasurements s fn n)) := by
  have hgood : ¬ (n % 256 ≠ 0 ∧ (askedMeasurements s fn n).isEmpty = true) := by
    rintro ⟨hindex, hempty⟩
    exact hfound.elim hindex fun hsome => hsome (List.isEmpty_iff.mp hempty)
  rw [execGetMeasurements, afterAlgorithms_open h]
  simp only [← askedMeasurements_eq, if_neg hgood]
  rfl

theorem execGetMeasurements_missing (hindex : n % 256 ≠ 0) (hnone : askedMeasurements s fn n = []) :
    execGetMeasurements fn n s = .next (secureError s fn) := by
  have hbad : n % 256 ≠ 0 ∧ (askedMeasurements s fn n).isEmpty = true := ⟨hindex, by simp [hnone]⟩
  rw [execGetMeasurements, afterAlgorithms_open h]
  simp only [← askedMeasurements_eq, if_pos hbad]

end

-- Interfaces (R385)

theorem tdisp_not_interface (h : isInterface fn = false) :
    ∀ i ∈ [Instr.getTdispVersion fn, .getTdispCapabilities fn, .lockInterfaceRequest fn,
      .getDeviceInterfaceReport fn, .getDeviceInterfaceState fn, .startInterfaceRequest fn, .stopInterfaceRequest fn],
    exec i s = .next (tdispAnswer s fn 0x7F) := by
  simp only [List.forall_mem_cons, List.not_mem_nil, false_imp_iff, implies_true, and_true]
  dsimp only [exec]
  simp [execGetTdispVersion, execGetTdispCapabilities, execLockInterfaceRequest, execGetDeviceInterfaceReport,
    execGetDeviceInterfaceState, execStartInterfaceRequest, execStopInterfaceRequest, h]

section
variable (h : isInterface fn = true)
include h

theorem execLockInterfaceRequest_eq : execLockInterfaceRequest fn s = .next (if (s.fn fn).tdisp = .unlocked then
    tdispAnswer (setLock (s.updFn fn fun f => { f with tdisp := .locked, lockedBy := f.session }) fn true) fn 0x83
    else tdispAnswer s fn 0x7F) := by
  simp only [execLockInterfaceRequest, h, true_and, apply_ite Host.Outcome.next]

theorem execGetDeviceInterfaceReport_eq : execGetDeviceInterfaceReport fn s
    = .next (s.emitOut (.report fn ((parcelsOf s fn).map fun p => (p, (s.platOf p).kgen)) (partitionSlices s fn)
      ((upto 18).map fun m => (m, (s.fn fn).meters.getD m 0)))) := by
  simp only [execGetDeviceInterfaceReport, h, Bool.not_true, Bool.false_eq_true, if_false]

theorem execGetDeviceInterfaceState_eq : execGetDeviceInterfaceState fn s
    = .next (s.emitOut (.secure fn 0x185 [(s.fn fn).tdisp.code] 0)) := by
  simp only [execGetDeviceInterfaceState, h, if_true]

theorem execStartInterfaceRequest_eq : execStartInterfaceRequest fn s = .next (if (s.fn fn).tdisp = .locked then
    tdispAnswer (s.updFn fn fun f => { f with tdisp := .run }) fn 0x86 else tdispAnswer s fn 0x7F) := by
  simp only [execStartInterfaceRequest, h, true_and, apply_ite Host.Outcome.next]

end

end

/-- Settles O58: a request is answered by the state that it meets. The order of a connection, the codes of answers, the error 0x7F out of
turn and the session of an AMEND are the model's own choice (log 12). -/
theorem secureEvents : Obligations.SecureEvents := by
  intro s fn n a d x sign error
  refine ⟨rfl, rfl, rfl, fun hopen => ?opened, fun halg hhand => ?early, rfl, rfl, rfl, tdisp_not_interface,
    fun hint => ?interfaces, rfl, ?config⟩
  case opened =>
    intro chain
    dsimp only [exec, execGetDigests, execGetCertificate, execChallenge, execKeyExchange]
    refine ⟨afterAlgorithms_open hopen, afterAlgorithms_open hopen, afterAlgorithms_open hopen, afterAlgorithms_open hopen, ?_⟩
    refine ⟨fun hfound => ?_, fun hindex _ hnone => execGetMeasurements_missing hopen hindex hnone⟩
    exact (execGetMeasurements_found hopen hfound).trans (apply_ite ..)
  case early =>
    dsimp only [exec, execGetDigests, execGetCertificate, execChallenge, execKeyExchange, execGetMeasurements]
    exact ⟨afterAlgorithms_early halg hhand, afterAlgorithms_early halg hhand, afterAlgorithms_early halg hhand,
      afterAlgorithms_early halg hhand, afterAlgorithms_early halg hhand⟩
  case interfaces =>
    refine ⟨?_, ?_, execLockInterfaceRequest_eq hint, ?_, ?_, execStartInterfaceRequest_eq hint, ?_⟩
    · dsimp only [exec, execGetTdispVersion]; rw [if_pos hint]
    · dsimp only [exec, execGetTdispCapabilities]; rw [if_pos hint]
    · exact execGetDeviceInterfaceReport_eq hint
    · exact execGetDeviceInterfaceState_eq hint
    · exact if_pos hint
  case config =>
    rintro p rfl
    rfl

end Sys2Proof.Machine

/-!
PROOFS. The host and the peers (O57): what an access of the host does by its translation and the directory, a snoop by its owner, and a
peer's request by its page.
-/
namespace Sys2Proof.Machine

section
variable {s s1 : State} {ga : Nat}

-- The host's reads and writes of device memory (R453)

section
variable {addr tag : Nat}

theorem execHostMemRead_refused (hx : hdmXlate s (addr / 64 * 64) false = (none, s1)) :
    execHostMemRead addr tag s = .next ((freeBytes 64 s1).2.emitOut
      (.hostData hostHome tag (BitVec.ofNat 512 (freeBytes 64 s1).1) true)) := by
  simp only [execHostMemRead, hx]

section
variable (hx : hdmXlate s (addr / 64 * 64) false = (some ga, s1))
  (hfree : busyLine s1 (homeFor (ga / 128)) (ga / 128) = false)
include hx hfree

theorem execHostMemRead_unowned (hown : (dirOf s1 (homeFor (ga / 128)) (ga / 128)).owner = none) :
    let t := (checkTag s1 (ga / 128)).2
    execHostMemRead addr tag s = .next (t.emitOut (.hostData (homeFor (ga / 128)) tag
      (BitVec.ofNat 512 (field (homeLine t (homeFor (ga / 128)) (ga / 128)) (8 * (ga % 128)) 512))
      (linePoisoned t (homeFor (ga / 128)) (ga / 128)))) := by
  simp only [execHostMemRead, hx, hfree, hown, Bool.false_eq_true, if_false]

/-- In device bias the owner's copy is recalled, and the read comes again. -/
theorem execHostMemRead_owned {o : Nat} (hown : (dirOf s1 (homeFor (ga / 128)) (ga / 128)).owner = some o) :
    execHostMemRead addr tag s
      = .next (beginTx s1 (homeFor (ga / 128)) (ga / 128) [o] .recalled [.hostMemRead addr tag]) := by
  simp only [execHostMemRead, hx, hfree, hown, Bool.false_eq_true, if_false]

end

theorem execHostMemWrite_byte {b : Byte} (hx : hdmXlate s (128 * (addr / 128)) true = (some ga, s1)) :
    execHostMemWrite addr [(0, b)] s
      = .next (hostWriteLine s1 (ga / 128) [(addr % 128, b)] (.hostMemWrite addr [(0, b)])) := by
  simp [execHostMemWrite, addNew, hx]

end

-- The host's snoops (R301)

section
variable {line : Nat} (hfree : busyLine s (homeAt s line) line = false)
include hfree

/-- Whether a snooped line differs from the host's. -/
def snoopDirty (s : State) (line : Nat) : Bool :=
  !(dirtyWords (s.home (homeAt s line)).l2 line).isEmpty
    || match (dirOf s (homeAt s line) line).owner with | some o => holdsDirty s o line | none => false

/-- What is answered of a line as it stands in a state. -/
def snoopAnswer (s t : State) (line : Nat) : Output :=
  .snoopData line (if snoopDirty s line then some (homeLine t (homeAt s line) line) else none)

theorem execHostSnoop_invalidate : execHostSnoop line true s =
    .next ((l2Drop (settleLine s (homeAt s line) line) (homeAt s line) line).emitOut
      (snoopAnswer s (settleLine s (homeAt s line) line) line)) := by
  simp only [execHostSnoop, hfree, Bool.false_eq_true, if_false]
  rfl

theorem execHostSnoop_unowned (hown : (dirOf s (homeAt s line) line).owner = none) : execHostSnoop line false s =
    .next ((l2Clean s (homeAt s line) line).emitOut (snoopAnswer s s line)) := by
  simp [execHostSnoop, hfree, hown, snoopAnswer, snoopDirty]

/-- The owner's copy stays, shared. -/
def ownerSnooped (s : State) (h line o : Nat) : State :=
  (updDir (l1Clean s o line false) h line fun d => { d with owner := none, sharers := addNew d.sharers o }).updCore o
    fun k => { k with l1 := { k.l1 with lines := k.l1.lines.upd line fun x => { x with st := .s } } }

theorem execHostSnoop_owned {o : Nat} (hown : (dirOf s (homeAt s line) line).owner = some o) : execHostSnoop line false s =
    .next ((l2Clean (ownerSnooped s (homeAt s line) line o) (homeAt s line) line).emitOut
      (snoopAnswer s (ownerSnooped s (homeAt s line) line o) line)) := by
  simp [execHostSnoop, hfree, hown, snoopAnswer, snoopDirty, ownerSnooped]

end

-- What peers ask (R417, R457, R470)

/-- Whether an access carries an older incarnation of its cluster than the one that is known. -/
def staleAccess (s : State) (dev : Nat) (r : MemReq) : Bool :=
  decide (clusterOf r.core < 64) && olderIncarn r.incarn (s.peerIncarn.getD (64 * dev + clusterOf r.core) 0)

section
variable {m : Mail} {domain : Nat} {r : MemReq} {s0 : State} (hs0 : recv s m 8 = s0)
include hs0

theorem execPeerAccessRequest_stale (hold : staleAccess s0 m.dev r = true) :
    execPeerAccessRequest m domain (.access r) s = .next s0 := by
  have hold := Bool.and_eq_true_iff.mp hold
  simp only [decide_eq_true_eq] at hold
  simp only [execPeerAccessRequest, hs0, if_pos hold]

/-- Whether an access writes, and whether it fetches code. -/
def reqWrites (r : MemReq) : Bool := match r.op with | .load => false | _ => true
def reqFetches (r : MemReq) : Bool := match r.agent with | .fetch _ => true | _ => false

section
variable (hnew : staleAccess s0 m.dev r = false)
include hnew

theorem execPeerAccessRequest_new : execPeerAccessRequest m domain (.access r) s =
    match peerXlate s0 m.dev domain (localOf (r.line * 128)) (reqWrites r) (reqFetches r) (.access r) with
    | (none, t) => .next t
    | (some none, t) => .next (t.emitOut (.answer m.dev hostHome (.refused r)))
    | (some (some ga), t) =>
      let q := localReq t m.dev (ga / 128) r
      let u := if r.op = .load then (checkTag t (ga / 128)).2 else t
      .next ({ u with nextId := u.nextId + 1, peerReqs := u.peerReqs.put q.acc (m.dev, q.home, r) }.send
        (reqEvent q (nearHere u q))) := by
  have hno : ¬ (clusterOf r.core < 64
      ∧ olderIncarn r.incarn (s0.peerIncarn.getD (64 * m.dev + clusterOf r.core) 0) = true) := by
    simpa [staleAccess] using hnew
  simp only [execPeerAccessRequest, hs0, if_neg hno]
  rfl

end

theorem execPeerAccessRequest_page {strand page : Nat} {w : Bool} {x : Option Nat}
    (hx : peerXlate s0 m.dev domain (localOf (page * 65536)) w false (.page strand page w) = (some x, s1)) :
    execPeerAccessRequest m domain (.page strand page w) s
      = .next (s1.emitOut (.answer m.dev hostHome (.page strand page (x.map (· / 65536))))) := by
  simp only [execPeerAccessRequest, hs0, hx]

end

-- What peers answer (R457, R470)

section
variable {m : Mail} {a : PeerAnswer} {s0 : State} (hs0 : recv s m 8 = s0)
include hs0

/-- An answer to a question takes the question away. -/
theorem execPeerAccessReply_asked {q : Nat × PeerAsk} (hview : ∀ st tk l d, a ≠ .viewed st tk l d) (hkept : ∀ c l, a ≠ .kept c l)
    (hq : s0.peerAsked.find? (fun p => p.1 == m.dev && answersAsk a p.2) = some q) :
    execPeerAccessReply m a s = .next (takeAnswer { s0 with peerAsked := s0.peerAsked.erase q } m.dev a) := by
  cases a with
  | viewed st tk l d => exact absurd rfl (hview st tk l d)
  | kept c l => exact absurd rfl (hkept c l)
  | _ => simp only [execPeerAccessReply, hs0, hq]

/-- Two kinds of answers have no question. -/
theorem execPeerAccessReply_unasked (h : (∃ st tk l d, a = .viewed st tk l d) ∨ ∃ c l, a = .kept c l) :
    execPeerAccessReply m a s = .next (takeAnswer s0 m.dev a) := by
  rcases h with ⟨st, tk, l, d, rfl⟩ | ⟨c, l, rfl⟩ <;> simp only [execPeerAccessReply, hs0]

end

end

/-- Settles O57: the host's accesses go by their translation and the directory, and a peer's by its page and its incarnation; the events
of routes are as they are written. A write of the host is stated for one byte. -/
theorem peerEvents : Obligations.PeerEvents := by
  intro s s1 m addr tag line domain port word cluster incarn ga r v a
  refine ⟨execHostMemRead_unowned, fun b => execHostMemWrite_byte, fun hx hfree o => execHostMemRead_owned hx hfree,
    execHostMemRead_refused, fun hfree => ?snoops, ?asks, ?answers, rfl, rfl, rfl⟩
  case snoops =>
    exact ⟨execHostSnoop_invalidate hfree, execHostSnoop_unowned hfree, fun o => execHostSnoop_owned hfree⟩
  case asks =>
    intro s0 old write fetch
    refine ⟨execPeerAccessRequest_stale rfl, fun hold hx => ?_, fun hold hx => ?_, fun _ _ _ _ => execPeerAccessRequest_page rfl⟩
    all_goals
      refine (execPeerAccessRequest_new rfl hold).trans ?_
      rw [show reqWrites r = write from rfl, show reqFetches r = fetch from rfl, hx]
  case answers =>
    exact ⟨fun q => execPeerAccessReply_asked rfl, execPeerAccessReply_unasked rfl⟩

end Sys2Proof.Machine

/-!
PROOFS. Row instructions (O44): issue to the BSUs of the mask, `rsync` and `rstat`.
-/
namespace Sys2Proof.Machine

/-- The thirteen instructions that go to BSUs differ in their operation alone (R356). -/
theorem exec_row {f : Fields} {i : Instr} {op : Nat}
    (hi : (i, op) ∈ [(Instr.ropen f, 0x600), (.rwrite f, 0x601), (.rvload f, 0x602), (.radd f, 0x603), (.rmul f, 0x604),
      (.rfma f, 0x605), (.rmax f, 0x606), (.rcvt f, 0x607), (.rgemv f, 0x608), (.rred f, 0x609), (.racc f, 0x60A),
      (.rmove f, 0x60B), (.rfill f, 0x60C)]) (s : State) : exec i s = rowIssue op f s := by
  simp only [List.mem_cons, List.not_mem_nil, or_false, Prod.mk.injEq] at hi
  obtain ⟨rfl, rfl⟩ | ⟨rfl, rfl⟩ | ⟨rfl, rfl⟩ | ⟨rfl, rfl⟩ | ⟨rfl, rfl⟩ | ⟨rfl, rfl⟩ | ⟨rfl, rfl⟩ | ⟨rfl, rfl⟩ | ⟨rfl, rfl⟩ |
    ⟨rfl, rfl⟩ | ⟨rfl, rfl⟩ | ⟨rfl, rfl⟩ | ⟨rfl, rfl⟩ := hi <;> rfl

section
variable {f : Fields} {s s1 s2 : State} {k op : Nat} {st0 : Strand} {r : RowArgs} (h : Acts s k st0)
include h

section
variable (hc : (rowChecks op f (endChain st0)).run s = (.ok r, s1))
include hc

/-- An empty mask names no BSU: nothing happens (R351). -/
theorem rowIssue_empty (hmask : r.mask = 0) : rowIssue op f s = .next (memRetire k f.nx (endChain st0) id s1) := by
  refine runMem_done_nil h ?_
  rw [mbind_ok hc, if_pos hmask, mrun_finishMem]

theorem rowIssue_accepted (hmask : r.mask ≠ 0) (ha : (rowAccepts op (endChain st0) r).run s1 = (.ok (), s2)) :
    rowIssue op f s = .next (memRetire k f.nx (endChain st0) (fun x => { x with rowsOut := x.rowsOut ++ [s2.nextId] })
      (rowStart op k f (endChain st0) r s2)) := by
  refine runMem_done_nil h ?_
  rw [mbind_ok hc, if_neg hmask, mbind_ok ha, mbind_ok mrun_get, mbind_ok (mrun_modify ..), mrun_finishMem]

end

/-- `rsync` waits for none of the strand's row instructions once all are out (R357). -/
theorem execRsync_done (hregs : inFlight (endChain st0) [] [f.d.toNat] = false) (hout : (endChain st0).rowsOut = []) :
    execRsync f s = .next (memRetire k f.nx (endChain st0)
      (fun x => { x.setS f.d.toNat (rowWord (endChain st0)) false with rowFlags := 0, rowMarks := false }) s) := by
  refine runMem_done_nil h ?_
  rw [mbind_ok (mrun_await hregs)]
  simp only [hout]
  rfl

theorem execRstat_done {q : Nat × Nat} (hc : (rstatChecks f (endChain st0)).run s = (.ok q, s1)) :
    execRstat f s = .next (memRetire k f.nx (endChain st0)
      (fun y => y.setS f.d.toNat (BitVec.ofNat 64 (rowStat s1 q.1 q.2 (f.selector / 2 ^ 24))) false)
      (rstatClear f q.1 q.2 s1)) := by
  refine runMem_done_nil h ?_
  rw [mbind_ok hc, mbind_ok mrun_get, mbind_ok (mrun_modify ..), mrun_finishMem]

end

/-- Settles O44: once the strand's checks have passed, the mask decides whether the BSUs are asked. -/
theorem rowInstructions : Obligations.RowInstructions := by
  intro f s s1 s2 k st0 i op r q h st
  refine ⟨fun hi hc => ?issue, execRsync_done h, execRstat_done h⟩
  case issue =>
    rw [exec_row hi]
    exact ⟨rowIssue_empty h hc, rowIssue_accepted h hc⟩

end Sys2Proof.Machine

/-!
PROOFS. The module (O55): the datum clock's inputs, the boot sequence by the step that fails, and the partition restart.
-/
namespace Sys2Proof.Machine

section
variable {s : State}

-- The datum clock (R336)

theorem execClockAdjust_first {units : Nat} (h : s.everLocked = false) : execClockAdjust true units s
    = .next ({ s with datum := s.datum + units, locked := true, everLocked := true }.emitNotice pf (hubSrc 34) 0xF0 false
      (some units)) := by
  simp only [execClockAdjust, h, Bool.false_eq_true, if_false, if_true]

/-- It is never set back. -/
theorem execClockAdjust_back {units : Nat} (h : s.everLocked = false) : execClockAdjust false units s = .next s := by
  simp only [execClockAdjust, h, Bool.false_eq_true, if_false]

/-- After the first lock it is only slewed. -/
theorem execClockAdjust_locked {ahead : Bool} {units : Nat} (h : s.everLocked = true) :
    execClockAdjust ahead units s = .next (s.emitNotice pf (hubSrc 34) 0xF0 false (some units)) := by
  simp only [execClockAdjust, h, if_true]

-- Bring-up (R465)

section
variable {dev : Nat} {bad lanes : List Nat}

/-- Before its first measurement the boot sequence leaves nothing. -/
theorem execColdReset_early {err : Nat} (h : err = 1 ∨ err = 3) :
    execColdReset dev err bad lanes s = .next (blankReset dev err s) := if_pos h.symm

end

-- Resets and restarts (R466, R467)

theorem execVfFlr_vf {fn : Nat} (hlow : 1 ≤ fn) (hhigh : fn ≤ 64) : execVfFlr fn s = .next (resetVfs s [fn]) :=
  if_pos ⟨hlow, hhigh⟩

/-- In its turn a restart waits for the array operations under way, unless the partition is locked. -/
theorem execPartitionRestart_turn {fn : Nat} (h : s.pfQueue.head? = some 0) : execPartitionRestart fn s
    = .next (if isLocked s s.restartFn = false ∧ opsUnderWay (quiesce s s.restartFn) s.restartFn = true
      then (quiesce s s.restartFn).post (.partitionRestart s.restartFn)
      else pfPump (restartPartition { s with pfQueue := s.pfQueue.drop 1 } s.restartFn)) := by
  simp only [execPartitionRestart, if_pos h, Bool.and_eq_true, Bool.not_eq_true', apply_ite Host.Outcome.next]

theorem execPartitionRestart_placed {fn : Nat} (h : s.pfQueue.head? ≠ some 0) :
    execPartitionRestart fn s = .next (placeRestart s fn) := if_neg h

end

/-- Settles O55: each event is performed by the state of the clock, the step of the boot sequence that fails, or the hub's order. That
the first setting forward is the first lock is the model's own choice (log 41), and so is what a reset keeps and that a locked partition is
torn down instead (log 39). -/
theorem moduleEvents : Obligations.ModuleEvents := by
  intro s level die dev err fn units bad lanes
  exact ⟨rfl, rfl, execClockAdjust_first, fun h _ => execClockAdjust_locked h, execClockAdjust_back, rfl, rfl,
    execColdReset_early, rfl, rfl, rfl, rfl, execVfFlr_vf, rfl,
    execPartitionRestart_turn, execPartitionRestart_placed⟩

end Sys2Proof.Machine

/-!
PROOFS. Fault records and invalidations (O51): what is written, what is removed, and when an invalidation is complete.
-/
namespace Sys2Proof.Machine

/-- A packet that is still to end is none of those that an event finds over. -/
theorem packet_open {x : Grid} (hover : x.isOver = false) (hended : x.ended = none) (hresult : x.result = none) :
    ¬ (x.isOver = true ∨ x.ended.isSome = true ∨ x.result.isSome = true) := by
  simp [hover, hended, hresult]

section
variable {s : State}

-- Fault rings (R408, R409)

theorem execFaultRecordWrite_open {cl : Nat} {e : FaultEntry}
    (he : (s.cluster cl).staged.find? (fun y => faultRingOpen s y.fn) = some e) :
    execFaultRecordWrite cl s = .next (writeFault s cl e) := by
  simp only [execFaultRecordWrite, he]

theorem execFaultInterruptTimer_due {fn n : Nat} (h : (s.fn fn).frTimer = n) :
    execFaultInterruptTimer fn n s = .next (faultInterrupt s fn) := if_pos h

-- Invalidations (R405, R406)

/-- The answer follows once no access that may have used a completion is still to be performed. -/
theorem execAtsInvalidateRequest_answers {pasid page pages : Nat} {q : Nat × Nat × Nat × Nat}
    (hq : s.atsPending.find? (fun p => p.1 == pasid && p.2.1 == page && p.2.2.1 == pages) = some q)
    (hdone : performedBefore s (fun _ => true) q.2.2.2 = true) : execAtsInvalidateRequest pasid page pages s
      = .next ({ s with atsPending := s.atsPending.erase q }.emitOut (.atsDone pasid page pages)) := by
  simp only [execAtsInvalidateRequest, hq, hdone, if_true]

theorem execS1InvalidateDone_done {fn : Nat} (hopen : (s.fn fn).s1done = false)
    (hdone : performedBefore s (· == fn) (s.fn fn).s1mark = true) :
    execS1InvalidateDone fn s = .next (s.updFn fn fun f => { f with s1done := true }) := by
  simp only [execS1InvalidateDone, hopen, hdone, Bool.false_eq_true, if_false, if_true]

section
variable {packet : Nat} {x : Grid} (hg : s.grids.find packet = some x)
  (hopen : ¬ (x.isOver = true ∨ x.ended.isSome = true ∨ x.result.isSome = true))
include hg hopen

theorem execInvalidate_begins (hstep : x.step = 0) (hok : invalidateOk x = true) :
    execInvalidate packet s = .next (beginInvalidate s packet x) := by
  simp only [execInvalidate, hg, if_neg hopen, hstep, hok, if_true]

theorem execInvalidate_ends (hstep : x.step ≠ 0) (hdone : performedBefore s (· == x.at_ 3 1) (x.work.headD 0) = true) :
    execInvalidate packet s = .next (endPacket s packet 1 0) := by
  simp only [execInvalidate, hg, if_neg hopen, if_neg hstep, hdone, if_true]

-- REPLAY (R410)

theorem execReplay_ends (hok : replayOk x = true) : execReplay packet s
    = .next (endPacket (replayAll (startPacket s packet false) (x.at_ 3 1)) packet 1 0) := by
  simp only [execReplay, hg, if_neg hopen, hok, if_true]

end

end

/-- Settles O51: each event is performed by what it finds staged, pending or still to be performed. That a write of FRCTL lets the staged
entries be written again is the model's own choice (log 34). -/
theorem faultEvents : Obligations.FaultEvents := by
  intro s cl fn packet pasid page pages n e x v w
  refine ⟨execFaultRecordWrite_open, execFaultInterruptTimer_due, fun q => execAtsInvalidateRequest_answers,
    fun hg hover hended hresult => ?packets, rfl, rfl, execS1InvalidateDone_done, rfl, rfl, rfl⟩
  case packets =>
    have hopen := packet_open hover hended hresult
    exact ⟨execInvalidate_begins hg hopen, execInvalidate_ends hg hopen, execReplay_ends hg hopen⟩

end Sys2Proof.Machine

/-!
PROOFS. Parcels (O56): the plat's packets at the head of the hub's order, the phases of a RESIZE or MIGRATE, and the release of a parcel.
-/
namespace Sys2Proof.Machine

section
variable {s : State} {packet : Nat}

-- The plat's packets (R368 to R371, R389)

section
variable {x : Grid} (hg : s.grids.find packet = some x)
  (hopen : ¬ (x.isOver = true ∨ x.ended.isSome = true ∨ x.result.isSome = true)) (hstep : x.step = 0)
  (hhead : s.pfQueue.head? = some packet)
include hg hopen hstep hhead

theorem platPacket_taken (f : Grid → State) : platPacket packet s f = .next (f x) := by
  have htaken : ¬ (x.isOver = true ∨ x.ended.isSome = true ∨ x.result.isSome = true ∨ x.step ≠ 0
      ∨ s.pfQueue.head? ≠ some packet) := by
    rintro (h | h | h | h | h)
    · exact hopen (.inl h)
    · exact hopen (.inr (.inl h))
    · exact hopen (.inr (.inr h))
    · exact h hstep
    · exact h hhead
  simp only [platPacket, hg, if_neg htaken]

theorem execPartitionCreate_allowed (hok : createFails s x = none) :
    execPartitionCreate packet s = .next (createPartition packet x s) := by
  have hfirst : ¬ (x.step = 3 ∧ x.result = none ∧ x.isOver = false) := by simp [hstep]
  simp only [execPartitionCreate, hg, if_neg hfirst]
  rw [platPacket_taken hg hopen hstep hhead]
  simp only [hok]

theorem execPartitionDestroy_allowed (hok : destroyFails s x = none) :
    execPartitionDestroy packet s = .next (destroyPartition packet x s) := by
  have htaken : ¬ (x.isOver = true ∨ x.ended.isSome = true ∨ x.result.isSome = true ∨ x.step ≠ 0
      ∨ s.pfQueue.head? ≠ some packet ∧ overtakes s x = false) := by
    rintro (h | h | h | h | ⟨h, -⟩)
    · exact hopen (.inl h)
    · exact hopen (.inr (.inl h))
    · exact hopen (.inr (.inr h))
    · exact h hstep
    · exact h hhead
  simp only [execPartitionDestroy, hg, if_neg htaken, hok]

/-- RESIZE and MIGRATE read their list for the PF, and begin once it has passed the checks. -/
theorem movePacket_begins {ps : List Remap} (hlist : (remapList s x).2 = false)
    (hcheck : moveCheck (chargeFar s pf 4 hostBase (16 * x.at_ 0x20 4) false) x (remapList s x).1 = .ok ps) :
    movePacket packet s = .next (beginMove (noteTables (chargeFar s pf 4 hostBase (16 * x.at_ 0x20 4) false) (x.at_ 3 1))
      packet x ps) := by
  rw [movePacket, platPacket_taken hg hopen hstep hhead]
  simp only [hlist, hcheck, Bool.false_eq_true, if_false]

theorem execMeter_sets (hok : meterOk x = true) : execMeter packet s = .next (endPacket (noteChange
    (setMeter (startPacket s packet false) (x.at_ 3 1) (x.at_ 4 1) (x.at_ 8 4))) packet 1 0) := by
  rw [execMeter, platPacket_taken hg hopen hstep hhead, if_pos hok]

end

theorem execPartitionCreate_finishes {x : Grid} (hg : s.grids.find packet = some x) (hstep : x.step = 3)
    (hresult : x.result = none) (hover : x.isOver = false) :
    execPartitionCreate packet s = .next (finishCreate packet x s) := by
  have hlast : x.step = 3 ∧ x.result = none ∧ x.isOver = false := ⟨hstep, hresult, hover⟩
  simp only [execPartitionCreate, hg, if_pos hlast]

-- The phases of a RESIZE or MIGRATE (R380)

section
variable {m : Move} (hm : s.move = some m) (hpacket : m.packet = packet)
include hm hpacket

theorem execMigrationDrainDone_drained (hphase : m.phase = .drain) (hdrained : drainedParcels s m.remove = true) :
    execMigrationDrainDone packet s = .next
      ({ s with move := some { m with phase := .copy 1 m.rows, dirty := [] } }.post (.migrationCopyRoundDone packet)) := by
  have hmine : ¬ (m.packet ≠ packet ∨ m.phase ≠ .drain) := by simp [hpacket, hphase]
  simp only [execMigrationDrainDone, hm, if_neg hmine, hdrained, if_true]

theorem execMigrationCopyRoundDone_copies {n : Nat} {todo : List Nat} (hphase : m.phase = .copy n todo) :
    execMigrationCopyRoundDone packet s = .next (copyRound s packet m n todo) := by
  simp only [execMigrationCopyRoundDone, hm, hpacket, hphase, ne_eq, not_true, if_false]

/-- The switch waits until the old pages are at rest, on this module and on peers. -/
theorem execMigrationCopyRoundDone_switches (hphase : m.phase = .switch) (hrest : moveBusy s m = false)
    (hfar : remoteMoved s m = []) : execMigrationCopyRoundDone packet s = .next (switchPages s m) := by
  simp [execMigrationCopyRoundDone, hm, hpacket, hphase, hrest, hfar]

end

-- The release of a parcel (R376)

section
variable {parcel : Nat}

theorem execKeysReplaced_asked (h : s.rekey.contains parcel = true) :
    execKeysReplaced parcel s = .next (newKeys s parcel) := if_pos h

theorem execParcelScrubDone_erasing {ok : Bool} (howner : (s.platOf parcel).owner = 0)
    (hkeys : s.rekey.contains parcel = false) (hstate : (s.platOf parcel).state = .erasing) :
    execParcelScrubDone parcel ok s = .next (scrubbed s parcel (!ok || (s.platOf parcel).bad)) := by
  have hmine : ¬ ((s.platOf parcel).owner ≠ 0 ∨ s.rekey.contains parcel = true ∨ (s.platOf parcel).state ≠ .erasing) := by
    simpa [howner, hstate] using hkeys
  exact if_neg hmine

end

end

/-- Settles O56: a packet at the head of the hub's order is performed by its own checks, and a move by its phase. -/
theorem parcelEvents : Obligations.ParcelEvents := by
  intro s packet parcel n ok x m todo
  refine ⟨fun hg hover hended hresult hstep hhead => ?packets, execPartitionCreate_finishes, fun hm hpacket => ?moves,
    execKeysReplaced_asked, execParcelScrubDone_erasing⟩
  case packets =>
    have hopen := packet_open hover hended hresult
    refine ⟨execPartitionCreate_allowed hg hopen hstep hhead, execPartitionDestroy_allowed hg hopen hstep hhead,
      fun hlist ps hcheck => ?_, execMeter_sets hg hopen hstep hhead⟩
    have hbegins := movePacket_begins hg hopen hstep hhead hlist hcheck
    exact ⟨hbegins, hbegins⟩
  case moves =>
    exact ⟨execMigrationDrainDone_drained hm hpacket, execMigrationCopyRoundDone_copies hm hpacket,
      execMigrationCopyRoundDone_switches hm hpacket⟩

end Sys2Proof.Machine

/-!
PROOFS. Trace rings and bias (O53): the TRACE and BIAS packets step by step, the release of stalled emitters, and the flips.
-/
namespace Sys2Proof.Machine

section
variable {s s1 : State} {packet : Nat}

-- TRACE packets (R341, R447)

section
variable {x : Grid} (hg : s.grids.find packet = some x)
  (hopen : ¬ (x.isOver = true ∨ x.ended.isSome = true ∨ x.result.isSome = true))
include hg hopen

theorem tracePacket_begins {share : Bool} {again : Event} (hstep : x.step = 0) (hok : traceOk x = true) :
    tracePacket packet share again s = traceBegin packet share x again s := by
  simp only [tracePacket, hg, if_neg hopen, hstep, hok, if_true, Bool.not_true, Bool.false_eq_true, if_false]

section
variable {share : Bool} {again : Event} (hstep : x.step ≠ 0) (hport : x.port.waiting = false)
  (hwritten : writtenUpTo s (if share then 128 else x.fn) (x.work.headD 0) = true)
include hstep hport hwritten

/-- Once the records accepted before have been written, an odd OP detaches the ring. -/
theorem tracePacket_detaches (hop : x.at_ 2 1 % 2 = 1) : tracePacket packet share again s
    = endPacket (setRing s (if share then 128 else x.fn) none) packet 1 0 := by
  simp only [tracePacket, hg, if_neg hopen, if_neg hstep, hport, hwritten, hop, Bool.not_true, Bool.false_eq_true, if_false,
    if_true]

/-- The ring that a TRACE packet sets. -/
def packetRing (x : Grid) : Ring :=
  { pasid := x.pasid, win := x.at_ 8 2, off := x.at_ 0x18 8, logN := x.at_ 0xC 1, wr := 0, drops := 0, stallNs := 0, rd := 0
    todo := [], lost := [], stalled := [], shown := (0, 0) }

/-- An even OP sets the ring, whose header has been zeroed. -/
theorem tracePacket_sets {u : Unit} (hop : x.at_ 2 1 % 2 = 0)
    (hzero : (engWrite (hubEng s packet) (x.at_ 8 2) (x.at_ 0x18 8) (List.replicate 128 0) fun _ => false).run s = (.ok u, s1)) :
    let t := setRing { s1 with snooped := [] } (if share then 128 else x.fn) (some (packetRing x))
    tracePacket packet share again s = endPacket (if share then t
      else t.updFn x.fn fun y => { y with trcw := x.at_ 0x28 4 % 2 ^ 20, exempt := x.at_ 0x10 4 }) packet 1 0 := by
  have heven : ¬ x.at_ 2 1 % 2 = 1 := by omega
  simp only [tracePacket, hg, if_neg hopen, if_neg hstep, hport, hwritten, if_neg heven, hzero, Bool.not_true,
    Bool.false_eq_true, if_false]
  rfl

end

-- BIAS packets (R447, R450)

section
variable {toHost : Bool}

theorem biasPacket_begins (hstep : x.step = 0) (hok : biasOk x = true)
    (hfits : x.at_ 0x18 8 + 4096 * x.at_ 0xC 4 ≤ 2 ^ 64) :
    biasPacket packet toHost s = (startPacket s packet false).post (packetEvent 6 (b2n toHost) packet) := by
  simp only [biasPacket, hg, if_neg hopen, hstep, hok, if_neg (Nat.not_lt.mpr hfits), Bool.not_true, Bool.false_eq_true,
    if_false]

/-- The pages of a BIAS packet, by their offsets. -/
def biasOffsets (x : Grid) : List Nat := (upto (x.at_ 0xC 4)).map fun i => x.at_ 0x18 8 + 4096 * i

theorem biasPacket_tests {ps : List Nat} (hstep : x.step = 1)
    (hpages : biasPages (hubEng s packet).who (x.at_ 8 2) (biasOffsets x) s = (some ps, none, s1)) :
    biasPacket packet toHost s
      = (s1.updGrid packet fun g => { g with step := 2, work := ps }).post (packetEvent 6 (b2n toHost) packet) := by
  rw [biasOffsets] at hpages
  simp only [biasPacket, hg, if_neg hopen, hstep, hpages]

theorem biasPacket_ends (hstep : x.step = 2) (hwork : x.work = []) : biasPacket packet toHost s = endPacket s packet 1 0 := by
  simp only [biasPacket, hg, if_neg hopen, hstep, hwork]

/-- One flip after another: the next is asked for when none of the packet's is under way. -/
theorem biasPacket_flips {p : Nat} {r : List Nat} (hstep : x.step = 2) (hwork : x.work = p :: r)
    (hnone : (s.flips.any fun q => q.2.any fun g => g.packet == some packet) = false) : biasPacket packet toHost s
      = askFlips (s.updGrid packet fun g => { g with work := r }) [p] ⟨toHost, [], some packet, none⟩ := by
  simp only [biasPacket, hg, if_neg hopen, hstep, hwork, hnone, Bool.false_eq_true, if_false]

end

end

-- Stalled emitters (R344)

theorem execTraceStallRelease_no_ring {fn : Nat} (h : (s.fn fn).ring = none) :
    execTraceStallRelease fn s = .next (releaseStalls fn s.stalls { s with stalls := [] }) := by
  simp only [execTraceStallRelease, h]

/-- The room of a ring is looked at anew. -/
theorem execTraceStallRelease_ring {fn : Nat} {g : Ring} (h : (s.fn fn).ring = some g) :
    let t := setRing (readIdx s fn g).2 fn (some (readIdx s fn g).1)
    execTraceStallRelease fn s = .next (releaseStalls fn t.stalls { t with stalls := [] }) := by
  simp only [execTraceStallRelease, h]

-- Flips (R454, R455)

section
variable {page : Nat} {f : Flip} (hf : headFlip s page = some f)
include hf

theorem execBiasFlipEnd_begins (hwaits : f.waits = []) : execBiasFlipEnd page s = .next (beginFlip s page f) := by
  simp only [execBiasFlipEnd, hf, hwaits, List.isEmpty_nil, if_true]

theorem execBiasFlipEnd_answered (hwaits : f.waits ≠ []) (hall : flipAnswered s page = true) :
    execBiasFlipEnd page s = .next (completeFlip s page f) := by
  simp [execBiasFlipEnd, hf, hwaits, hall]

end

-- The host's answer to a snoop (R454, R455)

/-- A line after the host's answer: data that it had changed are merged at the home. -/
def snoopMerged (s : State) (line : Nat) (data : Option Line) : State :=
  match data with
  | some d => homeMerge s (homeFor line) line (number 0 (toBytes 128 d.toNat)) false
  | none => s

section
variable {line : Nat} {data : Option Line} (hbusy : busyLine s (homeFor line) line = true)
include hbusy

theorem execBisnpResponse_flip (hflip : (s.flips.find (line / 32)).isSome = true) :
    execBisnpResponse line data s = .next (ackTx (snoopMerged s line data) (homeFor line) line) := by
  simp only [execBisnpResponse, hbusy, hflip, Bool.not_true, Bool.false_eq_true, if_false, if_true]
  rfl

/-- The line of a read that found its page in host bias counts as just snooped. -/
theorem execBisnpResponse_read (hflip : (s.flips.find (line / 32)).isSome = false) :
    let t := snoopMerged s line data
    execBisnpResponse line data s = .next (ackTx { t with snooped := addNew t.snooped line } (homeFor line) line) := by
  simp only [execBisnpResponse, hbusy, hflip, Bool.not_true, Bool.false_eq_true, if_false]
  rfl

end

end

/-- Settles O53: a packet goes on by its step and by what it waits for, a flip by what has answered. -/
theorem traceAndBias : Obligations.TraceAndBias := by
  intro s s1 packet page line fn x f data toHost share ps u
  refine ⟨fun hg hover hended hresult => ?trace, execTraceStallRelease_no_ring, fun g => execTraceStallRelease_ring,
    fun hg hover hended hresult => ?bias, fun hf => ⟨execBiasFlipEnd_begins hf, execBiasFlipEnd_answered hf⟩,
    fun hbusy => ⟨execBisnpResponse_flip hbusy, execBisnpResponse_read hbusy⟩⟩
  case trace =>
    have hopen := packet_open hover hended hresult
    intro set detach again undo owner
    refine ⟨fun hstep hok => ⟨?_, ?_⟩, fun hstep hport hwritten => ⟨fun hop => ?_, fun hop hzero => ?_⟩⟩
    · cases share <;> exact congrArg Host.Outcome.next (tracePacket_begins hg hopen hstep hok)
    · cases share <;> exact congrArg Host.Outcome.next (tracePacket_begins hg hopen hstep hok)
    · cases share <;> exact congrArg Host.Outcome.next (tracePacket_detaches hg hopen hstep hport hwritten hop)
    · cases share <;> exact congrArg Host.Outcome.next (tracePacket_sets hg hopen hstep hport hwritten hop hzero)
  case bias =>
    have hopen := packet_open hover hended hresult
    intro bias again offs
    have hbias : exec bias s = .next (biasPacket packet toHost s) := by cases toHost <;> rfl
    rw [hbias]
    exact ⟨fun hstep hok hfits => congrArg Host.Outcome.next (biasPacket_begins hg hopen hstep hok hfits),
      fun hstep hpages => congrArg Host.Outcome.next (biasPacket_tests hg hopen hstep hpages),
      fun hstep hwork => congrArg Host.Outcome.next (biasPacket_ends hg hopen hstep hwork),
      fun hstep _ _ hwork hnone => congrArg Host.Outcome.next (biasPacket_flips hg hopen hstep hwork hnone)⟩

end Sys2Proof.Machine

/-!
PROOFS. AQIs and packets (O59): the notify page, the reading of a ring, and each packet whose fields are in their limits.
-/
namespace Sys2Proof.Machine

section
variable {s : State} {fn q : Nat}

-- The notify page (R446)

section
variable {value : Nat} (h : notifyOk s fn q = true)
include h

theorem execTailWrite_taken (htail : tailOk (s.aqi fn q) value = true) : execTailWrite fn q value s
    = .next (aqiPump (s.updAqi fn q fun y => { y with tail := value % 2 ^ 32 }) fn q) := by
  simp only [execTailWrite, h, htail, Bool.not_true, Bool.false_eq_true, if_false, if_true]

theorem execAqiArm_taken : execAqiArm fn q value s
    = .next (armCheck (s.updAqi fn q fun y => { y with armed := some (value % 2048) }) fn q) := by
  simp only [execAqiArm, h, Bool.not_true, Bool.false_eq_true, if_false]

theorem execAqiPause_taken : execAqiPause fn q s = .next (s.updAqi fn q fun y => { y with paused := true }) := by
  simp only [execAqiPause, h, Bool.not_true, Bool.false_eq_true, if_false]

theorem execAqiResume_taken :
    execAqiResume fn q s = .next (aqiPump (s.updAqi fn q fun y => { y with paused := false }) fn q) := by
  simp only [execAqiResume, h, Bool.not_true, Bool.false_eq_true, if_false]

end

-- EN (R445)

theorem execAqiEnable_bound (hen : (s.aqi fn q).en = false) (hvalid : (s.aqi fn q).valid = true)
    (hexists : aqiExists s fn q = true) :
    execAqiEnable fn q s = .next (aqiPump (s.updAqi fn q fun y => { y with en := true }) fn q) := by
  simp only [execAqiEnable, hen, hvalid, hexists, Bool.not_true, Bool.or_self, Bool.false_eq_true, if_false]

theorem execAqiDisable_enabled (hen : (s.aqi fn q).en = true) : execAqiDisable fn q s = .next (disableAqi s fn q) := if_pos hen

-- Reading a ring (R423, R445, R448)

/-- The module after ATS has been asked about the ring's page, and the read of the packet has taken its tokens. -/
def ringAsked (s : State) (fn : Nat) : State :=
  let t := fillBucket s fn
  chargeFar { t with free := t.free + 1 } fn 4 hostBase 64 false

/-- The address of an AQI's next packet in its ring. -/
def nextPacketAddr (a : Aqi) : Nat := a.rbase + 64 * (a.head % a.depth)

/-- What ATS answers for the page of an AQI's next packet. -/
def ringAnswer (s : State) (fn q : Nat) : Nat :=
  Config.atsAnswer (s.aqi fn q).pasid (nextPacketAddr (s.aqi fn q) / 65536) (fillBucket s fn).free

/-- The next packet's bytes as a number, and whether they are poisoned. -/
def ringRead (s : State) (fn q : Nat) : Nat × Bool :=
  farRead (ringAsked s fn) (hostBase + ringAnswer s fn q / 4 * 65536 + nextPacketAddr (s.aqi fn q) % 65536) 64

/-- Whether an AQI may go on: it has a next packet, and nothing holds it. -/
def aqiReady (s : State) (fn q : Nat) : Prop :=
  aqiExists s fn q = true ∧ (s.aqi fn q).en = true ∧ (s.aqi fn q).paused = false ∧ (s.aqi fn q).head ≠ (s.aqi fn q).tail
    ∧ (s.aqi fn q).hold = .none ∧ meterOpen ((fillBucket s fn).fn fn) = true

theorem aqiReady.not_held (h : aqiReady s fn q) : (!aqiExists s fn q || !(s.aqi fn q).en || (s.aqi fn q).paused
    || (s.aqi fn q).head == (s.aqi fn q).tail || (s.aqi fn q).hold != .none) = false := by
  obtain ⟨hexists, hen, hpaused, hmore, hhold, -⟩ := h
  simp [hexists, hen, hpaused, hmore, hhold]

theorem aqiReady.meterOpen (h : aqiReady s fn q) : Machine.meterOpen ((fillBucket s fn).fn fn) = true := by
  obtain ⟨-, -, -, -, -, hmeter⟩ := h
  exact hmeter

section
variable (h : aqiReady s fn q)
include h

/-- A page that the host does not let the AQI read holds it until a REPLAY. -/
theorem execPacketStart_refused (hans : bitOf (ringAnswer s fn q) 0 = false) :
    execPacketStart fn q s = .next (requestFault ((ringAsked s fn).updAqi fn q fun y => { y with hold := .replay none })
      ⟨fn, (s.aqi fn q).pasid, 256, none⟩ ⟨0, 0, 3, nextPacketAddr (s.aqi fn q) / 65536 * 65536, false, false, false⟩) := by
  simp only [ringAnswer, nextPacketAddr] at hans
  simp only [execPacketStart, h.not_held, h.meterOpen, hans, Bool.not_true, Bool.not_false, Bool.false_eq_true, if_false, if_true,
    ringAsked, nextPacketAddr]

section
variable (hans : bitOf (ringAnswer s fn q) 0 = true)
include hans

theorem execPacketStart_poisoned (hread : (ringRead s fn q).2 = true) :
    execPacketStart fn q s = .next (logError (disableAqi (ringAsked s fn) fn q) fn 8 0 q (s.aqi fn q).head) := by
  simp only [ringRead, ringAnswer, ringAsked, nextPacketAddr] at hans hread
  simp only [execPacketStart, h.not_held, h.meterOpen, hans, hread, Bool.not_true, Bool.false_eq_true, if_false, if_true,
    ringAsked]

theorem execPacketStart_takes (hread : (ringRead s fn q).2 = false) :
    execPacketStart fn q s = .next (takePacket (takeToken (ringAsked s fn) fn) fn q (ringRead s fn q).1) := by
  simp only [ringRead, ringAnswer, ringAsked, nextPacketAddr] at hans hread
  simp only [execPacketStart, h.not_held, h.meterOpen, hans, hread, Bool.not_true, Bool.false_eq_true, if_false,
    ringRead, ringAnswer, ringAsked, nextPacketAddr]

end

/-- An AQI that may go on reads its next packet if the host lets it read the page. -/
theorem execPacketStart_ready : execPacketStart fn q s = .next (if bitOf (ringAnswer s fn q) 0 then
        if (ringRead s fn q).2 then logError (disableAqi (ringAsked s fn) fn q) fn 8 0 q (s.aqi fn q).head
        else takePacket (takeToken (ringAsked s fn) fn) fn q (ringRead s fn q).1
      else requestFault ((ringAsked s fn).updAqi fn q fun y => { y with hold := .replay none }) ⟨fn, (s.aqi fn q).pasid, 256, none⟩
        ⟨0, 0, 3, nextPacketAddr (s.aqi fn q) / 65536 * 65536, false, false, false⟩) := by
  split
  next hans =>
    split
    next hread => exact execPacketStart_poisoned h hans hread
    next hread => exact execPacketStart_takes h hans (Bool.not_eq_true _ ▸ hread)
  next hans => exact execPacketStart_refused h (Bool.not_eq_true _ ▸ hans)

end

end

-- Packets (R418 to R421, R450)

section
variable {s t : State} {packet : Nat} {x : Grid} (hg : s.grids.find packet = some x)
  (hopen : ¬ (x.isOver = true ∨ x.ended.isSome = true ∨ x.result.isSome = true))
include hg hopen

section
variable (hstep : x.step = 0)
include hstep

omit hg in
/-- A packet that is still to be started is none of those that an event leaves alone. -/
theorem packet_unstarted : ¬ (x.isOver = true ∨ x.ended.isSome = true ∨ x.result.isSome = true ∨ x.step ≠ 0) := by
  rintro (h | h | h | h)
  · exact hopen (.inl h)
  · exact hopen (.inr (.inl h))
  · exact hopen (.inr (.inr h))
  · exact h hstep

theorem execLaunch_checks {d : List Byte} (hport : x.port.waiting = false) (hfields : launchFields x = true)
    (hread : engRun (hubEng s packet) (.launch packet) (holdAqi packet)
      (engRead (hubEng s packet) (x.at_ 8 2) (x.at_ 0x18 8) 128) s = (.done (d, false), t)) :
    execLaunch packet s = .next (checkLaunch t packet x (ofBytes d)) := by
  have hgo : ¬ (x.isOver = true ∨ x.ended.isSome = true ∨ x.result.isSome = true ∨ x.step ≠ 0 ∨ x.port.waiting = true) := by
    simpa [hport] using packet_unstarted hopen hstep
  simp only [execLaunch, hg, if_neg hgo, hfields, hread, Bool.not_true, Bool.false_eq_true, if_false]

theorem execCopyPacket_begins (hok : copyOk x = true) (hsource : x.at_ 0x18 8 + x.at_ 0xC 4 ≤ 2 ^ 64)
    (hdest : x.at_ 0x28 8 + x.at_ 0xC 4 ≤ 2 ^ 64) : execCopyPacket packet s = .next (copyBegin s packet x) := by
  have hfits : ¬ (2 ^ 64 < x.at_ 0x18 8 + x.at_ 0xC 4 ∨ 2 ^ 64 < x.at_ 0x28 8 + x.at_ 0xC 4) := by omega
  simp only [execCopyPacket, hg, if_neg (packet_unstarted hopen hstep), hok, if_neg hfits, Bool.not_true, Bool.false_eq_true,
    if_false]

theorem execNblaunch_begins (hok : nblaunchOk s x = true) : execNblaunch packet s = .next (nblaunchBegin s packet x) := by
  simp only [execNblaunch, hg, if_neg (packet_unstarted hopen hstep), hok, if_true]

end

theorem execSignalPacket_sends {ps : List (Nat × Nat × Nat)} (hok : signalOk x = true) :
    let s1 := startPacket s packet false
    engRun (hubEng s1 packet) (.signalPacket packet) (fun _ => holdPacket packet)
      (engPages (hubEng s1 packet) true (x.at_ 8 2) (x.at_ 0x18 8) 8) s1 = (.done ps, t) →
    execSignalPacket packet s = .next (hubSignal t packet x (ps.headD (0, 0, 0)).1) := by
  intro s1 hpages
  have hlimits : ¬ (x.step = 0 ∧ signalOk x = false) := by simp [hok]
  simp only [execSignalPacket, hg, if_neg hopen, if_neg hlimits]
  rw [hpages]

/-- A WAIT whose condition holds for the word that it reads is complete. -/
theorem execWaitPacket_met {d : List Byte × Bool} (hport : x.port.waiting = false) (hok : waitOk x = true) :
    let s1 := startPacket s packet true
    engRun (hubEng s1 packet) (.waitPacket packet) (fun _ => holdPacket packet)
      (engRead (hubEng s1 packet) (x.at_ 8 2) (x.at_ 0x18 8) 8) s1 = (.done d, t) → waitMet x (ofBytes d.1) = true →
    execWaitPacket packet s = .next (endPacket t packet 1 0) := by
  intro s1 hread hmet
  have hlimits : ¬ (x.step = 0 ∧ waitOk x = false) := by simp [hok]
  have hgo : ¬ (x.isOver = true ∨ x.ended.isSome = true ∨ x.result.isSome = true ∨ x.port.waiting = true) := by
    simpa [hport] using hopen
  simp only [execWaitPacket, hg, if_neg hgo, if_neg hlimits]
  rw [hread]
  simp only [hmet, if_true]

theorem execQfence_ends (hok : x.limitsOk [] = true) (hlast : earlierOpen (startPacket s packet true) packet x = false) :
    execQfence packet s = .next (endPacket (startPacket s packet true) packet 1 0) := by
  simp only [execQfence, hg, if_neg hopen, hok, hlast, Bool.not_true, Bool.false_eq_true, if_false]

end

/-- Settles O59: a write to a notify page, a read of a ring and a packet are taken where their conditions hold. That a poisoned line of a
ring stops its AQI, and that a read takes its tokens at once, is the model's own choice (logs 17 and 30). -/
theorem packetEvents : Obligations.PacketEvents := by
  intro s fn q value packet x
  refine ⟨fun h => ⟨execTailWrite_taken h, execAqiArm_taken h, execAqiPause_taken h, execAqiResume_taken h⟩, execAqiEnable_bound,
    execAqiDisable_enabled, fun hexists hen hpaused hmore hhold hmeter =>
    execPacketStart_ready ⟨hexists, hen, hpaused, hmore, hhold, hmeter⟩, fun hg hover hended hresult hport => ?packets⟩
  case packets =>
    have hopen := packet_open hover hended hresult
    refine ⟨fun hstep => ?begin, fun ps t => execSignalPacket_sends hg hopen, fun d t => execWaitPacket_met hg hopen hport,
      execQfence_ends hg hopen⟩
    case begin =>
      exact ⟨fun hfields d t => execLaunch_checks hg hopen hstep hport hfields, execCopyPacket_begins hg hopen hstep,
        execNblaunch_begins hg hopen hstep⟩

end Sys2Proof.Machine

/-!
PROOFS. Versions of bundled lines (O50): a bundled store at its line's home, the decision of a view load, and the notices that promote or
drop a bundle's versions.
-/
namespace Sys2Proof.Machine

-- Installs (R328, R329)

section
variable {s : State} {m : Mail} {r : MemReq} {h : BitVec 32} {age : Nat} {opens : List (BitVec 32)} {again : Event}

theorem execBundleInstall_aborted (hdead : bundleDead (recv s m (homeDie r.home)) h = true) (hopen : opens.contains h = false) :
    execBundleInstall m r (h, age) opens s = .next
      (if bundleDev h = (recv s m (homeDie r.home)).dev ∨ routeOk (recv s m (homeDie r.home)) (bundleDev h) = false
      then ackInstall (recv s m (homeDie r.home)) m r
      else askAgainOf (recv s m (homeDie r.home)) r.line (.bundleInstall m r h age opens) h) := by
  have hgone : (bundleDead (recv s m (homeDie r.home)) h && !opens.contains h) = true := by rw [hdead, hopen]; rfl
  exact if_pos hgone

/-- A bundle that its home does not know as ABORTED, or has been told is OPEN, passes the first test. -/
theorem not_discarded {t : State} (hlive : bundleDead t h = false ∨ opens.contains h = true) :
    ¬ (bundleDead t h && !opens.contains h) = true := by
  rcases hlive with hlive | hopen
  · simp [hlive]
  · rw [hopen]
    simp

/-- A home with no snoop of the line under way and nothing to settle is not busy with a store or a view load. -/
theorem not_busyOrRejoined {t : State} {home line : Nat} (hbusy : busyLine t home line = false) (hrejoined : t.rejoined = []) :
    ¬ (busyLine t home line || !t.rejoined.isEmpty) = true := by
  simp [hbusy, hrejoined]

theorem busyOrRejoined {t : State} {home line : Nat} (hbusy : busyLine t home line = true ∨ t.rejoined ≠ []) :
    (busyLine t home line || !t.rejoined.isEmpty) = true := by
  rcases hbusy with hbusy | hbusy <;> simp [hbusy]

section
variable (hlive : bundleDead (recv s m (homeDie r.home)) h = false ∨ opens.contains h = true)
include hlive

theorem execBundleInstall_busy
    (hbusy : busyLine (recv s m (homeDie r.home)) r.home r.line = true ∨ (recv s m (homeDie r.home)).rejoined ≠ []) :
    execBundleInstall m r (h, age) opens s
      = .next ((recv s m (homeDie r.home)).post (.bundleInstall m r h age opens)) :=
  (if_neg (not_discarded hlive)).trans (if_pos (busyOrRejoined hbusy))

variable (hbusy : busyLine (recv s m (homeDie r.home)) r.home r.line = false) (hrejoined : (recv s m (homeDie r.home)).rejoined = [])
include hbusy hrejoined

theorem execBundleInstall_held (hswitch : switchHolds (recv s m (homeDie r.home)) r.line h = true) :
    execBundleInstall m r (h, age) opens s
      = .next (holdInstall (recv s m (homeDie r.home)) (.bundleInstall m r h age opens) 0) :=
  (if_neg (not_discarded hlive)).trans ((if_neg (not_busyOrRejoined hbusy hrejoined)).trans (if_pos hswitch))

variable (hswitch : switchHolds (recv s m (homeDie r.home)) r.line h = false)
include hswitch

theorem execBundleInstall_noRoom
    (hroom : hasRoom (makeRoom (recv s m (homeDie r.home)) r.home r.line) r.home r.line = false) :
    execBundleInstall m r (h, age) opens s
      = .next (releaseFor (makeRoom (recv s m (homeDie r.home)) r.home r.line) r.home r.line [.bundleInstall m r h age opens]) :=
  (if_neg (not_discarded hlive)).trans ((if_neg (not_busyOrRejoined hbusy hrejoined)).trans
    ((if_neg (ne_true_of_eq_false hswitch)).trans (if_neg (ne_true_of_eq_false hroom))))

theorem execBundleInstall_here
    (hroom : hasRoom (makeRoom (recv s m (homeDie r.home)) r.home r.line) r.home r.line = true) :
    execBundleInstall m r (h, age) opens s
      = .next (installHere (makeRoom (recv s m (homeDie r.home)) r.home r.line) m r h age opens (.bundleInstall m r h age opens)) :=
  (if_neg (not_discarded hlive)).trans ((if_neg (not_busyOrRejoined hbusy hrejoined)).trans
    ((if_neg (ne_true_of_eq_false hswitch)).trans (if_pos hroom)))

end

theorem installHere_own {d q mk a2 i} (hver : (versionsOf s r.line).second = some (.pending d q mk h a2 i)) :
    installHere s m r h age opens again = ackInstall (installInto s r h age (versionsOf s r.line).second) m r := by
  rw [installHere, hver]
  exact if_pos rfl

theorem installHere_other {d q mk h2 a2 i} (hver : (versionsOf s r.line).second = some (.pending d q mk h2 a2 i)) (hother : h2 ≠ h) :
    installHere s m r h age opens again = woundWait s m r h age h2 a2 opens again := by
  rw [installHere, hver]
  exact if_neg hother

theorem installHere_previous {d mk t i} (hver : (versionsOf s r.line).second = some (.previous d mk t i)) :
    installHere s m r h age opens again = ackInstall (installInto s r h age (versionsOf s r.line).second) m r := by
  rw [installHere, hver]

theorem installHere_none (hver : (versionsOf s r.line).second = none) :
    installHere s m r h age opens again =
      if descriptors s r.home < 65535 then ackInstall (installInto s r h age none) m r
      else needDescriptor s m r h age opens again := by
  rw [installHere, hver]

end

-- View loads (R332)

section
variable {s : State} {m : Mail} {who : Asker} {line v : Nat} {skip : Option (BitVec 32)}

theorem execViewLoadDecide_held (hswitch : switchHolds (recv s m (homeDie (homeFor line))) line 0 = true) :
    execViewLoadDecide m who line v skip s
      = .next (holdInstall (recv s m (homeDie (homeFor line))) (.viewLoadDecide m who line v skip) 0) :=
  if_pos hswitch

section
variable (hswitch : switchHolds (recv s m (homeDie (homeFor line))) line 0 = false)
include hswitch

theorem execViewLoadDecide_busy (hbusy : busyLine (recv s m (homeDie (homeFor line))) (homeFor line) line = true
      ∨ (recv s m (homeDie (homeFor line))).rejoined ≠ []) :
    execViewLoadDecide m who line v skip s
      = .next ((recv s m (homeDie (homeFor line))).post (.viewLoadDecide m who line v skip)) :=
  (if_neg (ne_true_of_eq_false hswitch)).trans (if_pos (busyOrRejoined hbusy))

variable (hbusy : busyLine (recv s m (homeDie (homeFor line))) (homeFor line) line = false)
  (hrejoined : (recv s m (homeDie (homeFor line))).rejoined = [])
include hbusy hrejoined

theorem execViewLoadDecide_settled
    (hver : ∀ d q mk h a i, (versionsOf (recv s m (homeDie (homeFor line))) line).second ≠ some (.pending d q mk h a i)) :
    execViewLoadDecide m who line v skip s = .next (viewSettled (recv s m (homeDie (homeFor line))) who line v) := by
  refine (if_neg (ne_true_of_eq_false hswitch)).trans ((if_neg (not_busyOrRejoined hbusy hrejoined)).trans ?_)
  split
  next h => exact absurd h (hver _ _ _ _ _ _)
  next => rfl

theorem execViewLoadDecide_pending {d q mk h a i}
    (hver : (versionsOf (recv s m (homeDie (homeFor line))) line).second = some (.pending d q mk h a i)) :
    execViewLoadDecide m who line v skip s = .next
      (if v ≤ i ∨ skip = some h then viewSettled (recv s m (homeDie (homeFor line))) who line v
      else if bundleDev h ≠ (recv s m (homeDie (homeFor line))).dev ∧ routeOk (recv s m (homeDie (homeFor line))) (bundleDev h) = false
      then holdInstall (recv s m (homeDie (homeFor line))) (.viewLoadDecide m who line v skip) h
      else postTo (recv s m (homeDie (homeFor line))) (bundleDev h)
        (.stateQuery ((recv s m (homeDie (homeFor line))).mail (homeDie (homeFor line))) who h line v)) := by
  refine (if_neg (ne_true_of_eq_false hswitch)).trans ((if_neg (not_busyOrRejoined hbusy hrejoined)).trans ?_)
  simp only [hver]
  split
  · rfl
  · exact (apply_ite Host.Outcome.next _ _ _).symm

end

theorem execStateQueryReply_joiners {h : BitVec 32} {c : Option (Option Nat)} (hline : line = noLine) :
    execStateQueryReply m who h line v c s = .next (learnClosed (recv s m 8) h c) :=
  if_pos hline

theorem execStateQueryReply_home {h : BitVec 32} {c : Option (Option Nat)} (hline : line ≠ noLine) :
    execStateQueryReply m who h line v c s = .next
      (let t := settleRejoined (learnState (recv s m (homeDie (homeFor line))) h line c) h line c
      if who.token = 0 then t else t.post (.viewLoadDecide (t.mail (homeDie (homeFor line))) who line v (some h))) :=
  (if_neg hline).trans (apply_ite Host.Outcome.next _ _ _).symm

end

-- Promotion and drop (R331)

section
variable {s : State} {m : Mail} {home : Nat} {h : BitVec 32} {news : Nat × Nat}

theorem execCommitNotice_home (hsettled : home ≠ 126) (hjoiners : home ≠ 127) :
    execCommitNotice m home h news s =
      .next (let s0 := recv s m (homeDie home)
        let p := (pendingLines s0 home h).foldl (fun a l => promoteLine a l news.1) s0
        sendTo (releaseHeld p 0) m.dev (.promotionAck (p.mail (homeDie home)) (128 * p.dev + home) h)) :=
  (if_neg hsettled).trans (if_neg hjoiners)

theorem execDropNotice_home (hsettled : home ≠ 126) (hjoiners : home ≠ 127) :
    execDropNotice m home h s =
      .next (let dead := markDead (recv s m (homeDie home)) h
        let q := (pendingLines dead home h).foldl dropVersion dead
        sendTo (releaseHeld q h) m.dev (.dropAck (q.mail (homeDie home)) (128 * q.dev + home) h)) :=
  (if_neg hsettled).trans (if_neg hjoiners)

theorem execCommitNotice_settled (hsettled : home = 126) :
    execCommitNotice m home h news s = .next (releaseHeld (recv s m (homeDie home)) h) :=
  if_pos hsettled

theorem execDropNotice_settled (hsettled : home = 126) :
    execDropNotice m home h s = .next (markDead (recv s m (homeDie home)) h) :=
  if_pos hsettled

theorem execCommitNotice_joiners (hjoiners : home = 127) :
    execCommitNotice m home h news s = .next (freeBundle (endCloses (recv s m (homeDie home)) h 1 (128 * news.2)) h) :=
  (if_neg (by omega)).trans (if_pos hjoiners)

theorem execDropNotice_joiners (hjoiners : home = 127) :
    execDropNotice m home h s = .next (endCloses (markDead (recv s m (homeDie home)) h) h 4 0) :=
  (if_neg (by omega)).trans (if_pos hjoiners)

end

/-- Settles O50: every event by the tests that it makes, in their order. -/
theorem versionEvents : Obligations.VersionEvents := by
  intro s m who r h age home line v stamp n acc grid k skip c opens
  refine ⟨⟨fun hdead hopen => execBundleInstall_aborted hdead hopen, fun hlive =>
    ⟨fun hbusy => execBundleInstall_busy hlive hbusy, fun hbusy hrejoined =>
      ⟨fun hswitch => execBundleInstall_held hlive hbusy hrejoined hswitch,
        fun hswitch hroom => execBundleInstall_noRoom hlive hbusy hrejoined hswitch hroom,
        fun hswitch hroom => ?room⟩⟩⟩,
    rfl,
    ⟨fun hswitch => execViewLoadDecide_held hswitch, fun hswitch hbusy => execViewLoadDecide_busy hswitch hbusy,
      fun hswitch hbusy hrejoined => ⟨fun hver => execViewLoadDecide_settled hswitch hbusy hrejoined hver,
        fun d q mk a2 i hver => execViewLoadDecide_pending hswitch hbusy hrejoined hver⟩,
      fun hline => execStateQueryReply_joiners hline, fun hline => execStateQueryReply_home hline⟩,
    ⟨fun hsettled hjoiners => ⟨execCommitNotice_home hsettled hjoiners, execDropNotice_home hsettled hjoiners⟩,
      fun hsettled => ⟨execCommitNotice_settled hsettled, execDropNotice_settled hsettled⟩,
      fun hjoiners => ⟨execCommitNotice_joiners hjoiners, execDropNotice_joiners hjoiners⟩⟩,
    rfl, rfl, rfl⟩
  case room =>
    have hhere := execBundleInstall_here (age := age) hlive hbusy hrejoined hswitch hroom
    exact ⟨fun d q mk a2 i hver => hhere.trans (congrArg Host.Outcome.next (installHere_own hver)),
      fun d q mk h2 a2 i hver hother => hhere.trans (congrArg Host.Outcome.next (installHere_other hver hother)),
      fun d mk t i hver => hhere.trans (congrArg Host.Outcome.next (installHere_previous hver)),
      fun hver => hhere.trans (congrArg Host.Outcome.next (installHere_none hver))⟩

end Sys2Proof.Machine

/-!
PROOFS. Uniform instructions complete (O10, O11, O20 to O23): what each way to run one answers when its registers are not in flight
and its sources are readable, the counts of ones and zeros of an element, and then each instruction by the way that it is run.
-/
namespace Sys2Proof.Machine

-- The ways to run a uniform instruction

@[simp] theorem uniformReader_em (st : Strand) : (uniformReader st).em = st.em := endChain_em st

@[simp] theorem uniformReader_seq (st : Strand) : (uniformReader st).seq = st.seq := endChain_seq st

@[simp] theorem uniformReader_pm (st : Strand) : (uniformReader st).pm = st.pm := by
  obtain ⟨v, hv⟩ := endChain_eq st
  rw [uniformReader, hv]

theorem uniformReader_sreg (st : Strand) (n : Nat) : (uniformReader st).sreg n = st.sreg n := by
  obtain ⟨v, hv⟩ := endChain_eq st
  rw [uniformReader, hv]
  rfl

theorem uniformReader_smark (st : Strand) (n : Nat) : (uniformReader st).smark n = st.smark n := by
  obtain ⟨v, hv⟩ := endChain_eq st
  rw [uniformReader, hv]
  rfl

/-- A source without a mark is readable where a mark is consumed. -/
theorem uval_of_uread {s : State} {st : Strand} {t : Ty} {o : Opd} {x : Word} (h : uread s st t o = .ok (x, false)) :
    uval s st t o = .ok x := by
  rw [uval, h]
  rfl

section
variable {s : State} {k : Nat} {st : Strand} {f : Fields} {x : Word} (h : Acts s k st)
include h

/-- One that reads and writes nothing that can be in flight. -/
theorem runUniform_writes {nx : Nx} {ws : List UWrite} :
    runUniform nx [] (fun _ _ => return ws) s = .next (uniformDone s k st nx ws) :=
  runUniform_done h (inFlight_nil _) rfl

section
variable (hregs : inFlight (uniformReader st) [] (uRegs f true) = false)
include hregs

theorem uniform1_done {op : Word → Word} (ha : uval s (uniformReader st) f.ty f.a = .ok x) :
    uniform1 f op s = .next (uniformDone s k st f.nx [.reg f.d.toNat (op x) false]) :=
  runUniform_done h hregs (by rw [ha]; rfl)

theorem uniform2_done {op : Word → Word → Word} {y : Word} (ha : uval s (uniformReader st) f.ty f.a = .ok x)
    (hb : uval s (uniformReader st) f.ty f.b = .ok y) :
    uniform2 f op s = .next (uniformDone s k st f.nx [.reg f.d.toNat (op x y) false]) :=
  runUniform_done h hregs (by rw [ha, hb]; rfl)

theorem execMov_done {mark : Bool} (ha : uread s (uniformReader st) f.ty f.a = .ok (x, mark)) :
    execMov f s = .next (uniformDone s k st f.nx [.reg f.d.toNat x mark]) :=
  runUniform_done h hregs (by rw [ha]; rfl)

theorem movHalf_done {op : Word → Word → Word} {mark : Bool} (ha : uread s (uniformReader st) f.ty f.a = .ok (x, mark)) :
    movHalf f op s = .next (uniformDone s k st f.nx
      [.reg f.d.toNat (op (st.sreg f.d.toNat) x) (st.smark f.d.toNat || mark)]) := by
  rw [← uniformReader_sreg, ← uniformReader_smark]
  exact runUniform_done h hregs (by rw [ha]; rfl)

theorem execFfs_done (ha : uval s (uniformReader st) f.ty f.a = .ok x) :
    execFfs f s = .next (uniformDone s k st f.nx [.reg f.d.toNat (BitVec.ofNat 64 (ctz 64 x.toNat)) false, .uc (x != 0)]) :=
  runUniform_done h hregs (by rw [ha]; rfl)

-- `sel`, `cmp` and `bfi` (R80 to R82)

section
variable {y z : Word} {p q : Bool}

/-- Some element selects src(A), or src(B), exactly if some element of the test says so. -/
theorem execSel_done (ha : uread s (uniformReader st) f.ty f.a = .ok (x, p))
    (hb : uread s (uniformReader st) f.ty f.b = .ok (y, q)) (hc : uval s (uniformReader st) f.ty f.c = .ok z) :
    execSel f s = .next (uniformDone s k st f.nx [.reg f.d.toNat (selWord f.ty f.m.toNat x y z)
      (((upto f.ty.lanes).any (fun j => condInt f.m.toNat (elemInt f.ty z j) 0) && p)
        || ((upto f.ty.lanes).any (fun j => !condInt f.m.toNat (elemInt f.ty z j) 0) && q))]) := by
  refine runUniform_done h hregs ?_
  rw [ha, hb, hc]
  simp only [bind, Except.bind, pure, Except.pure, List.any_map]
  rfl

theorem execCmp_done (ha : uval s (uniformReader st) f.ty f.a = .ok x) (hb : uval s (uniformReader st) f.ty f.b = .ok y) :
    execCmp f s = .next (uniformDone s k st f.nx
      [.reg f.d.toNat (maskElements f.ty fun j => condInt f.m.toNat (elemInt f.ty x j) (elemInt f.ty y j)) false
      , .uc (condInt f.m.toNat (elemInt f.ty x 0) (elemInt f.ty y 0))]) :=
  runUniform_done h hregs (by rw [ha, hb]; rfl)

theorem execBfi_done (ha : uval s (uniformReader st) f.ty f.a = .ok x) (hb : uval s (uniformReader st) f.ty f.b = .ok y)
    (hc : uval s (uniformReader st) f.ty f.c = .ok z) :
    execBfi f s = .next (uniformDone s k st f.nx [.reg f.d.toNat (bfiWord x y z) false]) :=
  runUniform_done h hregs (by rw [ha, hb, hc]; rfl)

end

-- Identity, time and control state (R93 to R95)

theorem execEmget_done : execEmget f s = .next (uniformDone s k st f.nx [.reg f.d.toNat (st.em.setWidth 64) false]) := by
  rw [← uniformReader_em]
  exact runUniform_done h hregs rfl

theorem execGetid_done (ha : uval s (uniformReader st) f.ty f.a = .ok x) (hsel : x.toNat < 16) :
    execGetid f s = .next (uniformDone s k st f.nx
      [.reg f.d.toNat (BitVec.ofNat 64 (getidValue s (uniformReader st) x.toNat)) false]) := by
  refine runUniform_done h hregs ?_
  have hneed : need (decide (x.toNat < 16)) cIllegalField = .ok () := need_ok (by simpa using hsel)
  rw [ha]
  simp only [bind, Except.bind, hneed]
  rfl

end

-- Masks and loops (R83, R86)

section
variable (hregs : inFlight (uniformReader st) [] (uRegs f false) = false)
  (ha : uval s (uniformReader st) f.ty f.a = .ok x)
include hregs ha

theorem uniformMask_done {op : Half → Half → Half → Half} :
    uniformMask f op s = .next (uniformDone s k st f.nx [.em (op st.em st.pm (x.setWidth 32))]) := by
  rw [← uniformReader_em, ← uniformReader_pm]
  exact runUniform_done h hregs (by rw [ha]; rfl)

theorem execLoop_done : execLoop f s = .next (uniformDone s k st f.nx [.push (x.setWidth 32) st.seq]) := by
  rw [← uniformReader_seq]
  exact runUniform_done h hregs (by rw [ha]; rfl)

theorem execCset_done {ws : List UWrite} (hctx : contextFault s (endChain st) 0x026 f.f.toNat = false)
    (hws : cregWrite (uniformReader st) f.f.toNat x = .ok ws) : execCset f s = .next (uniformDone s k st f.nx ws) := by
  rw [execCset, inContext_done (lat := []) h hctx]
  exact runUniform_done h hregs (by rw [ha]; exact hws)

end

-- `fork` (R88, R92)

theorem execFork_done {f : ForkFields} {xa xb : Word} (hregs : inFlight (endChain st) [] [f.a.toNat, f.b.toNat] = false)
    (ha : uval s (endChain st) .i8 ⟨.reg f.a, false⟩ = .ok xa) (hb : uval s (endChain st) .i8 ⟨.reg f.b, false⟩ = .ok xb) :
    execFork f s = .next
      (if st.fork.phase != .none then retire s k (endChain st) .next 0 st.em
       else retireTo s k (forkStep f (endChain st) xa xb).1 (forkStep f (endChain st) xa xb).2 st.em
         ((endChain st).saveNext st.em)) := by
  rw [execFork, withActor_of h]
  simp only [awaitRegs_clear hregs, ha, hb, bind, Except.bind, pure, Except.pure, ← apply_ite Except.ok, settle, endChain_fork,
    endChain_em]

end

-- Counts of ones and zeros (R79, R84)

theorem popcount_eq_length (n x : Nat) : popcount n x = ((List.range n).filter fun i => x.testBit i).length := by
  induction n with
  | zero => rfl
  | succ n ih =>
    rw [popcount, ih, List.range_succ, List.filter_append, List.length_append, bitOf_eq_testBit]
    cases hbit : x.testBit n <;> simp [b2n, hbit, Nat.add_comm]

theorem clz_le (w x : Nat) : clz w x ≤ w := by
  induction w with
  | zero => exact Nat.le_refl 0
  | succ w ih => rw [clz]; split <;> omega

/-- Above the place that `clz` gives all bits are zero, and there stands a one. -/
theorem clz_spec (w x : Nat) : (∀ i, w ≤ i + clz w x → i < w → x.testBit i = false)
    ∧ (clz w x < w → x.testBit (w - 1 - clz w x) = true) := by
  induction w with
  | zero => exact ⟨fun i _ hi => absurd hi (Nat.not_lt_zero i), fun h => absurd h (Nat.not_lt_zero _)⟩
  | succ w ih =>
    rw [clz, bitOf_eq_testBit]
    split
    next hbit => exact ⟨fun i hle hi => by omega, fun _ => hbit⟩
    next hbit =>
      obtain ⟨hzeros, hone⟩ := ih
      refine ⟨fun i hle hi => ?_, fun hlt => ?_⟩
      · by_cases hi' : i = w
        · rw [hi']; simpa using hbit
        · exact hzeros i (by omega) (by omega)
      · rw [show w + 1 - 1 - (1 + clz w x) = w - 1 - clz w x by omega]
        exact hone (by omega)

theorem ctz_le (w x : Nat) : ctz w x ≤ w := by
  induction w generalizing x with
  | zero => exact Nat.le_refl 0
  | succ w ih =>
    rw [ctz]
    split
    · exact Nat.zero_le _
    · have := ih (x / 2); omega

/-- Below the place that `ctz` gives all bits are zero, and there stands a one. -/
theorem ctz_spec (w x : Nat) : (∀ i, i < ctz w x → x.testBit i = false) ∧ (ctz w x < w → x.testBit (ctz w x) = true) := by
  induction w generalizing x with
  | zero => exact ⟨fun i hi => absurd hi (Nat.not_lt_zero i), fun h => absurd h (Nat.not_lt_zero _)⟩
  | succ w ih =>
    rw [ctz]
    split
    next hodd =>
      exact ⟨fun i hi => absurd hi (Nat.not_lt_zero i), fun _ => by simpa [Nat.testBit_zero] using hodd⟩
    next heven =>
      obtain ⟨hzeros, hone⟩ := ih (x / 2)
      refine ⟨fun i hi => ?_, fun hlt => ?_⟩
      · cases i with
        | zero => simpa [Nat.testBit_zero] using heven
        | succ i => rw [Nat.testBit_succ]; exact hzeros i (by omega)
      · rw [Nat.add_comm, Nat.testBit_succ]
        exact hone (by omega)

/-- A count of a type's element fits in the element. -/
theorem elemCode_count {t : Ty} {g : Nat → Nat} (hg : ∀ j, g j ≤ t.width) {j : Nat} (hj : j < t.lanes) :
    elemCode t (elements t g) j = g j := by
  rw [elemCode_elements t g hj]
  exact Nat.mod_eq_of_lt (Nat.lt_of_le_of_lt (hg j) Nat.lt_two_pow_self)

/-- Settles O10: each count fits in its element, where it reads back as the count of the element's bits. -/
theorem countsOfElements : Obligations.CountsOfElements := by
  intro f s k st x h hregs ha w
  refine ⟨⟨_, uniform1_done h hregs ha, fun j hj => ?_⟩, ⟨_, uniform1_done h hregs ha, fun j hj => ?_⟩,
    ⟨_, uniform1_done h hregs ha, fun j hj => ?_⟩⟩
  · rw [elemCode_count (fun j => clz_le _ _) hj]
    exact ⟨clz_le .., clz_spec ..⟩
  · rw [elemCode_count (fun j => ctz_le _ _) hj]
    exact ⟨ctz_le .., ctz_spec ..⟩
  · rw [elemCode_count (fun j => ?_) hj, popcount_eq_length]
    rw [popcount_eq_length]
    exact (List.length_filter_le ..).trans (Nat.le_of_eq List.length_range)

/-- Settles O11: the number of trailing zeros of a word is the place of its least one, or 64. -/
theorem findFirst : Obligations.FindFirst := by
  intro f s k st x h hregs ha
  obtain ⟨hzeros, hone⟩ := ctz_spec 64 x.toNat
  have hle := ctz_le 64 x.toNat
  refine ⟨ctz 64 x.toNat, execFfs_done h hregs ha, fun hx => ?_, fun hx => ?_⟩
  · rw [hx]; rfl
  · have hlt : ctz 64 x.toNat < 64 := by
      refine Nat.lt_of_le_of_ne hle fun heq => hx (BitVec.eq_of_getLsbD_eq fun i hi => ?_)
      simpa [BitVec.getLsbD] using hzeros i (by omega)
    exact ⟨hlt, hone hlt, hzeros⟩

/-- Settles O20: each runs as a function of two sources, and a compact one as the wide one that it expands to. -/
theorem uniformArithmetic : Obligations.UniformArithmetic := by
  intro f s k st x y h hregs ha hb
  have wide (op : Word → Word → Word) := uniform2_done (op := op) h hregs ha hb
  dsimp only [exec]
  refine ⟨wide _, ?addC, wide _, ?subC, wide _, ?mulC, wide _, ?mulhC, wide _, wide _, wide _, ?minC, wide _, ?maxC, wide _, ?andC,
    wide _, ?orC, wide _, ?xorC, wide _, ?andnC, wide _, ?shlC, wide _, ?shrC, wide _, ?sarC, wide _, ?rotC, wide _⟩
  case addC | subC | mulC | mulhC | minC | maxC | andC | orC | xorC | andnC | shlC | shrC | sarC | rotC =>
    intro c hc
    dsimp only [execAddC, execSubC, execMulC, execMulhC, execMinC, execMaxC, execAndC, execOrC, execXorC, execAndnC, execShlC,
      execShrC, execSarC, execRotC]
    rw [← hc]
    exact wide _

/-- Settles O21: `nop` and `yield` wait for nothing; the moves need their source and D. -/
theorem uniformMoves : Obligations.UniformMoves := by
  intro f s k st h
  dsimp only [exec]
  refine ⟨runUniform_writes h, fun c hc => ?nopC, runUniform_writes h,
    fun x mark hregs ha => ⟨execMov_done h hregs ha, fun c hc => ?movC, movHalf_done h hregs ha, movHalf_done h hregs ha⟩⟩
  case nopC => rw [execNopC, ← hc]; exact runUniform_writes h
  case movC => rw [execMovC, ← hc]; exact execMov_done h hregs ha

/-- Settles O22: `cmp` and `bfi` need sources without marks. That `sel` hands on the mark of either source that some element selects is
the model's own choice (log 21). -/
theorem uniformSelect : Obligations.UniformSelect := by
  intro f s k st x y z p q h hregs ha hb hc
  refine ⟨execSel_done h hregs ha hb hc, fun hp hq => ?_⟩
  subst hp hq
  exact ⟨execCmp_done h hregs (uval_of_uread ha) (uval_of_uread hb),
    execBfi_done h hregs (uval_of_uread ha) (uval_of_uread hb) hc⟩

/-- Settles O23: the mask instructions are functions of em, pm and the source; the others read or make the write that their entry
names. -/
theorem uniformMasksAndControl : Obligations.UniformMasksAndControl := by
  refine ⟨fun f s k st x h hregs ha => ?_, fun f s k st xa xb h hregs ha hb => execFork_done h hregs ha hb⟩
  dsimp only [exec, execEmset, execEmand, execEmandn, execEmor, execTime, execCget]
  exact ⟨fun hd => execEmget_done h hd, uniformMask_done h hregs ha, uniformMask_done h hregs ha, uniformMask_done h hregs ha,
    uniformMask_done h hregs ha, execLoop_done h hregs ha, fun hsel hd => execGetid_done h hd ha hsel,
    fun hd => runUniform_done h hd rfl, fun hd => runUniform_done h hd rfl,
    fun hctx ws hws => execCset_done h hregs ha hctx hws⟩

end Sys2Proof.Machine

/-!
PROOFS. Memory instructions complete (O30 to O34): once the checks of an instruction have passed, what it performs and how its strand
goes on.
-/
namespace Sys2Proof.Machine

/-- A part of a memory instruction that cannot stop: it leaves what it performs. -/
theorem mrun_performed (x : StateM State Unit) (s : State) : (liftM x : M Unit).run s = (.ok (), (x.run s).2) := rfl

section
variable {f : Fields} {s s1 : State} {k : Nat} {st0 : Strand} {i : Instr} (h : Acts s k st0)
include h

-- Global memory (R132 to R142)

/-- A load that no home refuses is performed. -/
theorem globalLoad_done {vec lda : Bool} {ps : List Part}
    (hchain : chainCheck (vectorStart st0 (memVecs vec [f.a, f.b])) ((memVecs vec [f.a, f.b]).flatMap latchesOf) = .ok ())
    (hc : (loadChecks f vec lda k (vectorStart st0 (memVecs vec [f.a, f.b]))).run s = (.ok (ps, none), s1)) :
    let st := vectorStart st0 (memVecs vec [f.a, f.b])
    globalLoad f vec lda s = .next (memRetire k f.nx st (memMarks st (memVecs vec [f.a, f.b]) [f.d.toNat])
      ((performLoad k st f vec (lda || isAcq f) ps (memFrees st (memVecs vec [f.a, f.b]))).run s1).2) := by
  refine runMem_done h hchain ?_
  rw [mbind_ok hc]
  exact (mbind_ok (mrun_performed ..)).trans (mrun_finishMem ..)

theorem globalAtomic_done {vec cas : Bool} {ps : List Part} {op : Part → MemOp}
    (hchain : chainCheck (vectorStart st0 (atomicVecs f vec cas)) ((atomicVecs f vec cas).flatMap latchesOf) = .ok ())
    (hc : (atomicChecks f vec cas (vectorStart st0 (atomicVecs f vec cas))).run s = (.ok (ps, op), s1)) :
    let st := vectorStart st0 (atomicVecs f vec cas)
    globalAtomic f vec cas s = .next (memRetire k f.nx st (memMarks st (atomicVecs f vec cas) (atomicDsts f cas))
      ((performAtomic k st f vec (isAcq f) (cas && f.cOp == 1) ps (memFrees st (atomicVecs f vec cas)) op).run s1).2) := by
  refine runMem_done h hchain ?_
  rw [mbind_ok hc]
  exact (mbind_ok (mrun_performed ..)).trans (mrun_finishMem ..)

section
variable {vec stl : Bool} {ps : List Part} {o : MemOpnds}
  (hchain : chainCheck (vectorStart st0 (memVecs vec [f.a, f.b, f.c])) ((memVecs vec [f.a, f.b, f.c]).flatMap latchesOf) = .ok ())
  (hc : (storeChecks f vec stl (vectorStart st0 (memVecs vec [f.a, f.b, f.c]))).run s = (.ok (ps, o), s1))
include hchain hc

theorem globalStore_plain (hplain : restartableBlock s (vectorStart st0 (memVecs vec [f.a, f.b, f.c])) = false) :
    let st := vectorStart st0 (memVecs vec [f.a, f.b, f.c])
    globalStore f vec stl s = .next (memRetire k f.nx st (storeEnd vec [f.a, f.b, f.c])
      ((performStore k st f.hint (stl || isRel f) ps o.data).run s1).2) := by
  refine runMem_done h hchain ?_
  rw [mbind_ok mrun_get, mbind_ok hc, if_neg (ne_true_of_eq_false hplain)]
  exact (mbind_ok (mrun_performed ..)).trans (mrun_finishMem ..)

/-- In a restartable block what the bundle leaves is the store's. -/
theorem globalStore_bundled {t : State} (hbundled : restartableBlock s (vectorStart st0 (memVecs vec [f.a, f.b, f.c])) = true)
    (hperf : (performBundled k (vectorStart st0 (memVecs vec [f.a, f.b, f.c])) ps o.data).run s1 = (.ok (), t)) :
    globalStore f vec stl s
      = .next (memRetire k f.nx (vectorStart st0 (memVecs vec [f.a, f.b, f.c])) (storeEnd vec [f.a, f.b, f.c]) t) := by
  refine runMem_done h hchain ?_
  rw [mbind_ok mrun_get, mbind_ok hc, if_pos hbundled, mbind_ok hperf, mrun_finishMem]

end

end

-- The scratchpad (R133, R283)

section
variable {f : Fields} {s s1 : State} {k : Nat} {st0 : Strand} {as : List (Nat × Nat)} {o : MemOpnds} (h : Acts s k st0)
include h

theorem scratchLoad_done {vec : Bool}
    (hchain : chainCheck (vectorStart st0 (memVecs vec [f.a, f.b])) ((memVecs vec [f.a, f.b]).flatMap latchesOf) = .ok ())
    (hc : (scratchLoadChecks f vec (vectorStart st0 (memVecs vec [f.a, f.b]))).run s = (.ok as, s1)) :
    let st := vectorStart st0 (memVecs vec [f.a, f.b])
    scratchLoad f vec s = .next (memRetire k f.nx st
      (scratchEnd f vec [f.a, f.b] (scratchValues f (s1.block st.blk) as)) s1) := by
  refine runMem_done h hchain ?_
  rw [mbind_ok hc, mbind_ok mrun_get, mrun_finishMem]

theorem scratchStore_done {vec : Bool}
    (hchain : chainCheck (vectorStart st0 (memVecs vec [f.a, f.b, f.c])) ((memVecs vec [f.a, f.b, f.c]).flatMap latchesOf) = .ok ())
    (hc : (scratchStoreChecks f vec (vectorStart st0 (memVecs vec [f.a, f.b, f.c]))).run s = (.ok (as, o), s1)) :
    let st := vectorStart st0 (memVecs vec [f.a, f.b, f.c])
    scratchStore f vec s = .next (memRetire k f.nx st (storeEnd vec [f.a, f.b, f.c]) (scratchPut f st.blk as o.data s1)) := by
  refine runMem_done h hchain ?_
  rw [mbind_ok hc, mbind_ok (mrun_modify ..), mrun_finishMem]

theorem execSatom_done
    (hchain : chainCheck (vectorStart st0 [f.a, f.b]) ([f.a, f.b].flatMap latchesOf) = .ok ())
    (hc : (satomChecks f (vectorStart st0 [f.a, f.b])).run s = (.ok (as, o), s1)) :
    let st := vectorStart st0 [f.a, f.b]
    execSatom f s = .next (memRetire k f.nx st (scratchEnd f true [f.a, f.b] (satomRun f as o.off (s1.block st.blk)).1)
      (s1.updBlock st.blk fun _ => (satomRun f as o.off (s1.block st.blk)).2)) := by
  refine runMem_done h hchain ?_
  rw [mbind_ok hc, mbind_ok mrun_get]
  exact (mbind_ok (mrun_modify ..)).trans (mrun_finishMem ..)

-- Fences and ranges (R143, R147 to R150)

theorem execFence_done (hc : (fenceChecks f (endChain st0)).run s = (.ok (), s1)) :
    execFence f s = .next (memRetire k f.nx (endChain st0) (fun x => { x with viewOn := false }) s1) := by
  refine runMem_done_nil h ?_
  rw [mbind_ok hc, mrun_finishMem]

theorem cleanRange_done {drop : Bool} {sc : Nat} {ls : List (Nat × Leaf)}
    (hc : (cleanChecks f drop (endChain st0)).run s = (.ok (sc, ls), s1)) :
    cleanRange f drop s = .next (memRetire k f.nx (endChain st0) id
      (ls.foldl (fun a p => cleanLine sc drop p.1 a) s1)) := by
  refine runMem_done_nil h ?_
  rw [mbind_ok hc, mbind_ok (mrun_modify ..), mrun_finishMem]

theorem execCpref_done {ls : List (Nat × Leaf)} (hc : (prefChecks f (endChain st0)).run s = (.ok ls, s1)) :
    execCpref f s = .next (memRetire k f.nx (endChain st0) id (prefetchLines f k (endChain st0) ls s1)) := by
  refine runMem_done_nil h ?_
  rw [mbind_ok hc, mbind_ok (mrun_modify ..), mrun_finishMem]

/-- Pages that are to flip hold the strand until the flips have ended (R150). -/
theorem execCbias_done {pages : List Nat} (hc : (biasChecks f (endChain st0)).run s = (.ok pages, s1)) :
    execCbias f s = .next (if pages.isEmpty then memRetire k f.nx (endChain st0) id s1
      else biasWait f k (endChain st0) pages s1) := by
  refine runMem_done_nil h ?_
  rw [mbind_ok hc]
  cases pages <;> rfl

-- `signal`, `wait` and `bbar` (R144 to R146)

theorem execSignal_done {p : Part} {b : Word} (hc : (signalChecks f (endChain st0)).run s = (.ok ([p], b), s1)) :
    execSignal f s = .next (memRetire k f.nx (endChain st0) id (sendSignal f k (endChain st0) p b s1)) := by
  refine runMem_done_nil h ?_
  rw [mbind_ok hc, mbind_ok (mrun_modify ..), mrun_finishMem]

section
variable {s2 : State} {p : Part} {b : Word} {sc : Nat} (hc : (waitChecks f (endChain st0)).run s = (.ok ([p], b), s1))
include hc

/-- The word at its home, on this module or at the host. -/
theorem execWait_here (hhere : isPeer p.ga = false)
    (hholds : waitHolds f (waitWord (if restartableBlock s (endChain st0) then (endChain st0).bnd else 0)
      (endChain st0).core p s1).2.1 b = true)
    (hsc : (capScope (whoOf s (endChain st0)).fn f.cScope p.off).run
      (waitWord (if restartableBlock s (endChain st0) then (endChain st0).bnd else 0) (endChain st0).core p s1).1
        = (.ok sc, s2)) :
    let w := waitWord (if restartableBlock s (endChain st0) then (endChain st0).bnd else 0) (endChain st0).core p s1
    execWait f s = .next (memRetire k f.nx (endChain st0) (waitGot f w.2.1 w.2.2) s2) := by
  refine runMem_done_nil h ?_
  rw [mbind_ok mrun_get, mbind_ok hc]
  dsimp only
  rw [mbind_ok mrun_get, if_neg (ne_true_of_eq_false hhere), if_pos hholds]
  refine (mbind_ok (mrun_modify (fun _ => _) _)).trans ?_
  rw [mbind_ok hsc, mrun_finishMem]

/-- A word of a peer, as it has answered. -/
theorem execWait_peer {line : Nat} (hpeer : isPeer p.ga = true) (hans : (endChain st0).answer = some line)
    (hholds : waitHolds f (bits line (8 * (p.ga % 128)) 64) b = true)
    (hsc : (capScope (whoOf s (endChain st0)).fn f.cScope p.off).run s1 = (.ok sc, s2)) :
    execWait f s = .next (memRetire k f.nx (endChain st0)
      (waitGot f (bits line (8 * (p.ga % 128)) 64) (bitOf line 1024)) s2) := by
  refine runMem_done_nil h ?_
  rw [mbind_ok mrun_get, mbind_ok hc]
  dsimp only
  rw [mbind_ok mrun_get, if_pos hpeer, hans]
  dsimp only
  rw [if_pos hholds, mbind_ok hsc, mrun_finishMem]

end

theorem execBbar_done (hmode : (endChain st0).trapMode = false) (hflight : (endChain st0).flight = [])
    (horder : orderWaits (endChain st0) (some 2) false = .ok ()) :
    execBbar f s = .next (barrierArrived k (endChain st0) f.nx none s) := by
  refine runMem_done_nil h ?_
  simp only [arriveBarrier, hmode, hflight, horder]
  rfl

end

/-- Settles O30: the three loads differ in their column and in the order that they keep. -/
theorem memoryLoads : Obligations.MemoryLoads := by
  intro f s s1 k st0 vec lda i ps h hi os st hchain hc
  have hload : exec i s = globalLoad f vec lda s := by
    rcases hi with ⟨rfl, rfl, rfl⟩ | ⟨rfl, rfl, rfl⟩ | ⟨rfl, rfl, rfl⟩ <;> rfl
  rw [hload]
  exact globalLoad_done h hchain hc

/-- Settles O31: the three stores differ in their column and in the order that they keep; a bundled one needs room for its lines. -/
theorem memoryStores : Obligations.MemoryStores := by
  intro f s s1 k st0 vec stl i ps o h hi os st hchain hc done
  have hstore : exec i s = globalStore f vec stl s := by
    rcases hi with ⟨rfl, rfl, rfl⟩ | ⟨rfl, rfl, rfl⟩ | ⟨rfl, rfl, rfl⟩ <;> rfl
  rw [hstore]
  exact ⟨fun hplain => globalStore_plain h hchain hc hplain, fun hbundled hacks =>
    ⟨fun hdead => globalStore_bundled h hchain hc hbundled (performBundled_dead hacks hdead),
      fun s2 hlive hhere hroom => globalStore_bundled h hchain hc hbundled (performBundled_admitted hacks hlive hhere hroom)⟩⟩

/-- Settles O32: the four atomics differ in their column and in whether they compare. -/
theorem memoryAtomics : Obligations.MemoryAtomics := by
  intro f s s1 k st0 vec cas i ps op h hi os st hchain hc
  have hatomic : exec i s = globalAtomic f vec cas s := by
    rcases hi with ⟨rfl, rfl, rfl⟩ | ⟨rfl, rfl, rfl⟩ | ⟨rfl, rfl, rfl⟩ | ⟨rfl, rfl, rfl⟩ <;> rfl
  rw [hatomic]
  exact globalAtomic_done h hchain hc

/-- Settles O33: the scratchpad's accesses are performed on the block at once. -/
theorem scratchAccess : Obligations.ScratchAccess := by
  intro f s s1 k st0 vec i as o h
  refine ⟨fun hi hchain hc => ?load, fun hi hchain hc => ?store, fun hi hchain hc => ?atomic⟩
  case load =>
    have hload : exec i s = scratchLoad f vec s := by rcases hi with ⟨rfl, rfl⟩ | ⟨rfl, rfl⟩ <;> rfl
    rw [hload]
    exact scratchLoad_done h hchain hc
  case store =>
    have hstore : exec i s = scratchStore f vec s := by rcases hi with ⟨rfl, rfl⟩ | ⟨rfl, rfl⟩ <;> rfl
    rw [hstore]
    exact scratchStore_done h hchain hc
  case atomic =>
    subst hi
    exact execSatom_done h hchain hc

/-- Settles O34: each has its effect once its checks have passed. That a clean or flush is done with its lines in the step that performs
it, and that a `wait` takes the word that a peer has answered, are the model's own choices (logs 21 and 47). -/
theorem fencesAndSignals : Obligations.FencesAndSignals := by
  intro f s s1 k st0 h st
  refine ⟨execFence_done h, fun drop sc ls hc => ?clean, fun ls hc => execCpref_done h hc, fun pages hc => execCbias_done h hc,
    fun s2 p b sc => ⟨fun hc => execSignal_done h hc, fun hc =>
      ⟨execWait_here h hc, fun line hpeer hans hholds hsc => execWait_peer h hc hpeer hans hholds hsc⟩, execBbar_done h⟩⟩
  case clean =>
    cases drop with
    | false => exact cleanRange_done h hc
    | true => exact cleanRange_done h hc

end Sys2Proof.Machine

/-!
PROOFS. Where a strand goes on (O8): outside a region by its selector, at a region's end where that leads, and out of a region by an
ILLEGAL FORK EXIT.
-/
namespace Sys2Proof.Machine

-- The selector (R85)

/-- A selector writes neither the address nor the deferred-region register. -/
theorem selectNext_keeps_region (x : Strand) (nx : Nx) : (selectNext x nx).1.pc = x.pc ∧ (selectNext x nx).1.fork = x.fork := by
  cases nx with
  | loop => rw [selectNext]; split <;> exact ⟨rfl, rfl⟩
  | _ => exact ⟨rfl, rfl⟩

theorem inRegion_congr {x y : Strand} (hpc : x.pc = y.pc) (hfork : x.fork = y.fork) : inRegion x = inRegion y := by
  rw [inRegion, inRegion, hpc, hfork]

theorem inRegion_selectNext (x : Strand) (nx : Nx) : inRegion (selectNext x nx).1 = inRegion x :=
  inRegion_congr (selectNext_keeps_region x nx).1 (selectNext_keeps_region x nx).2

@[simp] theorem wrap64_toNat (x : Word) : wrap64 (x.toNat : Int) = x := by
  rw [wrap64, BitVec.ofInt_natCast, BitVec.ofNat_toNat, BitVec.setWidth_eq]

section
variable (st : Strand) (fl : Flags) (m : Half)

/-- What completing leaves of the registers that the selectors read. -/
theorem flagged_reads : (flagged st fl).pc = st.pc ∧ (flagged st fl).seq = st.seq ∧ (flagged st fl).lr = st.lr
    ∧ (flagged st fl).em = st.em ∧ (flagged st fl).uc = st.uc ∧ (flagged st fl).fork = st.fork :=
  ⟨rfl, rfl, rfl, rfl, rfl, rfl⟩

/-- LOOP in its last round goes on, and the outer loop is the inner one. -/
theorem nextStrand_loop_last (h : st.lc0.toNat ≤ 1) :
    let y := nextStrand st .loop fl m
    y.pc = st.seq ∧ y.lc0 = st.lc1 ∧ y.lh0 = st.lh1 ∧ y.lc1 = 0 ∧ y.lh1 = 0 := by
  have hsel : selectNext (flagged st fl) .loop =
      ({ flagged st fl with lc0 := st.lc1, lh0 := st.lh1, lc1 := 0, lh1 := 0 }, .onward) := if_pos h
  rw [nextStrand, hsel]
  exact ⟨rfl, rfl, rfl, rfl, rfl⟩

/-- Otherwise it goes to its head, one round fewer to come. -/
theorem nextStrand_loop_again (h : ¬ st.lc0.toNat ≤ 1) :
    let y := nextStrand st .loop fl m
    y.pc = st.lh0 ∧ y.lc0 = st.lc0 - 1 ∧ y.lh0 = st.lh0 ∧ y.lc1 = st.lc1 ∧ y.lh1 = st.lh1 := by
  have hsel : selectNext (flagged st fl) .loop = ({ flagged st fl with lc0 := st.lc0 - 1 }, .goes st.lh0.toNat true) := if_neg h
  rw [nextStrand, hsel]
  dsimp only [follow, goTo]
  exact ⟨wrap64_toNat st.lh0, rfl, rfl, rfl, rfl⟩

theorem nextStrand_ret_pc : (nextStrand st .ret fl m).pc = st.lr := wrap64_toNat st.lr

/-- A branch goes to its target or on. -/
theorem follow_branch_pc (undo : Undo) (x : Strand) {c : Prop} [Decidable c] (n : Int) :
    (follow undo (x, if c then .goes n true else .onward)).pc = if c then wrap64 n else x.seq := by
  split <;> rfl

theorem nextStrand_brz_pc (o : BitVec 32) :
    (nextStrand st (.brz o) fl m).pc = if st.em = 0 then wrap64 (targetOf st.pc o) else st.seq :=
  follow_branch_pc (c := st.em = 0) _ (flagged st fl) (targetOf st.pc o)

theorem nextStrand_bru_pc (o : BitVec 32) :
    (nextStrand st (.bru o) fl m).pc = if st.uc then wrap64 (targetOf st.pc o) else st.seq :=
  follow_branch_pc (c := st.uc = true) _ (flagged st fl) (targetOf st.pc o)

end

-- Completion, in a region too (R89, R90)

theorem regionEnd_congr {x y : Strand} (hem : x.em = y.em) (hfork : x.fork = y.fork) :
    (regionEnd x).2 = (regionEnd y).2 ∧ (regionEnd x).1.em = (regionEnd y).1.em
    ∧ (regionEnd x).1.fork = (regionEnd y).1.fork := by
  simp only [regionEnd, hem, hfork]
  split
  · split <;> exact ⟨rfl, rfl, rfl⟩
  · exact ⟨rfl, rfl, rfl⟩
  · exact ⟨rfl, rfl, rfl⟩

theorem leavesRegion_congr {x y : Strand} (hpc : x.pc = y.pc) (hfork : x.fork = y.fork) (n : Int) :
    leavesRegion x n = leavesRegion y n := by
  rw [leavesRegion, leavesRegion, inRegion_congr hpc hfork, hfork]

/-- The end of the running region does not lie outside it. -/
theorem leavesRegion_end {st : Strand} {n : Int} (hr : inRegion st = true) (hend : n = (regionBounds st.fork).2) :
    leavesRegion st n = false := by
  simp only [inRegion, Bool.and_eq_true, decide_eq_true_eq] at hr
  obtain ⟨-, hlow, hhigh⟩ := hr
  simp only [leavesRegion, outsideRegion, Bool.and_eq_false_iff, Bool.or_eq_false_iff, decide_eq_false_iff_not]
  right
  omega

section
variable {s : State} {k : Nat} {st : Strand} {nx : Nx} {fl : Flags} {m : Half} (hp : st.pair = .none)
include hp

/-- A completion that is no pair's does what its selector says. -/
theorem retire_unpaired : retire s k st nx fl m =
    match (selectNext (flagged st fl) nx).2 with
    | .ends => ((s.setStrand k (endStrand (selectNext (flagged st fl) nx).1)).emitStrand k (selectNext (flagged st fl) nx).1 0x12
        (pcBits (selectNext (flagged st fl) nx).1.pc)).send
          (if (selectNext (flagged st fl) nx).1.sill then .jobComplete (selectNext (flagged st fl) nx).1.job
            else .blockRetire (selectNext (flagged st fl) nx).1.blk)
    | .onward => s.setStrand k (goNext (selectNext (flagged st fl) nx).1 ((flagged st fl).saveNext m))
    | .goes n direct => if direct && leavesRegion (flagged st fl) n
        then enterTrap s k (endChain (flagged st fl)) cIllegalForkExit (wrap64 n) (flagged st fl).pc m
        else s.setStrand k (goFormed (selectNext (flagged st fl) nx).1 n ((flagged st fl).saveNext m)) := by
  unfold retire
  rw [hp]
  rfl

/-- A strand that ends keeps its jobs. -/
theorem retire_ends (hnx : nx = .endStrand) : ∃ y, (retire s k st nx fl m).strand k = some y ∧ y.ended = true ∧ y.fork = .empty
    ∧ y.pending = st.pending ∧ (retire s k st nx fl m).jobs = s.jobs := by
  subst hnx
  rw [retire_unpaired hp]
  obtain ⟨records, hemit⟩ := emitStrand_frame (s.setStrand k (endStrand (flagged st fl))) k (flagged st fl) 0x12
    (pcBits (flagged st fl).pc)
  dsimp only [selectNext]
  rw [hemit]
  refine ⟨_, (strand_setStrand ..).trans (if_pos rfl), rfl, rfl, ?_, rfl⟩
  obtain ⟨v, hv⟩ := endChain_eq (flagged st fl)
  rw [endStrand, hv]
  rfl

section
variable (hr : inRegion st = true)
include hr

omit hp in
theorem inRegion_flagged : inRegion (flagged st fl) = true := (inRegion_congr rfl rfl).trans hr

/-- The region's end is reached in sequence. -/
theorem retire_region_end_onward (hnx : nx = .next) (hend : (st.seq.toNat : Int) = (regionBounds st.fork).2) :
    let e := regionEnd st
    ∃ y, (retire s k st nx fl m).strand k = some y ∧ y.pc = wrap64 e.2 ∧ y.em = e.1.em ∧ y.fork = e.1.fork := by
  subst hnx
  have hgo : goNext (flagged st fl) ((flagged st fl).saveNext m) =
      goTo (regionEnd (flagged st fl)).1 (regionEnd (flagged st fl)).2 ((flagged st fl).saveNext m) :=
    if_pos (by rw [Bool.and_eq_true, decide_eq_true_eq]; exact ⟨inRegion_flagged hr, hend⟩)
  obtain ⟨hnext, hem, hfork⟩ := regionEnd_congr (x := flagged st fl) (y := st) rfl rfl
  rw [retire_unpaired hp]
  dsimp only [selectNext]
  rw [hgo, ← hnext, ← hem, ← hfork]
  exact ⟨_, (strand_setStrand ..).trans (if_pos rfl), rfl, rfl, rfl⟩

/-- The region's end is reached by a formed address, which lies within the bounds (log 25). -/
theorem retire_region_end_formed {n : Int} {d : Bool} (hgoes : (selectNext (flagged st fl) nx).2 = .goes n d)
    (hend : n = (regionBounds st.fork).2) :
    let e := regionEnd (selectNext (flagged st fl) nx).1
    ∃ y, (retire s k st nx fl m).strand k = some y ∧ y.pc = wrap64 e.2 ∧ y.em = e.1.em ∧ y.fork = e.1.fork := by
  have hstays : leavesRegion (flagged st fl) n = false := leavesRegion_end (inRegion_flagged hr) hend
  have hgo : goFormed (selectNext (flagged st fl) nx).1 n ((flagged st fl).saveNext m) =
      goTo (regionEnd (selectNext (flagged st fl) nx).1).1 (regionEnd (selectNext (flagged st fl) nx).1).2
        ((flagged st fl).saveNext m) := by
    rw [goFormed, if_pos]
    rw [Bool.and_eq_true, decide_eq_true_eq, inRegion_selectNext, (selectNext_keeps_region ..).2]
    exact ⟨inRegion_flagged hr, hend⟩
  rw [retire_unpaired hp, hgoes]
  simp only [hstays, Bool.and_false, Bool.false_eq_true, if_false, hgo]
  exact ⟨_, (strand_setStrand ..).trans (if_pos rfl), rfl, rfl, rfl⟩

end

/-- An address outside the bounds is no next address. -/
theorem retire_leaves_region {n : Int} (hgoes : (selectNext (flagged st fl) nx).2 = .goes n true)
    (hleaves : leavesRegion st n = true) :
    retire s k st nx fl m = enterTrap s k (endChain (flagged st fl)) cIllegalForkExit (wrap64 n) st.pc m := by
  have hout : leavesRegion (flagged st fl) n = true := (leavesRegion_congr rfl rfl n).trans hleaves
  rw [retire_unpaired hp, hgoes]
  simp only [hout, Bool.and_true, if_true]
  rfl

end

-- The uniform writes of a pair (R13)

/-- A strand with nothing pending of its instruction. -/
theorem completed_completed (st : Strand) : st.completed.completed = st.completed := by
  cases h : st.trapMode <;> simp [Strand.completed, Strand.unkept, h]

/-- Uniform writes reach nothing that completing clears, so it does not matter which comes first. -/
theorem completed_applyWrites (ws : List UWrite) (st : Strand) :
    (applyWrites st ws).completed = applyWrites st.completed ws := by
  induction ws generalizing st with
  | nil => rfl
  | cons w ws ih =>
    have hone : (applyWrite st w).completed = applyWrite st.completed w := by
      cases w <;> cases ht : st.trapMode <;> simp [applyWrite, Strand.completed, Strand.unkept, Strand.setS, Strand.setWin, ht]
    rw [applyWrites, List.foldl_cons, ← applyWrites, ih, hone]
    rfl

theorem applyWrites_pair (ws : List UWrite) (st : Strand) : (applyWrites st ws).pair = st.pair := by
  induction ws generalizing st with
  | nil => rfl
  | cons w ws ih =>
    have hone : (applyWrite st w).pair = st.pair := by cases w <;> simp only [applyWrite, Strand.setS, Strand.setWin]
    exact (ih (applyWrite st w)).trans hone

/-- The second member of a pair completes with the first one's writes made. -/
theorem retire_pair {s : State} {k : Nat} {st : Strand} {nx : Nx} {fl : Flags} {m : Half} {ws : List UWrite}
    (hp : st.pair = .apply ws) : retire s k st nx fl m = retire s k (applyWrites st.completed ws) nx fl m := by
  have hnone : (applyWrites st.completed ws).pair = .none := applyWrites_pair ws st.completed
  have hdone : (applyWrites st.completed ws).completed = applyWrites st.completed ws := by
    rw [completed_applyWrites, completed_completed]
  unfold retire
  rw [hp, hnone, hdone]
  rfl

/-- Settles O8: the selector gives the next address, and the deferred region decides whether it is gone to. -/
theorem nextAddress : Obligations.NextAddress := by
  intro s k st fl em0 nx t
  refine ⟨fun hp hr hnx => ?outside, retire_ends, retire_region_end_onward, fun n d hp hr hgoes hend =>
    retire_region_end_formed hp hr hgoes hend, fun n hp hgoes hleaves => retire_leaves_region hp hgoes hleaves,
    fun ws hp => retire_pair hp⟩
  case outside =>
    obtain ⟨-, -, -, -, -, hstrand⟩ := retire_outside_keeps (s := s) (k := k) (nx := nx) (fl := fl) (m := em0) hp hr
    obtain ⟨hkept, hfl, -, -⟩ := nextStrand_frame st nx fl em0
    refine ⟨_, hstrand, hfl, hkept.em, ?_⟩
    cases nx with
    | next | jump => rfl
    | call => exact ⟨rfl, rfl⟩
    | endStrand => exact absurd rfl hnx
    | loop =>
      dsimp only
      split
      next hlast => exact nextStrand_loop_last st fl em0 hlast
      next hmore => exact nextStrand_loop_again st fl em0 hmore
    | ret => exact nextStrand_ret_pc st fl em0
    | brz o => exact nextStrand_brz_pc st fl em0 o
    | bru o => exact nextStrand_bru_pc st fl em0 o

end Sys2Proof.Machine

/-!
PROOFS. Packed vector instructions of one and of three sources complete (O25).
-/
namespace Sys2Proof.Machine

section
variable {s : State} {k : Nat} {st : Strand} {f : Fields}

theorem vector1_done {op : Word → Word} (h : Acts s k st)
    (hr : vectorReady s (vectorStart st [f.a]) f [f.a] (noMarks [f.a]) = .ok ()) :
    vector1 f op s = .next (vectorDone s k (vectorStart st [f.a]) f [f.a] (threadOut f (fun x _ _ => op x) (vectorStart st [f.a]))) :=
  perThread_done h hr

theorem vector3_done {op : Word → Word → Word → Word} (h : Acts s k st)
    (hr : vectorReady s (vectorStart st [f.a, f.b, f.c]) f [f.a, f.b, f.c] (noMarks [f.a, f.b, f.c]) = .ok ()) :
    vector3 f op s = .next (vectorDone s k (vectorStart st [f.a, f.b, f.c]) f [f.a, f.b, f.c]
      (threadOut f (fun x y z => op x y z) (vectorStart st [f.a, f.b, f.c]))) :=
  perThread_done h hr

end

/-- Settles O25: each runs as a function of one source or of three. -/
theorem vectorOneAndThreeSource : Obligations.VectorOneAndThreeSource := by
  intro f s k st0 h
  dsimp only [exec]
  refine ⟨fun hr => ?oneSource, fun hr => ?threeSource⟩
  case oneSource =>
    have wide (op : Word → Word) := vector1_done (op := op) h hr
    exact ⟨wide _, wide _, wide _, wide _, wide _⟩
  case threeSource =>
    have wide (op : Word → Word → Word → Word) := vector3_done (op := op) h hr
    exact ⟨wide _, wide _, wide _⟩

end Sys2Proof.Machine

/-!
PROOFS. What a home and an L1 exchange about a copy (O47), by the tests of each event.
-/
namespace Sys2Proof.Machine

section
variable {s : State} {m : Mail} {r : MemReq} {home core line owner : Nat}

-- A forwarded request at the owner (R296)

section
variable {data : Line} {mark : Bool}

/-- The owner of a line of this device answers with its dirty words over the home's. -/
theorem execForwardedRequest_owned {x : L1Line} (hx : ((recv s m (coreDie owner)).core owner).l1.lines.find r.line = some x)
    (hhere : isPeer (r.line * 128) = false) :
    let t := recv s m (coreDie owner)
    let u := setCopy t owner r.line ⟨sharedState x.st, x.mark⟩
    execForwardedRequest m r owner (data, mark) s = .next (ackTx (answerLoad
      (if sharedState x.st = .s then ownerShares u r.home r.line owner r.line else u) r
      ((dirtyWords (t.core owner).l1 r.line).foldl (fun a p => setLineWord a (p.1 % 4) p.2) data) (mark || x.mark) 1) r.home r.line) := by
  simp [execForwardedRequest, hx, hhere]

/-- The owner of a peer's line sends its dirty words to the line's home, where the request waits (log 16). -/
theorem execForwardedRequest_owned_peer {x : L1Line} (hx : ((recv s m (coreDie owner)).core owner).l1.lines.find r.line = some x)
    (hpeer : isPeer (r.line * 128) = true) :
    let t := recv s m (coreDie owner)
    execForwardedRequest m r owner (data, mark) s = .next (toHome (setCopy t owner r.line ⟨sharedState x.st, x.mark⟩) r.line
      (writebackMsg (t.mail (coreDie owner)) r.home (homeCore t r.line owner) r.line (dirtyWords (t.core owner).l1 r.line)
        true false x.mark)) := by
  simp [execForwardedRequest, hx, hpeer]

section
variable (hx : ((recv s m (coreDie owner)).core owner).l1.lines.find r.line = none)
include hx

/-- A core that has given the line up, whose writeback is still on its way: the request waits for it. -/
theorem execForwardedRequest_awaits (hhere : isPeer (r.line * 128) = false)
    (hcomes : writebackComes (recv s m (coreDie owner)) r.home owner r.line = true) :
    execForwardedRequest m r owner (data, mark) s
      = .next ((recv s m (coreDie owner)).send (.forwardedRequest m r owner data mark)) := by
  simp [execForwardedRequest, hx, hhere, hcomes]

/-- A core that has given the line up owns it no more, and the home serves the load again. -/
theorem execForwardedRequest_gone (hhere : isPeer (r.line * 128) = false)
    (hcomes : writebackComes (recv s m (coreDie owner)) r.home owner r.line = false) :
    execForwardedRequest m r owner (data, mark) s
      = .next (ackTx ((updDir (recv s m (coreDie owner)) r.home r.line fun d => d.dropCore owner).updHome r.home
          fun h => { h with busy := h.busy.upd r.line fun x => { x with waiters := .homeLoadFill r :: x.waiters } }) r.home r.line) := by
  simp [execForwardedRequest, hx, hhere, hcomes]

/-- A core that has given a peer's line up says so to its home. -/
theorem execForwardedRequest_gone_peer (hpeer : isPeer (r.line * 128) = true) :
    let t := recv s m (coreDie owner)
    execForwardedRequest m r owner (data, mark) s = .next (toHome t r.line
      (writebackMsg (t.mail (coreDie owner)) r.home (homeCore t r.line owner) r.line [] true true false)) := by
  simp [execForwardedRequest, hx, hpeer]

end

end

-- The window's end (R301)

/-- The end of a window's time closes that window, and none opened since. -/
theorem execCombineWindowClose_open {n : Nat} {w : Window} (hw : (s.home home).windows.find line = some w) :
    execCombineWindowClose home line n s = .next (if w.number = n then closeWindow s home line else s) := by
  simp only [execCombineWindowClose, hw]
  split <;> rfl

-- An invalidation at the L1 (R295, R297)

/-- The name of every core at once invalidates every copy of a device. -/
theorem execL1Invalidation_all (hcore : core = 1023) :
    execL1Invalidation m home ⟨core, line⟩ s = .next (invalidateAll (recv s m (coreDie core)) home line) := by
  simp [execL1Invalidation, hcore]

section
variable (hcore : core ≠ 1023)
include hcore

/-- A core with no copy acknowledges. -/
theorem execL1Invalidation_absent (hx : ((recv s m (coreDie core)).core core).l1.lines.find line = none) :
    let t := recv s m (coreDie core)
    execL1Invalidation m home ⟨core, line⟩ s
      = .next (toHome t line (.invalidationAck (t.mail (coreDie core)) home (homeCore t line core) line)) := by
  simp [execL1Invalidation, hcore, hx]

variable {x : L1Line} (hx : ((recv s m (coreDie core)).core core).l1.lines.find line = some x)
include hx

/-- A clean copy is given up and acknowledged. -/
theorem execL1Invalidation_clean (hclean : dirtyWords ((recv s m (coreDie core)).core core).l1 line = []) (hmark : x.mark = false) :
    let t := recv s m (coreDie core)
    execL1Invalidation m home ⟨core, line⟩ s = .next (toHome (giveLine t core line) line
      (.invalidationAck ((giveLine t core line).mail (coreDie core)) home (homeCore t line core) line)) := by
  simp [execL1Invalidation, hcore, hx, hclean, hmark]

/-- A copy with dirty words, or with a mark, is given up with a writeback. -/
theorem execL1Invalidation_dirty
    (hdirty : dirtyWords ((recv s m (coreDie core)).core core).l1 line ≠ [] ∨ x.mark = true) :
    let t := recv s m (coreDie core)
    execL1Invalidation m home ⟨core, line⟩ s = .next (toHome (giveLine t core line) line (writebackMsg
      ((giveLine t core line).mail (coreDie core)) home (homeCore t line core) line (dirtyWords (t.core core).l1 line) true true
      x.mark)) := by
  have hkeeps : ((dirtyWords ((recv s m (coreDie core)).core core).l1 line).isEmpty && !x.mark) = false := by
    rcases hdirty with hd | hm
    · simp [hd]
    · simp [hm]
  simp [execL1Invalidation, hcore, hx, hkeeps]

end

-- What comes back at the home (R146, R297, R321)

/-- An acknowledgement of a core that the home knows takes the core off the line's record. -/
theorem execInvalidationAck_known (hknown : homeKnows (recv s m (homeDie home)) home core line = true) :
    let t := recv s m (homeDie home)
    let l := homeName t home core line
    execInvalidationAck m home ⟨core, line⟩ s = .next (ackTx (updDir t home l fun d => d.dropCore core) home l) := by
  simp [execInvalidationAck, hknown]

theorem execInvalidationAck_unknown (hknown : homeKnows (recv s m (homeDie home)) home core line = false) :
    execInvalidationAck m home ⟨core, line⟩ s = .next (recv s m (homeDie home)) := by
  simp [execInvalidationAck, hknown]

section
variable {mask : Nat} {data : Line} {ack gone mark : Bool}

/-- A writeback of a core that the home knows merges its words. -/
theorem execWritebackArrival_known (hknown : homeKnows (recv s m (homeDie home)) home core line = true) :
    let t := recv s m (homeDie home)
    let bs := (ones 4 mask).flatMap fun w => number (32 * w) (toBytes 32 (lineWord data w).toNat)
    let l := homeName t home core line
    let u := mergeWriteback t home core l line bs gone mark
    execWritebackArrival m home ⟨core, line⟩ mask data ack gone mark s
      = .next (if ack then ackTx u home l else if bs.isEmpty then u else ackWriteback u home core line) := by
  cases ack <;> simp [execWritebackArrival, hknown]

/-- A writeback of a core that the home does not know is acknowledged all the same. -/
theorem execWritebackArrival_unknown (hknown : homeKnows (recv s m (homeDie home)) home core line = false) :
    let t := recv s m (homeDie home)
    let bs := (ones 4 mask).flatMap fun w => number (32 * w) (toBytes 32 (lineWord data w).toNat)
    execWritebackArrival m home ⟨core, line⟩ mask data ack gone mark s
      = .next (if ack || bs.isEmpty then t else ackWriteback t home core line) := by
  simp [execWritebackArrival, hknown]

end

end

/-- Settles O47: each event answers by what the L1 holds of the line, or by whether the home knows the core; that an owner of a peer's
line sends its words to the home is the model's choice (log 16). -/
theorem copyEvents : Obligations.CopyEvents := by
  intro s m r home core line mask owner n k data ack gone mark
  dsimp only [exec]
  refine ⟨rfl, ⟨fun _ => execForwardedRequest_owned, fun _ => execForwardedRequest_owned_peer, execForwardedRequest_awaits,
    execForwardedRequest_gone, execForwardedRequest_gone_peer⟩, fun _ => execCombineWindowClose_open,
    ⟨execL1Invalidation_absent, fun hcore _ => execL1Invalidation_clean hcore, fun hcore _ => execL1Invalidation_dirty hcore,
      execL1Invalidation_all⟩, fun hknown => ⟨execWritebackArrival_known hknown, execInvalidationAck_known hknown⟩,
    fun hknown => ⟨execInvalidationAck_unknown hknown, execWritebackArrival_unknown hknown⟩⟩

end Sys2Proof.Machine

/-!
PROOFS. Requests at a home (O46): what every request at a home waits for, in the order of the tests, and then what each does once it is
served.
-/
namespace Sys2Proof.Machine

section
variable {s : State} {home line : Nat} {e : Event} {f : State → State}

-- What a request waits for (R287, R320 to R322)

/-- A request for a page that is being switched is held, but for those of a copy under way (log 37). -/
theorem atHome_switching (hswitch : switchHolds s line (reqBundle s e) = true) :
    atHome s home line e f = .next (holdInstall s e 0) := by
  simp [atHome, hswitch]

section
variable (hswitch : switchHolds s line (reqBundle s e) = false)
include hswitch

theorem atHome_busy (hbusy : busyLine s home line = true) : atHome s home line e f = .next (holdReq s home line e) := by
  simp [atHome, hswitch, hbusy]

section
variable (hbusy : busyLine s home line = false)
include hbusy

theorem atHome_held {l : Nat} (hheld : heldAt s home line = some l) : atHome s home line e f = .next (holdReq s home l e) := by
  simp [atHome, hswitch, hbusy, hheld]

section
variable (hheld : heldAt s home line = none)
include hheld

/-- A host line that another slice holds is taken from it first (log 16). -/
theorem atHome_elsewhere {h : Nat} (hother : otherHolder s home line = some h) :
    atHome s home line e f = .next (takeFrom s h line [e]) := by
  simp [atHome, hswitch, hbusy, hheld, hother]

section
variable (hother : otherHolder s home line = none)
include hother

theorem atHome_full (hroom : hasRoom (makeRoom s home line) home line = false) :
    atHome s home line e f = .next (releaseFor (makeRoom s home line) home line [e]) := by
  simp [atHome, hswitch, hbusy, hheld, hother, hroom]

section
variable (hroom : hasRoom (makeRoom s home line) home line = true)
include hroom

theorem atHome_snoops (hsnoop : needSnoop (makeRoom s home line) line = true) :
    atHome s home line e f = .next (snoopLine (makeRoom s home line) home line [e]) := by
  simp [atHome, hswitch, hbusy, hheld, hother, hroom, hsnoop]

theorem atHome_served (hsnoop : needSnoop (makeRoom s home line) line = false) :
    atHome s home line e f = .next (unhost (f (makeRoom s home line)) home line) := by
  simp [atHome, hswitch, hbusy, hheld, hother, hroom, hsnoop]

end
end
end
end
end
end

-- The requests of O46

section

/-- The instructions and the events of the requests of a home that are served alike up to their own work. -/
def homeRequests (r : MemReq) : List (Instr × Event) :=
  [(.homeLoadFill r, .homeLoadFill r), (.homeOwnershipRequest r, .homeOwnershipRequest r),
    (.homeFarAtomic r, .homeFarAtomic r), (.signalArrival r, .signalArrival r)]

variable {s : State} {r : MemReq}

theorem eventReq_homeRequests {q : Instr × Event} (hq : q ∈ homeRequests r) : eventReq q.2 = some r := by
  simp only [homeRequests, List.mem_cons, List.not_mem_nil, or_false] at hq
  rcases hq with rfl | rfl | rfl | rfl <;> rfl

theorem exec_homeRequests {q : Instr × Event} (hq : q ∈ homeRequests r) :
    ∃ f, exec q.1 s = atHome s r.home r.line q.2 f := by
  simp only [homeRequests, List.mem_cons, List.not_mem_nil, or_false] at hq
  rcases hq with rfl | rfl | rfl | rfl
  · exact ⟨_, by dsimp only [exec, execHomeLoadFill]⟩
  · exact ⟨_, by dsimp only [exec, execHomeOwnershipRequest]⟩
  · exact ⟨_, by dsimp only [exec, execHomeFarAtomic]⟩
  · exact ⟨_, by dsimp only [exec, execSignalArrival]⟩

/-- The bundle that a request names is its own, whatever it asks. -/
theorem reqBundle_eq {e e' : Event} (h : eventReq e = eventReq e') : reqBundle s e = reqBundle s e' := by
  simp only [reqBundle, h]

section
variable {q : Instr × Event} (hq : q ∈ homeRequests r)
include hq

theorem request_switching (hswitch : switchHolds s r.line (reqBundle s q.2) = true) : exec q.1 s = .next (holdInstall s q.2 0) := by
  obtain ⟨f, hf⟩ := exec_homeRequests (s := s) hq
  exact hf.trans (atHome_switching hswitch)

variable (hswitch : switchHolds s r.line (reqBundle s (.homeLoadFill r)) = false)
include hswitch

theorem switchHolds_homeRequests : switchHolds s r.line (reqBundle s q.2) = false :=
  (congrArg _ (reqBundle_eq (eventReq_homeRequests hq))).trans hswitch

theorem request_busy (hbusy : busyLine s r.home r.line = true) : exec q.1 s = .next (holdReq s r.home r.line q.2) := by
  obtain ⟨f, hf⟩ := exec_homeRequests (s := s) hq
  exact hf.trans (atHome_busy (switchHolds_homeRequests hq hswitch) hbusy)

variable (hbusy : busyLine s r.home r.line = false)
include hbusy

theorem request_held {l : Nat} (hheld : heldAt s r.home r.line = some l) : exec q.1 s = .next (holdReq s r.home l q.2) := by
  obtain ⟨f, hf⟩ := exec_homeRequests (s := s) hq
  exact hf.trans (atHome_held (switchHolds_homeRequests hq hswitch) hbusy hheld)

variable (hheld : heldAt s r.home r.line = none)
include hheld

theorem request_elsewhere {h : Nat} (hother : otherHolder s r.home r.line = some h) :
    exec q.1 s = .next (takeFrom s h r.line [q.2]) := by
  obtain ⟨f, hf⟩ := exec_homeRequests (s := s) hq
  exact hf.trans (atHome_elsewhere (switchHolds_homeRequests hq hswitch) hbusy hheld hother)

variable (hother : otherHolder s r.home r.line = none)
include hother

theorem request_full (hroom : hasRoom (makeRoom s r.home r.line) r.home r.line = false) :
    exec q.1 s = .next (releaseFor (makeRoom s r.home r.line) r.home r.line [q.2]) := by
  obtain ⟨f, hf⟩ := exec_homeRequests (s := s) hq
  exact hf.trans (atHome_full (switchHolds_homeRequests hq hswitch) hbusy hheld hother hroom)

theorem request_snoops (hroom : hasRoom (makeRoom s r.home r.line) r.home r.line = true)
    (hsnoop : needSnoop (makeRoom s r.home r.line) r.line = true) :
    exec q.1 s = .next (snoopLine (makeRoom s r.home r.line) r.home r.line [q.2]) := by
  obtain ⟨f, hf⟩ := exec_homeRequests (s := s) hq
  exact hf.trans (atHome_snoops (switchHolds_homeRequests hq hswitch) hbusy hheld hother hroom hsnoop)

end

/-- Nothing keeps a request of this line at this home from being served. -/
structure Served (s : State) (r : MemReq) : Prop where
  switch : switchHolds s r.line (reqBundle s (.homeLoadFill r)) = false
  busy : busyLine s r.home r.line = false
  held : heldAt s r.home r.line = none
  other : otherHolder s r.home r.line = none
  room : hasRoom (makeRoom s r.home r.line) r.home r.line = true
  snoop : needSnoop (makeRoom s r.home r.line) r.line = false

section
variable (hs : Served s r)
include hs

theorem atHome_of_served {e : Event} {f : State → State} (he : eventReq e = some r) :
    atHome s r.home r.line e f = .next (unhost (f (makeRoom s r.home r.line)) r.home r.line) :=
  atHome_served ((congrArg _ (reqBundle_eq he)).trans hs.switch) hs.busy hs.held hs.other hs.room hs.snoop

-- A load (R294, R296)

section
variable {s1 filled : State} {q : MemReq} (hs1 : makeRoom s r.home r.line = s1)
  (hfilled : (if reqTouches s1 r then l2Read s1 r.home r.line r.cold else l2Fill s1 r.home r.line r.cold) = filled)
  (hq : (if pendingHere s1 r.line || hostBiased s1 r.line then { r with fill := 0 } else r) = q)
include hs1 hfilled hq

omit hs hs1 hfilled in
/-- A load that is not to fill asks for the same. -/
theorem load_names : q.home = r.home ∧ q.line = r.line ∧ q.core = r.core ∧ q.bnd = r.bnd := by
  rw [← hq]
  split <;> exact ⟨rfl, rfl, rfl, rfl⟩

theorem load_unowned (howner : (dirOf filled r.home r.line).owner = none)
    (halone : (decide (q.fill ≠ 0) && q.so && ((dirOf filled r.home r.line).holders filled).isEmpty) = false) :
    execHomeLoadFill r s = .next (unhost (answerLoad (share filled q) q (overPending s1 r.bnd r.line (homeLine filled r.home r.line))
      (dirOf filled r.home r.line).mark 1) r.home r.line) := by
  have hshared : ¬ (q.fill ≠ 0 ∧ q.so = true ∧ ((dirOf filled r.home r.line).holders filled).isEmpty = true) := by
    simpa [Bool.and_assoc] using halone
  obtain ⟨hhome, hline, hcore, hbnd⟩ := load_names hq
  rw [execHomeLoadFill, atHome_of_served hs rfl, hs1]
  simp only [hfilled, hq, hhome, hline, hcore, hbnd, howner, if_neg hshared]

theorem load_alone (howner : (dirOf filled r.home r.line).owner = none)
    (halone : (decide (q.fill ≠ 0) && q.so && ((dirOf filled r.home r.line).holders filled).isEmpty) = true) :
    execHomeLoadFill r s = .next (unhost (answerLoad (updDir (share filled q) r.home r.line fun x =>
        { x with owner := some r.core, sharers := [] }) q (overPending s1 r.bnd r.line (homeLine filled r.home r.line))
      (dirOf filled r.home r.line).mark 2) r.home r.line) := by
  have hshared : q.fill ≠ 0 ∧ q.so = true ∧ ((dirOf filled r.home r.line).holders filled).isEmpty = true := by
    simpa [and_assoc] using halone
  obtain ⟨hhome, hline, hcore, hbnd⟩ := load_names hq
  rw [execHomeLoadFill, atHome_of_served hs rfl, hs1]
  simp only [hfilled, hq, hhome, hline, hcore, hbnd, howner, if_pos hshared]

theorem load_own (howner : (dirOf filled r.home r.line).owner = some r.core) :
    execHomeLoadFill r s = .next (unhost (answerLoad filled q (overPending s1 r.bnd r.line (homeLine filled r.home r.line))
      (dirOf filled r.home r.line).mark 1) r.home r.line) := by
  obtain ⟨hhome, hline, hcore, hbnd⟩ := load_names hq
  rw [execHomeLoadFill, atHome_of_served hs rfl, hs1]
  simp only [hfilled, hq, hhome, hline, hcore, hbnd, howner, if_true]

theorem load_forwarded {o : Nat} (howner : (dirOf filled r.home r.line).owner = some o) (ho : o ≠ r.core) :
    execHomeLoadFill r s = .next (unhost (forwardTo filled q o (overPending s1 r.bnd r.line (homeLine filled r.home r.line))
      (dirOf filled r.home r.line).mark) r.home r.line) := by
  obtain ⟨hhome, hline, hcore, hbnd⟩ := load_names hq
  rw [execHomeLoadFill, atHome_of_served hs rfl, hs1]
  simp only [hfilled, hq, hhome, hline, hcore, hbnd, howner, if_neg ho]

end

-- A request that closes the window (R295, R298, R299, R302)

section
variable {closed : State} (hclosed : closeWindow (makeRoom s r.home r.line) r.home r.line = closed)
include hclosed

theorem request_closing_busy (hbusy : busyLine closed r.home r.line = true) {q : Instr × Event} (hq : q ∈ (homeRequests r).drop 1) :
    exec q.1 s = .next (unhost (holdReq closed r.home r.line q.2) r.home r.line) := by
  subst hclosed
  simp only [homeRequests, List.drop_succ_cons, List.drop_zero, List.mem_cons, List.not_mem_nil, or_false] at hq
  rcases hq with rfl | rfl | rfl
  all_goals
    dsimp only [exec, execHomeOwnershipRequest, execHomeFarAtomic, execSignalArrival]
    rw [atHome_of_served hs rfl]
    simp only [hbusy, if_true]

variable (hbusy : busyLine closed r.home r.line = false)
include hbusy

theorem farAtomic_recalls : execHomeFarAtomic r s = .next (unhost (recallThen closed r.home r.line none (.far r) []) r.home r.line) := by
  rw [execHomeFarAtomic, atHome_of_served hs rfl]
  simp [hclosed, hbusy]

theorem signal_recalls : execSignalArrival r s = .next (unhost (recallThen closed r.home r.line none (.signal r) []) r.home r.line) := by
  rw [execSignalArrival, atHome_of_served hs rfl]
  simp [hclosed, hbusy]

variable {far : Bool} (hfar : ((opAtomic r.op && decide (2 ≤ (dirOf closed r.home r.line).bounce))
  || pendingHere closed r.line || hostBiased closed r.line) = far)
include hfar

theorem ownership_far (h : far = true) :
    execHomeOwnershipRequest r s = .next (unhost (recallThen closed r.home r.line none (.far r) []) r.home r.line) := by
  rw [execHomeOwnershipRequest, atHome_of_served hs rfl]
  simp only [hclosed, hbusy, hfar, h, if_true, Bool.false_eq_true, if_false]

theorem ownership_grants (h : far = false) {moves : Bool}
    (hmoves : moves = (dirOf closed r.home r.line).owner.any (· != r.core)) :
    execHomeOwnershipRequest r s = .next (unhost (recallThen
      (if moves then updDir closed r.home r.line fun x => { x with bounce := min 3 (x.bounce + 1) } else closed)
      r.home r.line (some r.core) (.grant r) []) r.home r.line) := by
  rw [execHomeOwnershipRequest, atHome_of_served hs rfl]
  cases howner : (dirOf closed r.home r.line).owner with
  | none => simp only [hclosed, hbusy, hfar, h, hmoves, howner, Option.any_none, Bool.false_eq_true, if_false]
  | some o => simp only [hclosed, hbusy, hfar, h, hmoves, howner, Option.any_some, Bool.false_eq_true, if_false]

end

-- A plain store (R300 to R302)

section
variable {bs : List (Nat × Byte)} {mark : Bool} (hop : r.op = .store bs mark)
include hop

theorem store_recalls {o : Nat} (howner : (dirOf (makeRoom s r.home r.line) r.home r.line).owner = some o) :
    execHomeStoreArrival r s = .next (unhost (beginTx (makeRoom s r.home r.line) r.home r.line [o] .recalled [.homeStoreArrival r])
      r.home r.line) := by
  simp only [execHomeStoreArrival, hop]
  rw [atHome_of_served hs rfl]
  simp only [howner]

variable (howner : (dirOf (makeRoom s r.home r.line) r.home r.line).owner = none) {plain : Bool}
  (hplain : (!r.closing && isDevice (r.line * 128) && !hostBiased (makeRoom s r.home r.line) r.line) = plain)
include howner hplain

omit hs hop howner in
/-- A store is performed alone where it does not combine. -/
theorem store_alone_iff : (r.closing || !isDevice (r.line * 128) || hostBiased (makeRoom s r.home r.line) r.line) = !plain := by
  rw [← hplain]
  simp [Bool.not_and]

theorem store_joins (h : plain = true) :
    execHomeStoreArrival r s = .next (unhost (joinWindow (makeRoom s r.home r.line) r bs mark) r.home r.line) := by
  simp only [execHomeStoreArrival, hop]
  rw [atHome_of_served hs rfl]
  simp only [howner, store_alone_iff hplain, h, Bool.not_true, Bool.false_eq_true, if_false]

theorem store_alone (h : plain = false) :
    let closed := closeWindow (makeRoom s r.home r.line) r.home r.line
    execHomeStoreArrival r s = .next (unhost (if busyLine closed r.home r.line then
      holdReq closed r.home r.line (.homeStoreArrival r) else storeAlone closed r bs mark) r.home r.line) := by
  simp only [execHomeStoreArrival, hop]
  rw [atHome_of_served hs rfl]
  simp only [howner, store_alone_iff hplain, h, Bool.not_false, if_true]

end

end

end

/-- Settles O46: the tests that keep a request from being served, those of a switch among them (log 37) and of a host line that another
slice holds (log 16), come first; then each request does its own work. -/
theorem homeEvents : Obligations.HomeEvents := by
  intro s r reqs s1
  refine ⟨fun q hq => request_switching hq, fun hswitch => ⟨fun q hq => request_busy hq hswitch, fun hbusy =>
    ⟨fun q hq l => request_held hq hswitch hbusy, fun q hq h hheld hother => request_elsewhere hq hswitch hbusy hheld hother⟩,
    fun hbusy hheld hother => ⟨fun q hq => request_full hq hswitch hbusy hheld hother,
      fun q hq => request_snoops hq hswitch hbusy hheld hother, fun hroom hsnoop => ?served⟩⟩⟩
  have hs : Served s r := ⟨hswitch, hbusy, hheld, hother, hroom, hsnoop⟩
  refine ⟨⟨load_unowned hs rfl rfl rfl, load_alone hs rfl rfl rfl, load_own hs rfl rfl rfl, fun o => load_forwarded hs rfl rfl rfl⟩,
    ⟨fun hb q => request_closing_busy hs rfl hb, fun hb => ⟨farAtomic_recalls hs rfl hb, signal_recalls hs rfl hb,
      ownership_far hs rfl hb rfl, fun hfar => ?grants⟩⟩,
    fun bs mark hop => ⟨fun o => store_recalls hs hop, fun howner => store_joins hs hop howner rfl,
      fun howner => store_alone hs hop howner rfl⟩⟩
  case grants =>
    refine ownership_grants hs rfl hb rfl hfar ?_
    cases (dirOf (closeWindow s1 r.home r.line) r.home r.line).owner <;> rfl

end Sys2Proof.Machine

/-!
PROOFS. The bits of a number after a field is put into it.
-/
namespace Sys2Proof.Machine

/-- A number with a field put into it, by the parts below, in and above the field. -/
theorem putBits_eq (x lo n v : Nat) : putBits x lo n v = 2 ^ lo * (2 ^ n * (x / 2 ^ lo / 2 ^ n) + v % 2 ^ n) + x % 2 ^ lo := by
  have hx := Nat.div_add_mod x (2 ^ lo)
  have hq := Nat.div_add_mod (x / 2 ^ lo) (2 ^ n)
  have hcut : x = 2 ^ lo * (2 ^ n * (x / 2 ^ lo / 2 ^ n)) + x % 2 ^ lo + bits x lo n * 2 ^ lo := by
    rw [bits]
    calc x = 2 ^ lo * (x / 2 ^ lo) + x % 2 ^ lo := hx.symm
      _ = 2 ^ lo * (2 ^ n * (x / 2 ^ lo / 2 ^ n) + x / 2 ^ lo % 2 ^ n) + x % 2 ^ lo := by rw [hq]
      _ = _ := by ring
  rw [putBits, Nat.mul_add]
  have hsub : x - bits x lo n * 2 ^ lo = 2 ^ lo * (2 ^ n * (x / 2 ^ lo / 2 ^ n)) + x % 2 ^ lo := by omega
  rw [hsub]
  ring

/-- A field's bits are its value's, and the others stand. -/
theorem testBit_putBits (x lo n v i : Nat) :
    (putBits x lo n v).testBit i = if lo ≤ i ∧ i < lo + n then v.testBit (i - lo) else x.testBit i := by
  have hlow : x % 2 ^ lo < 2 ^ lo := Nat.mod_lt _ (Nat.two_pow_pos lo)
  have hv : v % 2 ^ n < 2 ^ n := Nat.mod_lt _ (Nat.two_pow_pos n)
  rw [putBits_eq, Nat.testBit_two_pow_mul_add _ hlow, Nat.testBit_two_pow_mul_add _ hv]
  rcases Nat.lt_or_ge i lo with hi | hi
  · rw [if_pos hi, if_neg (by omega), Nat.testBit_mod_two_pow]
    simp [hi]
  · rw [if_neg (by omega)]
    rcases Nat.lt_or_ge i (lo + n) with hn | hn
    · rw [if_pos (by omega), if_pos ⟨hi, hn⟩, Nat.testBit_mod_two_pow]
      simp only [Bool.and_eq_right_iff_imp, decide_eq_true_eq]
      omega
    · rw [if_neg (by omega), if_neg (by omega), Nat.testBit_div_two_pow, Nat.testBit_div_two_pow]
      congr 1
      omega

/-- A write to s[n] leaves the mark of every other register. -/
theorem smark_setS_other (st : Strand) {n m : Nat} (x : Word) (b : Bool) (hm : m < 64) (h : m ≠ n) :
    (st.setS n x b).smark m = st.smark m := by
  have hout : ¬ (n ≤ m ∧ m < n + 1) := by omega
  simp only [Strand.smark, Strand.setS, BitVec.getLsbD_ofNat, testBit_putBits, if_neg hout, hm, decide_true, Bool.true_and]
  rfl

end Sys2Proof.Machine

/-!
PROOFS. The bytes that a store reaches (O16): an access is cut at pages, each part at lines, and each line's bytes are numbered.
-/
namespace Sys2Proof.Machine

-- The pages of an access (R136)

/-- A piece of an access lies in it, at its own place, and within one page. -/
theorem pageSplit_within {off n : Nat} {q : Nat × Nat × Nat} (hpos : 0 < n) (hn : n ≤ 65536) (hq : q ∈ pageSplit off n) :
    q.2.1 = off + q.1 ∧ 0 < q.2.2 ∧ q.1 + q.2.2 ≤ n ∧ (q.2.1 + q.2.2 - 1) / 65536 = q.2.1 / 65536 := by
  simp only [pageSplit] at hq
  split at hq
  next hone =>
    obtain rfl := List.mem_singleton.mp hq
    refine ⟨rfl, hpos, ?_, ?_⟩ <;> dsimp only <;> omega
  next htwo =>
    simp only [List.mem_cons, List.not_mem_nil, or_false] at hq
    rcases hq with rfl | rfl
    · refine ⟨rfl, ?_, ?_, ?_⟩ <;> dsimp only <;> omega
    · refine ⟨rfl, ?_, ?_, ?_⟩ <;> dsimp only <;> omega

/-- Every byte of an access lies in a piece. -/
theorem pageSplit_covers {off n j : Nat} (hj : j < n) : ∃ q ∈ pageSplit off n, q.1 ≤ j ∧ j < q.1 + q.2.2 := by
  simp only [pageSplit]
  split
  · exact ⟨_, List.mem_singleton_self _, Nat.zero_le _, by dsimp only; omega⟩
  · rcases Nat.lt_or_ge j (65536 - off % 65536) with hlow | hhigh
    · exact ⟨_, List.mem_cons_self, Nat.zero_le _, by dsimp only; omega⟩
    · exact ⟨_, List.mem_cons_of_mem _ List.mem_cons_self, hhigh, by dsimp only; omega⟩

-- The lines of a part

theorem mem_linesOf {a n l : Nat} (hn : 0 < n) : l ∈ linesOf a n ↔ a / 128 ≤ l ∧ l ≤ (a + n - 1) / 128 := by
  rw [linesOf, if_neg (by omega), mem_rangeFrom]
  omega

/-- What is numbered from `k` on stands at its number. -/
theorem mem_number {α : Type} {k i : Nat} {x : α} {l : List α} : (i, x) ∈ number k l ↔ ∃ j, l[j]? = some x ∧ i = k + j := by
  induction l generalizing k with
  | nil => simp [number]
  | cons a as ih =>
    rw [number, List.mem_cons, ih]
    constructor
    · rintro (heq | ⟨j, hj, rfl⟩)
      · cases heq
        exact ⟨0, rfl, rfl⟩
      · exact ⟨j + 1, hj, by omega⟩
    · rintro ⟨j, hj, rfl⟩
      cases j with
      | zero => exact .inl (by cases hj; rfl)
      | succ j => exact .inr ⟨j, hj, by omega⟩

/-- The numbered bytes of a number. -/
theorem mem_number_bytesFrom {k i x pos n : Nat} {b : Byte} :
    (i, b) ∈ number k (bytesFrom x pos n) ↔ ∃ j < n, b = byteOf x (pos + j) ∧ i = k + j := by
  simp only [mem_number, List.getElem?_eq_some_iff, getElem_bytesFrom, length_bytesFrom]
  constructor
  · rintro ⟨j, ⟨hj, hb⟩, hi⟩
    exact ⟨j, hj, hb.symm, hi⟩
  · rintro ⟨j, hj, hb, hi⟩
    exact ⟨j, ⟨hj, hb.symm⟩, hi⟩

section
variable {x : Word} {p : Part}

/-- The bytes of a store to a line are those of its part that lie there. -/
theorem mem_storeBytes {q : Nat × List (Nat × Byte)} : q ∈ storeBytes x p ↔ ∃ l ∈ linesOf p.ga p.n,
    q = (l, number (max p.ga (128 * l) - 128 * l) (bytesFrom x.toNat (p.pos + (max p.ga (128 * l) - p.ga))
      (min (p.ga + p.n) (128 * l + 128) - max p.ga (128 * l)))) := by
  simp only [storeBytes, partSplit, List.map_map, List.mem_map, Function.comp_apply, eq_comm]

theorem storeBytes_within {q : Nat × List (Nat × Byte)} {b : Nat × Byte} (hq : q ∈ storeBytes x p) (hb : b ∈ q.2) :
    b.1 < 128 ∧ p.ga ≤ 128 * q.1 + b.1 ∧ 128 * q.1 + b.1 < p.ga + p.n
      ∧ b.2 = byteOf x.toNat (p.pos + (128 * q.1 + b.1 - p.ga)) := by
  obtain ⟨l, -, rfl⟩ := mem_storeBytes.mp hq
  obtain ⟨i, byte⟩ := b
  obtain ⟨j, hj, hbyte, hi⟩ := mem_number_bytesFrom.mp hb
  dsimp only at *
  refine ⟨by omega, by omega, by omega, ?_⟩
  rw [hbyte]
  congr 1
  omega

theorem storeBytes_covers {j : Nat} (hj : j < p.n) :
    ∃ q ∈ storeBytes x p, q.1 = (p.ga + j) / 128 ∧ ((p.ga + j) % 128, byteOf x.toNat (p.pos + j)) ∈ q.2 := by
  refine ⟨_, mem_storeBytes.mpr ⟨(p.ga + j) / 128, (mem_linesOf (by omega)).mpr ?line, rfl⟩, rfl, mem_number_bytesFrom.mpr
    ⟨p.ga + j - max p.ga (128 * ((p.ga + j) / 128)), ?inside, ?byte, ?place⟩⟩
  case line => omega
  case inside => omega
  case byte =>
    congr 1
    omega
  case place => omega

end

/-- Settles O16: a piece of an access by its page, and a part's bytes by their lines. -/
theorem storedBytes : Obligations.StoredBytes :=
  ⟨fun _ _ hpos hn => ⟨fun _ => pageSplit_within hpos hn, fun _ => pageSplit_covers⟩,
    fun _ _ => ⟨fun _ hq _ => storeBytes_within hq, fun _ => storeBytes_covers⟩⟩

end Sys2Proof.Machine

/-!
PROOFS. The frames of the uniform instructions and of an instruction that completes (O13, O19): what each write leaves, and what
completing keeps besides the registers that O14 names.
-/
namespace Sys2Proof.Machine

-- Completion keeps the generators and the bundle

/-- The strands agree in the state of the generators and in the bundle. -/
structure KeepsGenerators (x y : Strand) : Prop where
  rnd : y.rnd = x.rnd
  seed : y.seed = x.seed
  gens : y.gens = x.gens
  bnd : y.bnd = x.bnd

theorem KeepsGenerators.trans {x y z : Strand} (h : KeepsGenerators x y) (g : KeepsGenerators y z) : KeepsGenerators x z :=
  ⟨g.rnd.trans h.rnd, g.seed.trans h.seed, g.gens.trans h.gens, g.bnd.trans h.bnd⟩

theorem flagged_keepsGenerators (st : Strand) (fl : Flags) : KeepsGenerators st (flagged st fl) := by
  rw [flagged, Strand.completed, Strand.unkept]
  constructor <;> rfl

theorem selectNext_keepsGenerators (x : Strand) (nx : Nx) : KeepsGenerators x (selectNext x nx).1 := by
  cases nx with
  | loop =>
    simp only [selectNext]
    split <;> constructor <;> rfl
  | _ => constructor <;> rfl

theorem follow_keepsGenerators (undo : Undo) (p : Strand × Goto) : KeepsGenerators p.1 (follow undo p) := by
  obtain ⟨x, g⟩ := p
  cases g with
  | ends =>
    obtain ⟨v, h⟩ := endChain_eq x
    dsimp only [follow, endStrand]
    rw [h]
    constructor <;> rfl
  | _ => constructor <;> rfl

theorem nextStrand_keepsGenerators (st : Strand) (nx : Nx) (fl : Flags) (m : Half) :
    KeepsGenerators st (nextStrand st nx fl m) :=
  ((flagged_keepsGenerators st fl).trans (selectNext_keepsGenerators ..)).trans (follow_keepsGenerators ..)

-- What a write leaves (R37, R83, R86, R95)

/-- What stands in y as in x unless the write names it. -/
structure KeepsUnwritten (w : UWrite) (x y : Strand) : Prop where
  reg : ∀ n, n < 64 → (∀ v mark, w ≠ .reg n v mark) → y.sreg n = x.sreg n ∧ y.smark n = x.smark n
  em : (∀ m, w ≠ .em m) → y.em = x.em
  uc : (∀ c, w ≠ .uc c) → y.uc = x.uc
  lr : (∀ a, w ≠ .lr a) → y.lr = x.lr
  fl : (∀ f, w ≠ .flags f) → y.fl = x.fl
  rnd : (∀ v, w ≠ .rnd v) → y.rnd = x.rnd
  seed : (∀ v, w ≠ .seed v) → y.seed = x.seed ∧ y.gens = x.gens
  win : (∀ n v, w ≠ .win n v) → y.win = x.win
  tpc : (∀ v, w ≠ .tpc v) → y.tpc = x.tpc
  tcause : (∀ v, w ≠ .tcause v) → y.tcause = x.tcause
  taddr : (∀ v, w ≠ .taddr v) → y.taddr = x.taddr
  tem : (∀ v, w ≠ .tem v) → y.tem = x.tem
  tfk : (∀ v, w ≠ .tfk v) → y.tfk = x.tfk
  lc0 : (∀ c h, w ≠ .push c h) → (∀ v, w ≠ .lc0 v) → y.lc0 = x.lc0
  lc1 : (∀ c h, w ≠ .push c h) → (∀ v, w ≠ .lc1 v) → y.lc1 = x.lc1
  lh0 : (∀ c h, w ≠ .push c h) → (∀ v, w ≠ .lh0 v) → y.lh0 = x.lh0
  lh1 : (∀ c h, w ≠ .push c h) → (∀ v, w ≠ .lh1 v) → y.lh1 = x.lh1

theorem applyWrite_keepsUnwritten (st : Strand) (w : UWrite) : KeepsUnwritten w st (applyWrite st w) := by
  cases w with
  | reg n x mark =>
    constructor
    case reg =>
      intro m hm hother
      have hne : m ≠ n := fun h => hother x mark (h ▸ rfl)
      exact ⟨(sreg_setS st n m x mark hm).trans (if_neg hne), smark_setS_other st x mark hm hne⟩
    all_goals simp [applyWrite, Strand.setS]
  | _ => constructor <;> simp [applyWrite, Strand.setWin, Strand.sreg, Strand.smark]

/-- What no uniform write reaches. -/
structure KeepsRest (x y : Strand) : Prop where
  v : y.v = x.v
  lat : y.lat = x.lat
  pm : y.pm = x.pm
  h : y.h = x.h
  trapMode : y.trapMode = x.trapMode
  viewOn : y.viewOn = x.viewOn
  pc : y.pc = x.pc
  fork : y.fork = x.fork
  pair : y.pair = x.pair

theorem KeepsRest.trans {x y z : Strand} (h : KeepsRest x y) (g : KeepsRest y z) : KeepsRest x z :=
  ⟨g.v.trans h.v, g.lat.trans h.lat, g.pm.trans h.pm, g.h.trans h.h, g.trapMode.trans h.trapMode, g.viewOn.trans h.viewOn,
    g.pc.trans h.pc, g.fork.trans h.fork, g.pair.trans h.pair⟩

theorem applyWrite_keepsRest (st : Strand) (w : UWrite) : KeepsRest st (applyWrite st w) := by
  cases w <;> constructor <;> simp only [applyWrite, Strand.setS, Strand.setWin]

theorem applyWrites_keepsRest (ws : List UWrite) (st : Strand) : KeepsRest st (applyWrites st ws) := by
  induction ws generalizing st with
  | nil => constructor <;> rfl
  | cons w ws ih => exact (applyWrite_keepsRest st w).trans (ih _)

/-- The strand with its chain at an end, and the vector registers that this leaves. -/
def unchained (st : Strand) (v : Vector (Option VReg) 64) : Strand :=
  { st with v := v, chainPos := 0, chainFrees := [], chainFlow := false }

theorem applyWrite_unchained (st : Strand) (v : Vector (Option VReg) 64) (w : UWrite) :
    applyWrite (unchained st v) w = unchained (applyWrite st w) v := by
  cases w <;> simp only [applyWrite, unchained, Strand.setS, Strand.setWin]

/-- Writes and the end of a chain do not meet. -/
theorem applyWrites_unchained (v : Vector (Option VReg) 64) (ws : List UWrite) (st : Strand) :
    applyWrites (unchained st v) ws = unchained (applyWrites st ws) v := by
  induction ws generalizing st with
  | nil => rfl
  | cons w ws ih => exact (congrArg (applyWrites · ws) (applyWrite_unchained st v w)).trans (ih _)

-- The writes of an instruction

/-- What every write of a list leaves, the list leaves. -/
theorem applyWrites_keeps {β : Type} (g : Strand → β) (P : UWrite → Prop)
    (hone : ∀ st w, P w → g (applyWrite st w) = g st) {ws : List UWrite} (st : Strand) (h : ∀ w ∈ ws, P w) :
    g (applyWrites st ws) = g st := by
  induction ws generalizing st with
  | nil => rfl
  | cons w ws ih =>
    exact (ih (applyWrite st w) fun u hu => h u (List.mem_cons_of_mem _ hu)).trans (hone st w (h w List.mem_cons_self))

theorem ne_of_not_mem_writes {ws : List UWrite} {α : Type} {mk : α → UWrite} (h : ∀ a, mk a ∉ ws) : ∀ w ∈ ws, ∀ a, w ≠ mk a :=
  fun _ hw a e => h a (e ▸ hw)

theorem ne_of_not_mem_writes₂ {ws : List UWrite} {α β : Type} {mk : α → β → UWrite} (h : ∀ a b, mk a b ∉ ws) :
    ∀ w ∈ ws, ∀ a b, w ≠ mk a b :=
  fun _ hw a b e => h a b (e ▸ hw)

section
variable {ws : List UWrite} (st : Strand)

theorem applyWrites_sreg {n : Nat} (hn : n < 64) (h : ∀ x mark, UWrite.reg n x mark ∉ ws) :
    (applyWrites st ws).sreg n = st.sreg n ∧ (applyWrites st ws).smark n = st.smark n :=
  have hne := ne_of_not_mem_writes₂ h
  ⟨applyWrites_keeps (·.sreg n) _ (fun st w hw => ((applyWrite_keepsUnwritten st w).reg n hn hw).1) st hne,
    applyWrites_keeps (·.smark n) _ (fun st w hw => ((applyWrite_keepsUnwritten st w).reg n hn hw).2) st hne⟩

theorem applyWrites_seed (h : ∀ x, UWrite.seed x ∉ ws) :
    (applyWrites st ws).seed = st.seed ∧ (applyWrites st ws).gens = st.gens :=
  have hne := ne_of_not_mem_writes h
  ⟨applyWrites_keeps (·.seed) _ (fun st w hw => ((applyWrite_keepsUnwritten st w).seed hw).1) st hne,
    applyWrites_keeps (·.gens) _ (fun st w hw => ((applyWrite_keepsUnwritten st w).seed hw).2) st hne⟩

/-- The loop levels stand where nothing is pushed and none is written. -/
theorem applyWrites_loops (hpush : ∀ c h, UWrite.push c h ∉ ws) :
    ((∀ x, UWrite.lc0 x ∉ ws) → (applyWrites st ws).lc0 = st.lc0) ∧ ((∀ x, UWrite.lc1 x ∉ ws) → (applyWrites st ws).lc1 = st.lc1)
    ∧ ((∀ x, UWrite.lh0 x ∉ ws) → (applyWrites st ws).lh0 = st.lh0) ∧ ((∀ x, UWrite.lh1 x ∉ ws) → (applyWrites st ws).lh1 = st.lh1) := by
  have hne := ne_of_not_mem_writes₂ hpush
  have both {α : Type} {mk : α → UWrite} (h : ∀ a, mk a ∉ ws) : ∀ w ∈ ws, (∀ c a, w ≠ .push c a) ∧ ∀ a, w ≠ mk a :=
    fun w hw => ⟨hne w hw, ne_of_not_mem_writes h w hw⟩
  exact ⟨fun h => applyWrites_keeps (·.lc0) _ (fun st w hw => (applyWrite_keepsUnwritten st w).lc0 hw.1 hw.2) st (both h),
    fun h => applyWrites_keeps (·.lc1) _ (fun st w hw => (applyWrite_keepsUnwritten st w).lc1 hw.1 hw.2) st (both h),
    fun h => applyWrites_keeps (·.lh0) _ (fun st w hw => (applyWrite_keepsUnwritten st w).lh0 hw.1 hw.2) st (both h),
    fun h => applyWrites_keeps (·.lh1) _ (fun st w hw => (applyWrite_keepsUnwritten st w).lh1 hw.1 hw.2) st (both h)⟩

end

-- Their end (R85)

section
variable {s : State} {k : Nat} {st : Strand} {nx : Nx} {ws : List UWrite}

theorem uniformDone_unpaired (hp : st.pair = .none) :
    uniformDone s k st nx ws = retire s k (unchained (applyWrites st ws) (endChain st).v) nx 0 st.em := by
  obtain ⟨v, hv⟩ := endChain_eq st
  have hw : applyWrites (endChain st) ws = unchained (applyWrites st ws) (endChain st).v := by
    rw [← applyWrites_unchained, hv]
    rfl
  simp only [uniformDone, hp, hw]

/-- The vector registers of a strand that ends have no chain left to free. -/
theorem endChain_unchained (st : Strand) (v : Vector (Option VReg) 64) : (endChain (unchained st v)).v = v := rfl

end

/-- Settles O13: a register stands unless a write names it, and completing follows the selector from what the writes leave. -/
theorem uniformFrame : Obligations.UniformFrame := by
  intro s k st nx ws w
  refine ⟨?written, fun n hn => applyWrites_sreg st hn, ?em, ?uc, ?lr, ?fl, ?rnd, applyWrites_seed st, ?win, ?tpc, ?tcause, ?taddr,
    ?tem, ?tfk, applyWrites_loops st, ?done⟩
  case written =>
    rintro n x mark hn rfl
    exact ⟨(sreg_setS st n n x mark hn).trans (if_pos rfl), smark_setS_same st x mark hn⟩
  case em => exact fun h => applyWrites_keeps (·.em) _ (fun st w => (applyWrite_keepsUnwritten st w).em) st (ne_of_not_mem_writes h)
  case uc => exact fun h => applyWrites_keeps (·.uc) _ (fun st w => (applyWrite_keepsUnwritten st w).uc) st (ne_of_not_mem_writes h)
  case lr => exact fun h => applyWrites_keeps (·.lr) _ (fun st w => (applyWrite_keepsUnwritten st w).lr) st (ne_of_not_mem_writes h)
  case fl => exact fun h => applyWrites_keeps (·.fl) _ (fun st w => (applyWrite_keepsUnwritten st w).fl) st (ne_of_not_mem_writes h)
  case rnd => exact fun h => applyWrites_keeps (·.rnd) _ (fun st w => (applyWrite_keepsUnwritten st w).rnd) st (ne_of_not_mem_writes h)
  case win => exact fun h => applyWrites_keeps (·.win) _ (fun st w => (applyWrite_keepsUnwritten st w).win) st (ne_of_not_mem_writes₂ h)
  case tpc => exact fun h => applyWrites_keeps (·.tpc) _ (fun st w => (applyWrite_keepsUnwritten st w).tpc) st (ne_of_not_mem_writes h)
  case tcause =>
    exact fun h => applyWrites_keeps (·.tcause) _ (fun st w => (applyWrite_keepsUnwritten st w).tcause) st (ne_of_not_mem_writes h)
  case taddr =>
    exact fun h => applyWrites_keeps (·.taddr) _ (fun st w => (applyWrite_keepsUnwritten st w).taddr) st (ne_of_not_mem_writes h)
  case tem => exact fun h => applyWrites_keeps (·.tem) _ (fun st w => (applyWrite_keepsUnwritten st w).tem) st (ne_of_not_mem_writes h)
  case tfk => exact fun h => applyWrites_keeps (·.tfk) _ (fun st w => (applyWrite_keepsUnwritten st w).tfk) st (ne_of_not_mem_writes h)
  case done =>
    intro _ hp t
    have hrest := applyWrites_keepsRest ws st
    have hdone : t = _ := uniformDone_unpaired hp
    have hmem : t.mem = s.mem := hdone ▸ (apart_retire ..).1
    refine ⟨fun a => by rw [State.byteAt, State.byteAt, hmem], fun hr => ?_⟩
    obtain ⟨hothers, hblocks, hjobs, hops, hcores, hstrand⟩ := retire_outside_keeps (s := s) (k := k)
      (st := unchained w (endChain st).v) (nx := nx) (fl := 0) (m := st.em) (hrest.pair.trans hp)
      ((inRegion_congr hrest.pc hrest.fork).trans hr)
    obtain ⟨hk, hfl, hlr, hloops⟩ := nextStrand_frame (unchained w (endChain st).v) nx 0 st.em
    have hgen := nextStrand_keepsGenerators (unchained w (endChain st).v) nx 0 st.em
    have hv := nextStrand_v (unchained w (endChain st).v) nx 0 st.em
    rw [endChain_unchained] at hv
    rw [hdone]
    refine ⟨hothers, hblocks, hjobs, hops, hcores, _, hstrand, ?_⟩
    generalize nextStrand (unchained w (endChain st).v) nx 0 st.em = y at hk hfl hlr hloops hgen hv
    exact ⟨hk.s, hk.sm, hk.em, hk.uc, hfl.trans BitVec.or_zero, hgen.rnd, hgen.seed, hgen.gens, hk.win, hk.tpc, hk.tcause, hk.taddr,
      hk.tem, hk.tfk, hv.trans (ite_self _), hk.lat.trans hrest.lat, hk.pm.trans hrest.pm, hk.h.trans hrest.h,
      hk.trapMode.trans hrest.trapMode, hk.viewOn.trans hrest.viewOn, hlr,
      fun h => ⟨(hloops h).lc0, (hloops h).lc1, (hloops h).lh0, (hloops h).lh1⟩⟩

-- The end of a memory instruction (R85, R165)

/-- The last reads of a vector access change the vector registers and the chain alone. -/
theorem memLast_eq (member : Bool) (x : Strand) :
    ∃ v pos frees flow, memLast member x = { x with v := v, chainPos := pos, chainFrees := frees, chainFlow := flow } := by
  cases member with
  | true => exact ⟨x.v, 5, x.chainFrees, x.chainFlow, rfl⟩
  | false =>
    obtain ⟨v, h⟩ := endChain_eq x
    exact ⟨v, 0, [], false, h⟩

/-- A strand with nothing left of what its memory instruction asked. -/
def memFinished (st : Strand) : Strand := { st with peerOk := [], peerNo := [], viewed := [], ask := 0, answer := none }

theorem memRetire_of {s : State} {k : Nat} {st st0 : Strand} {nx : Nx} {g : Strand → Strand} (hst : s.strand k = some st) :
    memRetire k nx st0 g s = retire s k (memFinished (memLast (st0.chainPos != 0) (g st))) nx 0 st0.em := by
  simp only [memRetire, hst]
  rfl

/-- Settles O19: completing follows the selector from what the effect and the last reads leave. -/
theorem completionFrame : Obligations.CompletionFrame := by
  intro s k st st0 nx g hst hp x t
  have hdone : t = retire s k (memFinished (memLast (st0.chainPos != 0) x)) nx 0 st0.em := memRetire_of hst
  have hmem : t.mem = s.mem := hdone ▸ (apart_retire ..).1
  refine ⟨fun a => by rw [State.byteAt, State.byteAt, hmem], fun hr => ?_⟩
  obtain ⟨v, pos, frees, flow, hlast⟩ := memLast_eq (st0.chainPos != 0) x
  obtain ⟨queue, records, hframe⟩ := retire_outside_frame (s := s) (k := k) (st := memFinished (memLast (st0.chainPos != 0) x))
    (nx := nx) (fl := 0) (m := st0.em) (by rw [hlast]; exact hp) (by rw [hlast]; exact hr)
  obtain ⟨hk, hfl, hlr, hloops⟩ := nextStrand_frame (memFinished (memLast (st0.chainPos != 0) x)) nx 0 st0.em
  have hgen := nextStrand_keepsGenerators (memFinished (memLast (st0.chainPos != 0) x)) nx 0 st0.em
  have hv := nextStrand_v (memFinished (memLast (st0.chainPos != 0) x)) nx 0 st0.em
  rw [endChain_v_congr (x := memFinished (memLast (st0.chainPos != 0) x)) (y := memLast (st0.chainPos != 0) x) rfl rfl] at hv
  rw [hdone, hframe]
  refine ⟨fun j hj => (strand_setStrand ..).trans (if_neg hj), rfl, rfl, rfl, rfl, rfl, rfl, _,
    (strand_setStrand ..).trans (if_pos rfl), ?_⟩
  generalize nextStrand (memFinished (memLast (st0.chainPos != 0) x)) nx 0 st0.em = y at hk hfl hlr hloops hgen hv
  rw [hlast] at hk hfl hlr hloops hgen
  exact ⟨hk.s, hk.sm, hv, hk.lat, hk.em, hk.pm, hk.uc, hfl.trans BitVec.or_zero, hk.h, hgen.rnd, hgen.seed, hgen.gens, hk.win,
    hk.tpc, hk.tcause, hk.taddr, hk.tem, hk.tfk, hk.trapMode, hk.viewOn, hgen.bnd, hlr,
    fun h => ⟨(hloops h).lc0, (hloops h).lc1, (hloops h).lh0, (hloops h).lh1⟩⟩

end Sys2Proof.Machine

/-!
PROOFS. A write of a line at its home (O17): the bytes of a line and of its words, the words that a home's cache holds of it, and
what a merge of bytes leaves of them.
-/
namespace Sys2Proof.Machine

-- Bytes and words of a line

theorem getLsbD_ofNat_field {w : Nat} (x : BitVec w) (lo n k : Nat) :
    (BitVec.ofNat n (field x lo n)).getLsbD k = (decide (k < n) && x.getLsbD (lo + k)) := by
  rw [BitVec.getLsbD_ofNat, field, bits, Nat.testBit_mod_two_pow, Nat.testBit_div_two_pow, BitVec.getLsbD, Nat.add_comm lo]
  cases decide (k < n) <;> rfl

theorem getLsbD_ofNat_putBits {w m : Nat} (x : BitVec w) (y : BitVec m) (lo k : Nat) :
    (BitVec.ofNat w (putBits x.toNat lo m y.toNat)).getLsbD k =
      (decide (k < w) && if lo ≤ k ∧ k < lo + m then y.getLsbD (k - lo) else x.getLsbD k) := by
  rw [BitVec.getLsbD_ofNat, testBit_putBits]
  rfl

/-- Byte `i` of a word. -/
def wordByte (x : BitVec 256) (i : Nat) : Byte := BitVec.ofNat 8 (field x (8 * i) 8)

theorem lineByte_setLineByte (l : Line) (j : Nat) (b : Byte) {i : Nat} (hi : i < 128) :
    lineByte (setLineByte l j b) i = if i = j then b else lineByte l i := by
  apply BitVec.eq_of_getLsbD_eq
  intro k hk
  rw [lineByte, getLsbD_ofNat_field, setLineByte, getLsbD_ofNat_putBits]
  simp only [hk, decide_true, Bool.true_and, show 8 * i + k < 1024 by omega]
  by_cases hij : i = j
  · rw [if_pos (by omega), if_pos hij]
    congr 1
    omega
  · rw [if_neg (by omega), if_neg hij, lineByte, getLsbD_ofNat_field]
    simp [hk]

theorem lineByte_setLineWord (l : Line) {w : Nat} (x : BitVec 256) {i : Nat} (hi : i < 128) :
    lineByte (setLineWord l w x) i = if i / 32 = w then wordByte x (i % 32) else lineByte l i := by
  apply BitVec.eq_of_getLsbD_eq
  intro k hk
  rw [lineByte, getLsbD_ofNat_field, setLineWord, getLsbD_ofNat_putBits]
  simp only [hk, decide_true, Bool.true_and, show 8 * i + k < 1024 by omega]
  by_cases hiw : i / 32 = w
  · rw [if_pos (by omega), if_pos hiw, wordByte, getLsbD_ofNat_field]
    simp only [hk, decide_true, Bool.true_and]
    congr 1
    omega
  · rw [if_neg (by omega), if_neg hiw, lineByte, getLsbD_ofNat_field]
    simp [hk]

/-- A line's byte is a byte of the word that it lies in. -/
theorem wordByte_lineWord (l : Line) (i : Nat) : wordByte (lineWord l (i / 32)) (i % 32) = lineByte l i := by
  apply BitVec.eq_of_getLsbD_eq
  intro k hk
  rw [wordByte, getLsbD_ofNat_field, lineWord, getLsbD_ofNat_field, lineByte, getLsbD_ofNat_field]
  simp only [hk, decide_true, Bool.true_and, show 8 * (i % 32) + k < 256 by omega]
  congr 1
  omega

/-- Of the bytes for one place the last one stays. -/
theorem lineByte_mergeBytes (l : Line) (bs : List (Nat × Byte)) {i : Nat} (hi : i < 128) :
    lineByte (mergeBytes l bs) i = ((bs.reverse.find? fun p => p.1 == i).map (·.2)).getD (lineByte l i) := by
  induction bs generalizing l with
  | nil => rfl
  | cons p bs ih =>
    obtain ⟨j, b⟩ := p
    rw [mergeBytes, ih, List.reverse_cons, List.find?_append]
    cases bs.reverse.find? fun p => p.1 == i with
    | some q => rfl
    | none =>
      rw [lineByte_setLineByte l j b hi]
      by_cases hij : i = j
      · simp [hij]
      · simp [hij, Ne.symm hij]

-- The words that a home holds of a line (R287)

/-- The word of a line that is read at its home: over what memory holds, what the cache has. -/
def readWord (c : Cache DirLine) (l : Line) (w : Nat) : Line := (cacheWord c w).elim l fun x => setLineWord l (w % 4) x.data

theorem lineByte_readWord (c : Cache DirLine) (l : Line) (w : Nat) {i : Nat} (hi : i < 128) :
    lineByte (readWord c l w) i =
      if i / 32 = w % 4 then (cacheWord c w).elim (lineByte l i) fun x => wordByte x.data (i % 32) else lineByte l i := by
  rw [readWord]
  cases cacheWord c w with
  | none => simp
  | some x => exact lineByte_setLineWord l x.data hi

theorem homeLine_eq (s : State) (home line : Nat) :
    homeLine s home line = (lineWords line).foldl (readWord (s.home home).l2) (memLine s line) := by
  have hstep (c : Cache DirLine) : (fun l w => match cacheWord c w with | some x => setLineWord l (w % 4) x.data | none => l)
      = readWord c := by
    funext l w
    rw [readWord]
    cases cacheWord c w <;> rfl
  rw [← hstep]
  rfl

/-- A byte of a line at its home: that of the cache's word, where it has the word, and else memory's. -/
theorem lineByte_homeLine (s : State) (home line : Nat) {i : Nat} (hi : i < 128) :
    lineByte (homeLine s home line) i = (cacheWord (s.home home).l2 (4 * line + i / 32)).elim (lineByte (memLine s line) i)
      fun x => wordByte x.data (i % 32) := by
  have hword : i / 32 = 0 ∨ i / 32 = 1 ∨ i / 32 = 2 ∨ i / 32 = 3 := by omega
  have hmod (j : Nat) : (4 * line + j) % 4 = j % 4 := by omega
  rw [homeLine_eq]
  simp only [lineWords, rangeFrom, List.foldl_cons, List.foldl_nil, lineByte_readWord _ _ _ hi, Nat.add_assoc, hmod]
  rcases hword with h | h | h | h <;> simp [h]

/-- The caches of two states hold the same words, with the same data, at every home, over the same memory; the strands and the blocks
stand, and where `good` the cores. -/
structure SameWords (good : Prop) (s t : State) : Prop where
  mem : t.mem = s.mem
  strands : t.strands = s.strands
  blocks : t.blocks = s.blocks
  cores : good → t.cores = s.cores
  words : ∀ h, (t.home h).l2.words = (s.home h).l2.words
  present : ∀ h, cachePresent (t.home h).l2 = cachePresent (s.home h).l2

section
variable {good : Prop} {s t u : State}

theorem SameWords.trans (h : SameWords good s t) (g : SameWords good t u) : SameWords good s u :=
  ⟨g.mem.trans h.mem, g.strands.trans h.strands, g.blocks.trans h.blocks, fun hg => (g.cores hg).trans (h.cores hg),
    fun x => (g.words x).trans (h.words x), fun x => (g.present x).trans (h.present x)⟩

/-- Fewer cores need to stand where less is good. -/
theorem SameWords.imp {good' : Prop} (h : SameWords good s t) (hgood : good' → good) : SameWords good' s t :=
  ⟨h.mem, h.strands, h.blocks, fun g => h.cores (hgood g), h.words, h.present⟩

theorem SameWords.refl (s : State) : SameWords good s s := ⟨rfl, rfl, rfl, fun _ => rfl, fun _ => rfl, fun _ => rfl⟩

/-- Where the homes stand, so do their words. -/
theorem sameWords_of_homes (hmem : t.mem = s.mem) (hstrands : t.strands = s.strands) (hblocks : t.blocks = s.blocks)
    (hcores : t.cores = s.cores) (hhomes : t.homes = s.homes) : SameWords good s t := by
  have hhome (h : Nat) : t.home h = s.home h := by rw [State.home, State.home, hhomes]
  exact ⟨hmem, hstrands, hblocks, fun _ => hcores, fun h => by rw [hhome], fun h => by rw [hhome]⟩

theorem SameWords.homeLine (h : SameWords good s t) (home line : Nat) : homeLine t home line = homeLine s home line := by
  have hcache : cacheWord (t.home home).l2 = cacheWord (s.home home).l2 := by
    funext w
    rw [cacheWord, cacheWord, h.words, h.present]
  have hread : readWord (t.home home).l2 = readWord (s.home home).l2 := by
    funext l w
    rw [readWord, readWord, hcache]
  rw [homeLine_eq, homeLine_eq, hread, memLine, memLine, h.mem]

/-- An update of a home that keeps the words of its cache. -/
theorem sameWords_updHome (home : Nat) (f : Home → Home) (hwords : (f (s.home home)).l2.words = (s.home home).l2.words)
    (hpresent : cachePresent (f (s.home home)).l2 = cachePresent (s.home home).l2) : SameWords good s (s.updHome home f) := by
  refine ⟨rfl, rfl, rfl, fun _ => rfl, fun h => ?_, fun h => ?_⟩
  · rw [home_updHome]
    split
    next heq => rw [hwords, heq]
    next => rfl
  · rw [home_updHome]
    split
    next heq => rw [hpresent, heq]
    next => rfl

theorem sameWords_updDir (home line : Nat) (f : DirLine → DirLine) : SameWords good s (updDir s home line f) :=
  sameWords_updHome home _ rfl rfl

theorem sameWords_noteMoved (s : State) (line : Nat) : SameWords good s (noteMoved s line) := by
  unfold noteMoved
  split
  · exact .refl s
  · split
    · exact sameWords_of_homes rfl rfl rfl rfl rfl
    · exact .refl s

/-- What every step of a fold keeps, the fold keeps. -/
theorem sameWords_foldl {α : Type} {f : State → α → State} (hf : ∀ s a, SameWords good s (f s a)) (l : List α) (s : State) :
    SameWords good s (l.foldl f s) := by
  induction l generalizing s with
  | nil => exact .refl s
  | cons a l ih => exact (hf s a).trans (ih _)

theorem sameWords_wakeAt (s : State) (home line : Nat) : SameWords good s (wakeAt s home line) :=
  (sameWords_updHome home _ rfl rfl).trans (sameWords_foldl
    (f := fun a (w : Watcher) => a.send (.waitRecheck w.strand)) (fun _ _ => sameWords_of_homes rfl rfl rfl rfl rfl) _ _)

theorem sameWords_wakeWatchers (s : State) (home line : Nat) : SameWords good s (wakeWatchers s home line) := by
  unfold wakeWatchers
  split
  · exact sameWords_foldl (fun s h => sameWords_wakeAt s h line) _ s
  · exact sameWords_wakeAt s home line

end

-- A line that is filled with all its words present (R286, R287)

/-- Where an extent lies. -/
def Extent.run (e : Extent) : Nat × Nat × Nat := (e.frame, e.lo, e.hi)

/-- Caches whose extents lie alike cover the same words. -/
theorem cachePresent_of_runs {α : Type} {c c' : Cache α} (h : c'.extents.map Extent.run = c.extents.map Extent.run) :
    cachePresent c' = cachePresent c := by
  have hcovers (c : Cache α) (w : Nat) : cachePresent c w = (c.extents.map Extent.run).any fun r =>
      r.1 == w / 32 && decide (r.2.1 ≤ w % 32) && decide (w % 32 ≤ r.2.2) := by
    rw [List.any_map]
    rfl
  funext w
  rw [hcovers, hcovers, h]

/-- The extents of a set, by where they lie. -/
theorem filter_frame_run (es : List Extent) (p : Nat → Bool) :
    (es.filter fun e => p e.frame).map Extent.run = (es.map Extent.run).filter fun r => p r.1 := by
  rw [List.filter_map]
  rfl

/-- A set whose extents lie as those of one that fits, with few enough line states, fits. -/
theorem overfull_of_runs {α : Type} {c c' : Cache α} {setOf : Nat → Nat} {tags set : Nat}
    (hruns : c'.extents.map Extent.run = c.extents.map Extent.run) (hfits : overfull c setOf tags set = false)
    (hlines : (c'.lines.filter fun p => setOf (p.1 / 8) == set).length ≤ 64) : overfull c' setOf tags set = false := by
  have hset : (c'.extents.filter fun e => setOf e.frame == set).map Extent.run
      = (c.extents.filter fun e => setOf e.frame == set).map Extent.run := by
    rw [filter_frame_run _ (setOf · == set), filter_frame_run _ (setOf · == set), hruns]
  have hsize (c : Cache α) : (c.extents.filter fun e => setOf e.frame == set).map (fun e => e.hi + 1 - e.lo)
      = ((c.extents.filter fun e => setOf e.frame == set).map Extent.run).map fun r => r.2.2 + 1 - r.2.1 := by
    rw [List.map_map]
    rfl
  have hcount := congrArg List.length hset
  simp only [List.length_map] at hcount
  simp only [overfull, hsize, hset, hcount, Bool.or_eq_false_iff, decide_eq_false_iff_not] at hfits ⊢
  exact ⟨hfits.1, by omega⟩

theorem run_cacheTouch {α : Type} (c : Cache α) (ws : List Nat) :
    (cacheTouch c ws).extents.map Extent.run = c.extents.map Extent.run := by
  rw [cacheTouch, List.map_map]
  apply List.map_congr_left
  intro e _
  rw [Function.comp_apply]
  split <;> rfl

-- The table of line states

theorem Map.put_put {α : Type} (m : Map α) (k : Nat) (a b : α) : (m.put k a).put k b = m.put k b := by
  induction m with
  | nil => simp [Map.put]
  | cons p m ih =>
    obtain ⟨i, c⟩ := p
    simp only [Map.put]
    split
    · simp [Map.put]
    · split
      · simp [Map.put]
      · simp [Map.put, *]

/-- An entry that is put in adds at most itself. -/
theorem length_filter_put_le {α : Type} (m : Map α) (k : Nat) (a : α) (p : Nat → Bool) :
    ((m.put k a).filter fun x => p x.1).length ≤ (m.filter fun x => p x.1).length + 1 := by
  induction m with
  | nil =>
    rw [Map.put, List.filter_cons]
    split <;> simp
  | cons x m ih =>
    obtain ⟨i, c⟩ := x
    simp only [Map.put]
    split
    next heq =>
      subst heq
      simp only [List.filter_cons]
      split <;> simp
    next =>
      split
      · simp only [List.filter_cons (x := (k, a))]
        split <;> simp
      · simp only [List.filter_cons]
        split
        · simp only [List.length_cons]
          omega
        · exact ih

-- A tag that is checked (R375)

/-- A check marks a line's state and leaves the cache's words. -/
theorem home_markCopies (s : State) (line h : Nat) : ∃ ls, ((markCopies s line).home h).l2 = { (s.home h).l2 with lines := ls }
    ∧ (ls = (s.home h).l2.lines ∨ ∃ d, ls = (s.home h).l2.lines.put line d) := by
  simp only [markCopies, State.home, Map.getD, Map.find_upd]
  split
  next heq =>
    subst heq
    cases s.homes.find (homeFor line) with
    | none => exact ⟨_, rfl, .inl rfl⟩
    | some x =>
      refine ⟨_, rfl, ?_⟩
      simp only [Option.getD_some, Map.upd]
      cases x.l2.lines.find line with
      | none => exact .inl rfl
      | some d => exact .inr ⟨_, rfl⟩
  next => exact ⟨_, rfl, .inl rfl⟩

theorem home_checkTag (s : State) (line h : Nat) : ∃ ls, ((checkTag s line).2.home h).l2 = { (s.home h).l2 with lines := ls }
    ∧ (ls = (s.home h).l2.lines ∨ ∃ d, ls = (s.home h).l2.lines.put line d) := by
  unfold checkTag
  split
  · exact home_markCopies { s with badTags := s.badTags.filter (· != line), poisoned := addNew s.poisoned line } line h
  · exact ⟨_, rfl, .inl rfl⟩

theorem sameWords_checkTag (s : State) (line : Nat) :
    SameWords (s.badTags.contains line = false) s (checkTag s line).2 := by
  refine ⟨memory_checkTag s line, ?strands, ?blocks, ?cores, fun h => ?words, fun h => ?present⟩
  case strands | blocks =>
    unfold checkTag
    split <;> rfl
  case cores =>
    intro hgood
    rw [checkTag, hgood]
    rfl
  case words =>
    obtain ⟨ls, hls, -⟩ := home_checkTag s line h
    rw [hls]
  case present =>
    obtain ⟨ls, hls, -⟩ := home_checkTag s line h
    rw [hls]
    rfl

-- The fill (R287)

theorem l2Evict_of_fits {s : State} {home keep more set : Nat} (h : l2Short s home set more = false) (fuel : Nat) :
    l2Evict home keep more fuel set s = s := by
  cases fuel with
  | zero => rfl
  | succ n => simp [l2Evict, h]

/-- The cache after a fill of a line whose words it has: it has touched their extents. -/
def refilled (c : Cache DirLine) (line tick : Nat) (d : DirLine) : Cache DirLine :=
  { cacheTouch { c with tick := tick } (lineWords line) with lines := c.lines.put line d }

theorem present_refilled (c : Cache DirLine) (line tick : Nat) (d : DirLine) :
    cachePresent (refilled c line tick d) = cachePresent c :=
  cachePresent_of_runs (run_cacheTouch { c with tick := tick } (lineWords line))

section
variable {s : State} {home line : Nat}

/-- Nothing is installed where every word is there. -/
theorem installWords_present {α : Type} {c : Cache α} {ws : List (Nat × BitVec 256)} {dirty cold : Bool} {learn : Option Learn}
    (h : ws.all (fun p => cachePresent c p.1) = true) : installWords c ws dirty cold learn = { c with tick := c.tick + 1 } := by
  rw [installWords]
  induction ws with
  | nil => rfl
  | cons p ws ih =>
    rw [List.all_cons, Bool.and_eq_true] at h
    have hp : cachePresent { c with tick := c.tick + 1 } p.1 = true := h.1
    rw [List.foldl_cons, if_pos hp]
    exact ih h.2

theorem l2Put_present (h : (lineWords line).all (cachePresent (s.home home).l2) = true) :
    ∃ tick d, l2Put s home line false = l2Evict home line 0 64 (l2Set (line / 8))
      (s.updHome home fun x => { x with l2 := refilled (s.home home).l2 line tick d }) := by
  let d := (s.home home).l2.lines.getD line { DirLine.new with mark := s.poisoned.contains line }
  have hall (g : Nat → BitVec 256) :
      ((lineWords line).map fun w => (w, g w)).all (fun p => cachePresent (s.home home).l2 p.1) = true := by
    rw [List.all_map]
    exact h
  by_cases hv : (s.versions.find line).isSome
  · refine ⟨(s.home home).l2.tick, d, ?_⟩
    simp only [l2Put, hv, h, if_true, Bool.false_eq_true, if_false, installAlone, hall]
    rfl
  · refine ⟨(s.home home).l2.tick + 1, d, ?_⟩
    simp only [l2Put, hv, h, if_true, Bool.false_eq_true, if_false, installWords_present (hall _)]
    rfl

/-- A set with room for one more state has room after that state is put in. -/
theorem l2Short_refilled {u : State} {tick : Nat} {d : DirLine} (hshort : l2Short s home (l2Set (line / 8)) 1 = false)
    (hu : ∃ ls, (u.home home).l2 = { (s.home home).l2 with lines := ls }
      ∧ (ls = (s.home home).l2.lines ∨ ∃ d, ls = (s.home home).l2.lines.put line d)) :
    l2Short (u.updHome home fun x => { x with l2 := refilled (u.home home).l2 line tick d }) home (l2Set (line / 8)) 0 = false := by
  obtain ⟨ls, hl2, hls⟩ := hu
  have hput : ls.put line d = (s.home home).l2.lines.put line d := by
    rcases hls with rfl | ⟨d', rfl⟩
    · rfl
    · exact Map.put_put ..
  rw [l2Short, Bool.and_eq_false_iff] at hshort ⊢
  refine hshort.imp_right fun hfits => ?_
  simp only [Bool.or_eq_false_iff, decide_eq_false_iff_not, setLines, List.length_map, Nat.not_lt] at hfits ⊢
  obtain ⟨hover, hcount⟩ := hfits
  have hlines := length_filter_put_le (s.home home).l2.lines line d fun n => l2Set (n / 8) == l2Set (line / 8)
  simp only [home_updHome, if_true, hl2, refilled, hput]
  refine ⟨overfull_of_runs (c := (s.home home).l2) ?_ hover (by dsimp only; omega), by omega⟩
  exact run_cacheTouch _ (lineWords line)

theorem hasRoom_of_short {u : State} (hshort : l2Short s home (l2Set (line / 8)) 1 = false)
    (hu : ∃ ls, (u.home home).l2 = { (s.home home).l2 with lines := ls }
      ∧ (ls = (s.home home).l2.lines ∨ ∃ d, ls = (s.home home).l2.lines.put line d)) : hasRoom u home line = true := by
  obtain ⟨ls, hl2, hls⟩ := hu
  simp only [l2Short, Bool.and_eq_false_iff, Bool.or_eq_false_iff, decide_eq_false_iff_not, setLines, List.length_map] at hshort
  simp only [hasRoom, Bool.or_eq_true, decide_eq_true_eq, homeHas, setLines, List.length_map, hl2]
  rcases hshort with hhub | ⟨-, hcount⟩
  · exact .inl (.inl (by omega))
  · rcases hls with rfl | ⟨d, rfl⟩
    · exact .inr (by omega)
    · exact .inl (.inr (by simp))

/-- A read of a line whose words its home has, in a set with room for its state, leaves the words as they are, and a state of the line. -/
theorem l2Read_present (hwords : (lineWords line).all (cachePresent (s.home home).l2) = true)
    (hshort : l2Short s home (l2Set (line / 8)) 1 = false) :
    SameWords (s.badTags.contains line = false) s (l2Read s home line false) ∧ homeHas (l2Read s home line false) home line = true := by
  have htag := sameWords_checkTag s line
  have hu := home_checkTag s line home
  have hroom := hasRoom_of_short hshort hu
  obtain ⟨tick, d, hput⟩ := l2Put_present (s := (checkTag s line).2) (home := home) (line := line) (by rw [htag.present]; exact hwords)
  have hread : l2Read s home line false = (checkTag s line).2.updHome home fun x =>
      { x with l2 := refilled ((checkTag s line).2.home home).l2 line tick d } := by
    rw [l2Read, l2Fill, makeRoom, if_pos hroom]
    rw [if_pos hroom, hput]
    exact l2Evict_of_fits (l2Short_refilled hshort hu) 64
  rw [hread]
  refine ⟨htag.trans (sameWords_updHome home _ rfl (present_refilled ..)), ?_⟩
  simp [homeHas, refilled]

end

-- The merge (R136)

/-- The words of a line that bytes touch. -/
def touched (line : Nat) (bs : List (Nat × Byte)) : List Nat := (lineWords line).filter fun w => bs.any fun p => p.1 / 32 == w % 4

/-- Put words of a line into the words of a cache. -/
def putWords (m : Map CWord) (l : Line) (ws : List Nat) : Map CWord := ws.foldl (fun m w => m.put w ⟨lineWord l (w % 4), true⟩) m

theorem find_putWords (m : Map CWord) (l : Line) (ws : List Nat) (j : Nat) :
    (putWords m l ws).find j = if j ∈ ws then some ⟨lineWord l (j % 4), true⟩ else m.find j := by
  induction ws generalizing m with
  | nil => simp [putWords]
  | cons w ws ih =>
    rw [putWords, List.foldl_cons, ← putWords, ih, Map.find_put]
    by_cases hj : j ∈ ws
    · simp [hj]
    · by_cases hw : j = w <;> simp [hj, hw]

theorem mem_touched {line w : Nat} {bs : List (Nat × Byte)} :
    w ∈ touched line bs ↔ (4 * line ≤ w ∧ w < 4 * line + 4) ∧ ∃ p ∈ bs, p.1 / 32 = w % 4 := by
  simp [touched, lineWords, mem_rangeFrom]

/-- The state with bytes put over the words of a line at its home. -/
def overwritten (s : State) (home line : Nat) (bs : List (Nat × Byte)) : State :=
  s.updHome home fun h =>
    { h with l2 := { h.l2 with words := putWords h.l2.words (mergeBytes (homeLine s home line) bs) (touched line bs) } }

section
variable {s : State} {home line : Nat} {bs : List (Nat × Byte)}

theorem cacheWord_overwritten_same (w : Nat) : cacheWord ((overwritten s home line bs).home home).l2 w =
    if cachePresent (s.home home).l2 w then
      if w ∈ touched line bs then some ⟨lineWord (mergeBytes (homeLine s home line) bs) (w % 4), true⟩
      else (s.home home).l2.words.find w
    else none := by
  simp only [overwritten, home_updHome, if_true, cacheWord, find_putWords]
  rfl

/-- No other line, and no line at another home, has a word that the bytes touch. -/
theorem homeLine_overwritten_other {h l : Nat} (hother : l ≠ line ∨ h ≠ home) :
    homeLine (overwritten s home line bs) h l = homeLine s h l := by
  rw [homeLine_eq, homeLine_eq]
  have hword : ∀ w ∈ lineWords l, cacheWord ((overwritten s home line bs).home h).l2 w = cacheWord (s.home h).l2 w := by
    intro w hw
    rw [lineWords, mem_rangeFrom] at hw
    by_cases hh : h = home
    · subst hh
      have hl : l ≠ line := hother.resolve_right (fun h => h rfl)
      have hout : w ∉ touched line bs := fun hin => by
        have := (mem_touched.mp hin).1
        omega
      rw [cacheWord_overwritten_same, if_neg hout, cacheWord]
    · simp [overwritten, hh]
  apply List.foldl_ext
  intro a w hw
  rw [readWord, readWord, hword w hw]

/-- The bytes of the line after the merge. -/
theorem lineByte_overwritten (hwords : (lineWords line).all (cachePresent (s.home home).l2) = true) {i : Nat} (hi : i < 128) :
    lineByte (homeLine (overwritten s home line bs) home line) i =
      ((bs.reverse.find? fun p => p.1 == i).map (·.2)).getD (lineByte (homeLine s home line) i) := by
  have hmod : (4 * line + i / 32) % 4 = i / 32 := by omega
  have hin : cachePresent (s.home home).l2 (4 * line + i / 32) = true :=
    List.all_eq_true.mp hwords _ (by rw [lineWords, mem_rangeFrom]; omega)
  rw [lineByte_homeLine _ _ _ hi, cacheWord_overwritten_same, if_pos hin]
  by_cases ht : 4 * line + i / 32 ∈ touched line bs
  · rw [if_pos ht, Option.elim_some, hmod, wordByte_lineWord, lineByte_mergeBytes _ _ hi]
  · have hnone : bs.reverse.find? (fun p => p.1 == i) = none := by
      rw [List.find?_eq_none]
      intro p hp hpi
      refine ht (mem_touched.mpr ⟨by omega, p, List.mem_reverse.mp hp, ?_⟩)
      rw [hmod, beq_iff_eq.mp hpi]
    rw [if_neg ht, hnone, lineByte_homeLine _ _ _ hi, cacheWord, if_pos hin]
    rfl

/-- The tags that a write of a whole line no longer finds bad. -/
def retagged (s : State) (line : Nat) (bs : List (Nat × Byte)) : State :=
  if wholeLine bs then { s with badTags := s.badTags.filter (· != line) } else s

theorem sameWords_retagged {good : Prop} : SameWords good s (retagged s line bs) := by
  unfold retagged
  split
  · exact sameWords_of_homes rfl rfl rfl rfl rfl
  · exact .refl s

theorem badTags_retagged (h : s.badTags.contains line = false) : (retagged s line bs).badTags.contains line = false := by
  unfold retagged
  split
  · simp
  · exact h

theorem l2Short_retagged (set more : Nat) : l2Short (retagged s line bs) home set more = l2Short s home set more := by
  unfold retagged
  split <;> rfl

theorem homeHas_noteMoved (u : State) (l : Nat) : homeHas (noteMoved u l) home line = homeHas u home line := by
  unfold noteMoved
  split
  · rfl
  · split <;> rfl

/-- A merge at a home that has the line puts the bytes over its words; the rest of what it does leaves the words. -/
theorem homeMerge_present {mark : Bool} (hwords : (lineWords line).all (cachePresent (s.home home).l2) = true)
    (hshort : l2Short s home (l2Set (line / 8)) 1 = false) :
    ∃ u, SameWords (s.badTags.contains line = false) s u
      ∧ SameWords True (overwritten u home line bs) (homeMerge s home line bs mark) := by
  have htags := sameWords_retagged (good := s.badTags.contains line = false) (s := s) (line := line) (bs := bs)
  obtain ⟨hread, hhas⟩ := l2Read_present (s := retagged s line bs) (home := home) (line := line)
    (by rw [htags.present]; exact hwords) ((l2Short_retagged ..).trans hshort)
  have hmoved := sameWords_noteMoved (good := s.badTags.contains line = false) (l2Read (retagged s line bs) home line false) line
  refine ⟨_, (htags.trans (hread.imp badTags_retagged)).trans hmoved, ?_⟩
  have hmerge : homeMerge s home line bs mark = wakeWatchers (updDir
      (overwritten (noteMoved (l2Read (retagged s line bs) home line false) line) home line bs) home line fun d =>
        { d with mark := if mark then true else if wholeLine bs then false else d.mark }) home line :=
    if_pos ((homeHas_noteMoved ..).trans hhas)
  rw [hmerge]
  exact (sameWords_updDir ..).trans (sameWords_wakeWatchers ..)

end

/-- Settles O17: the merge leaves every word but those that the bytes touch, and puts the bytes into these. -/
theorem lineWrite : Obligations.LineWrite := by
  intro s home line bs mark hwords hshort t
  obtain ⟨u, hu, ht⟩ := homeMerge_present (bs := bs) (mark := mark) hwords hshort
  have hmem : t.mem = s.mem := ht.mem.trans hu.mem
  refine ⟨fun a => by rw [State.byteAt, State.byteAt, hmem], ht.strands.trans hu.strands, ht.blocks.trans hu.blocks,
    fun hgood => (ht.cores trivial).trans (hu.cores hgood), fun i hi => ?bytes, fun h l hother => ?others⟩
  case bytes =>
    rw [ht.homeLine, lineByte_overwritten (by rw [hu.present]; exact hwords) hi, hu.homeLine]
    cases bs.reverse.find? fun p => p.1 == i <;> rfl
  case others => rw [ht.homeLine, homeLine_overwritten_other hother, hu.homeLine]

end Sys2Proof.Machine

/-!
PROOFS. The frame of the accesses to memory (O18): an access is issued by messages and by updates of the strand's flight, and it ends
in a write to its destination.
-/
namespace Sys2Proof.Machine

-- What an access leaves of its strand

/-- The strands agree in the control state that no access reaches. -/
structure KeepsControl (x y : Strand) : Prop where
  em : y.em = x.em
  pm : y.pm = x.pm
  uc : y.uc = x.uc
  lr : y.lr = x.lr
  fl : y.fl = x.fl
  lat : y.lat = x.lat
  gens : y.gens = x.gens
  h : y.h = x.h
  win : y.win = x.win
  tpc : y.tpc = x.tpc
  tcause : y.tcause = x.tcause
  taddr : y.taddr = x.taddr
  tem : y.tem = x.tem
  tfk : y.tfk = x.tfk
  trapMode : y.trapMode = x.trapMode

theorem KeepsControl.trans {x y z : Strand} (h : KeepsControl x y) (g : KeepsControl y z) : KeepsControl x z :=
  ⟨g.em.trans h.em, g.pm.trans h.pm, g.uc.trans h.uc, g.lr.trans h.lr, g.fl.trans h.fl, g.lat.trans h.lat, g.gens.trans h.gens,
    g.h.trans h.h, g.win.trans h.win, g.tpc.trans h.tpc, g.tcause.trans h.tcause, g.taddr.trans h.taddr, g.tem.trans h.tem,
    g.tfk.trans h.tfk, g.trapMode.trans h.trapMode⟩

/-- What an access may write when it completes. -/
structure Dest where
  writes : Bool
  vector : Bool
  d : Nat
  pair : Bool
  frees : List Nat

def Access.dest (a : Access) : Dest := ⟨a.writes, a.vector, a.d, a.pair, a.frees⟩

/-- The registers of a destination. -/
def Dest.has (e : Dest) (n : Nat) : Prop := n = e.d ∨ (e.pair = true ∧ n = e.d + 1)

/-- While an access is issued its strand keeps its registers, and each access in flight its destination. -/
structure Issued (x y : Strand) : Prop where
  control : KeepsControl x y
  s : y.s = x.s
  sm : y.sm = x.sm
  v : y.v = x.v
  flight : ∀ id a, x.flight.find id = some a → ∃ b, y.flight.find id = some b ∧ b.dest = a.dest

theorem Issued.refl (x : Strand) : Issued x x := ⟨by constructor <;> rfl, rfl, rfl, rfl, fun _ a h => ⟨a, h, rfl⟩⟩

theorem Issued.trans {x y z : Strand} (h : Issued x y) (g : Issued y z) : Issued x z := by
  refine ⟨h.control.trans g.control, g.s.trans h.s, g.sm.trans h.sm, g.v.trans h.v, fun id a ha => ?_⟩
  obtain ⟨b, hb, hba⟩ := h.flight id a ha
  obtain ⟨c, hc, hcb⟩ := g.flight id b hb
  exact ⟨c, hc, hcb.trans hba⟩

/-- What a completed access leaves outside its destination. -/
structure Delivered (e : Dest) (x y : Strand) : Prop where
  control : KeepsControl x y
  scalar : (e.writes && !e.vector) = false → y.s = x.s ∧ y.sm = x.sm
  vectors : (e.writes && e.vector) = false → e.frees = [] → y.v = x.v
  vreg : ∀ n, ¬ e.has n → n ∉ e.frees → y.vreg n = x.vreg n
  sreg : ∀ n, n < 64 → ¬ e.has n → y.sreg n = x.sreg n ∧ y.smark n = x.smark n

theorem Issued.delivered {x y : Strand} (h : Issued x y) (e : Dest) : Delivered e x y :=
  ⟨h.control, fun _ => ⟨h.s, h.sm⟩, fun _ _ => h.v, fun _ _ _ => by rw [Strand.vreg, Strand.vreg, h.v],
    fun _ _ _ => ⟨by rw [Strand.sreg, Strand.sreg, h.s], by rw [Strand.smark, Strand.smark, h.sm]⟩⟩

theorem Delivered.trans {e : Dest} {x y z : Strand} (h : Delivered e x y) (g : Delivered e y z) : Delivered e x z :=
  ⟨h.control.trans g.control, fun he => ⟨(g.scalar he).1.trans (h.scalar he).1, (g.scalar he).2.trans (h.scalar he).2⟩,
    fun he hf => (g.vectors he hf).trans (h.vectors he hf), fun n hn hf => (g.vreg n hn hf).trans (h.vreg n hn hf),
    fun n hlt hn => ⟨(g.sreg n hlt hn).1.trans (h.sreg n hlt hn).1, (g.sreg n hlt hn).2.trans (h.sreg n hlt hn).2⟩⟩

-- What an access leaves of the state

/-- Memory, the homes' caches, the blocks and the other strands stand, and strand k goes on as R says. -/
structure Reaches (R : Strand → Strand → Prop) (k : Nat) (s t : State) : Prop where
  mem : t.mem = s.mem
  l2 : ∀ h, (t.home h).l2 = (s.home h).l2
  blocks : t.blocks = s.blocks
  others : OthersKept s t k
  strand : ∀ x, s.strand k = some x → ∃ y, t.strand k = some y ∧ R x y

section
variable {P Q R : Strand → Strand → Prop} {k : Nat} {s t u : State}

theorem Reaches.comp (h : Reaches P k s t) (g : Reaches Q k t u) (hR : ∀ {x y z}, P x y → Q y z → R x z) : Reaches R k s u := by
  refine ⟨g.mem.trans h.mem, fun n => (g.l2 n).trans (h.l2 n), g.blocks.trans h.blocks, fun j hj =>
    (g.others j hj).trans (h.others j hj), fun x hx => ?_⟩
  obtain ⟨y, hy, hxy⟩ := h.strand x hx
  obtain ⟨z, hz, hyz⟩ := g.strand y hy
  exact ⟨z, hz, hR hxy hyz⟩

theorem Reaches.imp (h : Reaches P k s t) (hR : ∀ {x y}, P x y → R x y) : Reaches R k s t :=
  ⟨h.mem, h.l2, h.blocks, h.others, fun x hx => (h.strand x hx).imp fun _ => And.imp_right hR⟩

theorem Reaches.trans (h : Reaches Issued k s t) (g : Reaches Issued k t u) : Reaches Issued k s u := h.comp g Issued.trans

/-- Where the strands stand, strand k is as before. -/
theorem reaches_of_strands (hmem : t.mem = s.mem) (hl2 : ∀ h, (t.home h).l2 = (s.home h).l2) (hblocks : t.blocks = s.blocks)
    (hstrands : t.strands = s.strands) : Reaches Issued k s t :=
  have hstrand (j : Nat) : t.strand j = s.strand j := by rw [State.strand, State.strand, hstrands]
  ⟨hmem, hl2, hblocks, fun j _ => hstrand j, fun x hx => ⟨x, (hstrand k).trans hx, .refl x⟩⟩

theorem Reaches.refl (s : State) : Reaches Issued k s s := reaches_of_strands rfl (fun _ => rfl) rfl rfl

theorem Reaches.ite {c : Prop} [Decidable c] (h : Reaches R k s t) (g : Reaches R k s u) : Reaches R k s (if c then t else u) := by
  split
  · exact h
  · exact g

theorem reaches_foldl {α : Type} {f : State → α → State} (hf : ∀ s a, Reaches Issued k s (f s a)) (l : List α) (s : State) :
    Reaches Issued k s (l.foldl f s) := by
  induction l generalizing s with
  | nil => exact .refl s
  | cons a l ih => exact (hf s a).trans (ih _)

theorem reaches_updStrand {f : Strand → Strand} (hf : ∀ x, R x (f x)) : Reaches R k s (s.updStrand k f) :=
  ⟨rfl, fun _ => rfl, rfl, fun j hj => (strand_updStrand ..).trans (if_neg hj),
    fun x hx => ⟨f x, by rw [strand_updStrand, if_pos rfl, hx]; rfl, hf x⟩⟩

-- The steps of an access

theorem reaches_updCore (c : Nat) (f : Core → Core) : Reaches Issued k s (s.updCore c f) :=
  reaches_of_strands rfl (fun _ => rfl) rfl rfl

theorem reaches_send (e : Event) : Reaches Issued k s (s.send e) := reaches_of_strands rfl (fun _ => rfl) rfl rfl

theorem reaches_emitOut (o : Output) : Reaches Issued k s (s.emitOut o) := reaches_of_strands rfl (fun _ => rfl) rfl rfl

theorem reaches_askPeer (dev domain : Nat) (q : MemReq) : Reaches Issued k s (s.askPeer dev domain q) := by
  unfold State.askPeer
  dsimp only
  split <;> exact reaches_of_strands rfl (fun _ => rfl) rfl rfl

theorem reaches_sendReq (r : MemReq) : Reaches Issued k s (sendReq s r) := by
  unfold sendReq
  split
  · exact reaches_askPeer ..
  · exact reaches_send _

theorem reaches_countUp (grid core : Nat) : Reaches Issued k s (countUp s grid core) :=
  reaches_of_strands rfl (fun _ => rfl) rfl rfl

theorem reaches_implicitScope (fn scope : Nat) : Reaches Issued k s (implicitScope s fn scope) := by
  unfold implicitScope
  split
  · exact .refl s
  · exact reaches_of_strands rfl (fun _ => rfl) rfl rfl

theorem reaches_wakeAt (s : State) (home line : Nat) : Reaches Issued k s (wakeAt s home line) := by
  have hwatch : Reaches Issued k s (s.updHome home fun h => { h with watchers := h.watchers.filter fun w => w.line != line }) := by
    refine reaches_of_strands rfl (fun h => ?_) rfl rfl
    rw [home_updHome]
    split
    next heq => rw [heq]
    next => rfl
  exact hwatch.trans (reaches_foldl (f := fun a (w : Watcher) => a.send (.waitRecheck w.strand)) (fun _ _ => reaches_send _) _ _)

theorem reaches_wakeWatchers (home line : Nat) : Reaches Issued k s (wakeWatchers s home line) := by
  unfold wakeWatchers
  split
  · exact reaches_foldl (fun s h => reaches_wakeAt s h line) _ s
  · exact reaches_wakeAt s home line

theorem reaches_toHome (line : Nat) (e : Event) : Reaches Issued k s (toHome s line e) := by
  unfold toHome
  split
  · exact reaches_emitOut _
  · exact reaches_send _

theorem reaches_updAccess (id : Nat) {f : Access → Access} (hf : ∀ a, (f a).dest = a.dest) :
    Reaches Issued k s (updAccess s k id f) := by
  refine reaches_updStrand fun x => ⟨by constructor <;> rfl, rfl, rfl, rfl, fun j a ha => ?_⟩
  dsimp only
  rw [Map.find_upd]
  split
  next heq => exact ⟨f a, by rw [← heq, ha]; rfl, hf a⟩
  next => exact ⟨a, ha, rfl⟩

theorem reaches_captureL1 (id core line : Nat) (only : Option Nat) : Reaches Issued k s (captureL1 s k id core line only) := by
  refine (reaches_updAccess id ?_).trans (reaches_updCore ..)
  exact fun _ => rfl

theorem reaches_l1Perform (home core line : Nat) (op : MemOp) : Reaches Issued k s (l1Perform s home core line op).2 := by
  unfold l1Perform
  extract_lets c marked l r bs l' touched whole s1
  have hput : Reaches Issued k s s1 := reaches_updCore ..
  change Reaches Issued k s (if bs.isEmpty then s1 else wakeWatchers s1 home line)
  split
  · exact hput
  · exact hput.trans (reaches_wakeWatchers ..)

theorem reaches_l1WriteThrough (core line : Nat) (bs : List (Nat × Byte)) (mark : Bool) :
    Reaches Issued k s (l1WriteThrough s core line bs mark) := by
  unfold l1WriteThrough
  dsimp only
  split
  · exact .refl s
  · exact reaches_updCore ..

theorem reaches_writeBack (core line : Nat) (ws : List (Nat × BitVec 256)) (gone mark : Bool) :
    Reaches Issued k s (writeBack s core line ws gone mark) := by
  unfold writeBack
  dsimp only
  split
  · exact reaches_toHome ..
  · exact (reaches_updCore ..).trans (reaches_toHome ..)

theorem reaches_l1EvictExtent (core : Nat) (e : Extent) (teach : Bool) : Reaches Issued k s (l1EvictExtent s core e teach) := by
  unfold l1EvictExtent
  extract_lets c ws c1 lines goneLines s1
  have hlines : Reaches Issued k s s1 := by
    refine reaches_foldl (fun s l => ?_) _ s
    dsimp only
    split
    · exact .refl s
    · exact reaches_writeBack ..
  have hemit : Reaches Issued k s1 (emitExtent s1 (fnOfCore s core) (coreSrc core 3) 0x41 e.frame e.lo e.hi) :=
    reaches_of_strands rfl (fun _ => rfl) rfl rfl
  exact (hlines.trans hemit).trans (reaches_updCore ..)

theorem reaches_l1Remove (core line : Nat) : Reaches Issued k s (l1Remove s core line) := by
  unfold l1Remove
  extract_lets s1
  have hcut : Reaches Issued k s s1 := reaches_updCore ..
  split
  · exact hcut.trans (reaches_l1EvictExtent ..)
  · exact hcut

theorem reaches_l1GiveUp (home core line : Nat) (ack : Bool) : Reaches Issued k s (l1GiveUp s home core line ack) := by
  unfold l1GiveUp
  dsimp only
  split
  · exact .refl s
  · exact (reaches_l1Remove ..).trans (reaches_toHome ..)

theorem reaches_sendCounted (r : MemReq) : Reaches Issued k s (sendCounted s k r) := by
  have hcount : Reaches Issued k s (s.updStrand k fun st => { st with unacked := st.unacked ++ [⟨r.acc, r.line, reachOf r.line⟩] }) :=
    reaches_updStrand fun x => ⟨by constructor <;> rfl, rfl, rfl, rfl, fun _ a ha => ⟨a, ha, rfl⟩⟩
  exact (hcount.trans (reaches_countUp ..)).trans (reaches_sendReq _)

-- The end of an access (R135, R142)

theorem vreg_setV_other (x : Strand) {n m : Nat} (r : Option VReg) (h : m ≠ n) : (x.setV n r).vreg m = x.vreg m := by
  simp [Strand.vreg, Strand.setV, Ne.symm h]

theorem freeRegs_vreg (x : Strand) {rs : List Nat} {n : Nat} (h : n ∉ rs) : (freeRegs x rs).vreg n = x.vreg n := by
  induction rs generalizing x with
  | nil => rfl
  | cons r rs ih =>
    rw [List.mem_cons, not_or] at h
    exact (ih (x.setV r none) h.2).trans (vreg_setV_other x none h.1)

section
variable {e : Dest}

/-- A write to a vector destination. -/
theorem delivered_setV {x : Strand} {n : Nat} (r : Option VReg) (hw : e.writes = true) (hv : e.vector = true) (hn : e.has n) :
    Delivered e x (x.setV n r) :=
  ⟨by constructor <;> rfl, fun _ => ⟨rfl, rfl⟩, fun h => by simp [hw, hv] at h,
    fun m hm _ => vreg_setV_other x r fun h => hm (h ▸ hn), fun _ _ _ => ⟨rfl, rfl⟩⟩

/-- A write to a uniform destination. -/
theorem delivered_setS {x : Strand} {n : Nat} (v : Word) (mark : Bool) (hw : e.writes = true) (hv : e.vector = false) (hn : e.has n) :
    Delivered e x (x.setS n v mark) := by
  refine ⟨by constructor <;> rfl, fun h => by simp [hw, hv] at h, fun _ _ => rfl, fun _ _ _ => rfl, fun m hlt hm => ?_⟩
  have hne : m ≠ n := fun h => hm (h ▸ hn)
  exact ⟨(sreg_setS x n m v mark hlt).trans (if_neg hne), smark_setS_other x v mark hlt hne⟩

/-- The last reads of an access are freed. -/
theorem delivered_freeRegs {x : Strand} {rs : List Nat} (hsub : ∀ r ∈ rs, r ∈ e.frees) : Delivered e x (freeRegs x rs) := by
  obtain ⟨v, hv⟩ := freeRegs_eq x rs
  refine ⟨by rw [hv]; constructor <;> rfl, fun _ => by rw [hv]; exact ⟨rfl, rfl⟩, fun _ hf => ?_,
    fun n _ hn => freeRegs_vreg x fun h => hn (hsub n h), fun _ _ _ => by rw [hv]; exact ⟨rfl, rfl⟩⟩
  have hnil : rs = [] := List.eq_nil_iff_forall_not_mem.mpr fun r hr => by simpa [hf] using hsub r hr
  rw [hnil]
  rfl

theorem delivered_wakeStrand {x : Strand} (ws : List Wait) : Delivered e x (wakeStrand x ws) := by
  unfold wakeStrand
  split
  · exact ⟨by constructor <;> rfl, fun _ => ⟨rfl, rfl⟩, fun _ _ => rfl, fun _ _ _ => rfl, fun _ _ _ => ⟨rfl, rfl⟩⟩
  · exact (Issued.refl x).delivered e

theorem delivered_endViewOn {x : Strand} (c : Bool) : Delivered e x (endViewOn x c) := by
  unfold endViewOn
  split
  · exact ⟨by constructor <;> rfl, fun _ => ⟨rfl, rfl⟩, fun _ _ => rfl, fun _ _ _ => rfl, fun _ _ _ => ⟨rfl, rfl⟩⟩
  · exact (Issued.refl x).delivered e

end

/-- The write of an access that completes. -/
def Access.write (a : Access) (x : Strand) : Strand :=
  if !a.writes then x
  else if a.vector then
    let y := x.setV a.d (some (a.result 0 a.old))
    if a.pair then y.setV (a.d + 1) (some (a.result 8 a.old2)) else y
  else
    match a.piece 0 with
    | none => x
    | some p =>
      if a.pair then (x.setS a.d (BitVec.ofNat 64 (bits p.value 0 64)) p.mark).setS (a.d + 1)
        (BitVec.ofNat 64 (bits p.value 64 64)) p.mark
      else x.setS a.d (widen a.ty p.bytes.length p.value) p.mark

theorem delivered_write (a : Access) (x : Strand) : Delivered a.dest x (a.write x) := by
  have hd : a.dest.has a.d := .inl rfl
  have same : Delivered a.dest x x := (Issued.refl x).delivered _
  unfold Access.write
  cases hw : a.writes with
  | false => exact same
  | true =>
    cases hv : a.vector with
    | true =>
      cases hp : a.pair with
      | false => exact delivered_setV _ hw hv hd
      | true => exact (delivered_setV _ hw hv hd).trans (delivered_setV _ hw hv (.inr ⟨hp, rfl⟩))
    | false =>
      cases a.piece 0 with
      | none => exact same
      | some p =>
        cases hp : a.pair with
        | false => exact delivered_setS _ _ hw hv hd
        | true => exact (delivered_setS _ _ hw hv hd).trans (delivered_setS _ _ hw hv (.inr ⟨hp, rfl⟩))

/-- The vector registers that an access writes, which are no last reads of it. -/
def Access.dests (a : Access) : List Nat := if a.writes && a.vector then (if a.pair then [a.d, a.d + 1] else [a.d]) else []

/-- An access that goes on under the number `id` reaches its destination alone. -/
def GoesOn (id : Nat) (x y : Strand) : Prop := ∀ a, x.flight.find id = some a → Delivered a.dest x y

/-- An access that completes writes its destination, and frees its last reads. -/
theorem reaches_completeAccess (id : Nat) :
    Reaches (GoesOn id) k s (completeAccess s k id) := by
  refine reaches_updStrand fun x a ha => ?_
  have hlanded : Delivered a.dest x { x with flight := x.flight.del id } :=
    ⟨by constructor <;> rfl, fun _ => ⟨rfl, rfl⟩, fun _ _ => rfl, fun _ _ _ => rfl, fun _ _ _ => ⟨rfl, rfl⟩⟩
  have hfreed (y : Strand) : Delivered a.dest y (freeRegs y (a.frees.filter fun r => !a.dests.contains r)) :=
    delivered_freeRegs fun r hr => List.mem_of_mem_filter hr
  simp only [ha]
  exact (((hlanded.trans (delivered_write a _)).trans (hfreed _)).trans (delivered_wakeStrand _)).trans (delivered_endViewOn _)

theorem Issued.goesOn {x y : Strand} (h : Issued x y) (id : Nat) : GoesOn id x y := fun a _ => h.delivered a.dest

/-- What comes after a part that only issues is all that R says. -/
def Absorbs (R : Strand → Strand → Prop) : Prop := ∀ ⦃x y z⦄, Issued x y → R y z → R x z

theorem absorbs_goesOn (id : Nat) : Absorbs (GoesOn id) := by
  intro x y z hxy hyz a ha
  obtain ⟨b, hb, hdest⟩ := hxy.flight id a ha
  exact (hxy.delivered a.dest).trans (hdest ▸ hyz b hb)

theorem absorbs_delivered (e : Dest) : Absorbs (Delivered e) := fun _ _ _ hxy hyz => (hxy.delivered e).trans hyz

theorem Reaches.then (hR : Absorbs R) (h : Reaches Issued k s t) (g : Reaches R k t u) : Reaches R k s u :=
  h.comp g fun {_ _ _} hxy hyz => hR hxy hyz

theorem Reaches.goesOn (h : Reaches Issued k s t) (id : Nat) : Reaches (GoesOn id) k s t := h.imp fun hxy => hxy.goesOn id

/-- The step of an access at its L1, or by a request to the line's home (R289). -/
def advanceOp (fuel k id : Nat) (r : MemReq) (s : State) : State :=
  if (r.core < 512 && (!opAtomic r.op || nearHere s r)) && l1Owns s r.core r.line r.op then
    let p := l1Perform s r.home r.core r.line r.op
    advance fuel k id (updAccess p.2 k id fun x => x.deliverOld r.thread p.1.1 p.1.2)
  else sendReq (countUp (updAccess s k id fun x => { x with wanting := [r.line] }) r.grid r.core) r

/-- The step of a load at its L1, or by a request to the line's home. -/
def advanceLoad (fuel k id : Nat) (r : MemReq) (s : State) : State :=
  let t := captureL1 s k id r.core r.line (some r.thread)
  let here := match (t.strand k).bind fun st => st.flight.find id with
    | some x => x.hasLine r.line (some r.thread) | none => true
  if here then advance fuel k id t else sendReq (updAccess t k id fun x => { x with wanting := [r.line] }) r

section
variable {fuel id : Nat} (ih : ∀ s, Reaches (GoesOn id) k s (advance fuel k id s))
include ih

theorem reaches_advanceOp (r : MemReq) (s : State) : Reaches (GoesOn id) k s (advanceOp fuel k id r s) := by
  unfold advanceOp
  split
  · have hold : Reaches Issued k (l1Perform s r.home r.core r.line r.op).2 (updAccess (l1Perform s r.home r.core r.line r.op).2 k id
        fun x => x.deliverOld r.thread (l1Perform s r.home r.core r.line r.op).1.1 (l1Perform s r.home r.core r.line r.op).1.2) :=
      reaches_updAccess id fun _ => rfl
    exact ((reaches_l1Perform ..).trans hold).then (absorbs_goesOn id) (ih _)
  · have hwait : Reaches Issued k s (updAccess s k id fun x => { x with wanting := [r.line] }) := reaches_updAccess id fun _ => rfl
    exact ((hwait.trans (reaches_countUp ..)).trans (reaches_sendReq r)).goesOn id

theorem reaches_advanceLoad (r : MemReq) (s : State) : Reaches (GoesOn id) k s (advanceLoad fuel k id r s) := by
  have htake : Reaches Issued k s (captureL1 s k id r.core r.line (some r.thread)) := reaches_captureL1 ..
  unfold advanceLoad
  extract_lets t here
  split
  · exact htake.then (absorbs_goesOn id) (ih _)
  · have hwait : Reaches Issued k t (updAccess t k id fun x => { x with wanting := [r.line] }) := reaches_updAccess id fun _ => rfl
    exact ((htake.trans hwait).trans (reaches_sendReq r)).goesOn id

end

/-- The step of an access that has something left to do. -/
theorem advance_todo {fuel id : Nat} {a : Access} {r : MemReq} {rest : List MemReq}
    (ha : (s.strand k).bind (fun st => st.flight.find id) = some a) (hw : a.wanting.isEmpty = true) (ht : a.todo = r :: rest) :
    advance (fuel + 1) k id s = advanceLoad fuel k id r (updAccess s k id fun x => { x with todo := rest })
    ∨ advance (fuel + 1) k id s = advanceOp fuel k id r (updAccess s k id fun x => { x with todo := rest }) := by
  cases hop : r.op with
  | load =>
    left
    simp only [advance, ha, hw, ht, hop, Bool.not_true, Bool.false_eq_true, if_false]
    rfl
  | store | atomic | cas =>
    right
    simp only [advance, ha, hw, ht, hop, advanceOp, Bool.not_true, Bool.false_eq_true, if_false]

/-- An access goes on by messages and by its L1 until it waits or completes. -/
theorem reaches_advance (fuel id : Nat) (s : State) : Reaches (GoesOn id) k s (advance fuel k id s) := by
  induction fuel generalizing s with
  | zero => exact (Reaches.refl s).goesOn id
  | succ fuel ih =>
    cases ha : (s.strand k).bind fun st => st.flight.find id with
    | none =>
      have hstays : advance (fuel + 1) k id s = s := by simp only [advance, ha]
      rw [hstays]
      exact (Reaches.refl s).goesOn id
    | some a =>
      cases hw : a.wanting.isEmpty with
      | false =>
        have hwaits : advance (fuel + 1) k id s = s := by simp [advance, ha, hw]
        rw [hwaits]
        exact (Reaches.refl s).goesOn id
      | true =>
        cases ht : a.todo with
        | nil =>
          have hends : advance (fuel + 1) k id s = completeAccess s k id := by simp [advance, ha, hw, ht]
          exact hends ▸ reaches_completeAccess id
        | cons r rest =>
          have htodo : Reaches Issued k s (updAccess s k id fun x => { x with todo := rest }) := reaches_updAccess id fun _ => rfl
          rcases advance_todo (fuel := fuel) ha hw ht with h | h
          · exact h ▸ htodo.then (absorbs_goesOn id) (reaches_advanceLoad ih r _)
          · exact h ▸ htodo.then (absorbs_goesOn id) (reaches_advanceOp ih r _)

end

-- Running the parts of an access

section
variable {R : Strand → Strand → Prop} {k : Nat} {s : State} {α β : Type}

theorem reaches_run_bind (hR : Absorbs R) {m : StateM State α} {f : α → StateM State β} (hm : Reaches Issued k s (m.run s).2)
    (hf : ∀ a t, Reaches R k t ((f a).run t).2) : Reaches R k s ((m >>= f).run s).2 :=
  hm.then hR (hf _ _)

theorem reaches_run_get {f : State → StateM State β} (h : Reaches R k s ((f s).run s).2) : Reaches R k s ((get >>= f).run s).2 := h

/-- A part that is done for each element of a list. -/
theorem reaches_run_forIn {b : α → PUnit → StateM State (ForInStep PUnit)}
    (hb : ∀ a s, ∃ t, (b a ⟨⟩).run s = (.yield ⟨⟩, t) ∧ Reaches Issued k s t) (l : List α) (s : State) :
    Reaches Issued k s ((forIn l ⟨⟩ b : StateM State PUnit).run s).2 := by
  induction l generalizing s with
  | nil => exact .refl s
  | cons a l ih =>
    obtain ⟨t, ht, hst⟩ := hb a s
    rw [List.forIn_cons, StateT.run_bind, ht]
    exact hst.trans (ih t)

/-- An access that begins is in flight under a fresh number. -/
def begun (s : State) (k : Nat) (mk : Nat → Access) : State :=
  { s with nextId := s.nextId + 1 }.updStrand k fun st => { st with flight := st.flight.put s.nextId (mk s.nextId) }

/-- What goes on under the number of an access that begins reaches its destination alone. -/
theorem reaches_run_beginAccess {e : Dest} {mk : Nat → Access} {f : Nat → StateM State β} (hmk : ∀ id, (mk id).dest = e)
    (hf : ∀ id t, Reaches (GoesOn id) k t ((f id).run t).2) : Reaches (Delivered e) k s ((beginAccess k mk >>= f).run s).2 := by
  have hbegun : Reaches (fun x y => y = { x with flight := x.flight.put s.nextId (mk s.nextId) }) k s (begun s k mk) :=
    ⟨rfl, fun _ => rfl, rfl, fun j hj => (strand_updStrand ..).trans (if_neg hj),
      fun x hx => ⟨_, (strand_updStrand ..).trans ((if_pos rfl).trans (congrArg (Option.map _) hx)), rfl⟩⟩
  have hrest : Reaches (GoesOn s.nextId) k (begun s k mk) ((f s.nextId).run (begun s k mk)).2 := hf _ _
  refine hbegun.comp hrest fun {x y z} hy hyz => ?_
  subst hy
  have hz : Delivered e _ z := hmk s.nextId ▸ hyz (mk s.nextId) (by simp)
  exact ⟨⟨hz.control.em, hz.control.pm, hz.control.uc, hz.control.lr, hz.control.fl, hz.control.lat, hz.control.gens, hz.control.h,
    hz.control.win, hz.control.tpc, hz.control.tcause, hz.control.taddr, hz.control.tem, hz.control.tfk, hz.control.trapMode⟩,
    hz.scalar, hz.vectors, hz.vreg, hz.sreg⟩

end

-- The accesses

section
variable {k : Nat} {s : State} {st : Strand}

theorem reaches_performAtomic (f : Fields) (vec b pair : Bool) (ps : List Part) (frees : List Nat) (op : Part → MemOp) :
    Reaches (Delivered ⟨true, vec, f.d.toNat, pair, frees⟩) k s ((performAtomic k st f vec b pair ps frees op).run s).2 :=
  reaches_run_get (reaches_run_beginAccess (fun _ => rfl) fun id t => reaches_advance 80 id t)

/-- What is delivered to an access leaves its destination. -/
theorem dest_foldl {α : Type} {f : Access → α → Access} (hf : ∀ a v, (f a v).dest = a.dest) (l : List α) (a : Access) :
    (l.foldl f a).dest = a.dest := by
  induction l generalizing a with
  | nil => rfl
  | cons v l ih => exact (ih _).trans (hf a v)

theorem reaches_performLoad (f : Fields) (vec b : Bool) (ps : List Part) (frees : List Nat) :
    Reaches (Delivered ⟨true, vec, f.d.toNat, false, frees⟩) k s ((performLoad k st f vec b ps frees).run s).2 := by
  simp only [performLoad]
  split
  on_goal 1 => refine reaches_run_bind (absorbs_delivered _) (reaches_implicitScope ..) fun _ t => ?_
  all_goals
    refine reaches_run_get (reaches_run_beginAccess (fun _ => rfl) fun id t => ?_)
    have hR := absorbs_goesOn id
    refine reaches_run_bind hR (reaches_updAccess id (dest_foldl ?viewed _)) fun _ t => ?_
    case viewed =>
      intro a v
      split <;> rfl
    refine reaches_run_bind hR ?captures fun _ t => ?_
    case captures => exact Reaches.ite (.refl t) (reaches_foldl (fun _ _ => reaches_captureL1 ..) _ t)
    refine reaches_run_get (reaches_run_bind hR (reaches_updAccess id ?wants) fun _ t => ?_)
    case wants => exact fun _ => rfl
    exact reaches_run_bind hR (reaches_foldl (fun _ _ => reaches_sendReq _) _ _) fun _ t => reaches_advance 80 id t

theorem reaches_performStore (hint : Nat) (b : Bool) (ps : List Part) (data : Nat → Word × Bool) :
    Reaches (Delivered ⟨false, false, 0, false, []⟩) k s ((performStore k st hint b ps data).run s).2 := by
  simp only [performStore]
  refine reaches_run_bind (absorbs_delivered _) (reaches_run_forIn (fun l t => ⟨_, rfl, ?line⟩) _ _) fun _ t => ?_
  case line =>
    have hnumber (t : State) : Reaches Issued k t { t with nextId := t.nextId + 1 } := reaches_of_strands rfl (fun _ => rfl) rfl rfl
    exact (Reaches.ite (hnumber t) (.ite ((hnumber t).trans (reaches_l1GiveUp ..)) ((hnumber t).trans (reaches_l1WriteThrough ..)))).trans
      (reaches_sendCounted _)
  split
  · refine reaches_run_get (reaches_run_beginAccess (fun _ => rfl) fun id t => ?_)
    exact reaches_run_bind (absorbs_goesOn id) (reaches_foldl (fun _ _ => reaches_sendReq _) _ _) fun _ t => reaches_advance 80 id t
  · exact (Reaches.refl t).imp fun h => h.delivered _

end

section
variable {k : Nat} {s t : State} {x : Strand} {e : Dest} (h : Reaches (Delivered e) k s t) (hx : s.strand k = some x)
include h hx

/-- What every access keeps. -/
theorem Reaches.kept : t.mem = s.mem ∧ (∀ h, (t.home h).l2 = (s.home h).l2) ∧ t.blocks = s.blocks ∧ OthersKept s t k
    ∧ ∃ y, t.strand k = some y ∧ y.em = x.em ∧ y.pm = x.pm ∧ y.uc = x.uc ∧ y.lr = x.lr ∧ y.fl = x.fl
    ∧ y.lat = x.lat ∧ y.gens = x.gens ∧ y.h = x.h ∧ y.win = x.win ∧ y.tpc = x.tpc ∧ y.tcause = x.tcause
    ∧ y.taddr = x.taddr ∧ y.tem = x.tem ∧ y.tfk = x.tfk ∧ y.trapMode = x.trapMode := by
  obtain ⟨y, hy, hxy⟩ := h.strand x hx
  have hc := hxy.control
  exact ⟨h.mem, h.l2, h.blocks, h.others, y, hy, hc.em, hc.pm, hc.uc, hc.lr, hc.fl, hc.lat, hc.gens, hc.h, hc.win, hc.tpc, hc.tcause,
    hc.taddr, hc.tem, hc.tfk, hc.trapMode⟩

/-- The registers that an access with a destination keeps. -/
theorem Reaches.regs : ∃ y, t.strand k = some y
    ∧ (e.vector = true → y.s = x.s ∧ y.sm = x.sm ∧ ∀ n, ¬ e.has n → n ∉ e.frees → y.vreg n = x.vreg n)
    ∧ (e.vector = false → e.frees = [] → y.v = x.v ∧ ∀ n, n < 64 → ¬ e.has n → y.sreg n = x.sreg n ∧ y.smark n = x.smark n) := by
  obtain ⟨y, hy, hxy⟩ := h.strand x hx
  refine ⟨y, hy, fun hv => ?_, fun hv hf => ⟨hxy.vectors (by simp [hv]) hf, hxy.sreg⟩⟩
  obtain ⟨hs, hsm⟩ := hxy.scalar (by simp [hv])
  exact ⟨hs, hsm, hxy.vreg⟩

end

/-- Settles O18: a load, an atomic and a store issue messages, and write their destination when they complete. -/
theorem accessFrame : Obligations.AccessFrame := by
  intro s k st x f vec b pair hint ps frees data op hx
  refine ⟨?load, ?atomic, ?store⟩
  case load =>
    have h := reaches_performLoad (k := k) (s := s) (st := st) f vec b ps frees
    exact ⟨h.kept hx, h.regs hx⟩
  case atomic =>
    have h := reaches_performAtomic (k := k) (s := s) (st := st) f vec b pair ps frees op
    exact ⟨h.kept hx, h.regs hx⟩
  case store =>
    have h := reaches_performStore (k := k) (s := s) (st := st) hint b ps data
    obtain ⟨y, hy, hxy⟩ := h.strand x hx
    obtain ⟨hs, hsm⟩ := hxy.scalar rfl
    exact ⟨h.kept hx, y, hy, hs, hsm, hxy.vectors rfl rfl⟩

end Sys2Proof.Machine
